-- ==== Sys2Proof/Word.lean ====
section
/-! DEFINITION. The word types of the part and their plainest arithmetic (spec/00_scope.md R2-R7). -/

namespace Sys2Proof

/-- One byte. -/
abbrev Byte := BitVec 8
/-- A string of bytes, lowest address (or first on the wire) first. -/
abbrev Bytes := List Byte
/-- 16-bit register or descriptor field. -/
abbrev W16 := BitVec 16
/-- 32-bit register or descriptor field. -/
abbrev W32 := BitVec 32
/-- 64-bit register or descriptor field; a tb64 instant (R6) is one of these. -/
abbrev W64 := BitVec 64

/-- Bits [hi:lo] of a natural number (R3). -/
def bitsOf (hi lo v : Nat) : Nat := (v >>> lo) % 2 ^ (hi + 1 - lo)

/-- `v` placed at bit `lo` (R3). -/
def atBit (lo v : Nat) : Nat := v <<< lo

/-- A flag as a bit. -/
def bit (b : Bool) : Nat := if b then 1 else 0

/-- Nanoseconds in a microsecond. -/
def usNs : Nat := 1000
/-- Nanoseconds in a millisecond. -/
def msNs : Nat := 1000000
/-- Nanoseconds in a second. -/
def sNs : Nat := 1000000000

/-- `a` precedes `b` when both are compared serially modulo 2^w (R47, R48). -/
def serialBefore (w a b : Nat) : Bool :=
  let d := (b + 2 ^ w - a % 2 ^ w) % 2 ^ w
  0 < d && d < 2 ^ (w - 1)

/-- `a` is at or after `b`, compared serially modulo 2^w. -/
def serialReached (w a b : Nat) : Bool := !serialBefore w a b

end Sys2Proof
end

