-- ==== Sys2Proof/Syntax.lean ====
section
/-! DEFINITION. The commands of the part: the descriptor format (spec/02 R45), the channels it arrives on
(spec/02 R25-R28, spec/03 R77-R80), the opcodes and the table's commands. -/

namespace Sys2Proof

/-- The channel a descriptor arrives on: a submission ring of the PCIe host (master 1), the I3C mailbox
(master 2), the command slot of SAFE_SPI (master 3) or the admin session (master 4) (spec/03 R77). -/
inductive Chan where
  | sq (n : Nat)
  | i3c
  | safeSpi
  | net
  deriving DecidableEq, Repr

/-- The master number of a channel (spec/03, *Masters*). -/
def Chan.master : Chan → Nat
  | .sq _ => 1
  | .i3c => 2
  | .safeSpi => 3
  | .net => 4

/-- A 64-byte descriptor less its opcode (R45), with the inline payload that follows it on the
channels of masters 2-4 (R78). `body` holds bytes 24-63. -/
structure Desc where
  fmtVer : BitVec 4 := 1
  irq : Bool := false
  depWait : Bool := false
  depAny : Bool := false
  epochWait : Bool := false
  barrier : Bool := false
  repeatNext : Bool := false
  flagsRes : BitVec 10 := 0
  hostTag : W32 := 0
  depCount : W32 := 0
  depSq : BitVec 6 := 0
  depRes : BitVec 2 := 0
  epochLo : BitVec 24 := 0
  launchAt : W64 := 0
  body : Bytes := []
  payload : Bytes := []
  deriving DecidableEq, Repr

/-- An Ethernet frame as the switch sees it (R123): destination and source address, VLAN identifier and
priority code point of its 802.1Q tag where it has one, EtherType, length, and for an IP/UDP datagram its
addresses and ports. -/
structure EthFrame where
  dst : Nat := 0
  src : Nat := 0
  vlan : Option (Nat × Nat) := none
  etherType : Nat := 0
  len : Nat := 64
  payload : Bytes := []
  deriving DecidableEq, Repr

/-- How a Sync message came (R117): its transport and the transmitter that sent it. -/
structure PtpFrom where
  transport : Nat
  sender : Nat
  deriving DecidableEq, Repr

/-- What an I3C private transfer, or the block transfers of the SMBus fallback, wrote into the mailbox (R79). -/
structure MailboxWrite where
  smbus : Bool
  bytes : Bytes
  deriving DecidableEq, Repr

/-- A datagram as the lidar ingress sees it (R153): its UDP payload and the frame that carried it. -/
structure Datagram where
  payload : Bytes
  frame : EthFrame
  deriving DecidableEq, Repr

/-- What a copy met on its way (R230, R256): the cycles its engine stalled and the single-bit errors its reads corrected. -/
structure CopyCost where
  stall : Nat
  corrected : Nat
  deriving DecidableEq, Repr

/-- The block of an object that a slow-tier read was for, and the bytes that came (R252): none where the command itself failed. -/
structure BlockRead where
  block : Nat
  got : Option Bytes
  deriving DecidableEq, Repr

/-- How a PTP message came: its standard, 0 IEEE 1588, 1 IEEE 802.1AS, and its transport (*PTP support*). -/
structure PtpVia where
  std : Nat := 0
  transport : Nat := 0
  deriving DecidableEq, Repr

/-- What a delay message does at the part (R117): it completes the exchange that the part began, or it asks for the part's answer. -/
inductive PtpDelay where
  | answered (t1 t2 t3 t4 : Int)
  | asked
  deriving DecidableEq, Repr

/-- A clock's data set as an Announce message carries it (R117; IEEE 1588-2019). -/
structure ClockSet where
  priority1 : Nat
  cls : Nat
  accuracy : Nat
  variance : Nat
  priority2 : Nat
  identity : Nat
  steps : Nat
  deriving DecidableEq, Repr

/-- A flag watch: met when the flag's bit 31 is 1 and (flag AND mask) equals the value (spec/07 R206). -/
structure Watch where
  flag : Nat
  mask : Nat
  value : Nat
  deriving DecidableEq, Repr

/-- A copy of a plan's copy lists (spec/07 R203; spec/08 R256): which of its cluster's two copy engines serves it, its source,
destination and bytes. -/
structure PlanCopy where
  ce : Nat := 0
  src : Nat
  dst : Nat
  len : Nat
  deriving DecidableEq, Repr

/-- A task as a plan describes it (spec/07, *Task attributes*): affinity 0 PINNED, 1 ENGINE, 2 CLUSTER, 3 ANY; the
engine for ENGINE, or the index of the role engine for PINNED; predecessors as indexes in the same plan; output
regions as (device address, bytes). -/
structure PlanTask where
  affinity : Nat := 2
  engine : Nat := 0
  cycles : Nat := 1
  deadline : Option Nat := none
  preds : List Nat := []
  watches : List Watch := []
  inBytes : Nat := 0
  regions : List (Nat × Nat) := []
  copies : List PlanCopy := []
  deriving DecidableEq, Repr

/-- A message that a task sends to a role (spec/07 R217): kind, object, epoch and its bytes. -/
structure EngMsg where
  kind : Nat
  obj : Nat
  epoch : Nat
  body : Bytes := []
  deriving DecidableEq, Repr

/-- A run of the matrix array within a task (spec/07 R199-R202): mode 0 INT8 or INT4, 1 floating or MX, 2 solver; the
operands' element formats and signs (format codes of spec/09 R262), the accumulator before the run, operand pairs in
product groups with their two scale bytes, the format that the result is converted to (0 none) and how, and the device
address it is written to. -/
structure ArrayRun where
  mode : Nat
  fmtA : Nat
  fmtB : Nat
  acc : Int
  groups : List (Nat × Nat × List (Int × Int))
  convert : Nat := 0
  saturate : Bool := true
  shift : Nat := 0
  dest : Nat := 0
  deriving DecidableEq, Repr

/-- A contribution to a reduction round (spec/07, *Reductions*): the round's number, this partition's, element type
(0 int32, 1 int64, 2 80-bit, 3 FP32), operation (0 sum, 1 maximum, 2 minimum, 3 sum of squares), partitions in the
round, whether it crosses clusters, where the result goes (0 cluster shared memory at `dest`, 1 the solver sequencer,
2 the control complex), and the elements. -/
structure Contrib where
  round : Nat
  part : Nat
  elem : Nat := 3
  op : Nat := 0
  parts : Nat := 2
  cross : Bool := false
  target : Nat := 0
  dest : Nat := 0
  vals : List Int := []
  deriving DecidableEq, Repr

/-- An indirect copy list that a task built in its engine-local memory (spec/07 R228): the entries that its plan allows, and
the entries as (source, destination in the engine-local memory, bytes). -/
structure Gather where
  planned : Nat
  entries : List (Nat × Nat × Nat)
  deriving DecidableEq, Repr

/-- What an engine program did in the run that commits: gathers, writes to its output regions, bytes of the inference's output
area by offset, array runs, then its commit queue (R207) - flag writes, messages to roles and to the control
complex, contributions to reduction rounds - single-bit errors corrected in what it read (R205), loops cut at their bound
(R227), whether it was the last task to read its inputs (spec/09 R277,
R284), and the new recurrent state. -/
structure TaskResult where
  gathers : List Gather := []
  writes : List (Nat × Bytes) := []
  out : List (Nat × Bytes) := []
  arr : List ArrayRun := []
  flags : List (Nat × Nat) := []
  msgs : List EngMsg := []
  notes : List Bytes := []
  contribs : List Contrib := []
  corrected : Nat := 0
  cuts : Nat := 0
  lastRead : Bool := false
  state : Bytes := []
  deriving DecidableEq, Repr

/-- Who reads a word (spec/15 R459; spec/08 R237): an engine's task, a walker's query context, a copy engine, a
descriptor of a channel, a problem slot's solve, or another unit. -/
inductive Reader where
  | engine (cluster engine : Nat)
  | walker (w ctx : Nat)
  | desc (ch : Chan) (count : W32)
  | problem (slot : Nat)
  | other
  deriving DecidableEq, Repr

/-- What a read of one IPM position met (spec/08 R235, R236): the IPM offset, members whose burst failed its CRC-8 and how often
in a row, members whose die reports the word as poisoned, and members whose word differs from what was written, with the
exclusive-OR of the difference. -/
structure IpmRead where
  offset : Nat
  bursts : List (Nat × Nat) := []
  poisoned : List Nat := []
  flips : List (Nat × Nat) := []
  deriving DecidableEq, Repr

/-- A namespace of the NVMe device (spec/08 R243, R244, R246): NSID, size and logical block size in bytes, whether its LBA format
has metadata or end-to-end protection, and whether it holds a valid slow-tier label. -/
structure Namespace where
  nsid : Nat
  bytes : Nat
  lba : Nat := 4096
  metadata : Bool := false
  protection : Bool := false
  labelled : Bool := false
  deriving DecidableEq, Repr

/-- How a problem of the estimator ended (spec/12 R379, R380): the solve's status code, result flags and res_ratio
(Q0.31), the kinds with a variable that carries RANGE, the state it gives (bytes 16-97 of a pose record, then the biases),
how far the orientation has turned since the last keyframe in mrad and the tracked features in percent (R377), and the
keyframe poses it moves (*Keyframe record*, bytes 16-55). -/
structure EstOutcome where
  status : Nat
  flags : Nat := 0
  ratio : Nat := 0
  ranged : Nat := 0
  nav : Bytes := []
  turned : Nat := 0
  tracked : Nat := 100
  poses : List (Nat × Bytes) := []
  iterations : Nat := 0
  restarts : Nat := 0
  lifts : Nat := 0
  deriving DecidableEq, Repr

/-! ### SXP messages (spec/14). The spec names what a message's body carries, not its bytes: bodies are structured. -/

/-- One keyframe of a publication or revision (R443): kind 0 added, 1 moved, 2 removed; its ID, tov, pose in F
(*Keyframe record*, bytes 16-55) and place descriptor. -/
structure PubItem where
  kind : Nat
  kf : Nat
  tov : Nat := 0
  pose : Bytes := []
  descr : Bytes := []
  deriving DecidableEq, Repr

/-- A revision of a shard (R444): its number, publisher, map epoch and keyframes. -/
structure Revision where
  num : Nat
  pub : Nat
  mapEpoch : Nat
  items : List PubItem := []
  deriving DecidableEq, Repr

/-- A node of a shard's index: node ID, publisher, keyframe ID, tov and pose in F; not live once removed. -/
structure ShardNode where
  id : Nat
  pub : Nat
  kf : Nat
  tov : Nat := 0
  pose : Bytes := []
  live : Bool := true
  deriving DecidableEq, Repr

/-- A full copy of a shard (R440): the revision it stands at, its index - vectors, codes, neighbour lists, graph end,
entry points, nodes whose IDs are holes, tombstones - its nodes and the publishers' watermarks. -/
structure ShardCopy where
  rev : Nat
  vecs : List Bytes := []
  codes : List Bytes := []
  lists : List (List Nat) := []
  gEnd : Nat := 0
  entry : List Nat := []
  holes : List Nat := []
  tombs : List (Nat × Nat) := []
  nodes : List ShardNode := []
  marks : List (Nat × Nat) := []
  deriving DecidableEq, Repr

/-- One entry of a shard's answer (R447): node ID, exact distance, publisher, keyframe ID and pose in F. -/
structure FleetEnt where
  id : Nat
  dist : Int
  pub : Nat := 0
  kf : Nat := 0
  pose : Bytes := []
  deriving DecidableEq, Repr

/-- A set-up message (*Session set-up*): the UDP port, the DEV_ID whose derived address it came from (R426), the session
ID it is addressed to, cred_kind and the credential (a fleet certificate, a raw key or an identity block), the ephemeral key or the
ciphertext, nonce, time and the sender's receive session ID, and the message signature. -/
structure SxpHello where
  udp : Nat := 47811
  srcDev : Nat := 0
  sid : Nat := 0
  cred : Nat := 0
  credential : Bytes := []
  kem : Bytes := []
  nonce : Bytes := []
  time : Nat := 0
  session : Nat := 0
  sig : Bytes := []
  deriving DecidableEq, Repr

/-- The body of a message by its kind (*Message kinds*). -/
inductive SxpBody where
  | empty
  | setup (h : SxpHello)
  /-- map_epoch, prev_epoch and the keyframes (R443) -/
  | publish (mapEpoch prev : Nat) (items : List PubItem)
  | publishAck (mapEpoch : Nat)
  | revision (r : Revision)
  /-- the revision acknowledged and the holder's state code -/
  | revisionAck (num state : Nat)
  /-- k, L, rerank' and the vectors (R447) -/
  | query (k len rerank : Nat) (vecs : List Bytes)
  /-- for each vector the flags of its query result header and its entries -/
  | queryResult (l : List (Nat × List FleetEnt))
  /-- a whole shard entry -/
  | notice (entry : Bytes)
  /-- the next revision the holder lacks, 0 for a full copy, and its state code -/
  | syncReq (next state : Nat)
  /-- a full copy where one is needed, revisions, the sender's latest revision and its state code -/
  | syncData (copy : Option ShardCopy) (revs : List Revision) (latest state : Nat)
  /-- the primary's latest revision -/
  | handoverReq (latest : Nat)
  | handoverAck (entry : Bytes)
  /-- ST_ROLE_STALE, the sender's entry and the msg_id bounced (R450) -/
  | bounce (entry : Bytes) (msgId : Nat)
  /-- a 64-byte descriptor and its inline payload -/
  | adminDesc (desc payload : Bytes)
  | adminCpl (bytes : Bytes)
  deriving DecidableEq, Repr

/-- A message (*Message header*). A body over 4 MiB goes as several messages with PART set (R436, R443): each stands for its `part` of the
body, counted from 0, and `body` is the whole body; `also` holds the other message numbers of a set that has been put together. -/
structure SxpMsg where
  kind : Nat
  flags : Nat := 0
  src : Nat
  dst : Nat
  shard : Nat := 0
  epoch : Nat := 0
  primary : Nat := 0xFFFF
  msgId : Nat
  replyTo : Nat := 0
  time : Nat := 0
  body : SxpBody := .empty
  part : Nat := 0
  also : List Nat := []
  deriving DecidableEq, Repr

/-- A protected datagram (*Datagram*): the session and sequence it names, its bytes from 16 to the end (ciphertext and tag), its UDP payload
bytes, and, where it opens, the fragment it carries of a message. -/
structure SxpDgram where
  session : Nat
  seq : Nat
  sealedBytes : Bytes := []
  len : Nat := 1452
  frag : Nat := 0
  count : Nat := 1
  msg : SxpMsg
  deriving DecidableEq, Repr


/-- The opcodes of spec/02 to spec/17, one constructor per opcode that a chapter defines;
`reserved` is every other 12-bit code. -/
inductive Op where
  | identify
  | createCq
  | createSq
  | deleteSq
  | deleteCq
  | abortSq
  | nop
  | ownClaim
  | ownHeartbeat
  | ownHandover
  | ownAccept
  | ownRelease
  | profileSelect
  | profileRead
  | profileWrite
  | profileRestore
  | regRead
  | regWrite
  | sensorInject
  | sensorEnable
  | slotRead
  | frameGrab
  | gnssSend
  | rectLoad
  | stereoStored
  | vpParams
  | vpMove
  | stereoGrab
  | modelInstall
  | modelRemove
  | modelLoad
  | modelUnload
  | infer
  | modelQuery
  | stateReset
  | modelBind
  | modelUnbind
  | solverLoad
  | solve
  | solverFree
  | solverQuery
  | estConfig
  | estStart
  | estStop
  | estStatus
  | keyframeRead
  | fusionStart
  | fusionStop
  | fusionBounds
  | fusionReset
  | fusionStatus
  | indexCreate
  | indexLoad
  | indexDrop
  | placeInsert
  | placeDelete
  | placeQuery
  | indexMerge
  | indexQuery
  | walkerSet
  | tierQuery
  | tierPromote
  | tierEvict
  | tierUnpin
  | tierUsage
  | slowAttach
  | ipmChannel
  | timeSelect
  | timeSet
  | setLaunchPeriod
  | timeStatus
  | fleetConfig
  | fleetEnrol
  | fleetJoin
  | fleetFrame
  | shardTable
  | shardHost
  | shardDrop
  | shardHandover
  | shardPromote
  | fleetQuery
  | shardStatus
  | fltStatus
  | unitFence
  | unitReturn
  | assayRun
  | baseEnter
  | baseExit
  | fltLog
  | hmIdentity
  | hmAttest
  | updateKeyInstall
  | updateStage
  | updateActivate
  | updateCancel
  | updateConfirm
  | acceptDefaults
  | updateRevert
  | updateStatus
  | settingsExport
  | reserved (code : BitVec 12)
  deriving DecidableEq, Repr

/-- The 12-bit code of an opcode (opcode tables of spec/02 to spec/17). -/
def Op.code : Op → Nat
  | .identify => 0x001
  | .createCq => 0x002
  | .createSq => 0x003
  | .deleteSq => 0x004
  | .deleteCq => 0x005
  | .abortSq => 0x006
  | .nop => 0x00F
  | .ownClaim => 0x010
  | .ownHeartbeat => 0x011
  | .ownHandover => 0x012
  | .ownAccept => 0x013
  | .ownRelease => 0x014
  | .profileSelect => 0x018
  | .profileRead => 0x019
  | .profileWrite => 0x01A
  | .profileRestore => 0x01B
  | .regRead => 0x01D
  | .regWrite => 0x01E
  | .sensorInject => 0x101
  | .sensorEnable => 0x102
  | .slotRead => 0x103
  | .frameGrab => 0x104
  | .gnssSend => 0x105
  | .rectLoad => 0x201
  | .stereoStored => 0x202
  | .vpParams => 0x203
  | .vpMove => 0x204
  | .stereoGrab => 0x205
  | .modelInstall => 0x301
  | .modelRemove => 0x302
  | .modelLoad => 0x303
  | .modelUnload => 0x304
  | .infer => 0x305
  | .modelQuery => 0x306
  | .stateReset => 0x307
  | .modelBind => 0x308
  | .modelUnbind => 0x309
  | .solverLoad => 0x401
  | .solve => 0x402
  | .solverFree => 0x403
  | .solverQuery => 0x404
  | .estConfig => 0x501
  | .estStart => 0x502
  | .estStop => 0x503
  | .estStatus => 0x504
  | .keyframeRead => 0x505
  | .fusionStart => 0x541
  | .fusionStop => 0x542
  | .fusionBounds => 0x543
  | .fusionReset => 0x544
  | .fusionStatus => 0x545
  | .indexCreate => 0x601
  | .indexLoad => 0x602
  | .indexDrop => 0x603
  | .placeInsert => 0x604
  | .placeDelete => 0x605
  | .placeQuery => 0x606
  | .indexMerge => 0x607
  | .indexQuery => 0x608
  | .walkerSet => 0x609
  | .tierQuery => 0x701
  | .tierPromote => 0x702
  | .tierEvict => 0x703
  | .tierUnpin => 0x704
  | .tierUsage => 0x705
  | .slowAttach => 0x706
  | .ipmChannel => 0x707
  | .timeSelect => 0x801
  | .timeSet => 0x802
  | .setLaunchPeriod => 0x803
  | .timeStatus => 0x804
  | .fleetConfig => 0x901
  | .fleetEnrol => 0x902
  | .fleetJoin => 0x903
  | .fleetFrame => 0x904
  | .shardTable => 0x905
  | .shardHost => 0x906
  | .shardDrop => 0x907
  | .shardHandover => 0x908
  | .shardPromote => 0x909
  | .fleetQuery => 0x90A
  | .shardStatus => 0x90B
  | .fltStatus => 0xA01
  | .unitFence => 0xA02
  | .unitReturn => 0xA03
  | .assayRun => 0xA04
  | .baseEnter => 0xA05
  | .baseExit => 0xA06
  | .fltLog => 0xA07
  | .hmIdentity => 0xB01
  | .hmAttest => 0xB02
  | .updateKeyInstall => 0xB03
  | .updateStage => 0xB04
  | .updateActivate => 0xB05
  | .updateCancel => 0xB06
  | .updateConfirm => 0xB07
  | .acceptDefaults => 0xB08
  | .updateRevert => 0xB09
  | .updateStatus => 0xB0A
  | .settingsExport => 0xB0B
  | .reserved c => c.toNat

/-- Every opcode that a chapter defines. -/
def Op.defined : List Op :=
  [.identify, .createCq, .createSq, .deleteSq, .deleteCq, .abortSq, .nop, .ownClaim,
   .ownHeartbeat, .ownHandover, .ownAccept, .ownRelease, .profileSelect, .profileRead, .profileWrite, .profileRestore,
   .regRead, .regWrite, .sensorInject, .sensorEnable, .slotRead, .frameGrab, .gnssSend, .rectLoad,
   .stereoStored, .vpParams, .vpMove, .stereoGrab, .modelInstall, .modelRemove, .modelLoad, .modelUnload,
   .infer, .modelQuery, .stateReset, .modelBind, .modelUnbind, .solverLoad, .solve, .solverFree,
   .solverQuery, .estConfig, .estStart, .estStop, .estStatus, .keyframeRead, .fusionStart, .fusionStop,
   .fusionBounds, .fusionReset, .fusionStatus, .indexCreate, .indexLoad, .indexDrop, .placeInsert, .placeDelete,
   .placeQuery, .indexMerge, .indexQuery, .walkerSet, .tierQuery, .tierPromote, .tierEvict, .tierUnpin,
   .tierUsage, .slowAttach, .ipmChannel, .timeSelect, .timeSet, .setLaunchPeriod, .timeStatus, .fleetConfig,
   .fleetEnrol, .fleetJoin, .fleetFrame, .shardTable, .shardHost, .shardDrop, .shardHandover, .shardPromote,
   .fleetQuery, .shardStatus, .fltStatus, .unitFence, .unitReturn, .assayRun, .baseEnter, .baseExit,
   .fltLog, .hmIdentity, .hmAttest, .updateKeyInstall, .updateStage, .updateActivate, .updateCancel, .updateConfirm,
   .acceptDefaults, .updateRevert, .updateStatus, .settingsExport]

/-- The opcode that a 12-bit code names; a code that no chapter defines is `reserved`. -/
def Op.ofCode (c : BitVec 12) : Op :=
  (Op.defined.find? (fun o => o.code == c.toNat)).getD (.reserved c)

/-- The commands of spec/opcode_table.json, one constructor per row, in the table's order.
The first operand `t` is the instant, in ns of true time, at which the command happens
(DESIGN CHOICE, notes/assumptions/1.md). -/
inductive Instr where
  /-- IDENTIFY: Writes the identify block into a 4 KiB host buffer. R39. -/
  | identify (t : Nat) (ch : Chan) (d : Desc)
  /-- CREATE_CQ: Creates a descriptor or stream completion ring CQ01-CQ63. R41. -/
  | createCq (t : Nat) (ch : Chan) (d : Desc)
  /-- CREATE_SQ: Creates a submission ring reporting to an existing descriptor CQ. R42. -/
  | createSq (t : Nat) (ch : Chan) (d : Desc)
  /-- DELETE_SQ: Takes a ring's outstanding descriptors as ABORT_SQ does and leaves the ring ABSENT. R43. -/
  | deleteSq (t : Nat) (ch : Chan) (d : Desc)
  /-- DELETE_CQ: Deletes a completion ring that no submission ring or running stream names. R42. -/
  | deleteCq (t : Nat) (ch : Chan) (d : Desc)
  /-- ABORT_SQ: Completes every outstanding descriptor of a ring with ST_ABORTED in ring order, or with its own status past its commit point. R43. -/
  | abortSq (t : Nat) (ch : Chan) (d : Desc)
  /-- NOP: Completes with ST_OK. R38. -/
  | nop (t : Nat) (ch : Chan) (d : Desc)
  /-- OWN_CLAIM: Claims ownership, opening or joining the 2 ms arbitration window. R82. -/
  | ownClaim (t : Nat) (ch : Chan) (d : Desc)
  /-- OWN_HEARTBEAT: Renews the owner's lease. R83. -/
  | ownHeartbeat (t : Nat) (ch : Chan) (d : Desc)
  /-- OWN_HANDOVER: Names a successor master and starts the handover timer. R84. -/
  | ownHandover (t : Nat) (ch : Chan) (d : Desc)
  /-- OWN_ACCEPT: The named successor accepts ownership and its lease starts. R84. -/
  | ownAccept (t : Nat) (ch : Chan) (d : Desc)
  /-- OWN_RELEASE: The owner gives up ownership and the state becomes VACANT. R81. -/
  | ownRelease (t : Nat) (ch : Chan) (d : Desc)
  /-- PROFILE_SELECT: Starts applying a stored profile while the part is READY. R93. -/
  | profileSelect (t : Nat) (ch : Chan) (d : Desc)
  /-- PROFILE_READ: Returns a stored profile record in the current or previous settings format. R97. -/
  | profileRead (t : Nat) (ch : Chan) (d : Desc)
  /-- PROFILE_WRITE: Checks a 4,096-byte profile record and writes it to flash. R96. -/
  | profileWrite (t : Nat) (ch : Chan) (d : Desc)
  /-- PROFILE_RESTORE: Returns a stored profile record to its default. R96. -/
  | profileRestore (t : Nat) (ch : Chan) (d : Desc)
  /-- REG_READ: Returns the value of a BAR0 register through a descriptor. R100. -/
  | regRead (t : Nat) (ch : Chan) (d : Desc)
  /-- REG_WRITE: Writes a BAR0 register through a descriptor with the effect of a BAR0 write by the sending master. R100. -/
  | regWrite (t : Nat) (ch : Chan) (d : Desc)
  /-- TIME_SELECT: Selects the track the time base follows, switching or stepping as the time base state allows. R113. -/
  | timeSelect (t : Nat) (ch : Chan) (d : Desc)
  /-- TIME_SET: Sets the time base to a given tb64 while in FREE_RUN. R107. -/
  | timeSet (t : Nat) (ch : Chan) (d : Desc)
  /-- SET_LAUNCH_PERIOD: Gives a submission ring a launch grid of phase plus k times period, or clears it. R135. -/
  | setLaunchPeriod (t : Nat) (ch : Chan) (d : Desc)
  /-- TIME_STATUS: Returns the time base reading, state, selected track and HOLD_ERR. R137. -/
  | timeStatus (t : Nat) (ch : Chan) (d : Desc)
  /-- SENSOR_INJECT: Supplies a host sensor sample that is then judged for its alignment slot. R155. -/
  | sensorInject (t : Nat) (ch : Chan) (d : Desc)
  /-- SENSOR_ENABLE: Enables or disables one sensor map entry, emptying its slot on disable. R159. -/
  | sensorEnable (t : Nat) (ch : Chan) (d : Desc)
  /-- SLOT_READ: Copies a sensor's alignment slot record to a host buffer. R162. -/
  | slotRead (t : Nat) (ch : Chan) (d : Desc)
  /-- FRAME_GRAB: Copies the next whole frame of a camera at 8 bits per pixel to a host buffer. R163. -/
  | frameGrab (t : Nat) (ch : Chan) (d : Desc)
  /-- GNSS_SEND: Sends bytes out of GNSS_TX and completes when the last byte has been shifted out. R152. -/
  | gnssSend (t : Nat) (ch : Chan) (d : Desc)
  /-- RECT_LOAD: Loads, checks or removes a camera's rectification table. R168. -/
  | rectLoad (t : Nat) (ch : Chan) (d : Desc)
  /-- STEREO_STORED: Runs stereo on the latest stored frames of two route-0 cameras into a host buffer. R191. -/
  | stereoStored (t : Nat) (ch : Chan) (d : Desc)
  /-- VP_PARAMS: Changes a pair's matching parameters from the next admitted frame. R197. -/
  | vpParams (t : Nat) (ch : Chan) (d : Desc)
  /-- VP_MOVE: Moves a pipe's cameras to the other pipe, or returns them. R193. -/
  | vpMove (t : Nat) (ch : Chan) (d : Desc)
  /-- STEREO_GRAB: Copies the next admitted frame's planes of a ring to a host buffer. R198. -/
  | stereoGrab (t : Nat) (ch : Chan) (d : Desc)
  /-- MODEL_INSTALL: Takes one chunk of a model package, checking the whole package at the final chunk. R265. -/
  | modelInstall (t : Nat) (ch : Chan) (d : Desc)
  /-- MODEL_REMOVE: Empties a model slot and frees its home space. R264. -/
  | modelRemove (t : Nat) (ch : Chan) (d : Desc)
  /-- MODEL_LOAD: Loads an installed model onto a cluster mask all or nothing, choosing mode and window step. R272. -/
  | modelLoad (t : Nat) (ch : Chan) (d : Desc)
  /-- MODEL_UNLOAD: Unloads a model after its earlier INFERs complete, freeing windows, roles and its pin. R280. -/
  | modelUnload (t : Nat) (ch : Chan) (d : Desc)
  /-- INFER: Runs one inference of a loaded model in one cluster of its mask. R277. -/
  | infer (t : Nat) (ch : Chan) (d : Desc)
  /-- MODEL_QUERY: Returns a slot's state and writes its last load report. R274. -/
  | modelQuery (t : Nat) (ch : Chan) (d : Desc)
  /-- STATE_RESET: Sets a recurrent state instance, or all of them, to the initial state and ends the claim. R290. -/
  | stateReset (t : Nat) (ch : Chan) (d : Desc)
  /-- MODEL_BIND: Binds a loaded model to a vision ring so it runs on every flagged band. R282. -/
  | modelBind (t : Nat) (ch : Chan) (d : Desc)
  /-- MODEL_UNBIND: Ends a binding after its bands in progress commit. R285. -/
  | modelUnbind (t : Nat) (ch : Chan) (d : Desc)
  /-- SOLVER_LOAD: Checks, scales and loads a problem into a problem slot, factoring its preconditioner. R325. -/
  | solverLoad (t : Nat) (ch : Chan) (d : Desc)
  /-- SOLVE: Runs the fixed-point PCG loop on a loaded problem and writes the report and solution. R342. -/
  | solve (t : Nat) (ch : Chan) (d : Desc)
  /-- SOLVER_FREE: Empties a problem slot and discards its retained solution. R327. -/
  | solverFree (t : Nat) (ch : Chan) (d : Desc)
  /-- SOLVER_QUERY: Returns a slot's state and signature and writes its last report. R359. -/
  | solverQuery (t : Nat) (ch : Chan) (d : Desc)
  /-- EST_CONFIG: Checks an estimator configuration, makes it pending and optionally saves it. R362. -/
  | estConfig (t : Nat) (ch : Chan) (d : Desc)
  /-- EST_START: Starts the estimator in INITIALISING from a given or zero pose. R365. -/
  | estStart (t : Nat) (ch : Chan) (d : Desc)
  /-- EST_STOP: Returns the estimator to DEAD_RECKONING and ends its bindings. R364. -/
  | estStop (t : Nat) (ch : Chan) (d : Desc)
  /-- EST_STATUS: Returns the latest epoch and estimator state. R392. -/
  | estStatus (t : Nat) (ch : Chan) (d : Desc)
  /-- KEYFRAME_READ: Writes keyframe records of the latest committed epoch to a host buffer. R392. -/
  | keyframeRead (t : Nat) (ch : Chan) (d : Desc)
  /-- FUSION_START: Starts a fusion tick grid on a slot, or conflict checking only. R321. -/
  | fusionStart (t : Nat) (ch : Chan) (d : Desc)
  /-- FUSION_STOP: Ends fusion at a final tick. R317. -/
  | fusionStop (t : Nat) (ch : Chan) (d : Desc)
  /-- FUSION_BOUNDS: Sets the conflict bounds of the six observables. R303. -/
  | fusionBounds (t : Nat) (ch : Chan) (d : Desc)
  /-- FUSION_RESET: Resets the fusion state and ends every track at the next tick. R317. -/
  | fusionReset (t : Nat) (ch : Chan) (d : Desc)
  /-- FUSION_STATUS: Returns fusion state, last tick_seq, bound tracks and masked sensors. R320. -/
  | fusionStatus (t : Nat) (ch : Chan) (d : Desc)
  /-- INDEX_CREATE: Creates an empty place index and reserves its space. R399. -/
  | indexCreate (t : Nat) (ch : Chan) (d : Desc)
  /-- INDEX_LOAD: Takes one chunk of an index image, checking it at the final chunk. R423. -/
  | indexLoad (t : Nat) (ch : Chan) (d : Desc)
  /-- INDEX_DROP: Frees an index after its earlier queries complete. R416. -/
  | indexDrop (t : Nat) (ch : Chan) (d : Desc)
  /-- PLACE_INSERT: Appends vectors to an index's side list with consecutive IDs. R407. -/
  | placeInsert (t : Nat) (ch : Chan) (d : Desc)
  /-- PLACE_DELETE: Tombstones named nodes under a new tombstone epoch. R408. -/
  | placeDelete (t : Nat) (ch : Chan) (d : Desc)
  /-- PLACE_QUERY: Runs nearest-neighbour queries on the walkers under one snapshot. R403. -/
  | placeQuery (t : Nat) (ch : Chan) (d : Desc)
  /-- INDEX_MERGE: Cuts an index and builds a new graph version that absorbs side entries and drops tombstones. R409. -/
  | indexMerge (t : Nat) (ch : Chan) (d : Desc)
  /-- INDEX_QUERY: Returns an index's state, residency, id_end, side entries and pending tombstones. R420. -/
  | indexQuery (t : Nat) (ch : Chan) (d : Desc)
  /-- WALKER_SET: Takes a walker off or returns it. R419. -/
  | walkerSet (t : Nat) (ch : Chan) (d : Desc)
  /-- TIER_QUERY: Returns a tier object's state, kind, pins and size. R258. -/
  | tierQuery (t : Nat) (ch : Chan) (d : Desc)
  /-- TIER_PROMOTE: Promotes an object to the IPM with a host pin. R249. -/
  | tierPromote (t : Nat) (ch : Chan) (d : Desc)
  /-- TIER_EVICT: Evicts an unpinned object back to its home. R250. -/
  | tierEvict (t : Nat) (ch : Chan) (d : Desc)
  /-- TIER_UNPIN: Releases host pins on an object. R259. -/
  | tierUnpin (t : Nat) (ch : Chan) (d : Desc)
  /-- TIER_USAGE: Returns IPM and slow-tier usage. R258. -/
  | tierUsage (t : Nat) (ch : Chan) (d : Desc)
  /-- SLOW_ATTACH: Attaches a labelled namespace or formats the slow tier with new labels. R246. -/
  | slowAttach (t : Nat) (ch : Chan) (d : Desc)
  /-- IPM_CHANNEL: Takes an IPM channel out of service or returns it through Assay and resync. R240. -/
  | ipmChannel (t : Nat) (ch : Chan) (d : Desc)
  /-- FLEET_CONFIG: Sets DEV_ID, addressing, ports, VLAN and PUBLISH. R426. -/
  | fleetConfig (t : Nat) (ch : Chan) (d : Desc)
  /-- FLEET_ENROL: Takes a chunk of the authority key or fleet certificate, checking the certificate at its final chunk. R430. -/
  | fleetEnrol (t : Nat) (ch : Chan) (d : Desc)
  /-- FLEET_JOIN: Joins or leaves the fleet. R424. -/
  | fleetJoin (t : Nat) (ch : Chan) (d : Desc)
  /-- FLEET_FRAME: Sets the transform T_F_M into the fleet frame. R438. -/
  | fleetFrame (t : Nat) (ch : Chan) (d : Desc)
  /-- SHARD_TABLE: Takes a chunk of the shard table, replacing the held table at the final chunk. R438. -/
  | shardTable (t : Nat) (ch : Chan) (d : Desc)
  /-- SHARD_HOST: Hosts a shard in an index slot as primary or syncing replica. R439. -/
  | shardHost (t : Nat) (ch : Chan) (d : Desc)
  /-- SHARD_DROP: Stops hosting a shard. R439. -/
  | shardDrop (t : Nat) (ch : Chan) (d : Desc)
  /-- SHARD_HANDOVER: Hands a primary shard role to a named replica. R452. -/
  | shardHandover (t : Nat) (ch : Chan) (d : Desc)
  /-- SHARD_PROMOTE: Makes a replica raise the epoch and claim the primary role. R453. -/
  | shardPromote (t : Nat) (ch : Chan) (d : Desc)
  /-- FLEET_QUERY: Scatters place queries over nearby shards and merges the answers. R447. -/
  | fleetQuery (t : Nat) (ch : Chan) (d : Desc)
  /-- SHARD_STATUS: Returns a hosted shard's state, slot, primary, epoch and latest revision. R456. -/
  | shardStatus (t : Nat) (ch : Chan) (d : Desc)
  /-- FLT_STATUS: Returns base-metal causes and live and fenced unit counts. R485. -/
  | fltStatus (t : Nat) (ch : Chan) (d : Desc)
  /-- UNIT_FENCE: Takes an engine, control core or Touchstone unit out without failing work. R463. -/
  | unitFence (t : Nat) (ch : Chan) (d : Desc)
  /-- UNIT_RETURN: Runs Assay on a fenced unit and returns it if it passes. R486. -/
  | unitReturn (t : Nat) (ch : Chan) (d : Desc)
  /-- ASSAY_RUN: Takes a unit out, tests it with Assay and returns it if it passes. R486. -/
  | assayRun (t : Nat) (ch : Chan) (d : Desc)
  /-- BASE_ENTER: Enters base-metal mode by command. R476. -/
  | baseEnter (t : Nat) (ch : Chan) (d : Desc)
  /-- BASE_EXIT: Leaves base-metal mode once its checks pass and the profile is applied. R481. -/
  | baseExit (t : Nat) (ch : Chan) (d : Desc)
  /-- FLT_LOG: Writes the newest fault log entries to a host buffer. R485. -/
  | fltLog (t : Nat) (ch : Chan) (d : Desc)
  /-- HM_IDENTITY: Returns bytes of the Hallmark identity block. R489. -/
  | hmIdentity (t : Nat) (ch : Chan) (d : Desc)
  /-- HM_ATTEST: Builds and signs an attestation report for a new nonce and returns a range of it. R493. -/
  | hmAttest (t : Nat) (ch : Chan) (d : Desc)
  /-- UPDATE_KEY_INSTALL: Opens a key parcel and stores the fleet update key, or erases it. R488. -/
  | updateKeyInstall (t : Nat) (ch : Chan) (d : Desc)
  /-- UPDATE_STAGE: Checks a Svapex package from the card and starts staging it into flash. R498. -/
  | updateStage (t : Nat) (ch : Chan) (d : Desc)
  /-- UPDATE_ACTIVATE: Pauses full service and starts the staged image. R501. -/
  | updateActivate (t : Nat) (ch : Chan) (d : Desc)
  /-- UPDATE_CANCEL: Stops a staging or removes a staged image. R497. -/
  | updateCancel (t : Nat) (ch : Chan) (d : Desc)
  /-- UPDATE_CONFIRM: Gives the owner's confirmation of a trial image. R506. -/
  | updateConfirm (t : Nat) (ch : Chan) (d : Desc)
  /-- ACCEPT_DEFAULTS: Writes default settings in the new format and applies the strapped profile. R504. -/
  | acceptDefaults (t : Nat) (ch : Chan) (d : Desc)
  /-- UPDATE_REVERT: Falls back from a trial image. R507. -/
  | updateRevert (t : Nat) (ch : Chan) (d : Desc)
  /-- UPDATE_STATUS: Returns update state, versions and confirmation time left. R512. -/
  | updateStatus (t : Nat) (ch : Chan) (d : Desc)
  /-- SETTINGS_EXPORT: Writes the signed settings bank in use to a card file. R514. -/
  | settingsExport (t : Nat) (ch : Chan) (d : Desc)
  /-- SQ_TAIL_DOORBELL: Host writes a new SQ tail, which the part accepts or ignores and then fetches from. R55. -/
  | sqTailDoorbell (t : Nat) (n : Nat) (v : W32)
  /-- CQ_HEAD_DOORBELL: Host writes a new CQ head, freeing slots for held completions. R55. -/
  | cqHeadDoorbell (t : Nat) (n : Nat) (v : W32)
  /-- EVENT_RING_HEAD_DOORBELL: Host writes a new event ring head, freeing slots and posting EV_EVENTS_LOST if events were lost. R59. -/
  | eventRingHeadDoorbell (t : Nat) (v : W32)
  /-- BAR2_INVALID_WRITE: A BAR2 write that is not a naturally aligned doorbell write is ignored and counted. R27. -/
  | bar2InvalidWrite (t : Nat) (off width : Nat) (v : W64)
  /-- REGISTER_WRITE: A write to a register field without behaviour of its own, applied per its access code. R9. -/
  | registerWrite (t : Nat) (m off width : Nat) (v : W64)
  /-- ABI_REQUEST: A write of HIF_ABI_REQ starts an ABI negotiation. R29. -/
  | abiRequest (t : Nat) (v : W32)
  /-- ABI_NEGOTIATION_DONE: Within 10 us the part sets HIF_ABI_ACT to accepted or not supported. R29. -/
  | abiNegotiationDone (t : Nat)
  /-- ADMIN_RING_ENABLE: Setting HIF_ADM_CTRL.ENABLE activates SQ00 and CQ00. R31. -/
  | adminRingEnable (t : Nat) (v : W32)
  /-- ADMIN_RING_DISABLE: Clearing HIF_ADM_CTRL.ENABLE returns every ring to ABSENT and discards fetched descriptors. R33. -/
  | adminRingDisable (t : Nat) (v : W32)
  /-- EVENT_RING_ENABLE: Setting HIF_EVR_CTRL.ENABLE activates the event ring and posts the held events. R103. -/
  | eventRingEnable (t : Nat) (v : W32)
  /-- EVENT_RING_DISABLE: Clearing HIF_EVR_CTRL.ENABLE makes later events be held. R103. -/
  | eventRingDisable (t : Nat) (v : W32)
  /-- COUNTER_SNAP: Writing SNAP of a block freezes its counter registers. R10. -/
  | counterSnap (t : Nat) (m off : Nat)
  /-- COUNTER_RELEASE: Writing RELEASE makes the counter registers show running values again. R10. -/
  | counterRelease (t : Nat) (m off : Nat)
  /-- TIME_SNAP_LATCH: Writing TIME_SNAP.SNAP latches the time base and freezes the timer pin counters. R109. -/
  | timeSnapLatch (t : Nat) (m : Nat)
  /-- MSIX_UNMASK: Unmasking an MSI-X vector sends its message if its pending bit is still set. R76. -/
  | msixUnmask (t : Nat) (v : Nat)
  /-- TMR_ARM: Setting ARM starts a pulse-mode timer pin or refuses it with BADCFG or LATE. R127. -/
  | tmrArm (t : Nat) (m n : Nat) (v : W32)
  /-- TMR_DISARM: Clearing ARM stops a pulse pin after its pulse in progress. R128. -/
  | tmrDisarm (t : Nat) (m n : Nat) (v : W32)
  /-- TRACK_ENABLE: Setting TIME_TRKn_CFG.ENABLE puts the track in LOST until its first input. R110. -/
  | trackEnable (t : Nat) (m k : Nat) (v : W32)
  /-- TRACK_DISABLE: Clearing TIME_TRKn_CFG.ENABLE puts the track in DISABLED at once. R110. -/
  | trackDisable (t : Nat) (m k : Nat) (v : W32)
  /-- HOLD_MAX_S_WRITE: A write of HOLD_MAX_S below the time spent in HOLDOVER moves the time base to FREE_RUN. R111. -/
  | holdMaxSWrite (t : Nat) (m : Nat) (v : W64)
  /-- ETH_PORT_ENABLE: Setting ETH_Pn_CTRL.ENABLE restarts link training in the port's mode. R124. -/
  | ethPortEnable (t : Nat) (m n : Nat) (v : W32)
  /-- ETH_PORT_DISABLE: Clearing ETH_Pn_CTRL.ENABLE takes the port out and drops its queued frames. R124. -/
  | ethPortDisable (t : Nat) (m n : Nat) (v : W32)
  /-- CSI_PORT_ENABLE: Setting SF_CSIn_CTRL.ENABLE puts a CSI-2 port in service from the next frame. R159. -/
  | csiPortEnable (t : Nat) (m n : Nat)
  /-- CSI_PORT_DISABLE: Clearing SF_CSIn_CTRL.ENABLE takes a CSI-2 port out and empties its slots. R159. -/
  | csiPortDisable (t : Nat) (m n : Nat)
  /-- CAN_CONFIG_APPLY: A written SF_CANn_CFG takes effect at the next bus idle. R148. -/
  | canConfigApply (t : Nat) (n : Nat)
  /-- TS_ARM: Setting ARM of a Touchstone unit arms it for its tap's next stream. R474. -/
  | tsArm (t : Nat) (m n : Nat) (v : W32)
  /-- TS_DISARM: Writing DISARM ends an armed or running Touchstone unit as ABANDONED. R474. -/
  | tsDisarm (t : Nat) (m n : Nat)
  /-- POWER_UP: VIN rises through 8.6 V and the start-up sequence begins. R101. -/
  | powerUp (t : Nat)
  /-- VIN_LOSS: VIN falls below 8.4 V, rails are held 2 ms and a full reset follows. R517. -/
  | vinLoss (t : Nat)
  /-- RESET_N_ASSERT: RESET_N low for 10 us makes a full reset. R101. -/
  | resetNAssert (t : Nat)
  /-- HOST_INTERFACE_RESET: PCIE_PERST_N or a function-level reset returns every ring to ABSENT. R33. -/
  | hostInterfaceReset (t : Nat) (perst : Bool)
  /-- STRAP_SAMPLE: At always-on running the straps are sampled and latched. R519. -/
  | strapSample (t : Nat) (sel vsel : Nat)
  /-- LOADER_MEASURED: Hallmark measures the loader and starts it, or the part does not start. R490. -/
  | loaderMeasured (t : Nat) (digestOk imageOk : Bool)
  /-- STARTUP_PROFILE_READ: The loader reads the strapped profile and loads its register values. R538. -/
  | startupProfileRead (t : Nat)
  /-- SAFETY_ISLAND_RUNNING: The time base starts at 0 in FREE_RUN and safety outputs become driven. R108. -/
  | safetyIslandRunning (t : Nat)
  /-- CONTROL_COMPLEX_RUNNING: The PCIe endpoint stops retrying configuration requests and I3C private transfers are served. R102. -/
  | controlComplexRunning (t : Nat)
  /-- IPM_TRAINED: All 64 IPM channels are trained and checked. R101. -/
  | ipmTrained (t : Nat)
  /-- STARTUP_READY: The profile is applied at the end of start-up and the part becomes READY. R101. -/
  | startupReady (t : Nat)
  /-- PCIE_LINK_TRAIN: The PCIe endpoint trains its link after PERST deassertion and safety island start. R102. -/
  | pcieLinkTrain (t : Nat)
  /-- DESCRIPTOR_FETCH_FAIL: A descriptor fetch that fails on PCIe puts the ring in FAULT. R44. -/
  | descriptorFetchFail (t : Nat) (n : Nat)
  /-- DESCRIPTOR_START: A held descriptor starts once its dependency, epoch or barrier condition is met. R46. -/
  | descriptorStart (t : Nat) (ch : Chan) (count : Nat)
  /-- TIMED_LAUNCH_START: A timed descriptor starts at its launch_at. R132. -/
  | timedLaunchStart (t : Nat) (ch : Chan) (count : Nat)
  /-- LAUNCH_MISSED: A timed descriptor not started by launch_at plus TOL_US completes with ST_LAUNCH_MISSED. R134. -/
  | launchMissed (t : Nat) (ch : Chan) (count : Nat)
  /-- MSIX_COALESCE_TIMEOUT: coal_time_us elapses and the CQ's MSI-X message is sent. R75. -/
  | msixCoalesceTimeout (t : Nat) (n : Nat)
  /-- PART_READY_TIMEOUT: 1 ms after no enabled cluster is busy the part-wide state becomes READY. R65. -/
  | partReadyTimeout (t : Nat)
  /-- ARBITRATION_WINDOW_END: The 2 ms window ends and ownership goes to the highest-priority claimant. R82. -/
  | arbitrationWindowEnd (t : Nat)
  /-- LEASE_LAPSE: The 1 ms lease check finds the lease ended and ownership becomes VACANT. R83. -/
  | leaseLapse (t : Nat)
  /-- HANDOVER_EXPIRE: The handover timer runs out and the owner stays. R84. -/
  | handoverExpire (t : Nat)
  /-- PROFILE_APPLY_DONE: A profile application ends and its configuration is in force. R94. -/
  | profileApplyDone (t : Nat)
  /-- I3C_DESCRIPTOR_WRITE: The I3C controller writes a descriptor and payload into the mailbox. R79. -/
  | i3cDescriptorWrite (t : Nat) (w : MailboxWrite)
  /-- I3C_COMPLETION_READ: The I3C controller reads the mailbox completion and payload. R79. -/
  | i3cCompletionRead (t : Nat)
  /-- SAFE_SPI_FRAME: A 288-byte SAFE_SPI frame is exchanged, latching the pose and taking a command or acknowledgement. R390. -/
  | safeSpiFrame (t : Nat) (mosi : Bytes)
  /-- SAFE_REQ_ASSERT: SAFE_REQ_N asserted for 50 us puts the part in base-metal mode. R88. -/
  | safeReqAssert (t : Nat)
  /-- SAFE_REQ_DEASSERT: SAFE_REQ_N deasserted clears cause SAFE_REQ. R476. -/
  | safeReqDeassert (t : Nat)
  /-- BASE_METAL_BLOCKS_GATED: Within 100 ms of entry clusters, pipes, walkers and cores except the service core are gated. R477. -/
  | baseMetalBlocksGated (t : Nat)
  /-- PTP_SYNC_RX: A Sync message on a PTP track updates its residual and lock state. R110. -/
  | ptpSyncRx (t : Nat) (port std domain : Nat) (src : PtpFrom) (twoStep : Bool) (interval origin80 : Nat)
  /-- PTP_ANNOUNCE_RX: An Announce message enters the BMCA of a track. R118. -/
  | ptpAnnounceRx (t : Nat) (port : Nat) (via : PtpVia) (domain : Nat) (c : ClockSet)
  /-- PTP_DELAY_MSG_RX: A delay request-response or peer delay message is taken for the track's delay measurement. R117.
`t1` none: the message is a request, which the part answers, and it brings no instants. -/
  | ptpDelayMsgRx (t : Nat) (port : Nat) (via : PtpVia) (domain : Nat) (t1 : Option Int) (t2 t3 t4 : Int)
  /-- PTP_SYNC_TX: The part sends Sync as time transmitter when the BMCA selects its clock. R118. -/
  | ptpSyncTx (t : Nat) (k : Nat)
  /-- PTP_EVENT_FORWARD: A PTP event message forwarded between TC ports gets its residence time added. R120. The frame is
its headers before the message and the message. -/
  | ptpEventForward (t : Nat) (src dst : Nat) (headers msg : Bytes) (ingress80 egress80 : Nat)
  /-- PPS_IN_PULSE: A PPS_IN rising edge is stamped and labelled for the GNSS track. R151. -/
  | ppsInPulse (t : Nat)
  /-- TRACK_LOST_TIMEOUT: A track with no valid input for its timeout becomes LOST. R110. -/
  | trackLostTimeout (t : Nat) (k : Nat)
  /-- HOLDOVER_EXPIRE: HOLD_MAX_S elapses in HOLDOVER and the time base moves to FREE_RUN. R111. -/
  | holdoverExpire (t : Nat)
  /-- HOLD_ERR_UPDATE: Every 10 ms in HOLDOVER the part recomputes HOLD_ERR. R116. -/
  | holdErrUpdate (t : Nat) (temp : Int)
  /-- ETH_LINK_CHANGE: An Ethernet port link goes up or down, making its tracks LOST on loss. R124. -/
  | ethLinkChange (t : Nat) (n : Nat) (up fast seated : Bool)
  /-- ETH_FRAME_RX: A frame received on a switch port is switched by VLAN and priority. R123. -/
  | ethFrameRx (t : Nat) (n : Nat) (f : EthFrame)
  /-- TMR_CAPTURE_EDGE: A selected edge on a capture pin is stamped and recorded. R126. -/
  | tmrCaptureEdge (t : Nat) (n : Nat) (rising : Bool)
  /-- TMR_PULSE_EDGE: A pulse-mode pin reaches its next pulse instant or pulse end. R127. -/
  | tmrPulseEdge (t : Nat) (n : Nat)
  /-- PPS_OUT_PULSE: PPS_OUT starts a pulse at each whole second of the time base. R131. -/
  | ppsOutPulse (t : Nat)
  /-- CSI_FRAME_START: A CSI-2 Frame Start short packet begins a camera frame. R159. -/
  | csiFrameStart (t : Nat) (port vc frameNo ecc : Nat)
  /-- CSI_LONG_PACKET: A CSI-2 long packet of pixel data is received and checked. R144. -/
  | csiLongPacket (t : Nat) (port vc dataType : Nat) (data : Bytes) (crcOk : Bool) (ecc lead80 : Nat)
  /-- CSI_FRAME_END: A CSI-2 Frame End completes a camera sample with its last-line stamp. R143. -/
  | csiFrameEnd (t : Nat) (port vc frameNo ecc : Nat)
  /-- IMU_DRDY_EDGE: An IMU data-ready edge is stamped and starts a read. R145. -/
  | imuDrdyEdge (t : Nat) (port cs : Nat) (falling : Bool)
  /-- IMU_READ_DONE: An IMU read ends and its sample is converted and judged for its slot. R147. -/
  | imuReadDone (t : Nat) (port : Nat) (data : Bytes)
  /-- CAN_FRAME_RX: A received CAN frame is matched against CAN entries and taken as samples. R150. -/
  | canFrameRx (t : Nat) (port id : Nat) (ext fd brs remote : Bool) (data : Bytes) (lead80 : Nat)
  /-- GNSS_SENTENCE_RX: A valid NMEA sentence is received; GGA gives a GNSS sample. R152. -/
  | gnssSentenceRx (t : Nat) (s0 : Bytes) (lead80 : Nat)
  /-- LIDAR_DATAGRAM_RX: A matching lidar datagram is written into its exchange memory ring. R153. -/
  | lidarDatagramRx (t : Nat) (port udp ipVer : Nat) (src : Bytes) (dgram : Datagram) (lead80 : Nat)
  /-- LIDAR_SWEEP_TIMEOUT: 100 ms after a sweep's last datagram the sweep closes with SWEEP_PARTIAL. R154. -/
  | lidarSweepTimeout (t : Nat) (i : Nat)
  /-- SENSOR_SILENCE_TIMEOUT: Four periods without an accepted sample post EV_SENSOR_SILENT. R160. -/
  | sensorSilenceTimeout (t : Nat) (i : Nat)
  /-- PAIR_TIMEOUT: A frame with no partner within sync_us is recorded UNPAIRED. R170. -/
  | pairTimeout (t : Nat) (i : Nat)
  /-- VP_BAND_READY: A pipe writes a band into its slot and sets the flag, or drops it if the slot is held. R184. -/
  | vpBandReady (t : Nat) (i : Nat)
  /-- VP_ADMISSION_WINDOW: At the end of each 100 us window a hosting pipe admits or skips paired frames. R195. -/
  | vpAdmissionWindow (t : Nat) (p : Nat)
  /-- VP_FAULT: A fault fences a vision pipe and its cameras move to the other pipe. R194. -/
  | vpFault (t : Nat) (p : Nat)
  /-- TASK_DISPATCH: An engine that is free takes its next task from deque, ready queue or by stealing. R210. -/
  | taskDispatch (t : Nat) (c e : Nat)
  /-- TASK_COMMIT: A task's program ends without fault and its commit queue issues in order. R208. -/
  | taskCommit (t : Nat) (c e : Nat) (r : TaskResult)
  /-- TASK_OVERRUN: A task over its planned cycles by 25 % is stopped as an engine fault. R209. -/
  | taskOverrun (t : Nat) (c e : Nat)
  /-- ENGINE_MESSAGE_RX: An engine receives a role message, acting on it, queueing it or bouncing it. R217. -/
  | engineMessageRx (t : Nat) (c e : Nat)
  /-- ROLE_REBUILD_DONE: The new role holder finishes rebuilding and accepts messages. R216. -/
  | roleRebuildDone (t : Nat) (c e : Nat)
  /-- REDUCTION_ROUND_DONE: Every partition has been contributed and the round result is delivered. R220. -/
  | reductionRoundDone (t : Nat) (id : Nat)
  /-- COPY_DONE: A copy engine finishes a copy and issues its completion notice or flag write. R256. -/
  | copyDone (t : Nat) (ce src dst len : Nat) (cost : CopyCost) (srcHost dstHost : Bool) (flag : Option (Nat × Nat)) (ok : Bool) (issuer : Reader)
  /-- UPC_UPDATE: Every 1 ms the part recomputes U_pc and sets HELD if above the ceiling. R222. -/
  | upcUpdate (t : Nat)
  /-- CEILING_HOLD_CLEAR: U_pc within CEILING for 100 ms clears HELD. R224. -/
  | ceilingHoldClear (t : Nat) (c : Nat)
  /-- SRAM_PATROL_SCRUB: The patrol scrub reads and corrects on-chip SRAM words. R230. -/
  | sramPatrolScrub (t : Nat) (corrected : Nat)
  /-- SRAM_UNCORRECTABLE: An uncorrectable SRAM word fails or reruns its reader. R459. -/
  | sramUncorrectable (t : Nat) (addr : Nat) (reader : Reader)
  /-- FLAG_UNCORR_EXPIRE: 100 ms after an uncorrectable flag word the part writes 0 to it. R460. -/
  | flagUncorrExpire (t : Nat) (n : Nat)
  /-- IPM_PATROL_SCRUB: The IPM patrol scrub reads and repairs stripes. R238. -/
  | ipmPatrolScrub (t : Nat) (l : List IpmRead) (last : Bool)
  /-- IPM_UNCORRECTABLE: An uncorrectable IPM read fails its issuer or triggers a rewrite from home. R237. -/
  | ipmUncorrectable (t : Nat) (x : IpmRead) (obj : Option Nat) (reader : Reader)
  /-- IPM_CHANNEL_FAULT: A faulty IPM channel goes FAILED, or a second fault in a group loses the group. R239. -/
  | ipmChannelFault (t : Nat) (n : Nat)
  /-- IPM_RESYNC_DONE: A resyncing channel has been rewritten and becomes ONLINE. R242. -/
  | ipmResyncDone (t : Nat) (n : Nat)
  /-- NVME_DEVICE_DETECT: The root port finds an NVMe device and chooses its namespace. R244. -/
  | nvmeDeviceDetect (t : Nat) (gen width : Nat) (l : List Namespace)
  /-- NVME_CMD_TIMEOUT: A slow-tier read unanswered within TIMEOUT_MS counts as an unrecovered read error. R248. -/
  | nvmeCmdTimeout (t : Nat) (obj block : Nat)
  /-- PROMOTION_DONE: A promoted object is whole and checked and becomes RESIDENT. R249. -/
  | promotionDone (t : Nat) (obj : Nat)
  /-- EVICTION_DONE: An eviction ends after any write-back and the object is HOME. R249. -/
  | evictionDone (t : Nat) (obj : Nat)
  /-- SLOW_READ_FAIL: A failed slow-tier read is retried, then read from the mirror, or the object becomes LOST. R252. -/
  | slowReadFail (t : Nat) (obj : Nat) (r : BlockRead)
  /-- TIER_REPAIR_DONE: Failed blocks are rewritten from the good copy. R252. -/
  | tierRepairDone (t : Nat) (obj : Nat) (ok : Bool)
  /-- WAVE_START: A wave of ready inferences of one model starts in a cluster. R278. -/
  | waveStart (t : Nat) (slot c : Nat) (plan : List PlanTask)
  /-- BIND_BAND_READY: A flagged band of a bound ring becomes an inference or is skipped. R284. -/
  | bindBandReady (t : Nat) (b c : Nat) (plan : List PlanTask)
  /-- FUSION_TICK: At a tick instant the part snapshots slots, checks conflicts and queues the inference. R296. -/
  | fusionTick (t : Nat) (plan : List PlanTask)
  /-- FUSION_TICK_COMMIT: A tick's inference commits and track and tick records are written. R312. -/
  | fusionTickCommit (t : Nat) (discarded : Bool)
  /-- POSE_TAKEOVER_TIMEOUT: No control-complex record by 120 us makes the safety island write it. R372. -/
  | poseTakeoverTimeout (t : Nat)
  /-- IMU_GAP_TIMEOUT: 2 periods without a primary IMU sample set IMU_GAP. R369. -/
  | imuGapTimeout (t : Nat)
  /-- IMU_SWITCH_TIMEOUT: 4 periods without a primary sample switch to the secondary IMU. R369. -/
  | imuSwitchTimeout (t : Nat)
  /-- FRAME_UPDATE_START: Every band of a frame set has committed and a frame update is posed. R374. -/
  | frameUpdateStart (t : Nat) (plan : List PlanTask)
  /-- FRAME_UPDATE_DONE: A frame or GNSS update ends and its correction is applied or discarded. R380. -/
  | frameUpdateDone (t : Nat) (o : EstOutcome)
  /-- WINDOW_BA_DONE: A window BA solve ends and its poses enter the next epoch or not. R380. -/
  | windowBaDone (t : Nat) (o : EstOutcome)
  /-- LOOP_QUERY_DONE: A keyframe's loop query returns candidates for verification. R381. -/
  | loopQueryDone (t : Nat) (inliers : List (Nat × Nat))
  /-- POSE_GRAPH_DONE: A pose-graph solve ends and commits or keeps its constraints. R382. -/
  | poseGraphDone (t : Nat) (o : EstOutcome)
  /-- MAP_EPOCH_COMMIT: An epoch's tiles are written and flushed and the epoch commits. R384. -/
  | mapEpochCommit (t : Nat) (tiles : List (Nat × Bytes))
  /-- EST_LOST_TIMEOUT: No successful update for lost_ms moves TRACKING to LOST. R364. -/
  | estLostTimeout (t : Nat)
  /-- PLACE_QUERY_ADMIT: A waiting query is admitted into a free context slot and takes its snapshot. R395. -/
  | placeQueryAdmit (t : Nat) (w : Nat)
  /-- PLACE_QUERY_DONE: A walk ends and the query's results are written. R403. -/
  | placeQueryDone (t : Nat) (w slot : Nat)
  /-- INDEX_MERGE_COMMIT: A new graph version commits as one change. R411. -/
  | indexMergeCommit (t : Nat) (i : Nat)
  /-- WALKER_FAULT: A faulty walker is fenced and its queries restart elsewhere. R419. -/
  | walkerFault (t : Nat) (w : Nat)
  /-- SXP_INIT: A session INIT is checked and answered with a REPLY. R431. -/
  | sxpInit (t : Nat) (h : SxpHello)
  /-- SXP_REPLY: A session REPLY is checked, keys derived and CONFIRM sent. R431. -/
  | sxpReply (t : Nat) (h : SxpHello)
  /-- SXP_CONFIRM: A CONFIRM datagram completes session set-up. R433. -/
  | sxpConfirm (t : Nat) (sid : Nat) (sealedBytes : Bytes)
  /-- SXP_DATAGRAM_RX: A protected datagram is authenticated and its fragment reassembled. R434. -/
  | sxpDatagramRx (t : Nat) (g : SxpDgram)
  /-- PUBLISH: A primary applies, acknowledges or holds a publication. R444. -/
  | publish (t : Nat)
  /-- PUBLISH_ACK: A publisher receives acknowledgement of a publication. R445. -/
  | publishAck (t : Nat)
  /-- REVISION: A holder applies a revision in order. R445. -/
  | revision (t : Nat)
  /-- REVISION_ACK: A primary counts a replica's acknowledgement of a revision. R445. -/
  | revisionAck (t : Nat)
  /-- QUERY: A holder runs a shard QUERY as a fleet-service PLACE_QUERY. R447. -/
  | query (t : Nat)
  /-- QUERY_RESULT: A shard's answer joins the FLEET_QUERY merge. R448. -/
  | queryResult (t : Nat)
  /-- ROLE_NOTICE: A holder takes the new primary's entry whole. R438. -/
  | roleNotice (t : Nat)
  /-- NOTICE_ACK: A new primary receives acknowledgement of its role notice. R452. -/
  | noticeAck (t : Nat)
  /-- SYNC_REQ: A primary answers a syncing holder with revisions or a full copy. R440. -/
  | syncReq (t : Nat)
  /-- SYNC_DATA: A syncing holder applies sync data and becomes REPLICA when current. R440. -/
  | syncData (t : Nat)
  /-- HANDOVER_REQ: A replica named successor takes the primary role once current. R452. -/
  | handoverReq (t : Nat)
  /-- HANDOVER_ACK: The old primary becomes REPLICA and bounces held publications. R452. -/
  | handoverAck (t : Nat)
  /-- BOUNCE: A part takes a bounced shard entry and resends to the new holder. R451. -/
  | bounce (t : Nat)
  /-- ADMIN_DESC: An administrator descriptor is run on the admin session channel. R436. -/
  | adminDesc (t : Nat)
  /-- IP_CONTROL_RX: An ARP, Neighbor Discovery or echo request to the fleet address is answered. R427. -/
  | ipControlRx (t : Nat) (port kind : Nat) (target body : Bytes)
  /-- SXP_REASSEMBLY_TIMEOUT: An incomplete message is discarded 500 ms after its first fragment. R436. -/
  | sxpReassemblyTimeout (t : Nat) (session msgId : Nat)
  /-- SXP_RESEND_TIMEOUT: A request without reply after RTO_MS is sent again. R436. -/
  | sxpResendTimeout (t : Nat) (msgId : Nat)
  /-- REPLY_CACHE_EXPIRE: A kept reply is dropped after 2 s. R436. -/
  | replyCacheExpire (t : Nat) (src msgId : Nat)
  /-- SESSION_REKEY: After 2^32 datagrams or 24 h a session re-runs set-up. R435. -/
  | sessionRekey (t : Nat) (id : Nat)
  /-- SESSION_OLD_KEY_EXPIRE: Old session keys stop being valid 2 s after the new CONFIRM. R435. -/
  | sessionOldKeyExpire (t : Nat) (id : Nat)
  /-- SESSION_IDLE_TIMEOUT: A session idle for 120 s is closed. R435. -/
  | sessionIdleTimeout (t : Nat) (id : Nat)
  /-- FLEET_QUERY_TIMEOUT: A shard unanswered in timeout_ms is asked of the next holder or declared missing. R448. -/
  | fleetQueryTimeout (t : Nat) (q shard : Nat)
  /-- PUBLISH_LATE_TIMEOUT: No PUBLISH_ACK after PUBLISH_TMO_S posts EV_PUBLISH_LATE. R445. -/
  | publishLateTimeout (t : Nat) (shard : Nat)
  /-- SXP_PORT_FAILOVER: SXP moves to the alternate port after the primary link goes down. R428. -/
  | sxpPortFailover (t : Nat)
  /-- SXP_PORT_RETURN: 10 s after the primary link returns SXP moves back. R428. -/
  | sxpPortReturn (t : Nat)
  /-- CLAIM_TIMEOUT: A claimant's 200 ms wait ends and it becomes PRIMARY. R453. -/
  | claimTimeout (t : Nat) (shard : Nat)
  /-- SHARD_HANDOVER_TIMEOUT: A handover that does not finish in time leaves the old primary. R452. -/
  | shardHandoverTimeout (t : Nat) (shard : Nat)
  /-- ENGINE_FAULT: A class 3 or 4 engine fault fences the engine and re-queues its work. R461. -/
  | engineFault (t : Nat) (c e cls cause detail : Nat)
  /-- CONTROL_CORE_FAULT: A control core fault fences it and moves its firmware work. R465. -/
  | controlCoreFault (t : Nat) (k cause : Nat)
  /-- FABRIC_FAULT: A class 5 fabric fault puts the part in base-metal mode. R458. -/
  | fabricFault (t : Nat) (detail : Nat)
  /-- FATAL_FAULT: A class 6 fault stops HEARTBEAT, raises SAFE_STOP and logs the fault. R468. -/
  | fatalFault (t : Nat) (code : Nat)
  /-- FATAL_RESET_TIMEOUT: 100 ms after a class 6 fault the full reset starts. R468. -/
  | fatalResetTimeout (t : Nat)
  /-- ASSAY_DONE: An Assay test ends with a result code and the unit returns or stays fenced. R470. -/
  | assayDone (t : Nat) (kind unit code : Nat)
  /-- ASSAY_ROTATION: Every ROTATE_S seconds one live engine is taken for Assay. R471. -/
  | assayRotation (t : Nat)
  /-- TS_STREAM_END: A Touchstone stream ends and its value is compared with EXP. R475. -/
  | tsStreamEnd (t : Nat) (n : Nat)
  /-- SAFE_STOP_CHECK: Every 100 us the part re-evaluates the SAFE_STOP level. R483. -/
  | safeStopCheck (t : Nat)
  /-- HEARTBEAT_TOGGLE: HEARTBEAT toggles each interval if the safety island self-check passes. R484. -/
  | heartbeatToggle (t : Nat) (selfOk : Bool)
  /-- HM_VIOLATION: A measurement mismatch or forbidden access enters base-metal mode with SECURITY. R492. -/
  | hmViolation (t : Nat) (what kind addr : Nat)
  /-- CARD_INSERT_REMOVE: A microSD card is inserted or removed and EV_CARD is posted. R496. -/
  | cardInsertRemove (t : Nat) (present usable : Bool) (files : List (Bytes × Bytes))
  /-- STAGING_DONE: The flash copies of a staging end and the state becomes STAGED, or staging fails. R499. -/
  | stagingDone (t : Nat) (ok : Bool)
  /-- UNSTAGING_DONE: The retained package has been copied back and the state becomes IDLE. R497. -/
  | unstagingDone (t : Nat)
  /-- ACTIVATION_DONE: The new image has started and the update enters TRIAL. R501. -/
  | activationDone (t : Nat) (ok : Bool)
  /-- HEALTH_CONFIRM: The trial image confirms its health once every condition holds. R506. -/
  | healthConfirm (t : Nat) (healthy : Bool)
  /-- CONFIRMATION_TIMER_EXPIRE: The confirmation timer expires and the update falls back. R507. -/
  | confirmationTimerExpire (t : Nat)
  /-- FALLBACK_DONE: The retained image runs, the part is READY and the update state is IDLE. R508. -/
  | fallbackDone (t : Nat) (ok : Bool)
  /-- POWER_LOOP_TICK: Every 1 ms the power loop lowers or raises one cluster clock by one step. R523. -/
  | powerLoopTick (t : Nat) (mean1 mean100 vinMv iinMa : Nat)
  /-- THERMAL_LOOP_TICK: Every 10 ms the thermal loop lowers a cluster when at the throttle threshold. R524. -/
  | thermalLoopTick (t : Nat) (tj : Int) (sensor : Nat)
  /-- ENVIRONMENT_FAULT: A supply, temperature or power condition lasting its time enters base-metal mode. R526. -/
  | environmentFault (t : Nat) (cond : Nat)
  /-- ENVIRONMENT_CLEAR: VIN and temperature back within limits long enough clear the ENVIRONMENT cause. R527. -/
  | environmentClear (t : Nat)
  /-- THERMAL_TRIP: Junction temperature at the trip removes every rail but always-on and holds reset. R528. -/
  | thermalTrip (t : Nat) (tj : Int)
  /-- RESET_N_RELEASE: RESET_N is released after a full reset, ending the reset and starting the start-up sequence. R101. -/
  | resetNRelease (t : Nat)
  /-- THERMAL_TRIP_RELEASE: The junction temperature falls below 80 °C (C) or 90 °C (I), ending the trip reset so start-up begins. R528. -/
  | thermalTripRelease (t : Nat)
  /-- PCIE_LINK_DOWN: The host PCIe link goes down, so completions, records and events are discarded while tails advance. R535. -/
  | pcieLinkDown (t : Nat)
  /-- BUS_MASTERING_CHANGE: The host clears or sets bus mastering in the function's configuration space, stopping or resuming the part's posted writes. R535. -/
  | busMasteringChange (t : Nat) (on : Bool)
  /-- CAN_BUS_ERROR: A CAN bus error is seen, updating REC, TEC and the error-active, error-passive or bus-off state, with EV_CAN_STATE. R149. -/
  | canBusError (t : Nat) (port : Nat) (recCount tecCount : Nat)
  /-- CAN_BUS_OFF_RECOVERY: After 128 occurrences of 11 recessive bits a bus-off CAN port returns to error-active. R149. -/
  | canBusOffRecovery (t : Nat) (port : Nat)
  /-- I3C_COMMON_COMMAND: The part takes part in an I3C bus initialisation, a dynamic address assignment or a common command code. R79. -/
  | i3cCommonCommand (t : Nat) (code : Nat)
  /-- PROFILE_WRITE_DONE: The flash holds the written or restored profile record, the profile leaves WRITING and the completion is written. R97. -/
  | profileWriteDone (t : Nat)
  /-- CSI_DESKEW_CALIBRATION: A D-PHY deskew calibration sequence is received on a CSI-2 port above 1,500 Mb/s and applied, setting DESKEWED. R142. -/
  | csiDeskewCalibration (t : Nat) (port : Nat)
  /-- SLOW_TIER_FAILURE: The NVMe SSD fails or is lost, so NVME_STATE becomes FAILED or ABSENT and EV_SLOW_STATE is posted. R246. -/
  | slowTierFailure (t : Nat) (absent : Bool)
  /-- SSD_HEALTH_WARNING: The SSD reports a SMART critical warning and the part posts EV_SLOW_HEALTH. R243. -/
  | ssdHealthWarning (t : Nat) (b : Nat)
  deriving DecidableEq, Repr

end Sys2Proof
end

