-- ==== Sys2Proof/Decode.lean ====
section
/-! DEFINITION. spec/opcode_table.json gives no row any bits: no word spells a command. A descriptor's own bytes are read by
`parseDesc` (Machine/Descriptor.lean). -/

namespace Sys2Proof

/-- The command that a word of `nbits` bits spells. -/
def decodeTableWord (nbits w : Nat) : Option Instr := let _ := nbits; let _ := w; none

end Sys2Proof
end

