-- ==== Sys2Proof/Config.lean ====
section
/-! DEFINITION. What the spec leaves open, as constants without a body: free values and uninterpreted functions
of published standards and of the part's own estimators. -/

namespace Sys2Proof.Config

/-- A value that the spec leaves open, drawn anew for each use: the state's counter names the use
(notes/assumptions/3.md). -/
opaque freeValue : Nat → Nat

/-- The track's own time in tb80 units that its frequency and phase estimate predicts for an instant of the reference in ns, from
its measured inputs, latest first, as (instant of the reference, track's time) (spec/04 R110 names the estimate, not its form). -/
opaque trackPrediction : List (Nat × Int) → Nat → Int

/-- The frequency of a track's estimate against the reference's nominal rate, in units of 2^-48, from its measured inputs (spec/04
R110, R112). -/
opaque trackFrequency : List (Nat × Int) → Int

/-- The part's own address on the switch, which the spec gives no value for (spec/04 R122). -/
opaque ownMac : Nat

/-- clockAccuracy, offsetScaledLogVariance and clockIdentity of the part's own clock (spec/04 R117, R118). -/
opaque ownClock : Nat × Nat × Nat

/-- The ports a frame is forwarded to, from its destination address and its VLAN: [3:0] EP0-EP3, [4] the control complex, [5] lidar
ingress; the switch's address table is not described (spec/04 R123). -/
opaque forwardPorts : Nat → Nat → BitVec 6

/-- Bytes of the slow tier's directory, held twice, in a used space of that many bytes (spec/08 R245). -/
opaque directoryBytes : Nat → Nat

/-- SHA3-512 of a byte string (FIPS 202), uninterpreted. -/
opaque sha3 : List (BitVec 8) → List (BitVec 8)

/-- Two tasks of a plan section that may be ready at once have overlapping output regions: the plan's format is the
Anvil toolchain's (spec/09 R260, R266 check 6). -/
opaque planOverlaps : List (BitVec 8) → Bool

/-- The ingots that a window step of a streamed plan keeps resident: offset in the ingot set, length, offset in the window. The
plan has the engine program format, which the part does not interpret otherwise (spec/09 R273). -/
opaque residentIngots : List (BitVec 8) → Nat → List (Nat × Nat × Nat)

/-- The ingots that each wave of a window step streams into the window, in the same form (spec/09 R278). -/
opaque streamedIngots : List (BitVec 8) → Nat → List (Nat × Nat × Nat)

/-- The tasks of a streamed plan, by their place in it, that read the ingot at an offset of the ingot set under a window step
(spec/09 R278). -/
opaque ingotReaders : List (BitVec 8) → Nat → Nat → List Nat

/-- Where a slot's window lies in a cluster's model area, in units of 64 KiB: the spec names the area only (spec/09 R267). -/
opaque windowPlace : Nat → Nat → Nat

/-- The tensors that a holder of a whole-tensor plan keeps: offset in the whole-tensor set, length, offset in engine-local
memory (spec/08 R255). -/
opaque holderTensors : List (BitVec 8) → Nat → List (Nat × Nat × Nat)

/-- Where a solve of a problem slot keeps a variable's segment of p in the store that holds its partition's vectors, and where a role engine
takes it in (spec/11 R351, R353: no layout is stated). -/
opaque segmentFrom : Nat → Nat → Nat
opaque segmentTo : Nat → Nat → Nat

/-- The two positions of a node ID in a query's visited filter of that many bits (spec/13 R404 names the hash, not its
form). -/
opaque visitHash : Nat → Nat → Nat × Nat

/-- The upward direction in B that the primary IMU's samples of the first 200 ms give, as they saw gravity (spec/12 R365 does not state
how). -/
opaque gravity : List (List (BitVec 8)) → Int × Int × Int

/-- The pixels of a band that the feature network's output on it matches (spec/12 R374: the network's own). -/
opaque matchedPixels : List (BitVec 8) → List Nat

/-- The state that an IMU sample's propagation gives: from the state before (*Pose record* bytes 16-97, then the biases), the
sample's record, and the factor on the noise (spec/12 R367, R371, R386; computed under R226). -/
opaque propagate : List (BitVec 8) → List (BitVec 8) → Nat → List (BitVec 8)

/-- Bytes of the SHAKE256 output of a byte string (FIPS 202), uninterpreted. -/
opaque shake256 : List (BitVec 8) → Nat → List (BitVec 8)

/-- The part's ML-DSA-87 identity public key, by serial number (spec/14 R429, spec/16 R489). -/
opaque identityKey : Nat → List (BitVec 8)

/-- An ML-DSA-87 signature verifies: key, message, signature (FIPS 204, uninterpreted). -/
opaque dsaVerify : List (BitVec 8) → List (BitVec 8) → List (BitVec 8) → Bool

/-- ML-KEM-1024 (FIPS 203, uninterpreted): the encapsulation key of a decapsulation key, the shared secret and the ciphertext that an
encapsulation key gives with some random bytes, and the shared secret that a decapsulation key takes from a ciphertext (spec/14 R433). -/
opaque kemKey : List (BitVec 8) → List (BitVec 8)
opaque kemEncaps : List (BitVec 8) → List (BitVec 8) → List (BitVec 8) × List (BitVec 8)
opaque kemDecaps : List (BitVec 8) → List (BitVec 8) → List (BitVec 8)

/-- The bytes of a message's body, whose fields the spec lists without a layout (spec/14 R443-R453). -/
opaque sxpBody : SxpBody → List (BitVec 8)

/-- HKDF over HMAC-SHA3-512: input key material, salt, info and output length (RFC 5869, uninterpreted; spec/14 R433). -/
opaque hkdf : List (BitVec 8) → List (BitVec 8) → List (BitVec 8) → Nat → List (BitVec 8)

/-- The tag of an AES-256-GCM ciphertext holds: key, nonce, additional data, and the ciphertext followed by its tag (SP 800-38D,
uninterpreted; spec/14 R434). -/
opaque gcmOpens : List (BitVec 8) → List (BitVec 8) → List (BitVec 8) → List (BitVec 8) → Bool

/-- The Penmas firmware public key of a number 0-3 (spec/16 R495). -/
opaque firmwareKey : Nat → List (BitVec 8)

/-- The device update key's encapsulation key, by serial number (spec/16 R487; FIPS 203, uninterpreted). -/
opaque updateKey : Nat → List (BitVec 8)

/-- The encapsulation key of a fleet update key's seed d ‖ z (spec/16 R488; FIPS 203, uninterpreted). -/
opaque fleetUpdateKey : List (BitVec 8) → List (BitVec 8)

/-- The seed that a key parcel opens to on the part of a serial number, where its tag holds (spec/16 R488). -/
opaque parcelSeed : Nat → List (BitVec 8) → Option (List (BitVec 8))

/-- The content key that a capsule opens to under the device update key of a serial number, or under a fleet update key's
seed, where its tag holds (spec/16 R494, R495). -/
opaque capsuleKey : Nat ⊕ List (BitVec 8) → List (BitVec 8) → Option (List (BitVec 8))

/-- A component's plaintext from the content key, its manifest entry and its bytes, where its tag holds (spec/16 R495). -/
opaque componentText : List (BitVec 8) → List (BitVec 8) → List (BitVec 8) → Option (List (BitVec 8))

/-- The identity key's signature of a message, by serial number (spec/16 R487, R493; FIPS 204, uninterpreted). -/
opaque identitySign : Nat → List (BitVec 8) → List (BitVec 8)

/-- The device certificate, by serial number (spec/16 R489). -/
opaque deviceCert : Nat → List (BitVec 8)

/-- The digest of the loader area fused in OTP (spec/16 R490). -/
opaque loaderDigest : List (BitVec 8)

/-- Version and svn that the loader's own image shows in RECOVERY: the spec states none (spec/16 R510). -/
opaque loaderVersion : Nat
opaque loaderSvn : Nat

/-- A settings bank and its profile halves as held, from the settings in them: the spec gives no layout (spec/16 R493,
R514). -/
opaque settingsImage : List (List (BitVec 8)) → List (BitVec 8)

end Sys2Proof.Config
end

