-- ==== Sys2Proof/Machine/Bytes.lean ====
section
/-! DEFINITION. Byte strings, two's complement and saturating counters (spec/00 R3, R4, R7). -/

namespace Sys2Proof.Machine

/-! ### Byte strings (R3, R4) -/

/-- The `n` low bytes of `v`, little-endian (R4). -/
def leBytes : Nat → Nat → Bytes
  | 0, _ => []
  | n + 1, v => BitVec.ofNat 8 v :: leBytes n (v / 256)

/-- The little-endian value of a byte string (R4). -/
def leNat : Bytes → Nat
  | [] => 0
  | b :: r => b.toNat + 256 * leNat r

/-- The big-endian value of a byte string. -/
def beNat (b : Bytes) : Nat := b.foldl (fun a x => a * 256 + x.toNat) 0

/-- Bytes lo … lo+n-1 of a byte string, read little-endian; a byte past the end is 0. -/
def fld (b : Bytes) (lo n : Nat) : Nat := leNat ((b.drop lo).take n)

/-- `b` cut or padded with zeros to `n` bytes. -/
def padTo (n : Nat) (b : Bytes) : Bytes := b.take n ++ List.replicate (n - b.length) 0

/-- Bytes lo … lo+n-1, padded with zeros. -/
def sliceAt (b : Bytes) (lo n : Nat) : Bytes := padTo n ((b.drop lo).take n)

/-- `b` with the bytes from `lo` on replaced by `x`. -/
def putAt (b : Bytes) (lo : Nat) (x : Bytes) : Bytes :=
  padTo lo b ++ x ++ b.drop (lo + x.length)

/-- A `w`-bit value read as two's complement. -/
def sInt (w v : Nat) : Int := (BitVec.ofNat w v).toInt

/-- An integer as `w`-bit two's complement. -/
def sNat (w : Nat) (v : Int) : Nat := (BitVec.ofInt w v).toNat

/-- An integer clipped to the `w`-bit two's complement range. -/
def sSat (w : Nat) (v : Int) : Int :=
  max (-(2 ^ (w - 1) : Nat) : Int) (min v ((2 ^ (w - 1) : Nat) - 1 : Int))

/-- Counter increment that saturates (register tables: "saturating"). -/
def satInc {w : Nat} (x : BitVec w) : BitVec w := if x.toNat + 1 < 2 ^ w then x + 1 else x

/-- Counter addition that saturates. -/
def satAdd {w : Nat} (x : BitVec w) (n : Nat) : BitVec w := BitVec.ofNat w (min (x.toNat + n) (2 ^ w - 1))

/-- Element `i` of a list changed by `f`. -/
def upd {α : Type} (l : List α) (i : Nat) (f : α → α) : List α := l.modify i f


end Sys2Proof.Machine
end

