-- ==== Sys2Proof/Machine/Defaults.lean ====
section
/-! DEFINITION. The default profile records (spec/01, spec/03 R91). -/

namespace Sys2Proof.Machine

/-! ### Default records (spec/01, *What each profile enables by default*; spec/03, *Defaults of the ownership and
output fields*). The name and the sensor map of a default record are the model's choice (notes/assumptions/9.md). -/

/-- The settings format of the running firmware (notes/assumptions/9.md). -/
def settingsFmt : Nat := 6

/-- The default record of profile p. -/
def defaultRecord (p : Nat) : Bytes :=
  let pick (a b c e : Nat) : Nat := match p with
    | 0 => a | 1 => b | 2 => c | _ => e
  let name : List Nat := match p with
    | 0 => [0x4A, 0x65, 0x74]
    | 1 => [0x47, 0x61, 0x72, 0x6E, 0x65, 0x74]
    | 2 => [0x42, 0x65, 0x72, 0x79, 0x6C]
    | _ => [0x43, 0x6F, 0x72, 0x75, 0x6E, 0x64, 0x75, 0x6D]
  let n := pick 1 2 4 6
  leBytes 2 settingsFmt ++ leBytes 2 p ++ padTo 16 (name.map (BitVec.ofNat 8))
    ++ leBytes 1 (2 ^ n - 1) ++ leBytes 1 (pick 1 1 3 3) ++ leBytes 1 (pick 0x03 0x0F 0xFF 0xFF) ++ leBytes 1 (pick 0 0 0 1)
    ++ ((List.range 6).map fun i => leBytes 2 (if i < n then pick 1400 2200 2200 2200 else 0)).flatten
    ++ leBytes 2 (pick 400 1000 2000 0) ++ leBytes 1 (pick 9 22 45 85) ++ leBytes 1 (pick 0 0 0 2)
    ++ leBytes 2 (pick 0x1324 0x1324 0x1324 0x4023) ++ leBytes 2 500 ++ leBytes 2 1000 ++ leBytes 2 0x5500
    ++ leBytes 4 (pick 0x042E0001 0x04EF0003 0x05FF000F 0x01050000) ++ leBytes 2 0 ++ leBytes 2 0x0F

/-- The four default records. -/
def defaultRecords : List Bytes := (List.range 4).map defaultRecord

end Sys2Proof.Machine
end

