-- ==== Sys2Proof/Machine/State.lean ====
section
/-! DEFINITION. The state of the part, block by block, as plain data, and its reset value. Registers that
software writes and every counter, queue and mode the spec gives a block are fields of that block's structure;
read-only registers that only show other state are computed in Regs.lean. A field's default is its reset value. -/

namespace Sys2Proof.Machine

/-- Why the machine stops. The spec gives every command of the table an effect in every state, so nothing
raises a fault: the one constructor stands for the interface alone. -/
inductive Fault where
  /-- raised by no command -/
  | none
  deriving DecidableEq, Repr

/-- Why a command has no meaning. -/
inductive Refusal where
  /-- raised by Dispatch.lean for a command that has no meaning yet; safe: nothing is claimed of it -/
  | notModelled (mnemonic : String)
  deriving DecidableEq, Repr

/-- The PTP messages that the part sends besides Sync (R117), with the instants in tb80 that they carry. -/
inductive PtpTx where
  | announce (c : ClockSet)
  | followUp (origin80 : Nat)
  | delayReq
  | delayResp (received80 : Nat)
  | pdelayReq
  | pdelayResp (received80 : Nat)
  | pdelayRespFollowUp (sent80 : Nat)
  deriving DecidableEq, Repr

/-- A command to the NVMe device (spec/08 R243): those of its admin and I/O commands that the part uses. -/
inductive NvmeCmd where
  | identify
  | numberOfQueues (pairs : Nat)
  | writeCache
  | createQueues (pair entries : Nat)
  | deleteQueues (pair : Nat)
  | getFeatures
  | errorLog
  | healthLog
  /-- reads and writes of an object's 4 KiB blocks, of its first copy or of its mirror -/
  | read (obj : Nat) (mirror : Bool) (blocks : List (Nat × Nat))
  | write (obj : Nat) (mirror : Bool) (blocks : List (Nat × Nat))
  | writeLabels
  | flush
  | deallocate (obj : Nat)
  deriving DecidableEq, Repr

/-- What one protected datagram is sealed with (spec/14 R434): key, nonce and additional authenticated data. -/
structure SxpSeal where
  key : Bytes := []
  nonce : Bytes := []
  aad : Bytes := []
  deriving DecidableEq, Repr

/-- What the part sends out of itself, in the model's own trace (DESIGN CHOICE, notes/assumptions/7.md). -/
inductive Emission where
  /-- an MSI-X message of the vector (R75, R76) -/
  | msix (vector : Nat)
  /-- an I3C in-band interrupt request (R79) -/
  | ibi
  /-- an I3C transfer refused (R79) -/
  | i3cNack
  /-- bytes of an I3C private read (R79) -/
  | i3cRead (bytes : Bytes)
  /-- block transfers of at most 255 bytes, in order, of an SMBus-fallback read (R79) -/
  | smbusRead (blocks : List Bytes)
  /-- the part's frame of a SAFE_SPI exchange (R388) -/
  | safeSpi (bytes : Bytes)
  /-- a completion and payload on the admin session (R77) -/
  | adminReply (bytes : Bytes)
  /-- an edge the part's logic places on TMRn, with its tb80 instant; driven only as OWN_OUTEN allows -/
  | tmrEdge (pin : Nat) (level : Bool) (at80 : Nat) (driven : Bool)
  /-- an edge on PPS_OUT -/
  | ppsEdge (level : Bool) (at80 : Nat) (driven : Bool)
  /-- the level of SAFE_STOP -/
  | safeStop (level : Bool)
  /-- a toggle of HEARTBEAT to a level -/
  | heartbeat (level : Bool)
  /-- bytes sent on GNSS_TX -/
  | gnssTx (bytes : Bytes) (driven : Bool)
  /-- an IMU read transaction: chip-select value, first byte and length -/
  | imuRead (port cs spiMode sclkKhz : Nat) (addr : Byte) (len : Nat) (driven : Bool)
  /-- a CAN acknowledgement or error frame -/
  | canAck (port : Nat)
  | canError (port : Nat)
  /-- a frame sent on an external Ethernet port -/
  | ethTx (port : Nat) (frame : EthFrame)
  /-- a frame handed to the control complex (0) or to lidar ingress (1) by the switch (R123) -/
  | ethIn (port : Nat) (frame : EthFrame)
  /-- a PTP event message forwarded: the whole frame, its FCS last -/
  | ptpForward (port : Nat) (frame : Bytes)
  /-- any other PTP message that the part sends on a track -/
  | ptpTx (port track : Nat) (m : PtpTx)
  /-- a PTP message sent by the part as time transmitter: Sync with origin time, Announce with clockClass -/
  | ptpSync (port track : Nat) (origin80 : Nat) (cls : Nat) (twoStep : Bool)
  /-- the IP control reply of R427, with the VLAN tag of its frame -/
  | ipReply (port : Nat) (kind : Nat) (tag : Option Nat) (bytes : Bytes)
  /-- an SXP message sent to a peer part or, with peer 0xFFFF, to the administrator, from an Ethernet port (spec/14): the address its
  datagrams are sent to first, empty where the administrator's own, the VLAN tag of their frames (R427), and under which key, nonce and
  additional data each of its datagrams is sealed, in their order; none of a set-up message (R434) -/
  | sxp (port peer : Nat) (hop : Bytes) (tag : Option Nat) (m : SxpMsg) (seals : List SxpSeal)
  /-- an I3C common command code answered -/
  | i3cCcc (code : Nat)
  /-- bytes written to a file of the microSD card (R514) -/
  | cardFile (name bytes : Bytes)
  /-- a command on a queue of the NVMe device: 0 the admin queue, 1-8 the I/O pairs -/
  | nvme (queue : Nat) (cmd : NvmeCmd)
  deriving DecidableEq, Repr

/-! ### Host interface and rings (spec/02) -/

/-- The content of a completion (spec/02, *Completion entry*) with its result payload; `dest` is the host
address the payload goes to, or `none` where it follows the completion inline (R78). -/
structure Cpl where
  status : Byte := 0
  stateCode : W16 := 0
  flags : W16 := 0
  result0 : W64 := 0
  result1 : W32 := 0
  dest : Option Nat := none
  payload : Bytes := []
  deriving DecidableEq, Repr

/-- Names one fetched descriptor: its channel and its submission count there (R45). -/
structure Tok where
  ch : Chan
  count : W32
  deriving DecidableEq, Repr

/-- How far a fetched descriptor has come (R43, R46-R49, R69). -/
inductive Stage where
  /-- waits on a dependency, an epoch, a barrier or its launch instant -/
  | held
  /-- its work is done when its completion's place in the ring order comes -/
  | ready
  /-- its work is under way and it is not past its commit point -/
  | running
  /-- its work is under way and past its commit point (R43) -/
  | committed
  /-- its work is done, and its effects wait for its place in the ring order and for room (R50, R52) -/
  | staged
  /-- its completion waits to be written in ring order -/
  | finished (c : Cpl)
  deriving DecidableEq, Repr

/-- A descriptor that has been fetched and not completed. `launch` is the launch instant in force (R135 moves
it), 0 for none; `moved` counts the grid periods it has moved. -/
structure Pend where
  op : Op
  d : Desc
  count : W32
  stage : Stage := .ready
  launch : Nat := 0
  moved : Nat := 0
  /-- number of this fetch among all channels' -/
  seq : Nat := 0
  /-- tb64 at its fetch (R155) -/
  fetchedAt : Nat := 0
  /-- the submission count that the ring named in its byte 24 had been given slots up to at its fetch (R43) -/
  upTo : W32 := 0
  /-- the next free ID and the tombstone epoch of the index named in byte 24 at its fetch (spec/13 R409) -/
  cut : Nat × Nat := (0, 0)
  /-- it has passed its commit point (R43) -/
  past : Bool := false
  /-- timed cluster work: an engine has begun it (R132) -/
  begun : Bool := false
  deriving DecidableEq, Repr

/-- States of a submission ring (*Ring states*). -/
inductive SqState where
  | absent | active | aborting | fault
  deriving DecidableEq, Repr

/-- States of a completion ring (*Ring states*). -/
inductive CqState where
  | absent | active | stream
  deriving DecidableEq, Repr

/-- A submission ring, or the descriptor channel of one of masters 2-4 (R77). -/
structure SubRing where
  st : SqState := .absent
  cq : Nat := 0
  head : Nat := 0
  tail : Nat := 0
  log2 : Nat := 0
  base : Nat := 0
  /-- submission count that the next fetched descriptor takes -/
  nextCount : W32 := 0
  /-- fetched and not completed, in ring order -/
  pend : List Pend := []
  /-- counts that completed with a status of 0x10 or higher (R46) -/
  failed : List W32 := []
  /-- launch grid: phase and period (R135) -/
  grid : Option (Nat × Nat) := none
  /-- ABORT_SQs, or DELETE_SQs where the flag is set, that wait for the taken descriptors: those before the count (R43, R44) -/
  closers : List (Tok × Bool × W32) := []
  /-- completions of masters 2-4 that wait to be read (R77), each with its payload -/
  replies : List Bytes := []
  deriving DecidableEq, Repr

/-- A completion ring (R37, R51-R53, R56, R75). -/
structure CqRing where
  st : CqState := .absent
  vector : Nat := 0
  phase : Bool := false
  head : Nat := 0
  tail : Nat := 0
  log2 : Nat := 0
  base : Nat := 0
  recBase : Nat := 0
  recLog2 : Nat := 0
  coalCount : Nat := 1
  coalTimeUs : Nat := 0
  /-- entries of the batch in progress, and the instant of its first entry (R75) -/
  batch : Nat := 0
  batchAt : Nat := 0
  /-- EV_CQ_FULL was posted for the present fullness (R52) -/
  fullPosted : Bool := false
  deriving DecidableEq, Repr

/-- An event (*Event entry*), less its phase. -/
structure Event where
  time : W64
  code : W16
  source : Byte
  severity : Byte
  unit : W32 := 0
  detail : Bytes := []
  deriving DecidableEq, Repr

/-- The event ring as it runs (R58, R59, R103). -/
structure EvRing where
  on : Bool := false
  base : Nat := 0
  log2 : Nat := 6
  head : Nat := 0
  tail : Nat := 0
  phase : Bool := true
  /-- events lost since the last EV_EVENTS_LOST -/
  lost : Nat := 0
  /-- events that the ring lost before it was disabled, whose EV_EVENTS_LOST waits for the next enable -/
  lostOld : Nat := 0
  /-- events that arose while the ring was not enabled, at most 64 (R103) -/
  held : List Event := []
  deriving DecidableEq, Repr

/-- One stream's numbering (R53, R536, R71). -/
structure Stream where
  id : Nat
  seq : W32 := 0
  dropped : W32 := 0
  lastTov : Option W64 := none
  /-- a run of drops is under way, for which EV_STREAM_OVERRUN was posted -/
  overrun : Bool := false
  deriving DecidableEq, Repr

/-- One MSI-X table entry (spec/02, *BAR0 map*); its layout is PCI Express's (PRESUMED,
notes/assumptions/5.md). -/
structure MsixEntry where
  addr : W64 := 0
  data : W32 := 0
  masked : Bool := true
  pendingBit : Bool := false
  deriving DecidableEq, Repr

/-- The host side: rings, streams, interrupts, counters and host memory. -/
structure Hif where
  sq : List SubRing := List.replicate 64 ({} : SubRing)
  cq : List CqRing := List.replicate 64 ({} : CqRing)
  i3c : SubRing := { st := .active }
  /-- the mailbox's descriptor came over SMBus fallback, which has no in-band interrupt (R79) -/
  smbus : Bool := false
  safeSpi : SubRing := { st := .active }
  net : SubRing := { st := .active }
  evr : EvRing := {}
  /-- HIF_EVT_PEND: RING, HEALTH, TRUST, LOST -/
  evtPend : BitVec 4 := 0
  dbInvalid : W32 := 0
  notOwner : W32 := 0
  evrLost : W32 := 0
  streamDrop : W32 := 0
  frozen : Option (List W64) := none
  streams : List Stream := []
  msix : List MsixEntry := List.replicate 128 ({} : MsixEntry)
  /-- descriptors fetched so far on all channels -/
  fetches : Nat := 0
  /-- the host PCIe link is up (R535) -/
  linkUp : Bool := false
  /-- bus mastering is enabled in the function (R535) -/
  busMaster : Bool := false
  /-- the endpoint answers configuration requests with Configuration Request Retry Status (R102) -/
  crs : Bool := true
  /-- PCIE_PERST_N is asserted -/
  perst : Bool := false
  /-- the endpoint has trained its link since the full reset: PCIE_CLKREQ_N is low (spec/17 R532) -/
  clkreq : Bool := false
  /-- host memory as the part reads and writes it: addresses rising, no zero byte listed -/
  mem : List Host.Cell := []
  /-- ranges of host memory whose reads fail, address and length: the host's to say (R63, notes/assumptions/4.md) -/
  unreadable : List (Nat × Nat) := []
  deriving DecidableEq, Repr

/-! ### Ownership, profiles and start-up (spec/03) -/

/-- States of the ownership machine (*Ownership states*). -/
inductive OwnSt where
  | vacant | arbitrating | owned | handover
  deriving DecidableEq, Repr

/-- States of the profile machine (*Profile states*). -/
inductive ProfSt where
  | applied | applying | writing
  deriving DecidableEq, Repr

/-- Why a profile is being applied, and what follows when it is (R94, R101, R481, R504, R508). -/
inductive ApplyCause where
  | straps
  | command (tok : Tok)
  | baseExit (tok : Tok)
  | accept (tok : Tok)
  | activation
  | fallback
  deriving DecidableEq, Repr

/-- Part-wide states (*Part-wide states*). -/
inductive PartSt where
  | starting | ready | running | baseMetal | updatePause
  deriving DecidableEq, Repr

/-- How far the start-up sequence has come (*Start-up after a full reset*). -/
inductive StartSt where
  /-- held in reset: no supply, RESET_N low or a thermal trip -/
  | held
  /-- the reset has ended; always-on not yet running -/
  | released
  | strapsSampled
  | loaderMeasured
  | profileRead
  | safetyRunning
  | controlRunning
  | ipmTrained
  | done
  /-- the loader did not measure: the part does not start (R490) -/
  | refused
  deriving DecidableEq, Repr

/-- Ownership (R81-R87) and SAFE_REQ_N (R88). Instants are in ns of the reference. -/
structure Own where
  st : OwnSt := .vacant
  owner : Nat := 0
  leaseEnd : Nat := 0
  /-- claims that joined the arbitration: master and descriptor -/
  claims : List (Nat × Tok) := []
  windowEnd : Nat := 0
  successor : Nat := 0
  handoverEnd : Nat := 0
  leaseMs : W16 := 0
  handoverMs : W16 := 0
  prio : W32 := 0
  outen : W32 := 0
  safeLevel : Bool := false
  /-- the level of SAFE_REQ_N when the full reset ended (R90) -/
  safeAtReset : Bool := false
  safeSeen : Bool := false
  /-- OWN_CNT: ignored OWN writes of masters 1-4 -/
  cnt : List W16 := [0, 0, 0, 0]
  frozen : Option (List W64) := none
  deriving DecidableEq, Repr

/-- Stored profiles and the profile machine (R91-R98). A record is its bytes; a byte past the list's end is 0. -/
structure Prof where
  st : ProfSt := .applied
  /-- the record in force -/
  active : Bytes := []
  activeId : Nat := 2
  byCommand : Bool := false
  strap : Nat := 2
  /-- the application under way: profile and cause -/
  applying : Option (Nat × ApplyCause) := none
  applyEnd : Nat := 0
  /-- the write under way: profile, record and descriptor -/
  writing : Option (Nat × Bytes × Tok) := none
  /-- the four records of the bank in use -/
  stored : List Bytes := defaultRecords
  /-- the four records of the other bank, where it holds them (R98, R99) -/
  previous : Option (List Bytes) := none
  deriving DecidableEq, Repr

/-! ### Time base, PTP and the Ethernet switch (spec/04) -/

/-- States of the time base (*Time base states*). -/
inductive TbSt where
  | freeRun | tracking | holdover
  deriving DecidableEq, Repr

/-- States of a track (*Track states*). -/
inductive TrkSt where
  | disabled | acquiring | locked | lost
  deriving DecidableEq, Repr

/-- One track (R110). Offsets are track minus time base in tb80 units. -/
structure Track where
  st : TrkSt := .disabled
  /-- TIME_TRKn_CFG bits [31:1]; bit 0 is ENABLE -/
  cfg : W32 := 0xF8F80000
  offset : Int := 0
  residual : Int := 0
  /-- consecutive residuals within 100 ns -/
  good : Nat := 0
  /-- instant of the last valid input, and ns without one after which the track is LOST -/
  lastInput : Nat := 0
  timeout : Nat := 250000000
  /-- measured inputs since the track last entered ACQUIRING: instant of the reference and the track's own time then in tb80, latest
  first -/
  history : List (Nat × Int) := []
  /-- mean path delay, tb80 units (R117) -/
  delay : Int := 0
  /-- best foreign clock heard in the track's domain (R118), and the instant at which it is forgotten unless heard again -/
  foreign : Option ClockSet := none
  foreignUntil : Nat := 0
  gmClass : Byte := 0
  deriving DecidableEq, Repr

/-- A timer pin TMRn (R125-R130). -/
structure TmrPin where
  mode : BitVec 3 := 0
  polarity : Bool := false
  arm : Bool := false
  late : Bool := false
  badcfg : Bool := false
  missed : Byte := 0
  overrun : Byte := 0
  start : W64 := 0
  /-- TIME_TMRn_PERIOD: tb80 units -/
  period : W64 := 0
  width : W32 := 0
  /-- latest captured edge, tb80, its direction and the capture count -/
  cap : Nat := 0
  capEdge : Bool := false
  capSeq : BitVec 15 := 0
  capAny : Bool := false
  /-- what had passed on the time base at that edge (`Time.mono`) -/
  capMono : Nat := 0
  /-- next pulse: its index k, and whether one is pending -/
  next : Nat := 0
  pending : Bool := false
  /-- index after the last pulse sent -/
  sent : Nat := 0
  /-- end of the pulse in progress, tb80 -/
  pulseEnd : Option Nat := none
  deriving DecidableEq, Repr

/-- The time base, the tracks and the timer pins. -/
structure Time where
  st : TbSt := .freeRun
  /-- the time base runs (R108) -/
  running : Bool := false
  /-- the counter, tb80 units -/
  tb : Nat := 0
  /-- the counter without its steps, tb80 units: what has passed on it (R125) -/
  mono : Nat := 0
  /-- the part of a tb80 unit that the frequency adjustment has gained, in units of 2^-48 (R106) -/
  tbFrac : Nat := 0
  /-- the part of a tb80 unit that the slew has gained, in units of 10^-9 (R112) -/
  slewFrac : Nat := 0
  /-- frequency offset in units of 2^-48 of the rate (R106) -/
  freq : Int := 0
  /-- remainder still to slew, tb80 units (R112) -/
  slew : Int := 0
  sel : Nat := 0
  auto : Bool := true
  slewPpb : BitVec 20 := 10000
  stepLimitUs : W16 := 1000
  holdMaxS : W16 := 1800
  holdSince : Nat := 0
  /-- e0 of R116, and the temperatures it uses in units of 0.001 degree C -/
  holdE0 : Nat := 0
  holdT0 : Int := 0
  /-- the integral of |T - T0|, in milli-K x ns -/
  holdInt : Nat := 0
  holdErr : W16 := 0xFFFF
  holdErrAt : Nat := 0
  /-- the holdover was entered from a GNSS track (R118) -/
  holdGnss : Bool := false
  tolUs : W16 := 50
  late : W16 := 0
  cableNs : W16 := 0
  widthMs : BitVec 9 := 100
  latch : Nat := 0
  frozen : Option (List W64) := none
  trk : List Track := [{}, {}]
  tmr : List TmrPin := List.replicate 16 ({} : TmrPin)
  /-- whole second up to which PPS_OUT pulses no more, the last one pulsed, and the end of the pulse in progress in tb80 -/
  ppsLast : Nat := 0
  ppsSent : Nat := 0
  ppsEnd : Option Nat := none
  /-- instants at which the on-die sensor beside the reference is read: milli degree C -/
  tempRef : Int := 25000
  deriving DecidableEq, Repr

/-- One external Ethernet port (R120-R124). -/
structure EthPort where
  enable : Bool := false
  mode : BitVec 3 := 0
  tc : Bool := true
  link : Bool := false
  rate : BitVec 3 := 0
  /-- EP0-EP1: an SFP28 module is seated -/
  modulePresent : Bool := false
  /-- egress queues, by priority code point: frames waiting, oldest first -/
  queues : List (List EthFrame) := List.replicate 8 []
  /-- instant of the link's last change (spec/14 R428) -/
  linkAt : Nat := 0
  deriving DecidableEq, Repr

/-! ### Sensor Front (spec/05) -/

/-- A sample record (*Sample record*) with its time of validity. -/
structure Sample where
  /-- tb80 -/
  stamp : Nat := 0
  sensor : Nat := 0
  kind : Nat := 0
  flags : W16 := 0
  arrival : W64 := 0
  tov : W64 := 0
  /-- bytes 24-63 -/
  payload : Bytes := []
  deriving DecidableEq, Repr

/-- A camera frame being received on one virtual channel (R143, R144). -/
structure FrameRx where
  sensor : Nat
  vc : Nat
  frameNo : W16 := 0
  /-- tb80 of the first long packet's start and of the last one's end -/
  firstLine : Option Nat := none
  lastLine : Nat := 0
  lines : Nat := 0
  crcLines : Nat := 0
  /-- the lines' pixels at 8 bits (R143; spec/06, ingress), latest first -/
  rows : List Bytes := []
  /-- the frame began after the pending FRAME_GRAB was fetched -/
  grab : Bool := false
  deriving DecidableEq, Repr

/-- One CSI-2 port. -/
structure CsiPort where
  enable : Bool := true
  lanesUp : BitVec 4 := 0
  deskewed : Bool := false
  eccCorr : W16 := 0
  hdrDrop : W16 := 0
  crcErr : W16 := 0
  frames : W16 := 0
  rx : List FrameRx := []
  /-- instant of the last EV_CSI_ERROR, if any -/
  errAt : Option Nat := none
  deriving DecidableEq, Repr

/-- An IMU read in progress or waiting (R145, R146). -/
structure ImuRead where
  sensor : Nat
  stamp : Nat
  deriving DecidableEq, Repr

/-- One IMU port. -/
structure ImuPort where
  reads : W32 := 0
  overrun : W16 := 0
  busy : Option ImuRead := none
  deriving DecidableEq, Repr

/-- One CAN port (R148-R150). -/
structure CanPort where
  /-- SF_CANn_CFG as written, and as in effect -/
  cfg : W32 := 0x00097416
  live : W32 := 0x00097416
  recCount : Nat := 0
  tecCount : Nat := 0
  /-- 0 error-active, 1 error-passive, 2 bus-off -/
  state : Nat := 0
  frames : W32 := 0
  errFrames : W16 := 0
  noMatch : W16 := 0
  deriving DecidableEq, Repr

/-- A dated NMEA sentence: its stamp in tb64 and its UTC in ns since 1970. -/
structure DatedSentence where
  stamp : Nat
  utcNs : Nat
  deriving DecidableEq, Repr

/-- A lidar sweep in one entry's ring (R153, R154): ring offset, datagrams, bytes and first stamp. -/
structure Sweep where
  start : Nat := 0
  count : Nat := 0
  bytes : Nat := 0
  first : Nat := 0
  last : Nat := 0
  /-- the embedded time of the last packet as it selects tov -/
  tovRaw : Nat := 0
  lastAt : Nat := 0
  deriving DecidableEq, Repr

/-- A stored frame of a camera with route 0 (R143): its tov, its first-line stamp, the device address of its buffer and the lines it received. -/
structure StoredFrame where
  tov : Nat
  first : Nat
  addr : Nat
  lines : Nat
  deriving DecidableEq, Repr

/-- One sensor map entry's running state. -/
structure Sensor where
  enabled : Bool := false
  slot : Option Sample := none
  /-- accepted samples since the slot was last empty, latest first, each with the tb64 at which its acceptance completed: those of the last
  second and the one before them (R158) -/
  past : List (Nat × Sample) := []
  accepted : W32 := 0
  late : W16 := 0
  bad : W16 := 0
  /-- instant of the last acceptance or of the enable, for R160 -/
  lastAt : Nat := 0
  silent : Bool := false
  /-- instant of the last enable (R159) -/
  enabledAt : Nat := 0
  /-- camera: the buffer to fill next (R143); the two latest stored frames' tov, first-line stamp and buffer; the FRAME_GRAB pending -/
  nextBuf : Nat := 0
  stored : List StoredFrame := []
  grab : Option Tok := none
  /-- lidar: the sweep being filled, the accepted sweep, and the ring's write offset -/
  filling : Option Sweep := none
  held : Option Sweep := none
  wr : Nat := 0
  deriving DecidableEq, Repr

/-- The Sensor Front's ports and slots. -/
structure Sens where
  s : List Sensor := List.replicate 32 ({} : Sensor)
  csi : List CsiPort := List.replicate 12 ({} : CsiPort)
  imu : List ImuPort := [{}, {}]
  can : List CanPort := [{}, {}]
  gnssBaud : BitVec 22 := 9600
  leapS : Byte := 37
  sentences : W16 := 0
  checksumErr : W16 := 0
  ppsUnlabelled : W16 := 0
  dated : Option DatedSentence := none
  /-- GNSS_SENDs under way, each with the instant its last byte leaves -/
  gnssTx : List (Tok × Nat) := []
  /-- samples passed to the estimator's measurement queue, oldest first (R157) -/
  meas : List Sample := []
  frozen : Option (List W64) := none
  deriving DecidableEq, Repr

/-! ### Stereo vision pipes (spec/06) -/

/-- States of a pipe (*Pipe states*). -/
inductive VpSt where
  | gated | home | hosting | off | fenced
  deriving DecidableEq, Repr

/-- Matching parameters of a pair (R164, R197): p1, p2, uniq_pct, tex_min, lr_tol. -/
structure VpParams where
  p1 : Nat := 1
  p2 : Nat := 1
  uniq : Nat := 0
  tex : Nat := 0
  lrTol : Nat := 0
  deriving DecidableEq, Repr

/-- One camera's side of a frame: whether Frame End has come, and then its lines, tov and defects. -/
structure VpSide where
  ended : Bool := false
  rows : List Bytes := []
  tov : Nat := 0
  truncated : Bool := false
  error : Bool := false
  deriving DecidableEq, Repr

/-- A frame that a pipe has paired and perhaps admitted. -/
structure VpFrame where
  seq : W32
  /-- first-line stamp of the left or mono frame, tb80 -/
  first : Nat
  pipe : Nat := 0
  left : VpSide := {}
  right : VpSide := {}
  tblL : Option Bytes := none
  tblR : Option Bytes := none
  params : VpParams := {}
  nextBand : Nat := 0
  written : Nat := 0
  dropped : Nat := 0
  /-- status bits of the frame record -/
  status : Nat := 0
  firstSlot : Nat := 0
  valid : Nat := 0
  /-- the STEREO_GRAB that takes this frame, and the band images produced so far -/
  grab : Option Tok := none
  planes : List (Bytes × Bytes × Bytes) := []
  deriving DecidableEq, Repr

/-- A band ring: one for each left or mono camera, at its sensor index (R170, R182). -/
structure VpRing where
  frameSeq : W32 := 0
  bandCount : Nat := 0
  /-- the last bands flagged, one for each slot at most: band count and tag, oldest first -/
  tags : List (Nat × Nat) := []
  /-- left frame waiting for its partner; right frame waiting, with its first-line stamp -/
  waitL : Option VpFrame := none
  waitR : Option (Nat × VpSide) := none
  /-- paired and waiting for admission (R195); in progress; and ended, with a record that waits for its tov; oldest first -/
  paired : List VpFrame := []
  cur : List VpFrame := []
  closing : List VpFrame := []
  params : Option VpParams := none
  grab : Option Tok := none
  lastAdmit : Nat := 0
  /-- instants of the frames skipped and the bands dropped in the last second -/
  skips : List Nat := []
  skipEvAt : Option Nat := none
  drops : List Nat := []
  dropEvAt : Option Nat := none
  deriving DecidableEq, Repr

/-- One pipe. -/
structure VpPipe where
  st : VpSt := .gated
  frames : W32 := 0
  skipped : W16 := 0
  unpaired : W16 := 0
  bandDrop : W32 := 0
  skew : W16 := 0
  abandoned : W16 := 0
  frozen : Option (List W64) := none
  /-- the VP_MOVEs off, and with `true` the ASSAY_RUN (R486), that wait for the frames in progress to end -/
  moving : List (Tok × Bool) := []
  /-- tb80 of the last hand-over of this pipe's home cameras (R194) -/
  movedAt : Option Nat := none
  deriving DecidableEq, Repr

/-- A STEREO_STORED under way (R191): its pipe, frames, parameters and tables, the line buffer it holds, and the instant
its run ends; none while no pipe runs it. -/
structure StoredJob where
  tok : Tok
  pipe : Nat
  w : Nat
  h : Nat
  frameL : StoredFrame
  frameR : StoredFrame
  eight : Bool
  depth : Nat
  params : VpParams
  tblL : Option Bytes
  tblR : Option Bytes
  need : Nat
  due : Option Nat := none
  deriving DecidableEq, Repr

/-- Both pipes, the rings by sensor index, and the rectification tables by sensor (R169). -/
structure Vision where
  pipe : List VpPipe := [{}, {}]
  ring : List VpRing := List.replicate 32 ({} : VpRing)
  tables : List (Nat × Bytes) := []
  jobs : List StoredJob := []
  deriving DecidableEq, Repr

/-! ### Compute array (spec/07) -/

/-- States of an engine (*CLUn_ENGm_STAT*). -/
inductive EngSt where
  | gated | live | fenced | assay
  deriving DecidableEq, Repr

/-- What a piece of engine work is for. -/
inductive WorkKind where
  /-- an INFER of a slot, with its state instance where it is stateful (spec/09 R277, R288) -/
  | infer (tok : Tok) (slot : Nat) (inst : Option Nat)
  /-- a band of a binding: its count and its input flag's band tag (spec/09 R283) -/
  | band (bind : Nat) (k : Nat) (tag : Nat)
  /-- a fusion tick (spec/10 R311) -/
  | tick (seq : Nat)
  /-- a SOLVER_LOAD or SOLVE phase of a problem slot (spec/11 R353) -/
  | load (slot : Nat)
  | solve (slot : Nat) (phase : Nat)
  /-- a problem or step of the estimator: 0 frame update, 1 window BA, 2 pose graph, 3 loop verification -/
  | est (problem : Nat)
  deriving DecidableEq, Repr

/-- How far a task has come (R206, R210, R208, R462). -/
inductive TaskSt where
  /-- waits for predecessors or flag watches -/
  | waiting
  /-- ready, in a deque or a ready queue -/
  | queued
  | running (cluster engine : Nat)
  /-- waits for a repair of its data, or for Assay after its second failure -/
  | stalled
  | committed
  deriving DecidableEq, Repr

/-- A task (*Task attributes*). `cls` is 0 pose-critical, 1 perception, 2 fleet service. -/
structure Task where
  id : Nat
  work : Nat
  idx : Nat := 0
  cls : Nat := 1
  affinity : Nat := 2
  cluster : Nat := 0
  engine : Nat := 0
  role : Option (Nat × Nat) := none
  cycles : Nat := 1
  deadline : Option Nat := none
  preds : List Nat := []
  watches : List Watch := []
  inBytes : Nat := 0
  regions : List (Nat × Nat) := []
  failedOn : List (Nat × Nat) := []
  st : TaskSt := .waiting
  /-- instants: became ready, started -/
  readyAt : Nat := 0
  startAt : Nat := 0
  /-- cycles spent up to `startAt`, times 1,000: a clock step counts what was spent and starts anew (R209) -/
  spent : Nat := 0
  copies : List PlanCopy := []
  /-- cause of the last failure, and whether an Assay that follows the second one failed (R462) -/
  cause : Nat := 0
  assayBad : Bool := false
  deriving DecidableEq, Repr

/-- A piece of engine work: its tasks' joint status bits and the output bytes staged so far (R69). -/
structure Work where
  id : Nat
  kind : WorkKind
  cluster : Nat := 0
  accSat : Bool := false
  /-- RANGE of a solver-mode accumulator (R202) -/
  range : Bool := false
  boundHit : Bool := false
  out : List (Nat × Bytes) := []
  state : Bytes := []
  deriving DecidableEq, Repr

/-- A message on its way to the engine that its sender's directory named (R217). -/
structure MsgFlight where
  fromC : Nat
  fromE : Nat
  toC : Nat
  toE : Nat
  msg : EngMsg
  deriving DecidableEq, Repr

/-- One engine. -/
structure Engine where
  st : EngSt := .gated
  kind : BitVec 4 := 0
  obj : W32 := 0
  epoch : W16 := 0
  /-- the role's state is being rebuilt; the old holder for EV_ROLE_MOVED -/
  rebuilding : Bool := false
  movedFrom : Option (Nat × Nat) := none
  /-- task numbers, top (oldest) first -/
  deque : List Nat := []
  running : Option Nat := none
  tasks : W32 := 0
  /-- messages received for the role and not acted on yet; those that its program has acted on since its last commit; the role
  that the last bounce to this engine named (R217) -/
  inbox : List MsgFlight := []
  acted : List EngMsg := []
  told : Option (Nat × Nat × Nat) := none
  /-- the UNIT_FENCE or ASSAY_RUN that waits for the running task (R463, R486); the flag says Assay -/
  leaving : Option (Option Tok × Bool) := none
  deriving DecidableEq, Repr

/-- One cluster with its solver sequencer's counters. -/
structure Cluster where
  on : Bool := false
  /-- DVFS step (R521) and its ceiling -/
  step : Nat := 0
  top : Nat := 0
  ceiling : BitVec 7 := 0
  pcUtil : BitVec 7 := 0
  held : Bool := false
  /-- instant since which U_pc has stayed within CEILING while HELD -/
  withinAt : Option Nat := none
  /-- a fence (0) or a clock step (1) since U_pc was last computed within CEILING -/
  rise : Option Nat := none
  remoteOut : Bool := true
  remoteIn : Bool := true
  probes : BitVec 5 := 23
  /-- ready queue, oldest first; one section per class is the class's tasks in it -/
  ready : List Nat := []
  tasks : W32 := 0
  reexec : W32 := 0
  stealLocal : W32 := 0
  stealRemote : W32 := 0
  bounces : W32 := 0
  boundHit : W16 := 0
  heldMs : W16 := 0
  copyStall : W64 := 0
  frozen : Option (List W64) := none
  /-- instants and counts of the cuts in the last second (R227, R228) -/
  cuts : List (Nat × Nat) := []
  cutEvAt : Option Nat := none
  eng : List Engine := List.replicate 24 ({} : Engine)
  seqIterations : W32 := 0
  seqRestarts : W16 := 0
  seqLifts : W16 := 0
  seqFrozen : Option (List W64) := none
  deriving DecidableEq, Repr

/-- A role directory entry (R216): the role, its engine and epoch; `cluster` 255 where no engine holds it. -/
structure RoleEntry where
  kind : Nat
  obj : Nat
  cluster : Nat
  engine : Nat
  epoch : Nat
  deriving DecidableEq, Repr

/-- A reduction round (R220, R221): element type 0 int32, 1 int64, 2 80-bit, 3 FP32; operation 0 sum, 1 maximum,
2 minimum, 3 sum of squares; the partitions contributed so far, latest first. -/
structure Round where
  id : Nat
  cluster : Nat := 0
  cross : Bool := false
  elem : Nat := 2
  op : Nat := 0
  parts : Nat := 2
  got : List (Nat × List Int) := []
  /-- where the result goes: 0 cluster shared memory at `dest`, 1 the solver sequencer, 2 the control complex -/
  target : Nat := 1
  dest : Nat := 0
  /-- every partition was present before the tree could take the round, or at one instant (R221) -/
  whole : Bool := false
  /-- instant of the first contribution -/
  firstAt : Nat := 0
  deriving DecidableEq, Repr

/-- A copy of a running task in a copy engine's queue (R256). -/
structure CopyJob where
  ce : Nat
  cls : Nat
  cluster : Nat
  engine : Nat
  src : Nat
  dst : Nat
  len : Nat
  /-- the task that waits for it, or the model slot whose window it fills at a load (spec/09 R273) -/
  task : Option Nat := none
  load : Option Nat := none
  /-- the streamed ingot that it brings: offset in the set, length, offset in the window (spec/09 R278) -/
  ingot : Option (Nat × Nat × Nat) := none
  deriving DecidableEq, Repr

/-- The array: clusters, tasks, work, roles, messages, rounds and the copies that plans wait for. -/
structure Comp where
  cl : List Cluster := List.replicate 6 ({} : Cluster)
  tasks : List Task := []
  works : List Work := []
  nextId : Nat := 0
  dir : List RoleEntry := []
  net : List MsgFlight := []
  rounds : List Round := []
  /-- results of rounds delivered to the control complex, latest first -/
  results : List (Nat × List Int × Bool) := []
  /-- rounds delivered to cluster shared memory with their RANGE bit set -/
  ranged : List Nat := []
  /-- messages that engines sent to the control complex, with their engine, oldest first (R207) -/
  notes : List (Nat × Nat × Bytes) := []
  /-- copies waiting in the copy engines' queues, oldest first -/
  copyq : List CopyJob := []
  /-- role epochs given so far, for roles that no engine holds now -/
  epochs : List (Nat × Nat × Nat) := []
  deriving DecidableEq, Repr

/-! ### Memory tiers (spec/08) -/

/-- States of an IPM channel (*Channel states*). -/
inductive ChSt where
  | online | offline | failed | resync
  deriving DecidableEq, Repr

/-- One IPM channel; `returning` are the IPM_CHANNEL returns that wait for ONLINE (R239, R242). -/
structure IpmCh where
  st : ChSt := .online
  resyncAt : Nat := 0
  returning : List Tok := []
  /-- the state before the RESYNC under way -/
  prior : ChSt := .offline
  /-- IPM_CHANNEL returns that wait for an Assay of the channel that another asked for -/
  waiting : List Tok := []
  /-- instants of the words rebuilt for the channel in the last second (R239) -/
  rebuilt : List Nat := []
  deriving DecidableEq, Repr

/-- The in-package memory's channels and registers. -/
structure Ipm where
  ch : List IpmCh := List.replicate 64 ({} : IpmCh)
  lost : BitVec 8 := 0
  periodH : Byte := 24
  passes : W16 := 0
  retry : W32 := 0
  rebuilt : W32 := 0
  uncorr : W32 := 0
  frozen : Option (List W64) := none
  /-- instants of the last EV_IPM_UNCORR of each group -/
  uncorrEvAt : List (Option Nat) := List.replicate 8 none
  deriving DecidableEq, Repr

/-- States of the slow-tier port (*NVME_STATE*). -/
inductive NvSt where
  | absent | unlabelled | attached | failed
  deriving DecidableEq, Repr

/-- The slow-tier root port. `capacity` is the used part of the chosen namespace in bytes (R244), `lba` its logical block size and
`pairs` the I/O queue pairs made on the device (R243). -/
structure Nvme where
  st : NvSt := .absent
  /-- the root port has trained a link since the full reset: NVME_PERST_N is high (spec/17 R532) -/
  trained : Bool := false
  gen : Nat := 0
  width : Nat := 0
  capacity : Nat := 0
  lba : Nat := 0
  pairs : Nat := 0
  timeoutMs : W16 := 100
  reads : W32 := 0
  mediaErr : W16 := 0
  timeouts : W16 := 0
  frozen : Option (List W64) := none
  deriving DecidableEq, Repr

/-- States of a tier object (*Object states*). -/
inductive ObjSt where
  | home | promoting | resident | evicting | lost
  deriving DecidableEq, Repr

/-- What waits for a promotion: a TIER_PROMOTE, a model slot's load, an index, a map. -/
inductive Wants where
  | host (tok : Tok)
  | model (slot : Nat)
  | index (n : Nat)
  | map
  deriving DecidableEq, Repr

/-- A tier object (spec/08, "Tier objects"). Holders: model slot 0-15, index 0x20 + n, map 0x80, host software 0xFF.
`bad` lists the blocks whose read has failed and whether the mirror is read (R252); `repair` the blocks to rewrite. `ext` and
`mir` are the extents of its copies in 4 KiB blocks of the object space and `crcs` the directory's CRC-32C of each block (R245,
R247); `units` its place in the IPM in 64 KiB units; `readAt` the instant its read in hand was issued. -/
structure TierObj where
  id : Nat
  kind : Nat
  size : Nat
  slow : Bool
  mirrored : Bool
  data : Bytes := []
  st : ObjSt := .home
  pins : List (Nat × Nat) := []
  lastPin : Nat := 0
  lastCls : Nat := 1
  changed : Bool := false
  wants : List Wants := []
  evict : List Tok := []
  bad : List (Nat × Bool) := []
  repair : List Nat := []
  ext : List (Nat × Nat) := []
  mir : List (Nat × Nat) := []
  crcs : List Nat := []
  units : List (Nat × Nat) := []
  readAt : Nat := 0
  /-- IPM offsets of the 64 KiB units being rewritten from home (spec/09 R291), and the tasks that wait for it, oldest first -/
  rewrite : List Nat := []
  stalled : List Nat := []
  /-- the copy engine that moves it (R256), and the TIER_EVICT that began its eviction -/
  ce : Nat := 12
  evictor : Option Tok := none
  deriving DecidableEq, Repr

/-- The tier manager: its objects, IPM held for other purposes as (owner, 64 KiB units), and its counters. Owners: a
problem slot's allocation 0x1000 + slot, a model slot's checkpoints 0x2000 + slot, an index 0x3000 + n. -/
structure Tier where
  objs : List TierObj := []
  /-- promotions and write-backs that CE12 and CE13 serve, and those that wait, as (class, object), oldest first (R248, R256) -/
  serving : List Nat := []
  queue : List (Nat × Nat) := []
  allocs : List (Nat × Nat) := []
  promotions : W32 := 0
  evictions : W32 := 0
  retries : W16 := 0
  mirrorReads : W16 := 0
  repaired : W16 := 0
  lost : W16 := 0
  evictBusy : W32 := 0
  skipped : W32 := 0
  frozen : Option (List W64) := none
  /-- flags that read as uncorrectable, with the end of their 100 ms (R460) -/
  flagBad : List (Nat × Nat) := []
  /-- objects that this command has made LOST and whose users are still to be told (the model's own field) -/
  lostNow : List Nat := []
  deriving DecidableEq, Repr

/-! ### Faults (spec/15) -/

/-- A fault log entry (*Fault log entry*). -/
structure LogEntry where
  time : Nat
  cls : Nat
  kind : Nat
  unit : Nat
  cause : Nat
  action : Nat
  detail : Nat := 0
  deriving DecidableEq, Repr

/-- What waits for an Assay's end: a UNIT_RETURN, an ASSAY_RUN, an IPM_CHANNEL or WALKER_SET return, the rotation,
the double failure of a task, or a BASE_EXIT. -/
inductive AssayFor where
  | unitReturn (tok : Tok)
  | run (tok : Tok)
  | chapter (tok : Tok)
  | rotation
  | task (id : Nat)
  | baseExit (tok : Tok)
  deriving DecidableEq, Repr

/-- An Assay under way: unit kind and number, and the state the unit returns to where it passes in an ASSAY_RUN of a
unit that was in service. -/
structure AssayRun where
  kind : Nat
  unit : Nat
  why : AssayFor
  wasLive : Bool := false
  startAt : Nat := 0
  deriving DecidableEq, Repr

/-- Faults, Assay and base-metal mode. -/
structure Flt where
  /-- CAUSES of FLT_STATE -/
  causes : Byte := 0
  lastReset : Byte := 0
  minLive : Byte := 0
  stopOnBm : Bool := true
  forceStop : Bool := false
  hbMs : Byte := 10
  hbBmMs : Byte := 40
  rotateS : W16 := 60
  lastCode : Byte := 0
  /-- 0 live, 1 fenced, 2 under Assay, for control cores 0-3 -/
  core : List Nat := [0, 0, 0, 0]
  service : Nat := 0
  corrected : W32 := 0
  uncorr : W32 := 0
  fences : W16 := 0
  returns : W16 := 0
  dataCause : W16 := 0
  assayFail : W16 := 0
  bmEntries : W16 := 0
  tsMismatch : W16 := 0
  assayRuns : W16 := 0
  frozen : Option (List W64) := none
  /-- the fault log, latest first -/
  log : List LogEntry := []
  /-- EV_FAULT posted last: class, kind, unit and instant (R458) -/
  evAt : List (Nat × Nat × Nat × Nat) := []
  assays : List AssayRun := []
  /-- instant at which base-metal mode was entered, and whether its blocks are gated yet (R477) -/
  bmAt : Nat := 0
  gated : Bool := false
  /-- BASE_ENTERs that wait for the pose source (R485) -/
  entering : List Tok := []
  /-- BASE_EXITs under way (R481) -/
  exits : List Tok := []
  /-- class 6 fault pending its reset: LAST_RESET value and instant (R468) -/
  fatal : Option (Nat × Nat) := none
  /-- EV_FATAL_RESET owed after a class 6 reset: LAST_RESET and tb64 of detection -/
  fatalEv : Option (Nat × Nat) := none
  /-- SAFE_STOP's level and HEARTBEAT's level and last toggle (R483, R484) -/
  stop : Bool := true
  beat : Bool := false
  beatAt : Nat := 0
  selfFail : Bool := false
  rotateAt : Nat := 0
  rotateNext : Nat := 0
  deriving DecidableEq, Repr

/-! ### Touchstone units (spec/15 R472-R475) -/

/-- States of a Touchstone unit (*FLT_TSn_STAT*). -/
inductive TsSt where
  | idle | armed | running | matched | mismatched | abandoned | fenced
  deriving DecidableEq, Repr

/-- One Touchstone unit. -/
structure TsUnit where
  tap : BitVec 5 := 0
  poly : BitVec 2 := 0
  sel : W32 := 0
  expected : W64 := 0
  result : W64 := 0
  bytes : W32 := 0
  crc : Nat := 0
  st : TsSt := .idle
  mismatch : Bool := false
  deriving DecidableEq, Repr

/-! ### Neural models (spec/09) -/

/-- States of a model slot (*Slot states*). -/
inductive SlotSt where
  | empty | installing | installed | loading | loaded | unloading | disabled
  deriving DecidableEq, Repr

/-- One recurrent state instance (R287-R290). -/
structure Inst where
  state : Bytes := []
  ckpt : Option Bytes := none
  /-- steps committed since the load or the last STATE_RESET, and since the checkpoint -/
  steps : W32 := 0
  sinceCkpt : W32 := 0
  claim : Option Chan := none
  /-- the next completion carries STATE_STALE (4) or STATE_COLD (8), with the steps lost -/
  stale : Option (Nat × Nat) := none
  deriving DecidableEq, Repr

/-- An INFER that runs or waits for its watch, its instance or a wave (R277, R278, R288). -/
structure InferReq where
  tok : Tok
  seq : Nat
  inst : Option Nat := none
  fleet : Bool := false
  watch : Option Watch := none
  release : Bool := false
  /-- its claim of the instance has been judged (R288) -/
  claimed : Bool := true
  ready : Bool := false
  readyAt : Nat := 0
  cluster : Nat := 0
  /-- the work that runs it -/
  work : Option Nat := none
  /-- its finished work, which waits for the descriptor's place in the ring order (R50) -/
  done : Option Work := none
  deriving DecidableEq, Repr

/-- A streamed ingot that the window of cluster `c` holds: offset in the ingot set, and its place in the window (R278). -/
structure WinIngot where
  c : Nat
  off : Nat
  dst : Nat
  len : Nat
  deriving DecidableEq, Repr

/-- A model slot. -/
structure Slot where
  st : SlotSt := .empty
  /-- while INSTALLING: the state to go back to, the chunks so far, the total, the home -/
  prior : SlotSt := .empty
  chunks : Bytes := []
  total : Nat := 0
  slow : Bool := false
  /-- the load: clusters, tier mode, window step, flags, wave sizes and model-area units by cluster -/
  mask : Nat := 0
  mode : Nat := 0
  step : Nat := 0
  flags : Nat := 0
  wave : List Nat := [0, 0, 0, 0, 0, 0]
  area : List Nat := [0, 0, 0, 0, 0, 0]
  loadTok : Option Tok := none
  loadDest : Nat := 0
  /-- the copies that fill the load's windows are queued -/
  filled : Bool := false
  report : Bytes := []
  /-- streamed ingots that the windows hold -/
  win : List WinIngot := []
  /-- bands of the slot's bindings skipped (R284) -/
  bindSkips : Nat := 0
  /-- state role engines -/
  stateEngines : Nat := 0
  committed : W32 := 0
  insts : List Inst := []
  /-- INFERs of the slot that are fetched and not completed, by fetch number (R280) -/
  fetched : List (Nat × Tok) := []
  reqs : List InferReq := []
  unload : Option (Nat × Tok) := none
  /-- STATE_RESETs that wait: fetch number, descriptor, instance or 255 -/
  resets : List (Nat × Tok × Nat) := []
  deriving DecidableEq, Repr

/-- A band of a binding under way: its count, input slot flag, tag, and whether it is over and with output (R284, R286). -/
structure BandJob where
  k : Nat
  inFlag : Nat
  tag : Nat
  /-- the cluster that runs it, the instant at which it became ready, and whether its wave has started (R278) -/
  cluster : Nat := 0
  readyAt : Nat := 0
  started : Bool := false
  released : Bool := false
  ended : Bool := false
  failed : Bool := false
  /-- pixels matched in it with a valid disparity, and the disparity, for the estimator (spec/12 R374) -/
  depths : List (Nat × Nat) := []
  /-- its output, for the estimator -/
  out : Bytes := []
  deriving DecidableEq, Repr

/-- A binding (R282-R286). `est` says that the estimator owns it. -/
structure Binding where
  id : Nat
  slot : Nat
  sensor : Nat
  outFlag : Nat
  outSlots : Nat
  outBase : Nat
  est : Bool := false
  pos : Nat := 0
  k : Nat := 0
  skipped : Nat := 0
  /-- instants and counts of the bands skipped in the last second -/
  skips : List (Nat × Nat) := []
  skipEvAt : Option Nat := none
  jobs : List BandJob := []
  /-- a band of the frame under way failed -/
  spoilt : Bool := false
  ending : Option (Option Tok) := none
  deriving DecidableEq, Repr

/-- Slots and bindings. -/
structure Neural where
  slot : List Slot := List.replicate 16 ({} : Slot)
  binds : List Binding := []
  deriving DecidableEq, Repr

/-! ### The microSD card (spec/16 R496) -/

/-- The card: present, usable, and its files as (name, bytes), latest first. -/
structure Card where
  present : Bool := false
  usable : Bool := false
  files : List (Bytes × Bytes) := []
  deriving DecidableEq, Repr

/-! ### Fusion (spec/10) -/

/-- States of fusion (*Fusion states*). -/
inductive FusSt where
  | idle | running | checking
  deriving DecidableEq, Repr

/-- A pair's run count (R307): observable bit, lower and higher sensor, consecutive conflicting ticks. -/
structure PairRun where
  obs : Nat
  lo : Nat
  hi : Nat
  count : Nat
  deriving DecidableEq, Repr

/-- A conflicting pair as the tick record lists it. -/
structure Conflict where
  obs : Nat
  lo : Nat
  hi : Nat
  count : Nat
  excess : Nat
  deriving DecidableEq, Repr

/-- A tick after its snapshot (R296, R304): the fields of its record and its input block. -/
structure FusTick where
  seq : Nat
  /-- tick instant, tb64 -/
  at64 : Nat
  present : Nat := 0
  masked : Nat := 0
  late : Nat := 0
  oldest : Option (Nat × Int) := none
  conflicts : List Conflict := []
  block : Bytes := []
  reset : Bool := false
  /-- FUSION_RESETs that complete after this tick's record -/
  resetToks : List Tok := []
  cluster : Nat := 255
  plan : List PlanTask := []
  /-- what its inference produced, once every task has committed -/
  done : Option Work := none
  /-- the FUSION_STOP of a final tick (R317) -/
  final : Option Tok := none
  deriving DecidableEq, Repr

/-- A bound track (R312): its identity, row, the tick that made it NEW and its last record; `ends` is the end_cause with which it ends at
the next tick's records (R313, R314). -/
structure FusTrack where
  id : Nat
  row : Nat
  born : Nat
  last : Bytes := []
  ends : Option Nat := none
  deriving DecidableEq, Repr

/-- Fusion's registers and state. -/
structure Fusion where
  st : FusSt := .idle
  slot : Nat := 0xFF
  bounds : List Nat := [0x20000, 0x199A, 0xCCD, 0x8000, 0, 0]
  conflictRuns : Nat := 8
  createScore : Nat := 0
  keepScore : Nat := 0
  maxTracks : Nat := 0
  rows : Nat := 0
  phase : Nat := 0
  periodUs : Nat := 1000
  sensorMask : Nat := 0
  /-- next grid instant (tb64) and its tick_seq -/
  next : Nat := 0
  seq : Nat := 0
  runs : List PairRun := []
  running : Option FusTick := none
  waiting : Option FusTick := none
  /-- ticks skipped since the previous tick record -/
  skippedSince : Nat := 0
  /-- instants and counts of the ticks skipped in the last second -/
  skips : List (Nat × Nat) := []
  skipEvAt : Option Nat := none
  tracks : List FusTrack := []
  nextId : Nat := 1
  ckpt : List FusTrack := []
  /-- where the last forward step landed: grid instants up to it have no snapshot (R299) -/
  stepTo : Option Nat := none
  /-- FUSION_STOP (true) and FUSION_RESET fetched and waiting for a tick -/
  asked : List (Tok × Bool) := []
  masked : W32 := 0
  /-- instant (tb64) of the last snapshot taken (R308) -/
  lastTick : Option Nat := none
  lastSeq : Nat := 0
  ticks : W32 := 0
  skipped : W16 := 0
  discarded : W16 := 0
  conflictTicks : W32 := 0
  lateForTick : W16 := 0
  events : W16 := 0
  created : W32 := 0
  ended : W32 := 0
  deriving DecidableEq, Repr

/-! ### The fixed-point solver (spec/11) -/

/-- A problem's variable: its ID and kind. -/
structure SVar where
  id : Nat
  kind : Nat
  deriving DecidableEq, Repr

/-- A constraint entry (R339): `type` 0 anchor, 1 bound. -/
structure SCon where
  group : Nat
  type : Nat
  comp : Nat
  var : Nat
  lo : Int
  hi : Int
  deriving DecidableEq, Repr

/-- A variable's preconditioner block: the components it covers, j_v and the entries of M_v⁻¹ row by row (R338). -/
structure SPrec where
  comps : List Nat := []
  j : Nat := 0
  rows : List (List Int) := []
  deriving DecidableEq, Repr

/-- A loaded problem after conversion (R330-R340). Values are raw numbers in the formats of *Solver formats*; `rows` is
each variable's block row as (column variable, block); `fixed` gives each component's anchor value, `lo` and `hi` its
bounds; `flags` each variable's flag bits. -/
structure Problem where
  cls : Nat
  kinds : List (Nat × Nat × Nat)
  pivot : Nat
  vars : List SVar
  sig : Nat
  mm : List Nat
  gk : List Nat
  e : Nat
  gg : Nat
  rows : List (List (Nat × List (List Int)))
  b : List (List Int)
  cons : List SCon
  fixed : List (List (Option Int))
  bounds : List (List (Option (Int × Int)))
  prec : List SPrec
  flags : List Nat
  lifted : List Nat := []
  inputSat : Nat := 0
  mask : Nat := 0
  blockBytes : Nat := 0
  ipmBytes : Nat := 0
  deriving DecidableEq, Repr

/-- A retained solution (R328): signature, and for each variable its ID, s and values in Q(s).(63 − s). -/
structure Retained where
  sig : Nat
  vals : List (Nat × Nat × List Int)
  deriving DecidableEq, Repr

/-- Where a solve's loop stands: the phase whose round is awaited. -/
inductive SPhase where
  /-- waits for engines -/
  | waiting
  | setup
  | replace
  | sigma
  | update
  | restart
  deriving DecidableEq, Repr

/-- A solve under way (R341-R353). Vectors are by variable and component. -/
structure Solving where
  tok : Tok
  /-- the host buffer of the result; none where it goes inline (R78) -/
  dest : Option Nat := none
  cls : Nat := 1
  tolExp : Nat := 1
  maxIter : Nat := 1
  phase : SPhase := .waiting
  lead : Nat := 0
  parts : List (List Nat) := []
  roles : List (Nat × Nat) := []
  round : Nat := 0
  x : List (List Int) := []
  r : List (List Int) := []
  z : List (List Int) := []
  p : List (List Int) := []
  q : List (List Int) := []
  rho : Int := 0
  rhoB : Int := 0
  it : Nat := 0
  rangeRestarts : Nat := 0
  boundRestarts : Nat := 0
  satNow : Bool := false
  scalar : Nat := 0
  flags : Nat := 0
  varFlags : List Nat := []
  active : List (List (Option Int)) := []
  prec : List SPrec := []
  matched : Nat := 0
  unmatched : Nat := 0
  satVar : Option (Nat × Nat) := none
  placement : Nat := 0
  /-- model-area units of the partitions' vectors, by cluster -/
  area : List Nat := []
  /-- entries of M⁻¹ that saturated when a block was factored again (R338, R341) -/
  inputSat : Nat := 0
  /-- taken by ABORT_SQ: it ends at the next iteration boundary (R355) -/
  aborted : Bool := false
  deriving DecidableEq, Repr

/-- States of a problem slot (*Problem slot states*). -/
inductive PsSt where
  | empty | loading | ready | solving
  deriving DecidableEq, Repr

/-- A problem slot. -/
structure PSlot where
  st : PsSt := .empty
  prior : PsSt := .empty
  prob : Option Problem := none
  /-- the load under way: the problem with its completion and report -/
  next : Option (Problem × Cpl × Tok × Nat) := none
  solving : Option Solving := none
  retained : Option Retained := none
  report : Bytes := []
  /-- the problem's data was found uncorrectable while READY -/
  bad : Bool := false
  deriving DecidableEq, Repr

/-! ### The estimator and SAFE_SPI (spec/12) -/

/-- States of the estimator (*Estimator states*). -/
inductive EstSt where
  | off | deadReckoning | initialising | tracking | lost | baseMetal
  deriving DecidableEq, Repr

/-- A keyframe of the map: ID, tov, its pose (bytes 16-55 of *Pose record*) as committed, and the epoch in which that last
changed; 0 while no epoch holds it. -/
structure Keyframe where
  id : Nat
  tov : Nat
  pose : Bytes
  epoch : Nat := 0
  deriving DecidableEq, Repr

/-- An epoch that waits for its map tiles (R383, R384): its cause, loop constraints, moved poses, and the loop closures
to report. -/
structure EpochPend where
  cause : Nat
  poses : List (Nat × Bytes) := []
  loops : List (Nat × Nat × Nat) := []
  deriving DecidableEq, Repr

/-- An EST_START that waits for the record with which it takes effect (spec/02 R69, spec/12 R365): MAP_RELOCALISE, and the
position and yaw that it sets. -/
structure EstStart where
  tok : Tok
  reloc : Bool
  pos : Bytes
  yaw : Int
  deriving DecidableEq, Repr

/-- The estimator. `nav` and `sNav` are the states of the control complex and of the safety island: bytes 16-97 of a pose
record, then the biases. A loop constraint is (candidate, query, inliers). -/
structure Est where
  st : EstSt := .off
  cfg : Bytes := []
  pendingCfg : Option Bytes := none
  /-- configurations saved for profiles, in the bank in use and in the other one -/
  saved : List (Nat × Bytes) := []
  savedOld : List (Nat × Bytes) := []
  nav : Bytes := List.replicate 106 0
  sNav : Bytes := List.replicate 106 0
  /-- the IMU in use is the secondary; IMU_GAP; consecutive samples of the primary meanwhile -/
  secondary : Bool := false
  gap : Bool := false
  okRun : Nat := 0
  /-- accepted samples by sensor, latest first: instants and tovs (R369, R370) -/
  imu : List (Nat × List (Nat × Nat)) := []
  last : Bytes := []
  /-- instant of the last record written (spec/15 R483) -/
  wroteAt : Nat := 0
  lastTov : Option Nat := none
  poseSeq : W32 := 0
  corrSeq : W32 := 0
  newCorr : Bool := false
  jump : Bool := false
  source : Nat := 0
  timely : Nat := 0
  ccReady : Bool := true
  propCore : Nat := 0
  /-- the sample whose record the control complex has not written yet -/
  due : Option Sample := none
  updTov : Option Nat := none
  lastOk : Nat := 0
  failed : W16 := 0
  startToks : List EstStart := []
  /-- tov of the last record held back since a backward step (spec/04 R114) -/
  heldTov : Option Nat := none
  reloc : Bool := false
  queue : List Sample := []
  /-- position factors of the queue's GNSS samples: tov, and east, north and up in M in metres (R366) -/
  factors : List (Nat × Rat × Rat × Rat) := []
  /-- feature outputs committed: sensor and tov, place descriptors by tov, and that of the frame set under way -/
  bands : List (Nat × Nat) := []
  /-- those of frames that have a failed band (R286) -/
  spoilt : List (Nat × Nat) := []
  descrs : List (Nat × Bytes) := []
  descr : Bytes := []
  /-- depth factors: sensor, tov, pixel, disparity (R374) -/
  depths : List (Nat × Nat × Nat × Nat) := []
  /-- samples of the queue that no update or window BA has drawn on; those that the update under way, and the window BA, draw on -/
  unused : List Sample := []
  drawn : List Sample := []
  baDrawn : List Sample := []
  /-- samples of the IMU in use, for the propagation of corrections (R375) -/
  imuBuf : List Sample := []
  /-- the first 200 ms of a start: the instant it began and the primary IMU's records since (R365) -/
  level : Option (Nat × List Bytes) := none
  /-- cameras to bind once their earlier bindings have ended (R393) -/
  toBind : List Nat := []
  /-- tovs of the frame sets in the window, oldest first -/
  sets : List Nat := []
  /-- the update under way: whether GNSS's, and the tov of its newest measurement; GNSS samples that wait -/
  upd : Option (Bool × Nat) := none
  gnssWait : List Nat := []
  mapMade : Bool := false
  kfs : List Keyframe := []
  /-- poses of keyframes since taken, by ID, and the keyframes of the window, oldest first -/
  fresh : List (Nat × Nat × Bytes) := []
  window : List Nat := []
  nextKf : Nat := 0
  ba : Bool := false
  baAgain : Bool := false
  pg : List (Nat × Nat × Nat) := []
  pgQueue : List (Nat × Nat × Nat) := []
  /-- keyframes inserted in the local index, by node ID; those whose query is open, with their descriptors -/
  inserted : List Nat := []
  asked : List (Nat × Bytes) := []
  /-- place descriptors of the keyframes of the map -/
  kfDescrs : List (Nat × Bytes) := []
  /-- clusters that lead the frame update, the window BA and the pose graph (R322, R360) -/
  leads : List Nat := [0, 0, 0]
  /-- epochs committed by cause; those of the other problem when the window BA and the pose graph began (R382) -/
  commits : List Nat := [0, 0, 0]
  baFrom : Nat := 0
  pgFrom : Nat := 0
  /-- the keyframes of the window BA under way, the solution retained by the last and that which this one starts from (R378) -/
  baWindow : List Nat := []
  retained : Option (List (Nat × Bytes)) := none
  warm : Option (List (Nat × Bytes)) := none
  /-- the span of the pose graph: its oldest keyframe, which is anchored, and its newest (R382) -/
  pgSpan : Nat × Nat := (0, 0)
  commit : Option EpochPend := none
  /-- epochs that wait for the one under way -/
  nextCommit : List EpochPend := []
  epoch : Nat := 0
  /-- raises of h by problem and kind (R379) -/
  raises : List (List Nat) := [[0, 0, 0, 0, 0, 0], [0, 0, 0, 0, 0, 0], [0, 0, 0, 0, 0, 0]]
  /-- problems whose tasks have all committed -/
  ran : List Nat := []
  updates : W32 := 0
  updFail : W16 := 0
  lateDrop : W16 := 0
  keyframes : W32 := 0
  loops : W16 := 0
  raised : Byte := 0
  baFail : Byte := 0
  /-- instants of the last EV_EST_SOLVE by problem -/
  solveEvAt : List (Option Nat) := [none, none, none]
  deriving DecidableEq, Repr

/-- SAFE_SPI (R388-R390): what the next frame shows and what it waits for. -/
structure Spi where
  frames : W32 := 0
  bad : W16 := 0
  takeovers : W16 := 0
  crcErr : Bool := false
  busy : Bool := false
  ack : W32 := 0
  /-- a descriptor whose payload chunks are still to come: its opcode and itself, the bytes due and those received -/
  desc : Option (Op × Desc) := none
  due : Nat := 0
  got : Bytes := []
  /-- the response's pieces still to be acknowledged: completion first, then payload chunks -/
  resp : List Bytes := []
  deriving DecidableEq, Repr

/-! ### The Place Walker (spec/13) -/

/-- States of a walker (*Walker states*). -/
inductive WkSt where
  | gated | online | off | fenced
  deriving DecidableEq, Repr

/-- One walker; `back` is the WALKER_SET return whose Assay runs. -/
structure Walker where
  st : WkSt := .gated
  queries : W32 := 0
  deriving DecidableEq, Repr

/-- States of an index (*Index states*). -/
inductive IxSt where
  | empty | loading | ready | merging | lost
  deriving DecidableEq, Repr

/-- A graph version (R403, R409): its number, graph end, neighbour lists by node, entry points and holes. -/
structure GraphV where
  num : Nat := 0
  gEnd : Nat := 0
  lists : List (List Nat) := []
  entry : List Nat := []
  holes : List Nat := []
  deriving DecidableEq, Repr

/-- A merge under way (R409): its descriptor, and the cut. -/
structure MergeRun where
  tok : Option Tok
  idEnd : Nat
  te : Nat
  deriving DecidableEq, Repr

/-- A snapshot (R413): graph version, watermark, tombstone epoch, admission instant. -/
structure Snap where
  version : Nat
  gEnd : Nat
  wm : Nat
  te : Nat
  at64 : Nat
  deriving DecidableEq, Repr

/-- An index slot. Vectors and codes are by node ID; `tombs` are the tombstones with their epochs; `image` is what
INDEX_LOAD chunks have brought, with the total length. -/
structure PIndex where
  st : IxSt := .empty
  format : Nat := 0
  metric : Nat := 0
  deg : Nat := 0
  dim : Nat := 0
  codeBytes : Nat := 0
  fleet : Bool := false
  residency : Nat := 0
  proj : Bytes := []
  sideCap : Nat := 0
  idCap : Nat := 0
  vecs : List Bytes := []
  codes : List Bytes := []
  cur : GraphV := {}
  old : List GraphV := []
  tombs : List (Nat × Nat) := []
  te : Nat := 0
  merge : Option MergeRun := none
  drop : Option (Nat × Tok) := none
  image : Bytes := []
  total : Nat := 0
  high : Bool := false
  /-- the commits of the latest instant that had one: the instant, the descriptors fetched by then, and the snapshot just before (R413) -/
  commits : List (Nat × Nat × Snap) := []
  deriving DecidableEq, Repr

/-- Whose query it is: a descriptor's, the estimator's for a keyframe, or a fleet request's. -/
inductive PlaceOwner where
  | desc (tok : Tok)
  | loop (kf : Nat)
  | fleet (n : Nat)
  deriving DecidableEq, Repr

/-- The queries of one request (R395, R413, R420). -/
structure PlaceJob where
  id : Nat
  owner : PlaceOwner
  seq : Nat := 0
  index : Nat
  low : Bool := false
  exhaustive : Bool := false
  k : Nat
  rerank : Nat := 0
  len : Nat := 64
  maxExp : Nat := 0
  vecs : List Bytes
  snap : Option Snap := none
  /-- queries not yet admitted, in order -/
  waiting : List Nat := []
  done : List (Nat × Nat × Bytes) := []
  dest : Nat := 0
  deriving DecidableEq, Repr

/-- A context slot in use. -/
structure PlaceCtx where
  walker : Nat
  slot : Nat
  job : Nat
  query : Nat
  deriving DecidableEq, Repr

/-- The walkers, the indices, the queries and their counters. -/
structure Place where
  wk : List Walker := List.replicate 8 ({} : Walker)
  ix : List PIndex := List.replicate 16 ({} : PIndex)
  jobs : List PlaceJob := []
  ctx : List PlaceCtx := []
  nextJob : Nat := 0
  /-- finished jobs of the estimator and of the fleet, latest first -/
  ended : List (PlaceJob × Bool) := []
  queries : W32 := 0
  exhaustive : W32 := 0
  expansions : W64 := 0
  dangling : W32 := 0
  restarted : W16 := 0
  merges : W16 := 0
  frozen : Option (List W64) := none
  deriving DecidableEq, Repr

/-! ### The fleet (spec/14) -/

/-- Membership states (*Membership states*). -/
inductive FleetSt where
  | off | configured | enrolled | joined
  deriving DecidableEq, Repr

/-- States of a hosted shard (*Shard states*). -/
inductive ShSt where
  | absent | syncing | replica | primary | handingOver | claiming
  deriving DecidableEq, Repr

/-- How far a session has come: INIT sent, REPLY sent, open. -/
inductive SesSt where
  | inited | replied | opened
  deriving DecidableEq, Repr

/-- A session (R431-R435): this part's receive session ID, the peer's, the peer's DEV_ID (0xFFFF for the
administrator), who opened it, the 72 key bytes, the INIT that this part sent and its ephemeral decapsulation key until the REPLY comes,
datagrams sent (the next one's sequence), datagrams received, the highest sequence received and the set of received
ones above its window, and the instants of set-up and last use. `expire` ends an old session's keys. -/
structure Session where
  id : Nat
  peerId : Nat := 0
  peer : Nat := 0
  admin : Bool := false
  initiator : Bool := false
  st : SesSt := .inited
  keys : Bytes := []
  init : Option SxpHello := none
  eph : Bytes := []
  tx : Nat := 0
  rx : Nat := 0
  high : Option Nat := none
  seen : List Nat := []
  madeAt : Nat := 0
  usedAt : Nat := 0
  expire : Option Nat := none
  deriving DecidableEq, Repr

/-- A message being reassembled (R436): `bytes` is what its fragments so far hold of it. -/
structure Reasm where
  session : Nat
  msgId : Nat
  count : Nat
  got : List Nat := []
  bytes : Nat := 0
  firstAt : Nat
  msg : SxpMsg
  deriving DecidableEq, Repr

/-- A request sent and not answered (R436): its message and peer, its sends so far, the instants of the first and of the
next send, and the present wait; `sends` 0 while no session stands. -/
structure OutReq where
  msg : SxpMsg
  peer : Nat
  sends : Nat := 0
  firstAt : Nat := 0
  nextAt : Nat := 0
  wait : Nat := 0
  deriving DecidableEq, Repr

/-- A reply kept for repeats (R436). -/
structure KeptReply where
  src : Nat
  msgId : Nat
  msg : SxpMsg
  until_ : Nat
  deriving DecidableEq, Repr

/-- A publication at a primary, whole (R443, R444): its publisher, epochs, keyframes and the message that brought it. -/
structure PubIn where
  src : Nat
  mapEpoch : Nat
  prev : Nat
  items : List PubItem := []
  msgs : List SxpMsg := []
  deriving DecidableEq, Repr

/-- A revision whose publication is not acknowledged yet (R445): the requests to answer and the holders that have
acknowledged it. -/
structure AckWait where
  num : Nat
  mapEpoch : Nat
  msgs : List SxpMsg := []
  got : List Nat := []
  deriving DecidableEq, Repr

/-- A hosted shard (*Shard states*): its index slot, residency, side capacity, latest revision, the last 4,096 revisions
(latest first), nodes, watermarks by publisher, publications that wait, acknowledgements awaited, the last known state
codes of its other holders, and the handover, promotion or claim under way. -/
structure Hosted where
  shard : Nat
  st : ShSt := .syncing
  slot : Nat := 0
  rev : Nat := 0
  revs : List Revision := []
  nodes : List ShardNode := []
  marks : List (Nat × Nat) := []
  pubs : List PubIn := []
  acks : List AckWait := []
  peers : List (Nat × Nat) := []
  fullSync : Bool := false
  /-- the sync's latest known revision of the primary -/
  target : Nat := 0
  /-- SHARD_HANDOVER: descriptor, successor and end of its time -/
  handing : Option (Tok × Nat × Nat) := none
  /-- a HANDOVER_REQ taken as successor, waiting for the primary's latest revision -/
  taking : Option (SxpMsg × Nat) := none
  /-- CLAIMING: end of the 200 ms, holders not heard, and the SHARD_PROMOTE -/
  claimEnd : Nat := 0
  unheard : List Nat := []
  promote : Option Tok := none
  deriving DecidableEq, Repr

/-- What this part has published to one shard (R442, R443): the last map epoch sent, the keyframes the shard
holds of it after that, and the publication that is not acknowledged: its epoch, first send, message numbers, and whether EV_PUBLISH_LATE
was posted for it. -/
structure PubOut where
  shard : Nat
  last : Nat := 0
  known : List Nat := []
  out : Option Nat := none
  firstAt : Nat := 0
  msgIds : List Nat := []
  late : Bool := false
  deriving DecidableEq, Repr

/-- One shard of a FLEET_QUERY (R446-R449): holders in the order asked, the next to ask, message numbers in use, the end
of the present holder's time, and its answer. -/
structure QShard where
  shard : Nat
  holders : List Nat
  asked : Nat := 0
  msgIds : List Nat := []
  deadline : Nat := 0
  answer : Option (List (Nat × List FleetEnt)) := none
  missing : Bool := false
  deriving DecidableEq, Repr

/-- A FLEET_QUERY under way. -/
structure FleetQ where
  id : Nat
  tok : Tok
  dest : Nat := 0
  k : Nat
  n : Nat
  rerank : Nat
  len : Nat
  timeoutMs : Nat
  vecs : List Bytes := []
  shards : List QShard := []
  formatBad : Bool := false
  rerouted : Bool := false
  scattered : Nat := 0
  deriving DecidableEq, Repr

/-- The fleet's settings, sessions, shards and counters. -/
structure Fleet where
  st : FleetSt := .off
  /-- the body of FLEET_CONFIG in force (descriptor bytes 24-63) -/
  cfg : Bytes := List.replicate 40 0
  /-- FLEET_ENROL: the authority key received last, the two items as their chunks come, and the enrolment in force: authority key and
  certificate -/
  auth : Bytes := []
  authIn : Bytes := []
  certIn : Bytes := []
  enrolment : Option (Bytes × Bytes) := none
  /-- T_F_M: translation and rotation (FLEET_FRAME) -/
  frame : Bytes := List.replicate 24 0 ++ leBytes 4 0x40000000 ++ List.replicate 12 0
  /-- the shard table's 64-byte entries, and the one being loaded -/
  table : List Bytes := []
  tableIn : List Bytes := []
  hosted : List Hosted := []
  pubs : List PubOut := []
  /-- SXP uses the alternate port (R428) -/
  alt : Bool := false
  sessions : List Session := []
  reasm : List Reasm := []
  /-- parts of messages whose set is not whole (R443) -/
  parts : List SxpMsg := []
  /-- whole messages that wait for their command, oldest first -/
  inbox : List SxpMsg := []
  /-- requests taken and not answered yet, by sender and message number -/
  taken : List (Nat × Nat) := []
  reqs : List OutReq := []
  kept : List KeptReply := []
  nextMsg : Nat := 1
  nextSession : Nat := 1
  queries : List FleetQ := []
  nextQuery : Nat := 0
  /-- fleet-service queries being run for other parts: number and request (R447) -/
  serving : List (Nat × SxpMsg) := []
  nextServe : Nat := 0
  /-- admin descriptors under way: count and message number; those whose session has closed (R436) -/
  adminMsgs : List (W32 × Nat) := []
  orphans : List W32 := []
  refusedAt : Option Nat := none
  rtoMs : W16 := 20
  skewMs : W16 := 2000
  replAck : BitVec 3 := 1
  publishTmoS : Byte := 10
  rx : W32 := 0
  tx : W32 := 0
  authFail : W16 := 0
  hsFail : W16 := 0
  skew : W16 := 0
  resend : W16 := 0
  served : W32 := 0
  bounceSent : W16 := 0
  bounceRecv : W16 := 0
  revisions : W32 := 0
  publishDup : W16 := 0
  shardMissing : W16 := 0
  frozen : Option (List W64) := none
  deriving DecidableEq, Repr

/-! ### Trust and field update (spec/16) -/

/-- States of the update machine (*Update states*). -/
inductive UpdSt where
  | idle | staging | staged | unstaging | activating | trial | fallingBack | recovery
  deriving DecidableEq, Repr

/-- The package that the part runs as it leaves the factory: version 4.2.0.17, svn 11, settings format 6, ABI majors 1-3
(DESIGN CHOICE, notes/assumptions/24.md); its body is not kept. -/
def factoryPackage : Bytes :=
  let entry (k : Nat) : Bytes := padTo 128 (leBytes 8 k ++ leBytes 8 4096 ++ leBytes 8 16 ++ leBytes 8 0x0004000200000011)
  padTo 4096 (padTo 64 (leBytes 4 0x58505653 ++ leBytes 2 1 ++ [7, 1] ++ leBytes 8 4096 ++ leBytes 8 0x0004000200000011
    ++ [11, 0, 0, 0xB0] ++ leBytes 2 settingsFmt ++ leBytes 2 settingsFmt ++ [0x0E])
    ++ (List.range 7).flatMap fun k => entry (k + 1))

/-- Hallmark and the loader. `active` and `retained` are the packages in flash. A staging holds its descriptor, the
package, and how far it has come: 0 checking, 1 copying to the retained slot, 2 writing the active slot. -/
structure Trust where
  st : UpdSt := .idle
  active : Bytes := factoryPackage
  retained : Bytes := []
  retainedValid : Bool := false
  staging : Option (Tok × Bytes × Nat) := none
  /-- the file name of the staging under way -/
  stageName : Bytes := []
  cancels : List Tok := []
  reverts : List Tok := []
  /-- what the fallback under way was caused by; a package copied over the active slot -/
  cause : Nat := 0
  unreadable : Bool := false
  ownerNeeded : Bool := false
  ownerPending : Bool := false
  confirmS : Nat := 0
  timerEnd : Option Nat := none
  actTok : Option Tok := none
  acceptTok : Option Tok := none
  /-- the trial began from RECOVERY (R510); or the staging from RECOVERY -/
  fromRecovery : Bool := false
  /-- the package whose image runs; empty while the loader runs (R510) -/
  running : Bytes := factoryPackage
  /-- instant at which the pause began (R501) -/
  pauseAt : Nat := 0
  /-- the other bank's fleet settings (R502, R504, R505) -/
  oldFleet : Option Fleet := none
  /-- settings formats of the bank in use and of the other one -/
  bankFmt : Nat := settingsFmt
  otherFmt : Option Nat := none
  floor : Byte := 11
  revoked : BitVec 4 := 0
  fleetKey : Option (Bytes × Bytes) := none
  /-- the report held: its nonce and bytes -/
  report : Option (Bytes × Bytes) := none
  bootCount : W64 := 0
  security : Bool := false
  loaderOk : Bool := true
  activations : W16 := 0
  fallbacks : W16 := 0
  violations : W16 := 0
  attests : W16 := 0
  frozen : Option (List W64) := none
  deriving DecidableEq, Repr

/-! ### Supply, clocks and package (spec/17) -/

/-- Readings, the two loops and the environment conditions. Power in units of 10 mW. -/
structure Pw where
  envW : Nat := 0
  vinMv : Nat := 0
  iinMa : Nat := 0
  mean1 : Nat := 0
  mean100 : Nat := 0
  tj : Int := 0
  sensor : Nat := 0
  /-- instants of the last turn of each loop -/
  powerAt : Option Nat := none
  thermAt : Option Nat := none
  /-- VSEL straps as latched (R519) -/
  vsel : BitVec 6 := 0
  /-- instant of the last clock step of all, and of each cluster; which loop lowered each cluster last, 0 power, 1 thermal -/
  stepAt : Option Nat := none
  clStepAt : List (Option Nat) := List.replicate 6 none
  why : List Nat := List.replicate 6 0
  /-- instant since which the reading has stayed 3 °C below the throttle threshold (R524) -/
  coolSince : Option Nat := none
  /-- instants of the last EV_THROTTLE by cluster (R525) -/
  evAt : List (Option Nat) := List.replicate 6 none
  /-- a condition of *Environment faults* is present -/
  env : Bool := false
  steps : W32 := 0
  limitedMs : Nat := 0
  limitedS : W16 := 0
  envFaults : W16 := 0
  frozen : Option (List W64) := none
  deriving DecidableEq, Repr

/-! ### The whole part -/

/-- The registers of the host interface that the ABI lock guards (R29-R31). -/
structure Iface where
  abiReq : Byte := 0
  actMajor : Byte := 0
  actMinor : Byte := 0
  actResult : BitVec 2 := 0
  /-- a negotiation in progress: the requested major and the instant of the write -/
  negotiating : Option (Byte × Nat) := none
  admSqBase : W64 := 0
  admCqBase : W64 := 0
  admSqLog2 : BitVec 5 := 4
  admCqLog2 : BitVec 5 := 4
  admEnable : Bool := false
  evrBase : W64 := 0
  evrLog2 : BitVec 5 := 6
  evrEnable : Bool := false
  deriving DecidableEq, Repr

/-- Everything of the part but the host interface's ABI-locked registers. -/
structure Dev where
  /-- reference time in ns since the end of the power-up reset (notes/assumptions/1.md) -/
  now : Nat := 0
  part : PartSt := .starting
  start : StartSt := .released
  /-- VIN is up, RESET_N is low, a thermal trip holds the reset (R101, R517, R528) -/
  vinUp : Bool := true
  resetLow : Bool := false
  tripped : Bool := false
  /-- end of the last full reset -/
  resetEnd : Nat := 0
  /-- 0 grade C, 1 grade I (R1) -/
  grade : Nat := 0
  serial : W64 := 0
  /-- instant since which no enabled cluster is busy (R65) -/
  idleSince : Option Nat := none
  hif : Hif := {}
  own : Own := {}
  prof : Prof := {}
  time : Time := {}
  eth : List EthPort := List.replicate 4 ({} : EthPort)
  /-- the switch's queues towards the control complex and towards lidar ingress, by priority code point (spec/04 R123) -/
  ethInt : List (List (List EthFrame)) := List.replicate 2 (List.replicate 8 [])
  sens : Sens := {}
  vision : Vision := {}
  ts : List TsUnit := List.replicate 12 ({} : TsUnit)
  /-- the stores of *Device address map* (R229), in the canonical form of host memory -/
  dmem : List Host.Cell := []
  comp : Comp := {}
  ipm : Ipm := {}
  nvme : Nvme := {}
  tier : Tier := {}
  flt : Flt := {}
  neural : Neural := {}
  card : Card := {}
  fusion : Fusion := {}
  solver : List PSlot := List.replicate 32 ({} : PSlot)
  place : Place := {}
  est : Est := {}
  spi : Spi := {}
  trust : Trust := {}
  fleet : Fleet := {}
  pw : Pw := {}
  /-- what the part has sent out, latest first (the model's own field) -/
  out : List Emission := []
  /-- channels whose rings may have a completion to write (the model's own field) -/
  kick : List Chan := []
  /-- uses of free values so far (the model's own field) -/
  free : Nat := 0
  deriving DecidableEq, Repr

/-- The state of the block: the ABI-locked registers, the rest of the part, and the commands waiting. -/
structure State where
  iface : Iface := {}
  dev : Dev := {}
  pending : List Instr := []
  deriving DecidableEq, Repr

/-- The machine right after reset. -/
def State.reset : State := {}

end Sys2Proof.Machine
end

