-- ==== Sys2Proof/Machine/Ops.lean ====
section
/-! DEFINITION. The shared operations: byte strings, host memory, channels, events, interrupts, completions and
stream records (spec/02). -/

namespace Sys2Proof.Machine

/-! ### Lists in order -/

/-- `x` in a list in order, before what it does not follow. -/
def putInOrder {α : Type} (le : α → α → Bool) (x : α) : List α → List α
  | [] => [x]
  | y :: r => if le x y then x :: y :: r else y :: putInOrder le x r

/-- A list in the order of `le`; what `le` holds equal stays as it stood. -/
def inOrder {α : Type} (l : List α) (le : α → α → Bool) : List α := l.foldr (putInOrder le) []

/-! ### Counts over the last second -/

/-- The entries (instant, count) of a list that lie in the last second, with `n` more at this instant. -/
def Dev.tally (d : Dev) (n : Nat) (l : List (Nat × Nat)) : List (Nat × Nat) :=
  (d.now, n) :: l.filter fun a => decide (d.now < a.1 + sNs)

/-- What a list of (instant, count) counts. -/
def counted (l : List (Nat × Nat)) : Nat := (l.map (·.2)).sum

/-! ### Descriptor body (R12, R45) -/

end Sys2Proof.Machine

namespace Sys2Proof

/-- Bytes lo … lo+n-1 of a descriptor, 24 ≤ lo, read little-endian. -/
def Desc.f (d : Desc) (lo n : Nat) : Nat := Machine.fld d.body (lo - 24) n

/-- One byte of a descriptor's body. -/
def Desc.u8 (d : Desc) (lo : Nat) : Nat := d.f lo 1

/-- Bytes lo … lo+n-1 of a descriptor as bytes. -/
def Desc.bytes (d : Desc) (lo n : Nat) : Bytes := Machine.sliceAt d.body (lo - 24) n

/-- Every body byte outside the listed ranges (first, count) is zero (R12). -/
def Desc.onlyUses (d : Desc) (ranges : List (Nat × Nat)) : Bool :=
  (List.range 40).all fun i =>
    ranges.any (fun r => decide (r.1 ≤ i + 24 ∧ i + 24 < r.1 + r.2)) || d.body.getD i 0 == 0

/-- The class of an opcode: bits [11:8] (*Opcode classes*). -/
def Op.cls (o : Op) : Nat := o.code / 256

end Sys2Proof

namespace Sys2Proof.Machine

/-! ### Host memory, in canonical form: addresses rising, no listed byte 0 -/

/-- What an address nothing has written reads as (notes/assumptions/4.md). -/
def memDefault : Byte := 0

/-- The byte at an address. -/
def memGet (m : List Host.Cell) (a : Nat) : Byte :=
  match m.find? (fun c => c.1 == a) with
  | some c => c.2
  | none => memDefault

/-- One byte written. -/
def memPut (a : Nat) (b : Byte) : List Host.Cell → List Host.Cell
  | [] => if b = memDefault then [] else [(a, b)]
  | (x, v) :: r =>
    if a < x then (if b = memDefault then (x, v) :: r else (a, b) :: (x, v) :: r)
    else if a = x then (if b = memDefault then r else (a, b) :: r)
    else (x, v) :: memPut a b r

/-- Bytes written from an address up. -/
def memWrite (a : Nat) : Bytes → List Host.Cell → List Host.Cell
  | [], m => m
  | b :: r, m => memWrite (a + 1) r (memPut a b m)

/-- Bytes read from an address up. -/
def memRead (m : List Host.Cell) (a n : Nat) : Bytes := (List.range n).map fun i => memGet m (a + i)

/-- The canonical form: addresses strictly rising and no entry equal to the default. -/
def Memory.wf : List Host.Cell → Bool
  | [] => true
  | [c] => c.2 != memDefault
  | c :: c' :: r => c.2 != memDefault && decide (c.1 < c'.1) && Memory.wf (c' :: r)

/-! ### Parts of the state -/

/-- The time base as tb64 (R6). -/
def Dev.tb64 (d : Dev) : Nat := d.time.tb / 65536

/-- The host can be written: the link is up and bus mastering is enabled (R535). -/
def Dev.canWrite (d : Dev) : Bool := d.hif.linkUp && d.hif.busMaster

/-- A PCIe posted write: discarded where it cannot be issued (R535). -/
def hostWrite (a : Nat) (b : Bytes) (d : Dev) : Dev :=
  if d.canWrite then { d with hif := { d.hif with mem := memWrite a b d.hif.mem } } else d

/-- Something sent out of the part. -/
def emit (e : Emission) (d : Dev) : Dev := { d with out := e :: d.out }

/-- The ring of a channel (R77). -/
def Hif.chan (h : Hif) : Chan → SubRing
  | .sq n => h.sq.getD n {}
  | .i3c => h.i3c
  | .safeSpi => h.safeSpi
  | .net => h.net

/-- A channel's ring changed. -/
def Hif.setChan (h : Hif) (f : SubRing → SubRing) : Chan → Hif
  | .sq n => { h with sq := upd h.sq n f }
  | .i3c => { h with i3c := f h.i3c }
  | .safeSpi => { h with safeSpi := f h.safeSpi }
  | .net => { h with net := f h.net }

/-- The ring of a channel. -/
def Dev.chan (d : Dev) (c : Chan) : SubRing := d.hif.chan c

/-- A channel's ring changed. -/
def Dev.setChan (d : Dev) (c : Chan) (f : SubRing → SubRing) : Dev :=
  { d with hif := d.hif.setChan f c }

/-- A completion ring changed. -/
def Dev.setCq (d : Dev) (n : Nat) (f : CqRing → CqRing) : Dev :=
  { d with hif := { d.hif with cq := upd d.hif.cq n f } }

/-- A completion ring. -/
def Dev.cq (d : Dev) (n : Nat) : CqRing := d.hif.cq.getD n {}

/-- The next free value: the spec states no value here (notes/assumptions/3.md). -/
def Dev.freeVal (d : Dev) : Nat := Config.freeValue d.free

/-- A free value has been used. -/
def Dev.useFree (d : Dev) : Dev := { d with free := d.free + 1 }

/-! ### Interrupts (R75, R76) -/

/-- A vector's message: sent, or its pending bit set while it is masked (R76). -/
def msixSend (v : Nat) (d : Dev) : Dev :=
  let e := d.hif.msix.getD v {}
  if e.masked then
    { d with hif := { d.hif with msix := upd d.hif.msix v fun e => { e with pendingBit := true } } }
  else if d.canWrite then emit (.msix v) (hostWrite e.addr.toNat (leBytes 4 e.data.toNat) d) else d

/-! ### Events (R58, R59, R103) -/

/-- Slots of a ring that hold entries not yet released. -/
def used (head tail log2 : Nat) : Nat := (tail + 2 ^ log2 - head) % 2 ^ log2

/-- A ring of 2^log2 entries that holds its N − 1 (R35). -/
def ringFull (head tail log2 : Nat) : Bool := decide (2 ^ log2 ≤ used head tail log2 + 1)

/-- An entry's 32 bytes with its phase (R58). -/
def Event.entry (e : Event) (phase : Bool) : Bytes :=
  leBytes 8 e.time.toNat ++ leBytes 2 e.code.toNat ++ [e.source, e.severity] ++ leBytes 4 e.unit.toNat
    ++ padTo 14 e.detail ++ [0, BitVec.ofNat 8 (bit phase)]

/-- HIF_EVT_PEND's bit of an event's class (R59; spec/15 and spec/16, first paragraphs). -/
def Event.pend (e : Event) : BitVec 4 :=
  if e.source = 0 then 1 else if e.source = 14 then 2 else if e.source = 15 then 4 else 0

/-- An event written into the ring, which has room (R58). -/
def evWrite (e : Event) (d : Dev) : Dev :=
  let r := d.hif.evr
  let d := hostWrite (r.base + 32 * r.tail) (e.entry r.phase) d
  let t := (r.tail + 1) % 2 ^ r.log2
  msixSend 0 { d with hif := { d.hif with
    evtPend := d.hif.evtPend ||| e.pend,
    evr := { r with tail := t, phase := if t = 0 then !r.phase else r.phase } } }

/-- An event that cannot be kept: counted in EVR_LOST and shown in HIF_EVT_PEND.LOST (R59, R103). -/
def evLose (d : Dev) : Dev :=
  { d with hif := { d.hif with
    evrLost := satInc d.hif.evrLost,
    evtPend := d.hif.evtPend ||| 8,
    evr := { d.hif.evr with lost := d.hif.evr.lost + 1 } } }

/-- EV_EVENTS_LOST, with its count. -/
def Dev.evLost (d : Dev) (n : Nat) : Event :=
  { time := BitVec.ofNat 64 d.tb64, code := 0x0004, source := 0, severity := 1, detail := leBytes 4 (min n (2 ^ 32 - 1)) }

/-- EV_EVENTS_LOST goes before any later event once a slot is free (R59). -/
def evFlushLost (d : Dev) : Dev :=
  let r := d.hif.evr
  if r.lost = 0 || ringFull r.head r.tail r.log2 then d else
  evWrite (d.evLost r.lost) { d with hif := { d.hif with evr := { r with lost := 0 } } }

/-- An event arises: posted, held while the ring is not enabled (R103), or lost (R59). -/
def evPost (e : Event) (d : Dev) : Dev :=
  if d.hif.evr.on then
    let d := evFlushLost d
    let r := d.hif.evr
    if ringFull r.head r.tail r.log2 || decide (0 < r.lost) then evLose d else evWrite e d
  else if d.hif.evr.held.length < 64 then
    { d with hif := { d.hif with evr := { d.hif.evr with held := d.hif.evr.held ++ [e] } } }
  else evLose d

/-- An event of a code, with its severity and detail; its source is the code's high byte unless the chapter
numbers the block otherwise. -/
def ev (code severity : Nat) (detail : Bytes) (d : Dev) : Dev :=
  evPost { time := BitVec.ofNat 64 d.tb64, code := BitVec.ofNat 16 code, source := BitVec.ofNat 8 (code / 256),
           severity := BitVec.ofNat 8 severity, detail := detail } d

/-- An event of a block whose number is not the code's high byte, with its unit. -/
def evFrom (source unit code severity : Nat) (detail : Bytes) (d : Dev) : Dev :=
  evPost { time := BitVec.ofNat 64 d.tb64, code := BitVec.ofNat 16 code, source := BitVec.ofNat 8 source,
           severity := BitVec.ofNat 8 severity, unit := BitVec.ofNat 32 unit, detail := detail } d

/-- The detail bytes 16-29 of an event from values at their offsets: (offset, bytes). -/
def det (l : List (Nat × Bytes)) : Bytes :=
  padTo 14 (l.foldl (fun b p => putAt b (p.1 - 16) p.2) (List.replicate 14 0))

/-! ### Completions (R51, R52, R56, R67, R75, R77) -/

/-- The 32-byte completion entry (*Completion entry*). -/
def Cpl.entry (c : Cpl) (hostTag count sqHead sqId : Nat) (phase : Bool) : Bytes :=
  leBytes 4 hostTag ++ leBytes 4 count ++ leBytes 2 sqHead ++ [BitVec.ofNat 8 sqId, c.status]
    ++ leBytes 2 c.stateCode.toNat ++ leBytes 2 c.flags.toNat ++ leBytes 8 c.result0.toNat
    ++ leBytes 4 c.result1.toNat ++ [0, 0, 0, BitVec.ofNat 8 (bit phase)]

/-- One more entry of a batch; the message follows the entry that completes it (R75). -/
def coalesce (n : Nat) (d : Dev) : Dev :=
  let q := d.cq n
  let b := q.batch + 1
  if max q.coalCount 1 ≤ b then msixSend q.vector (d.setCq n fun q => { q with batch := 0 })
  else d.setCq n fun q => { q with batch := b, batchAt := if q.batch = 0 then d.now else q.batchAt }

/-- A completion ring's slot written: tail and phase advance, EV_CQ_FULL once when it becomes full (R52, R56). -/
def cqAdvance (n : Nat) (d : Dev) : Dev :=
  let d := d.setCq n fun q =>
    let t := (q.tail + 1) % 2 ^ q.log2
    { q with tail := t, phase := if t = 0 then !q.phase else q.phase }
  let q := d.cq n
  if ringFull q.head q.tail q.log2 && q.st == .active && !q.fullPosted then
    ev 0x0002 0 (det [(16, [BitVec.ofNat 8 n])]) (d.setCq n fun q => { q with fullPosted := true })
  else d

/-- The status is 0x10 or higher (R46). -/
def Cpl.status16 (c : Cpl) : Bool := decide (0x10 ≤ c.status.toNat)

/-- A descriptor's completion written on its channel, payload first (R69, R77, R78), with its status kept for those that depend on its
count, until the count comes again (R46). The admin session's counts run from its
opening, which `base` holds for its channel; a completion of a closed session's descriptor is discarded (R436). -/
def writeCpl (ch : Chan) (p : Pend) (c : Cpl) (d : Dev) : Dev :=
  let r := d.chan ch
  let d := d.setChan ch fun r => { r with failed := if c.status16 then p.count :: r.failed else r.failed.filter (· != p.count) }
  match ch with
  | .sq n =>
    let q := d.cq r.cq
    let d := match c.dest with
      | some a => hostWrite a c.payload d
      | none => d
    let d := hostWrite (q.base + 32 * q.tail) (c.entry p.d.hostTag.toNat p.count.toNat r.head n q.phase) d
    let d := cqAdvance r.cq d
    if p.d.irq then coalesce r.cq d else d
  | _ =>
    let since (n : W32) : Nat := (n - BitVec.ofNat 32 r.base).toNat
    if ch = .net && d.fleet.orphans.contains p.count then
      { d with fleet := { d.fleet with orphans := d.fleet.orphans.filter (· != p.count) } }
    else
      let e := c.entry p.d.hostTag.toNat (since p.count) (since r.nextCount % 65536) 0 false ++ c.payload
      let d := d.setChan ch fun r => { r with replies := r.replies ++ [e] }
      if ch = .i3c && !d.hif.smbus then emit .ibi d else d

/-- The descriptor's completion waits to be written. -/
def Stage.ended : Stage → Bool
  | .finished _ => true
  | _ => false

/-- A descriptor's work has ended with a completion: it waits for its place in the ring order (R67). A
descriptor that the ring no longer holds as under way is left alone. -/
def finish (t : Tok) (c : Cpl) (d : Dev) : Dev :=
  let d := d.setChan t.ch fun r => { r with pend := r.pend.map fun p =>
    if p.count = t.count && (p.stage == .running || p.stage == .committed) then { p with stage := .finished c } else p }
  { d with kick := t.ch :: d.kick }

/-- A fetched descriptor ends with a completion, whatever holds it. One whose completion waits keeps it. -/
def endTok (t : Tok) (c : Cpl) (d : Dev) : Dev :=
  let d := d.setChan t.ch fun r => { r with pend := r.pend.map fun p =>
    if p.count = t.count && !p.stage.ended then { p with stage := .finished c } else p }
  { d with kick := t.ch :: d.kick }

/-- A running descriptor passes its commit point (R43). -/
def commitPoint (t : Tok) (d : Dev) : Dev :=
  d.setChan t.ch fun r => { r with pend := r.pend.map fun p =>
    if p.count = t.count && p.stage == .running then { p with stage := .committed, past := true } else p }

/-- The descriptor of a token, where its ring still holds it under way. -/
def Dev.pendOf (d : Dev) (t : Tok) : Option Pend :=
  (d.chan t.ch).pend.find? fun p => p.count = t.count && (p.stage == .running || p.stage == .committed)

/-- A running descriptor's work is done: its effects wait for its place in the ring order and for room (R50, R52, R67). -/
def stageTok (t : Tok) (d : Dev) : Dev :=
  if !(d.pendOf t).any (fun p => p.stage == .running) then d else
  let d := d.setChan t.ch fun r => { r with pend := r.pend.map fun p =>
    if p.count = t.count && p.stage == .running then { p with stage := .staged } else p }
  { d with kick := t.ch :: d.kick }

/-- The descriptor of a token, where its ring still holds it with no completion. -/
def Dev.openOf (d : Dev) (t : Tok) : Option Pend :=
  (d.chan t.ch).pend.find? fun p => p.count = t.count && !p.stage.ended

/-- Every descriptor channel. -/
def channels : List Chan := (List.range 64).map Chan.sq ++ [.i3c, .safeSpi, .net]

/-- A descriptor of an opcode that names unit `u` in its byte 24, fetched before number `seq`, has not started yet. -/
def Dev.startsYet (d : Dev) (op : Op) (u seq : Nat) : Bool :=
  channels.any fun ch => (d.chan ch).pend.any fun p =>
    p.op == op && p.d.u8 24 == u && decide (p.seq < seq) && (p.stage == .held || p.stage == .ready)

/-- Cluster work, which starts at the instant at which the first engine begins it (R132). -/
def clusterWork (o : Op) : Bool := o == .infer || o == .solve

/-- A timed descriptor's start: counted where it comes later than launch_at + 2 µs, and kept for one whose launch moved (R132, R135). -/
def launchBegins (t : Tok) (p : Pend) (d : Dev) : Dev :=
  let d := if p.launch + 2 * usNs < d.tb64 then { d with time := { d.time with late := satInc d.time.late } } else d
  let go (q : Pend) : Pend :=
    if q.count = p.count then { q with begun := true, launch := if p.moved != 0 then d.tb64 else q.launch } else q
  d.setChan t.ch fun r => { r with pend := r.pend.map go }

/-- The descriptor is still under way. -/
def Dev.live (d : Dev) (t : Tok) : Bool := (d.pendOf t).isSome

/-! ### Streams (R37, R38, R53, R71, R114, R156, R536) -/

/-- The completion ring that the active profile's stream_route gives a stream (R91). -/
def routeOf (rec : Bytes) (id : Nat) : Option Nat :=
  ((List.range (min (fld rec 53 1) 16)).find? fun i => fld rec (56 + 4 * i) 2 == id).map
    fun i => fld rec (58 + 4 * i) 1

/-- A stream's numbering. -/
def Dev.stream (d : Dev) (id : Nat) : Stream := (d.hif.streams.find? fun s => s.id == id).getD { id := id }

/-- A stream's numbering replaced. -/
def Dev.setStream (d : Dev) (s : Stream) : Dev :=
  { d with hif := { d.hif with streams := s :: d.hif.streams.filter fun x => x.id != s.id } }

/-- A stream starts: its record_seq restarts at 0 (R536). Drops that no entry has reported yet stay to be reported, and a run of
drops goes on (R53). -/
def streamStart (id : Nat) (d : Dev) : Dev :=
  let s := d.stream id
  d.setStream { s with seq := 0 }

/-- The 32-byte stream record entry (*Stream record entry*). -/
def streamEntry (tov seq len id dropped : Nat) (phase : Bool) : Bytes :=
  leBytes 8 tov ++ leBytes 4 seq ++ leBytes 2 len ++ leBytes 2 id ++ leBytes 4 dropped
    ++ List.replicate 11 0 ++ [BitVec.ofNat 8 (bit phase)]

/-- A record's tov does not exceed the last one sent, and it does not belong to that record's event (R114, R536); before the first
record there is no last one. -/
def Stream.stale (s : Stream) (tov : Nat) (same : Bool) : Bool :=
  match s.lastTov with
  | some last => decide (tov ≤ last.toNat) && !(same && tov == last.toNat)
  | none => false

/-- A stream produces a record. It takes the next record_seq whether it is written or dropped; one whose routed ring is not in STREAM
state takes none and is counted nowhere (DESIGN CHOICE, notes/assumptions/35.md). It is dropped when
its tov does not exceed the last one sent, unless it belongs to that record's event (R114), when it does not fit
the slot, or when the ring is full (R53). In base-metal mode every stream but the pose stream has stopped (R477). `same` says that it belongs to the event of the record before it. -/
def streamRecord (id : Nat) (tov : Nat) (same : Bool) (rec : Bytes) (d : Dev) : Dev :=
  if d.part == .baseMetal && id != 0x0510 then d else
  match routeOf d.prof.active id with
  | none => d
  | some n =>
    let q := d.cq n
    if q.st != .stream then d else
    let s := d.stream id
    let drop := d.setStream { s with seq := s.seq + 1, dropped := s.dropped + 1 }
    if s.stale tov same then drop
    else if 2 ^ q.recLog2 < rec.length then { drop with hif := { drop.hif with streamDrop := satInc drop.hif.streamDrop } }
    else if ringFull q.head q.tail q.log2 then
      let d := d.setStream { s with seq := s.seq + 1, dropped := s.dropped + 1, overrun := true }
      let d := { d with hif := { d.hif with streamDrop := satInc d.hif.streamDrop } }
      if s.overrun then d else ev 0x0003 1 (det [(16, [BitVec.ofNat 8 n]), (17, leBytes 2 id)]) d
    else
      let d := d.setStream { s with seq := s.seq + 1, dropped := 0, overrun := false, lastTov := some (BitVec.ofNat 64 tov) }
      let d := hostWrite (q.recBase + 2 ^ q.recLog2 * q.tail) (padTo (2 ^ q.recLog2) rec) d
      let d := hostWrite (q.base + 32 * q.tail)
        (streamEntry tov s.seq.toNat rec.length id s.dropped.toNat q.phase) d
      coalesce n (cqAdvance n d)

/-! ### Clocks and the profile in force -/

/-- A field of the record in force (*Profile record*). -/
def Dev.pf (d : Dev) (lo n : Nat) : Nat := fld d.prof.active lo n

/-- Field `lo` of sensor map entry `i` in the record in force (R140). -/
def Dev.se (d : Dev) (i lo n : Nat) : Nat := fld d.prof.active (512 + 112 * i + lo) n

end Sys2Proof.Machine
end

