-- ==== Sys2Proof/Machine/Flags.lean ====
section
/-! DEFINITION. Status codes (spec/02 R63) and the shared computations: rounding and saturation (spec/05 R147)
and the check values of the Touchstone units (spec/15 R473). -/

namespace Sys2Proof.Machine

/-! ### Status codes (*Status codes*) -/

def stOk : Byte := 0x00
def stOkFlagged : Byte := 0x01
def stStateConflict : Byte := 0x10
def stNotOwner : Byte := 0x11
def stBadDescriptor : Byte := 0x12
def stVersion : Byte := 0x13
def stResourceShort : Byte := 0x20
def stObjectBusy : Byte := 0x21
def stInfeasible : Byte := 0x30
def stRange : Byte := 0x31
def stNotConverged : Byte := 0x32
def stModelDataLost : Byte := 0x40
def stDataError : Byte := 0x41
def stRoleStale : Byte := 0x50
def stLaunchMissed : Byte := 0x51
def stSettingsUnreadable : Byte := 0x60
def stAborted : Byte := 0x70

/-- A completion with a status alone. -/
def Cpl.of (s : Byte) : Cpl := { status := s }

/-- ST_OK with result0. -/
def Cpl.ok (r0 : Nat := 0) (r1 : Nat := 0) : Cpl :=
  { status := stOk, result0 := BitVec.ofNat 64 r0, result1 := BitVec.ofNat 32 r1 }

/-- ST_STATE_CONFLICT with the blocking state (R64). -/
def Cpl.conflict (code : Nat) : Cpl := { status := stStateConflict, stateCode := BitVec.ofNat 16 code }

/-- ST_BAD_DESCRIPTOR. -/
def Cpl.bad : Cpl := { status := stBadDescriptor }

/-- ST_OK_FLAGGED with result_flags. -/
def Cpl.flagged (flags : Nat) (r0 : Nat := 0) (r1 : Nat := 0) : Cpl :=
  { status := stOkFlagged, flags := BitVec.ofNat 16 flags, result0 := BitVec.ofNat 64 r0,
    result1 := BitVec.ofNat 32 r1 }

/-! ### Rounding and saturation -/

/-- v / 2^s to nearest, ties away from zero (R147). -/
def roundShift (v : Int) (s : Nat) : Int :=
  let a := (v.natAbs + (if s = 0 then 0 else 2 ^ (s - 1))) / 2 ^ s
  if v < 0 then -(a : Int) else a

/-- word × scale_m × 2^(f − scale_e), rounded (R147). -/
def scaleWord (word : Int) (m e f : Nat) : Int :=
  if e ≤ f then word * m * (2 ^ (f - e) : Nat) else roundShift (word * m) (e - f)

/-- Clipped to a 32-bit format; the flag says that it saturated (R147). -/
def sat32 (v : Int) : Int × Bool :=
  let c := sSat 32 v
  (c, c != v)

/-! ### Check values (R473) -/

/-- One bit of a reflected CRC. -/
def crcBit (poly crc : Nat) : Nat := if crc % 2 = 1 then (crc / 2) ^^^ poly else crc / 2

/-- One byte of a reflected CRC. -/
def crcByte (poly : Nat) (crc : Nat) (b : Byte) : Nat :=
  let c := crc ^^^ b.toNat
  crcBit poly <| crcBit poly <| crcBit poly <| crcBit poly <|
  crcBit poly <| crcBit poly <| crcBit poly <| crcBit poly c

/-- One bit, then one byte, of an unreflected CRC of width `w`. -/
def crcBitMsb (w poly crc : Nat) : Nat :=
  if crc / 2 ^ (w - 1) % 2 = 1 then (crc * 2 % 2 ^ w) ^^^ poly else crc * 2 % 2 ^ w

def crcByteMsb (w poly : Nat) (crc : Nat) (b : Byte) : Nat :=
  let c := crc ^^^ (b.toNat * 2 ^ (w - 8))
  let f := crcBitMsb w poly
  f <| f <| f <| f <| f <| f <| f <| f c

/-- Width of the polynomial of a code (*Touchstone polynomials*). -/
def crcWidth (code : Nat) : Nat :=
  match code with
  | 0 => 32 | 1 => 32 | 2 => 16 | _ => 64

/-- The initial value. -/
def crcInit (code : Nat) : Nat :=
  match code with
  | 0 => 0xFFFFFFFF | 1 => 0xFFFFFFFF | 2 => 0xFFFF | _ => 0

/-- One byte of a stream. -/
def crcNext (code : Nat) (crc : Nat) (b : Byte) : Nat :=
  match code with
  | 0 => crcByte 0x82F63B78 crc b
  | 1 => crcByte 0xEDB88320 crc b
  | 2 => crcByteMsb 16 0x1021 crc b
  | _ => crcByteMsb 64 0x42F0E1EBA9EA3693 crc b

/-- The value at the stream's end. -/
def crcDone (code : Nat) (crc : Nat) : Nat :=
  match code with
  | 0 => crc ^^^ 0xFFFFFFFF
  | 1 => crc ^^^ 0xFFFFFFFF
  | _ => crc

/-- The check value of a byte string. -/
def crcOf (code : Nat) (b : Bytes) : Nat := crcDone code (b.foldl (crcNext code) (crcInit code))

end Sys2Proof.Machine
end

