-- ==== Sys2Proof/Machine/Arith.lean ====
section
/-! DEFINITION. Arithmetic of the matrix array, the solver datapath and the reduction trees (spec/07 R199-R202,
R221). -/

namespace Sys2Proof.Machine

/-! ### Values of the floating formats (R200, R201; spec/09 R262) -/

/-- A floating value: m × 2^e where it is finite. -/
inductive Fp where
  | nan
  | inf (neg : Bool)
  | fin (m : Int) (e : Int)
  deriving DecidableEq, Repr

/-- A floating format: exponent bits, mantissa bits, bias, the largest finite magnitude's bits, and whether the
patterns above it are an infinity and NaNs (IEEE), one NaN (E4M3), or absent. -/
structure FpFormat where
  eb : Nat
  mb : Nat
  bias : Nat
  maxBits : Nat
  hasInf : Bool
  hasNan : Bool
  deriving DecidableEq, Repr

def fmtFp32 : FpFormat := { eb := 8, mb := 23, bias := 127, maxBits := 0x7F7FFFFF, hasInf := true, hasNan := true }
def fmtBf16 : FpFormat := { eb := 8, mb := 7, bias := 127, maxBits := 0x7F7F, hasInf := true, hasNan := true }
def fmtE4M3 : FpFormat := { eb := 4, mb := 3, bias := 7, maxBits := 0x7E, hasInf := false, hasNan := true }
def fmtE5M2 : FpFormat := { eb := 5, mb := 2, bias := 15, maxBits := 0x7B, hasInf := true, hasNan := true }
def fmtE3M2 : FpFormat := { eb := 3, mb := 2, bias := 3, maxBits := 0x1F, hasInf := false, hasNan := false }
def fmtE2M3 : FpFormat := { eb := 2, mb := 3, bias := 1, maxBits := 0x1F, hasInf := false, hasNan := false }
def fmtE2M1 : FpFormat := { eb := 2, mb := 1, bias := 1, maxBits := 0x7, hasInf := false, hasNan := false }

/-- Bits of a format, less its sign. -/
def FpFormat.width (f : FpFormat) : Nat := f.eb + f.mb

/-- Exponent of the least step of a format. -/
def FpFormat.qmin (f : FpFormat) : Int := 1 - (f.bias : Int) - (f.mb : Int)

/-- A bit pattern's value; subnormals are kept (R201). -/
def FpFormat.decode (f : FpFormat) (bits : Nat) : Fp :=
  let mag := bits % 2 ^ f.width
  let neg := bits / 2 ^ f.width % 2 == 1
  if f.maxBits < mag then
    if f.hasInf && mag % 2 ^ f.mb == 0 then .inf neg else if f.hasNan then .nan else .fin 0 0
  else
    let e := mag / 2 ^ f.mb
    let m := mag % 2 ^ f.mb + (if e = 0 then 0 else 2 ^ f.mb)
    .fin (if neg then -(m : Int) else m) (f.qmin + ((e - 1 : Nat) : Int))

/-- a × 2^e to a multiple of 2^q with q no less than `qmin` and at most `mb` + 1 significant bits, to nearest with ties
to even: the multiple and q. -/
def roundEven (mb : Nat) (qmin : Int) (a : Nat) (e : Int) : Nat × Int :=
  let q := max ((Nat.log2 a : Int) + e - mb) qmin
  if q ≤ e then (a * 2 ^ (e - q).toNat, q) else
  let s := (q - e).toNat
  let lo := a % 2 ^ s
  let up := decide (2 ^ (s - 1) < lo) || (lo == 2 ^ (s - 1) && a / 2 ^ s % 2 == 1)
  (a / 2 ^ s + bit up, q)

/-- A value in a format, rounded to nearest with ties to even. Beyond the largest finite magnitude it saturates, or
becomes an infinity where `saturate` is false and the format has one (R201). -/
def FpFormat.encode (f : FpFormat) (saturate : Bool) (v : Fp) : Nat :=
  let sign (neg : Bool) : Nat := if neg then 2 ^ f.width else 0
  let beyond := if saturate || !f.hasInf then f.maxBits else f.maxBits + 1
  match v with
  | .nan =>
    if f.hasInf then (2 ^ f.eb - 1) * 2 ^ f.mb + 2 ^ (f.mb - 1) else if f.hasNan then 2 ^ f.width - 1 else f.maxBits
  | .inf neg => sign neg + beyond
  | .fin m e =>
    let (a, q) := roundEven f.mb f.qmin m.natAbs e
    let mag := if a < 2 ^ f.mb then a else ((q - f.qmin).toNat + 1) * 2 ^ f.mb + (a - 2 ^ f.mb)
    sign (decide (m < 0)) + (if f.maxBits < mag then beyond else mag)

/-- The exact product. -/
def Fp.mul : Fp → Fp → Fp
  | .nan, _ => .nan
  | _, .nan => .nan
  | .inf a, .inf b => .inf (a != b)
  | .inf a, .fin m _ => if m = 0 then .nan else .inf (a != decide (m < 0))
  | .fin m _, .inf b => if m = 0 then .nan else .inf (b != decide (m < 0))
  | .fin m e, .fin n f => .fin (m * n) (e + f)

/-- The exact sum. -/
def Fp.add : Fp → Fp → Fp
  | .nan, _ => .nan
  | _, .nan => .nan
  | .inf a, .inf b => if a == b then .inf a else .nan
  | .inf a, .fin _ _ => .inf a
  | .fin _ _, .inf b => .inf b
  | .fin m e, .fin n f =>
    let q := min e f
    .fin (m * (2 ^ (e - q).toNat : Nat) + n * (2 ^ (f - q).toNat : Nat)) q

/-- Scaled by 2^k. -/
def Fp.scale (k : Int) : Fp → Fp
  | .fin m e => .fin m (e + k)
  | v => v

/-- An FP32 addition with one rounding (R200, R221). -/
def addFp32 (acc : Nat) (v : Fp) : Nat := fmtFp32.encode false ((fmtFp32.decode acc).add v)

/-- Order of FP32 values for maximum and minimum: NaN is the result where either is NaN. -/
def Fp.le : Fp → Fp → Bool
  | .inf true, _ => true
  | _, .inf false => true
  | .fin m e, .fin n f =>
    let q := min e f
    decide (m * (2 ^ (e - q).toNat : Nat) ≤ n * (2 ^ (f - q).toNat : Nat))
  | _, _ => false

/-! ### The matrix array (R199-R202) -/

/-- An element's value by its format code (R262; OCP MX elements). -/
def elemValue (code : Nat) (v : Int) : Fp :=
  let n := (v % 256).toNat
  match code with
  | 0x05 | 0x08 => fmtE4M3.decode n
  | 0x06 | 0x09 => fmtE5M2.decode n
  | 0x07 => .fin (sInt 8 n) (-6)
  | 0x0A => fmtE3M2.decode n
  | 0x0B => fmtE2M3.decode n
  | 0x0C => fmtE2M1.decode n
  | 0x0D => fmtBf16.decode (v % 65536).toNat
  | 0x0E => fmtFp32.decode (v % 2 ^ 32).toNat
  | _ => .fin v 0

/-- An MX format, whose product groups carry block scales. -/
def isMx (code : Nat) : Bool := decide (7 ≤ code ∧ code ≤ 12)

/-- One product group: its exact sum, times 2^(sa + sb − 254) in MX modes; a scale of 0xFF gives NaN (R200, R201). -/
def groupSum (a b : Nat) (g : Nat × Nat × List (Int × Int)) : Fp :=
  let s := g.2.2.foldl (fun s p => s.add ((elemValue a p.1).mul (elemValue b p.2))) (.fin 0 0)
  if isMx a || isMx b then
    if g.1 = 255 || g.2.1 = 255 then .nan else s.scale ((g.1 : Int) + g.2.1 - 254)
  else s

/-- Products added one by one to a saturating accumulator of `w` bits: the sum and whether it saturated (R199, R202). -/
def macSat (w : Nat) (acc : Int) (l : List (Int × Int)) : Int × Bool :=
  l.foldl (fun s p =>
    let v := s.1 + p.1 * p.2
    let c := sSat w v
    (c, s.2 || c != v)) (acc, false)

/-- The rescale step: shifted right, rounded to nearest with ties away from zero, and saturated to `w` bits (R202). -/
def rescale (s w : Nat) (v : Int) : Int × Bool :=
  let x := roundShift v s
  let c := sSat w x
  (c, c != x)

/-- The format an FP32 result is converted to. -/
def narrowOf (code : Nat) : Option FpFormat :=
  match code with
  | 0x05 | 0x08 => some fmtE4M3
  | 0x06 | 0x09 => some fmtE5M2
  | 0x0A => some fmtE3M2
  | 0x0B => some fmtE2M3
  | 0x0C => some fmtE2M1
  | 0x0D => some fmtBf16
  | _ => none

/-- A list cut into pieces of n. -/
def chunks (n : Nat) (l : List (Int × Int)) : List (List (Int × Int)) :=
  (List.range ((l.length + n - 1) / n)).map fun k => (l.drop (n * k)).take n

/-- The product groups of a floating run: 32 consecutive products, or 8 with a BF16 operand; in MX modes one block of each
operand, at most 32 products under its own two scales (R200). -/
def productGroups (r : ArrayRun) : List (Nat × Nat × List (Int × Int)) :=
  if isMx r.fmtA || isMx r.fmtB then r.groups.flatMap fun g => (chunks 32 g.2.2).map fun l => (g.1, g.2.1, l)
  else (chunks (if r.fmtA = 13 || r.fmtB = 13 then 8 else 32) (r.groups.flatMap (·.2.2))).map fun l => (127, 127, l)

/-- What a run of the array gives: the bytes it writes, ACC_SAT of an integer accumulator, and RANGE of a solver one. -/
structure ArrayOut where
  bytes : Bytes
  accSat : Bool := false
  range : Bool := false
  deriving DecidableEq, Repr

/-- A run of the array (R199-R202). -/
def runArray (r : ArrayRun) : ArrayOut :=
  match r.mode with
  | 0 =>
    let s := macSat 32 r.acc (r.groups.map (·.2.2)).flatten
    { bytes := leBytes 4 (sNat 32 s.1), accSat := s.2 }
  | 2 =>
    let s := macSat 80 r.acc (r.groups.map (·.2.2)).flatten
    let x := rescale r.shift (if r.convert = 0 then 64 else 32) s.1
    { bytes := leBytes (if r.convert = 0 then 8 else 4) (sNat 64 x.1), range := s.2 || x.2 }
  | _ =>
    let acc := (productGroups r).foldl (fun a g => addFp32 a (groupSum r.fmtA r.fmtB g)) (r.acc % 2 ^ 32).toNat
    match narrowOf r.convert with
    | none => { bytes := leBytes 4 acc }
    | some f => { bytes := leBytes ((f.width + 8) / 8) (f.encode (r.saturate || !(r.convert = 6 || r.convert = 13)) (fmtFp32.decode acc)) }

/-! ### Reduction trees (R220, R221) -/

/-- Two elements of a round combined: the value and whether it saturated. -/
def combine (elem op : Nat) (a b : Int) : Int × Bool :=
  if elem = 3 then
    let x := fmtFp32.decode (a % 2 ^ 32).toNat
    let y := fmtFp32.decode (b % 2 ^ 32).toNat
    let pick (c : Bool) : Int := if x = .nan || y = .nan then 0x7FC00000 else if c then a else b
    match op with
    | 1 => (pick (Fp.le y x), false)
    | 2 => (pick (Fp.le x y), false)
    | _ => ((addFp32 (a % 2 ^ 32).toNat y : Int), false)
  else
    match op with
    | 1 => (max a b, false)
    | 2 => (min a b, false)
    | _ =>
      let w := if elem = 0 then 32 else if elem = 1 then 64 else 80
      let v := a + b
      (sSat w v, sSat w v != v)

/-- An element as it enters a round: squared for a sum of squares. -/
def enterRound (elem op : Nat) (a : Int) : Int :=
  if elem = 3 && op == 3 then
    let x := fmtFp32.decode (a % 2 ^ 32).toNat
    (fmtFp32.encode false (x.mul x) : Int)
  else a

/-- Two vectors of a round combined element by element, with the RANGE seen so far. -/
def combineVec (elem op : Nat) (a b : List Int × Bool) : List Int × Bool :=
  let z := List.zipWith (combine elem op) a.1 b.1
  (z.map (·.1), a.2 || b.2 || z.any (·.2))

/-- The contributions as they enter a round. -/
def entering (elem op : Nat) (l : List (List Int)) : List (List Int × Bool) := l.map fun x => (x.map (enterRound elem op), false)

/-- The round's result: contributions added in the order given (R221). -/
def reduce (elem op : Nat) (l : List (List Int)) : List Int × Bool :=
  match entering elem op l with
  | [] => ([], false)
  | x :: r => r.foldl (combineVec elem op) x

/-- Neighbours of a list combined in pairs, a last odd one kept. -/
def pairUp (elem op : Nat) : List (List Int × Bool) → List (List Int × Bool)
  | a :: b :: r => combineVec elem op a b :: pairUp elem op r
  | l => l

/-- A tree of neighbours over the partitions in order: the fixed pairing of R221, whose shape the spec leaves open
(DESIGN CHOICE, notes/assumptions/87.md). -/
def reduceTree (elem op : Nat) (l : List (List Int)) : List Int × Bool :=
  ((List.range 8).foldl (fun l _ => pairUp elem op l) (entering elem op l)).headD ([], false)

end Sys2Proof.Machine
end

