-- ==== Sys2Proof/Machine/Operands.lean ====
section
/-! DEFINITION. The operands of a descriptor: what each opcode's body holds, who may send it, and the host buffers
and inline payloads it names (spec/02 R12, R61; spec/03 R77, R78; the opcode tables of spec/03 to spec/17). -/

namespace Sys2Proof.Machine

/-- What an opcode sees of its descriptor besides the state: the channel, its own name, and the ABI in force
(major and minor) on that channel (R77). -/
structure OpCtx where
  ch : Chan
  tok : Tok
  d : Desc
  major : Nat
  minor : Nat
  /-- tb64 at the descriptor's fetch -/
  fetchedAt : Nat := 0
  /-- what was outstanding at the fetch, in the ring that byte 24 names -/
  upTo : W32 := 0
  deriving DecidableEq, Repr

/-- How an opcode's work ends: with a completion, or later by one of the part's own steps. -/
inductive OpResult where
  | done (c : Cpl)
  | later
  deriving DecidableEq, Repr

/-- An opcode's work. -/
abbrev OpFn := OpCtx → Dev → Dev × OpResult

/-- The master that sent the descriptor. -/
def OpCtx.master (c : OpCtx) : Nat := c.ch.master

/-- The bytes of the host buffer at the address in descriptor bytes `at8` …, or the inline payload (R78). -/
def OpCtx.input (c : OpCtx) (d : Dev) (at8 n : Nat) : Bytes :=
  match c.ch with
  | .sq _ => memRead d.hif.mem (c.d.f at8 8) n
  | _ => padTo n c.d.payload

/-- The channel carries payloads inline (R78). -/
def OpCtx.inline (c : OpCtx) : Bool :=
  match c.ch with
  | .sq _ => false
  | _ => true

/-- A read of host memory fails: it meets a range the host does not answer for (R63). -/
def Dev.hostFails (d : Dev) (a n : Nat) : Bool :=
  d.hif.unreadable.any fun r => decide (0 < n) && decide (a < r.1 + r.2) && decide (r.1 < a + n)

/-- A completion with a result payload for the host buffer named at `at8`, or inline (R78). -/
def OpCtx.output (c : OpCtx) (at8 : Nat) (b : Bytes) (k : Cpl) : Cpl :=
  match c.ch with
  | .sq _ => { k with dest := some (c.d.f at8 8), payload := b }
  | _ => { k with payload := b }

/-- Work that ends at once. -/
def opDone (d : Dev) (c : Cpl) : Dev × OpResult := (d, .done c)

/-- A 4 KiB-aligned address. -/
def aligned4k (a : Nat) : Bool := a % 4096 == 0

/-- What the opcode tables say of an opcode: whether only the owner may send it, the body bytes it uses as
(first, count), its host buffer address fields, the inline bytes it takes, and whether its work goes on after
it is started. Work that waits for others though its own effect is in the ring order (MODEL_UNLOAD, STATE_RESET, MODEL_UNBIND) is not
begun before its place there (R50). -/
structure OpInfo where
  ownerOnly : Bool := false
  uses : List (Nat × Nat) := []
  bufs : List Nat := []
  takes : Desc → Nat := fun _ => 0
  async : Bool := false

/-- The opcode tables of spec/02 to spec/17. -/
def opInfo : Op → OpInfo
  | .identify => { uses := [(32,8)], bufs := [32] }
  | .createCq => { uses := [(24,8),(32,8),(40,8)], bufs := [32,40] }
  | .createSq => { uses := [(24,3),(32,8)], bufs := [32] }
  | .deleteSq => { uses := [(24,1)], async := true }
  | .deleteCq => { uses := [(24,1)] }
  | .abortSq => { uses := [(24,1)], async := true }
  | .nop => {}
  | .ownClaim => { async := true }
  | .ownHeartbeat => { ownerOnly := true }
  | .ownHandover => { ownerOnly := true, uses := [(24,1),(26,2)] }
  | .ownAccept => {}
  | .ownRelease => { ownerOnly := true }
  | .profileSelect => { ownerOnly := true, uses := [(24,1)], async := true }
  | .profileRead => { uses := [(24,2),(32,8)], bufs := [32] }
  | .profileWrite => { ownerOnly := true, uses := [(24,1),(32,8)], bufs := [32], takes := fun _ => 4096, async := true }
  | .profileRestore => { ownerOnly := true, uses := [(24,1)], async := true }
  | .regRead => { uses := [(24,5)] }
  | .regWrite => { uses := [(24,5),(32,8)] }
  | .sensorInject => { uses := [(24,2),(32,32)], async := true }
  | .sensorEnable => { ownerOnly := true, uses := [(24,2)] }
  | .slotRead => { uses := [(24,1),(32,8)], bufs := [32] }
  | .frameGrab => { uses := [(24,1),(32,12)], bufs := [32], async := true }
  | .gnssSend => { ownerOnly := true, uses := [(24,2),(32,8)], bufs := [32], takes := fun d => d.f 24 2, async := true }
  | .rectLoad => { ownerOnly := true, uses := [(24,1),(32,12)], bufs := [32], takes := fun d => d.f 40 4 }
  | .stereoStored => { uses := [(24,26)], bufs := [32], async := true }
  | .vpParams => { ownerOnly := true, uses := [(24,6)] }
  | .vpMove => { ownerOnly := true, uses := [(24,2)], async := true }
  | .stereoGrab => { uses := [(24,1),(32,12)], bufs := [32], async := true }
  | .modelInstall => { ownerOnly := true, uses := [(24,2),(28,20)], bufs := [32], takes := fun d => d.f 28 4, async := true }
  | .modelRemove => { ownerOnly := true, uses := [(24,1)] }
  | .modelLoad => { ownerOnly := true, uses := [(24,3),(32,8)], bufs := [32], async := true }
  | .modelUnload => { ownerOnly := true, uses := [(24,1)] }
  | .infer => { uses := [(24,37)], bufs := [32,40], takes := fun d => d.f 48 4, async := true }
  | .modelQuery => { uses := [(24,1),(32,8)], bufs := [32] }
  | .stateReset => { ownerOnly := true, uses := [(24,2)] }
  | .modelBind => { ownerOnly := true, uses := [(24,3),(28,3),(32,4)], async := true }
  | .modelUnbind => { ownerOnly := true, uses := [(24,1)] }
  | .solverLoad => { ownerOnly := true, uses := [(24,2),(32,12),(48,8)], bufs := [32,48], takes := fun d => d.f 40 4, async := true }
  | .solve => { uses := [(24,6),(32,12),(48,12)], bufs := [32,48], takes := fun d => d.f 56 4, async := true }
  | .solverFree => { ownerOnly := true, uses := [(24,1)] }
  | .solverQuery => { uses := [(24,1),(32,8)], bufs := [32] }
  | .estConfig => { ownerOnly := true, uses := [(24,1),(32,8)], bufs := [32], takes := fun _ => 256 }
  | .estStart => { ownerOnly := true, uses := [(24,1),(32,28)], async := true }
  | .estStop => { ownerOnly := true }
  | .estStatus => {}
  | .keyframeRead => { uses := [(24,4),(32,16)], bufs := [32] }
  | .fusionStart => { ownerOnly := true, uses := [(24,6),(32,16)] }
  | .fusionStop => { ownerOnly := true, async := true }
  | .fusionBounds => { ownerOnly := true, uses := [(24,24)] }
  | .fusionReset => { ownerOnly := true, async := true }
  | .fusionStatus => {}
  | .indexCreate => { ownerOnly := true, uses := [(24,24)], bufs := [32] }
  | .indexLoad => { ownerOnly := true, uses := [(24,2),(28,12),(40,16)], bufs := [32], takes := fun d => d.f 28 4 }
  | .indexDrop => { ownerOnly := true, uses := [(24,1)], async := true }
  | .placeInsert => { ownerOnly := true, uses := [(24,1),(28,12)], bufs := [32] }
  | .placeDelete => { ownerOnly := true, uses := [(24,1),(28,12)], bufs := [32], takes := fun d => 4 * d.f 28 4 }
  | .placeQuery => { uses := [(24,26)], bufs := [32,40], async := true }
  | .indexMerge => { ownerOnly := true, uses := [(24,1)], async := true }
  | .indexQuery => { uses := [(24,1)] }
  | .walkerSet => { ownerOnly := true, uses := [(24,2)], async := true }
  | .tierQuery => { uses := [(24,4)] }
  | .tierPromote => { ownerOnly := true, uses := [(24,4)], async := true }
  | .tierEvict => { ownerOnly := true, uses := [(24,4)], async := true }
  | .tierUnpin => { ownerOnly := true, uses := [(24,6)] }
  | .tierUsage => {}
  | .slowAttach => { ownerOnly := true, uses := [(24,1),(28,4)] }
  | .ipmChannel => { ownerOnly := true, uses := [(24,2)], async := true }
  | .timeSelect => { ownerOnly := true, uses := [(24,2)] }
  | .timeSet => { ownerOnly := true, uses := [(32,8)] }
  | .setLaunchPeriod => { ownerOnly := true, uses := [(24,1),(32,16)] }
  | .timeStatus => {}
  | .fleetConfig => { ownerOnly := true, uses := [(24,40)] }
  | .fleetEnrol => { ownerOnly := true, uses := [(24,2),(28,16)], bufs := [32], takes := fun d => d.f 28 4 }
  | .fleetJoin => { ownerOnly := true, uses := [(24,1)] }
  | .fleetFrame => { ownerOnly := true, uses := [(24,40)] }
  | .shardTable => { ownerOnly := true, uses := [(24,1),(28,16)], bufs := [32] }
  | .shardHost => { ownerOnly := true, uses := [(24,6),(32,4)] }
  | .shardDrop => { ownerOnly := true, uses := [(24,4)] }
  | .shardHandover => { ownerOnly := true, uses := [(24,6),(32,6)], async := true }
  | .shardPromote => { ownerOnly := true, uses := [(24,4),(32,4)], async := true }
  | .fleetQuery => { uses := [(24,26),(52,12)], bufs := [32,40], async := true }
  | .shardStatus => { uses := [(24,4)] }
  | .fltStatus => {}
  | .unitFence => { ownerOnly := true, uses := [(24,1),(26,2)], async := true }
  | .unitReturn => { ownerOnly := true, uses := [(24,1),(26,2)], async := true }
  | .assayRun => { ownerOnly := true, uses := [(24,1),(26,2)], async := true }
  | .baseEnter => { ownerOnly := true, async := true }
  | .baseExit => { ownerOnly := true, async := true }
  | .fltLog => { uses := [(24,2),(32,8)], bufs := [32] }
  | .hmIdentity => { uses := [(32,14)], bufs := [32] }
  | .hmAttest => { uses := [(24,22)], bufs := [24,32], takes := fun _ => 64 }
  | .updateKeyInstall => { ownerOnly := true, uses := [(24,1),(32,8)], bufs := [32], takes := fun d => if d.f 24 1 = 1 then 0 else 1676 }
  | .updateStage => { ownerOnly := true, uses := [(24,1),(32,32)], async := true }
  | .updateActivate => { ownerOnly := true, uses := [(24,1),(26,2)], async := true }
  | .updateCancel => { ownerOnly := true, async := true }
  | .updateConfirm => { ownerOnly := true }
  | .acceptDefaults => { ownerOnly := true, async := true }
  | .updateRevert => { ownerOnly := true, async := true }
  | .updateStatus => {}
  | .settingsExport => { uses := [(24,1),(32,32)] }
  | .reserved _ => {}

/-- Reserved bits within the bytes that an opcode uses: byte and mask of the bits that must be 0 (R12). -/
def reservedBits : Op → List (Nat × Nat)
  | .createCq => [(27, 0xFE)]
  | .sensorEnable => [(25, 0xFE)]
  | .modelInstall => [(25, 0xF8)]
  | .modelLoad => [(26, 0xFE)]
  | .infer => [(25, 0xE0), (27, 0x70)]
  | .solve => [(25, 0xF8)]
  | .estConfig => [(24, 0xFE)]
  | .estStart => [(24, 0xFC)]
  | .indexCreate => [(31, 0xF8)]
  | .indexLoad => [(25, 0xFC)]
  | .placeQuery => [(25, 0xFC)]
  | .timeSelect => [(25, 0xFE)]
  | .fleetConfig => [(27, 0xE0), (29, 0x70), (31, 0xFE)]
  | .fleetEnrol => [(25, 0xFC)]
  | .shardTable => [(24, 0xFC)]
  | .fleetQuery => [(24, 0xFC)]
  | .updateKeyInstall => [(24, 0xFE)]
  | .updateActivate => [(24, 0xFE)]
  | _ => []

/-- Bytes that a form of an opcode reserves, as (first, count): REG_WRITE of 4 bytes, FLEET_CONFIG with IPv4, chunks without FIRST,
SLOW_ATTACH of another mode than 1 (R12). -/
def reservedHere (op : Op) (x : Desc) : List (Nat × Nat) :=
  match op with
  | .regWrite => if x.u8 28 = 4 then [(36, 4)] else []
  | .fleetConfig => if x.u8 26 = 4 then [(36, 12), (52, 12)] else []
  | .modelInstall => if x.u8 25 % 2 = 0 then [(44, 4)] else []
  | .indexLoad => if x.u8 25 % 2 = 0 then [(48, 8)] else []
  | .slowAttach => if x.u8 24 = 1 then [] else [(28, 4)]
  | _ => []

end Sys2Proof.Machine
end

