-- ==== Sys2Proof/Machine/Clock.lean ====
section
/-! DEFINITION. The passage of time: the reference instant of a command moves the clock, and with it the time
base, its slew, the holdover integral and the switch's egress (spec/04 R106, R112, R116, R123). -/

namespace Sys2Proof.Machine

/-- The part of a slew that `dt` ns of the reference allow, in tb80 units, with what was gained before and what stays of a unit, in
units of 10^-9 (R112). -/
def slewPart (ppb : Nat) (left : Int) (frac dt : Nat) : Int × Nat :=
  let n := dt * 65536 * ppb + frac
  let most := n / 1000000000
  if left.natAbs ≤ most then (left, 0) else (if left < 0 then -(most : Int) else most, n % 1000000000)

/-- The time base after `dt` ns of the reference: its rate is exact however commands cut the time (R106, R112). -/
def Time.run (dt : Nat) (x : Time) : Time :=
  if !x.running then x else
  let (s, left) := slewPart x.slewPpb.toNat x.slew x.slewFrac dt
  let g : Int := (dt * 65536 : Nat) * x.freq + x.tbFrac
  let gone : Int := (dt * 65536 : Nat) + g / (2 ^ 48 : Nat) + s
  let trk := x.trk.map fun k => { k with offset := k.offset - s }
  { x with
    tb := (x.tb + gone).toNat
    mono := (x.mono + gone).toNat
    tbFrac := (g % (2 ^ 48 : Nat)).toNat
    slewFrac := left
    slew := x.slew - s
    trk := trk
    holdInt := if x.st == .holdover then x.holdInt + (x.tempRef - x.holdT0).natAbs * dt else x.holdInt }

/-- Frames waiting on a port leave in strict priority, the highest code point first (R123). -/
def EthPort.egress (p : EthPort) : List EthFrame := p.queues.reverse.flatten

/-- Frames queued at an instant leave when the clock next moves (notes/assumptions/14.md). -/
def ethDrain (d : Dev) : Dev :=
  (List.range 4).foldl (fun d i =>
    let p := d.eth.getD i {}
    if p.link && p.queues.any (fun q => !q.isEmpty) then
      let d := p.egress.foldl (fun d f => emit (.ethTx i f) d) d
      { d with eth := upd d.eth i fun p => { p with queues := List.replicate 8 [] } }
    else d) d

/-- Frames for the control complex (0) and for lidar ingress (1) are handed on likewise. -/
def ethInner (d : Dev) : Dev :=
  let d' := (List.range 2).foldl (fun d i => (d.ethInt.getD i []).reverse.flatten.foldl (fun d f => emit (.ethIn i f) d) d) d
  { d' with ethInt := List.replicate 2 (List.replicate 8 []) }

/-- The clock moves to instant `t` of the reference; an earlier instant moves nothing. -/
def advance (t : Nat) (d : Dev) : Dev :=
  if t ≤ d.now then d else
  ethInner <| ethDrain { d with now := t, time := d.time.run (t - d.now) }

end Sys2Proof.Machine
end

