-- ==== Sys2Proof/Machine/Time.lean ====
section
/-! DEFINITION. The time base, its tracks, the Ethernet switch and the timer pins (spec/04). -/

namespace Sys2Proof.Machine

/-- 20 ns in tb80 units (R107). -/
def ns20 : Int := 20 * 65536

/-- A tb80 difference in whole ns, toward zero (DESIGN CHOICE, notes/assumptions/97.md). -/
def toNs (x : Int) : Int := x.tdiv 65536

/-- Low byte of the time base state code. -/
def TbSt.code : TbSt → Nat
  | .freeRun => 0x10 | .tracking => 0x11 | .holdover => 0x12

/-- Low byte of the track state code. -/
def TrkSt.code : TrkSt → Nat
  | .disabled => 1 | .acquiring => 2 | .locked => 3 | .lost => 4

/-- The time base's state code (R64). -/
def TbSt.full (s : TbSt) : Nat := 0x0A00 + s.code
/-- A track's state code. -/
def TrkSt.full (s : TrkSt) : Nat := 0x0A00 + s.code

def Dev.trk (d : Dev) (k : Nat) : Track := d.time.trk.getD k {}

def Dev.setTrk (d : Dev) (k : Nat) (f : Track → Track) : Dev :=
  { d with time := { d.time with trk := upd d.time.trk k f } }

/-! Fields of TIME_TRKn_CFG. -/
def Track.source (t : Track) : Nat := bitsOf 2 1 t.cfg.toNat
def Track.port (t : Track) : Nat := bitsOf 4 3 t.cfg.toNat
def Track.transport (t : Track) : Nat := bitsOf 6 5 t.cfg.toNat
def Track.domain (t : Track) : Nat := bitsOf 15 8 t.cfg.toNat
def Track.enabled (t : Track) : Bool := bitsOf 0 0 t.cfg.toNat == 1

/-- A track changes state, with EV_TRACK_STATE (R110). -/
def trackTo (k : Nat) (s : TrkSt) (d : Dev) : Dev :=
  if (d.trk k).st == s then d else
  ev 0x0401 0 (det [(16, [BitVec.ofNat 8 k]), (17, [BitVec.ofNat 8 s.code])])
    (d.setTrk k fun t => { t with st := s, good := if s == .acquiring then 0 else t.good,
                                  history := if s == .acquiring then [] else t.history })

/-- A track's frequency, at most half of the reference's rate away from it, so that the time base moves backward only by a step (R107;
DEDUCED, notes/assumptions/84.md). -/
def Track.rate (t : Track) : Int := max (-(2 ^ 47 : Nat)) (min (Config.trackFrequency t.history) (2 ^ 47 : Nat))

/-- The track's mean frequency over the 16 s before the instant `at_`, in units of 2^-48: between the first and the last input measured
in them (R115; DEDUCED, notes/assumptions/84.md). Where there are not two, it is its frequency. -/
def Track.meanRate (at_ : Nat) (t : Track) : Int :=
  let l := t.history.filter fun h => decide (at_ ≤ h.1 + 16 * sNs)
  match l.head?, l.getLast? with
  | some b, some a =>
    if a.1 < b.1 then
      let n : Int := ((b.1 - a.1) * 65536 : Nat)
      max (-(2 ^ 47 : Nat)) (min ((b.2 - a.2 - n) * (2 ^ 48 : Nat) / n) (2 ^ 47 : Nat))
    else t.rate
  | _, _ => t.rate

/-! ### Steps (R107, R129, R131, R159) -/

/-- A periodic pin's pulses that a forward step passed over are not sent, and are counted in MISSED (R129); a
one-shot that was passed over has ended, its ARM cleared (DESIGN CHOICE, notes/assumptions/97.md). An instant equal to the value that the step
lands on counts as passed over (DESIGN CHOICE, notes/assumptions/84.md). -/
def TmrPin.passed (old new : Nat) (p : TmrPin) : TmrPin :=
  if !p.pending then p else
  let at0 := p.start.toNat * 65536 + p.next * p.period.toNat
  if new < at0 || at0 < old then p else
  if p.mode = 5 then
    let n := (new - at0) / max p.period.toNat 1 + 1
    { p with next := p.next + n, missed := satAdd p.missed n }
  else { p with pending := false, arm := false, missed := satAdd p.missed 1 }

/-- After a backward step to `new` a periodic pin goes on at the first grid instant after the last one it sent that still lies ahead
(R129). -/
def TmrPin.back (new : Nat) (p : TmrPin) : TmrPin :=
  if !p.pending || p.mode != 5 then p else
  let ahead := (new - p.start.toNat * 65536 + p.period.toNat - 1) / max p.period.toNat 1
  { p with next := min p.next (max p.sent ahead) }

/-- A pin at a step of `x`: a pulse in progress keeps its width (R127, R128; DEDUCED, notes/assumptions/84.md). -/
def TmrPin.step (old new : Nat) (x : Int) (p : TmrPin) : TmrPin :=
  let p := { p with pulseEnd := p.pulseEnd.map fun e => ((e : Int) + x).toNat }
  if old < new then p.passed old new else p.back new

/-- Every alignment slot becomes empty (R159), and no sweep is a slot's any more (R154). A sample in progress keeps its stamp
(DESIGN CHOICE, notes/assumptions/97.md). -/
def emptySlots (d : Dev) : Dev :=
  { d with sens := { d.sens with s := d.sens.s.map fun x => { x with slot := none, past := [], held := none } } }

/-- Grid instants of fusion that a forward step from `old` to `new` (tb64) passes over have no snapshot; the next tick counts them as
skipped. After a backward step the next tick is again the first grid instant after the last one taken (R299). An instant equal to the value
that a forward step lands on counts as passed over (DESIGN CHOICE, notes/assumptions/84.md). -/
def Dev.ticksPassed (d : Dev) (old new : Nat) : Fusion :=
  { d.fusion with stepTo := if old < new then some new else none }

/-- The time base steps by `x` tb80 units, which never takes it below 0. The slots empty at a backward step, the
tracks' offsets change by it, passed-over pulses are counted, and EV_TIME_STEP is posted where `post` says. A whole second that the step
lands on is passed over (DESIGN CHOICE, notes/assumptions/84.md); after a backward step PPS_OUT goes on at the first whole second after
the last one it sent that still lies ahead (R131). -/
def stepBy (x : Int) (post : Bool) (d : Dev) : Dev :=
  if x = 0 then d else
  let old := d.time.tb
  let new := ((old : Int) + x).toNat
  let d := { d with fusion := d.ticksPassed (old / 65536) (new / 65536), time := { d.time with
    tb := new
    trk := d.time.trk.map fun k => { k with offset := k.offset - x }
    tmr := d.time.tmr.map (TmrPin.step old new x)
    ppsLast := if old < new then max d.time.ppsLast (new / (65536 * sNs))
      else min d.time.ppsLast (max d.time.ppsSent ((new + 65536 * sNs - 1) / (65536 * sNs) - 1))
    ppsEnd := d.time.ppsEnd.map fun e => ((e : Int) + x).toNat } }
  let d := if x < 0 then emptySlots d else d
  if post then ev 0x0405 0 (det [(20, leBytes 8 (sNat 64 (toNs x)))]) d else d

/-- A step of `x` reduced so that it does not take the time base below 0 (R107). -/
def atLeastZero (tb : Nat) (x : Int) : Int := max x (-(tb : Int))

/-- A switch of the time base to track `k`: a step of at most ±20 ns, the rest slewed, at the track's frequency
(R112). The offset is the one last measured, less steps and slew since (DESIGN CHOICE, notes/assumptions/97.md). -/
def switchTo (k : Nat) (d : Dev) : Dev :=
  let t := d.trk k
  let step := atLeastZero d.time.tb (max (-ns20) (min t.offset ns20))
  let rest := t.offset - step
  let old := d.time.sel
  let wasHold := d.time.st == .holdover
  let d := stepBy step false d
  let d := { d with time := { d.time with st := .tracking, sel := k, slew := rest, slewFrac := 0, holdErr := 0, freq := t.rate } }
  let d := ev 0x0402 0 (det [(16, [BitVec.ofNat 8 old]), (17, [BitVec.ofNat 8 k]),
    (20, leBytes 4 (sNat 32 (toNs step))), (24, leBytes 4 (sNat 32 (toNs rest)))]) d
  if wasHold then ev 0x0403 0 (det [(16, [0])]) d else d

/-- The larger step that TIME_SELECT with ALLOW_STEP makes: the whole of d, nothing slewed (R113). The event's four-byte fields hold the
values modulo 2^32 here and in `switchTo` (DESIGN CHOICE, notes/assumptions/84.md). -/
def switchStepping (k : Nat) (d : Dev) : Dev :=
  let t := d.trk k
  let old := d.time.sel
  let wasHold := d.time.st == .holdover
  let d := stepBy t.offset true d
  let d := { d with time := { d.time with st := .tracking, sel := k, slew := 0, slewFrac := 0, holdErr := 0, freq := t.rate } }
  let d := ev 0x0402 0 (det [(16, [BitVec.ofNat 8 old]), (17, [BitVec.ofNat 8 k]),
    (20, leBytes 4 (sNat 32 (toNs t.offset)))]) d
  if wasHold then ev 0x0403 0 (det [(16, [0])]) d else d

/-- |d| is within STEP_LIMIT_US (R113). -/
def withinLimit (d : Dev) (k : Nat) : Bool :=
  decide (((d.trk k).offset).natAbs ≤ d.time.stepLimitUs.toNat * 1000 * 65536)

/-- EV_TIME_STEP_NEEDED. -/
def stepNeeded (k : Nat) (d : Dev) : Dev :=
  ev 0x0404 1 (det [(16, [BitVec.ofNat 8 k]), (20, leBytes 8 (sNat 64 (toNs (d.trk k).offset)))]) d

/-- The move from FREE_RUN to TRACKING on the LOCKED track `k`, with the step applied and the remainder to slew in tb80 units (R107,
R113, *Time base states*). -/
def startTracking (k : Nat) (allow : Bool) (d : Dev) : Dev × Int × Int :=
  let t := d.trk k
  if t.offset < -ns20 && !allow then (stepNeeded k d, 0, 0) else
  let step := atLeastZero d.time.tb t.offset
  let d := stepBy step true d
  ({ d with time := { d.time with st := .tracking, sel := k, slew := t.offset - step, slewFrac := 0, holdErr := 0, freq := t.rate } },
   step, t.offset - step)

/-- The on-die sensor's reading that no command gives, in milli degrees: a free value above absolute zero (notes/assumptions/84.md). -/
def Dev.tempFree (d : Dev) : Int := (d.freeVal : Int) - 273150

/-- Entry into HOLDOVER from the selected track (R111, R115, R116, R118). T0, and T until the next reading, is the sensor's reading at
this instant. -/
def enterHoldover (d : Dev) : Dev :=
  let t := d.trk d.time.sel
  let temp := d.tempFree
  let d := d.useFree
  ev 0x0403 1 (det [(16, [1])]) { d with time := { d.time with
    st := .holdover, slew := 0, slewFrac := 0, holdSince := d.now, freq := t.meanRate d.now,
    holdE0 := min (toNs t.residual).natAbs 100, holdT0 := temp, tempRef := temp, holdInt := 0,
    holdErr := BitVec.ofNat 16 (min (toNs t.residual).natAbs 100), holdErrAt := d.now,
    holdGnss := t.source == 2 } }

/-- The selected track is LOST or DISABLED: the time base switches to the other track or holds over (R111). -/
def selectedLost (d : Dev) : Dev :=
  if d.time.st != .tracking then d else
  let o := 1 - d.time.sel
  if d.time.auto && (d.trk o).st == .locked && withinLimit d o then switchTo o d else enterHoldover d

/-- A track becomes LOST (R110). -/
def trackLost (k : Nat) (d : Dev) : Dev :=
  let was := (d.trk k).st
  if was == .acquiring || was == .locked then
    let d := trackTo k .lost d
    if d.time.sel == k && was == .locked then selectedLost d else d
  else d

/-- The selected track becomes LOCKED (*Time base states*). -/
def selectedLocked (k : Nat) (d : Dev) : Dev :=
  if d.time.sel != k then d else
  match d.time.st with
  | .freeRun => (startTracking k false d).1
  | .tracking => d
  | .holdover => if withinLimit d k then switchTo k d else stepNeeded k d

/-- A track's input measured: `m` is its offset from the time base in tb80 units (R110). The residual is against what the track's own
estimate predicted for this instant. The time base that follows the track runs at its frequency as now estimated (R112). -/
def trackInput (k : Nat) (m : Int) (timeout : Nat) (d : Dev) : Dev :=
  let d := if (d.trk k).st == .lost then trackTo k .acquiring d else d
  let t := d.trk k
  let res := m - (Config.trackPrediction t.history d.now - d.time.tb)
  let good := if res.natAbs ≤ 100 * 65536 then t.good + 1 else 0
  let d := d.setTrk k fun t => { t with offset := m, residual := res, good := good, lastInput := d.now,
                                        timeout := timeout, history := (d.now, d.time.tb + m) :: t.history }
  let d := if d.time.st == .tracking && d.time.sel == k then { d with time := { d.time with freq := (d.trk k).rate } } else d
  if t.st == .acquiring && decide (16 ≤ good) then selectedLocked k (trackTo k .locked d) else d

/-- A time base at work takes no input before it runs (R108). -/
def Dev.hasTrack (d : Dev) (k : Nat) : Bool := decide (k < 2) && (d.trk k).enabled && d.time.running

/-- The clockClass that the part announces (R118). -/
def Dev.clockClass (d : Dev) : Nat :=
  match d.time.st with
  | .tracking => if (d.trk d.time.sel).source == 2 then 6 else 248
  | .holdover => if d.time.holdGnss then 7 else 248
  | .freeRun => 248

/-- The part's own data set on a track (R117, R118). -/
def Dev.ownClockSet (d : Dev) (k : Nat) : ClockSet :=
  let t := d.trk k
  { priority1 := bitsOf 23 16 t.cfg.toNat, cls := d.clockClass, accuracy := Config.ownClock.1,
    variance := Config.ownClock.2.1, priority2 := bitsOf 31 24 t.cfg.toNat,
    identity := Config.ownClock.2.2, steps := 0 }

/-- `a` is better than `b` under the data set comparison of the best master clock algorithm (PRESUMED: IEEE
1588-2019 and IEEE 802.1AS-2020, which R117 cites; notes/assumptions/13.md). -/
def clockBetter (a b : ClockSet) : Bool :=
  if a.identity == b.identity then decide (a.steps < b.steps) else
  if a.priority1 != b.priority1 then decide (a.priority1 < b.priority1) else
  if a.cls != b.cls then decide (a.cls < b.cls) else
  if a.accuracy != b.accuracy then decide (a.accuracy < b.accuracy) else
  if a.variance != b.variance then decide (a.variance < b.variance) else
  if a.priority2 != b.priority2 then decide (a.priority2 < b.priority2) else
  decide (a.identity < b.identity)

/-- The best clock heard on a track, until no Announce of it has come for three Announce intervals, of 2 s on an IEEE 1588 track and of 1 s
on an IEEE 802.1AS track (PRESUMED: the standards that R117 cites; notes/assumptions/13.md). -/
def Track.master (now : Nat) (t : Track) : Option ClockSet := if now < t.foreignUntil then t.foreign else none

/-- A track takes messages of its own standard and, of IEEE 1588, of its own transport (R117). -/
def Track.hears (t : Track) (v : PtpVia) : Bool := t.source == v.std && (v.std == 1 || t.transport == v.transport)

/-- An Announce heard on a track's port and domain enters its best master clock algorithm (R117, R118). -/
def ptpAnnounceRx (port : Nat) (via : PtpVia) (domain : Nat) (c : ClockSet) (d : Dev) : Dev :=
  (List.range 2).foldl (fun d k =>
    let t := d.trk k
    if d.hasTrack k && t.hears via && t.port == port && t.domain == domain then
      let take := match t.master d.now with
        | none => true
        | some f => f.identity == c.identity || clockBetter c f
      if take then d.setTrk k fun t => { t with
        foreign := some c, gmClass := BitVec.ofNat 8 c.cls, foreignUntil := d.now + (if via.std = 0 then 6 else 3) * sNs } else d
    else d) d

/-- The best master clock algorithm selects the part's own clock on a track (R118). -/
def Dev.transmits (d : Dev) (k : Nat) : Bool :=
  d.hasTrack k && decide ((d.trk k).source < 2) && (d.eth.getD (d.trk k).port {}).link &&
  (match (d.trk k).master d.now with
   | none => true
   | some f => clockBetter (d.ownClockSet k) f)

/-- The best master clock algorithm selects the clock of an identity on a track. -/
def Dev.follows (d : Dev) (k identity : Nat) : Bool :=
  !d.transmits k && (match (d.trk k).master d.now with
   | none => false
   | some f => f.identity == identity)

/-- The part asks for a delay on a track: Delay_Req, or Pdelay_Req on an IEEE 802.1AS track (R117). -/
def askDelay (k : Nat) (d : Dev) : Dev :=
  let t := d.trk k
  emit (.ptpTx t.port k (if t.source = 1 then .pdelayReq else .delayReq)) d

/-- Sync received on a port from the clock `sender`: originTimestamp plus corrections is `origin80`; `interval` is logSyncInterval + 7.
A Sync is valid on a track of its standard, domain, transport and port, from the clock that the best master clock algorithm selects
(R110, R117, R118). The part asks for the delay with each (DESIGN CHOICE, notes/assumptions/13.md). -/
def ptpSyncRx (port std domain transport sender : Nat) (twoStep : Bool) (interval : Nat) (origin80 : Nat) (d : Dev) : Dev :=
  (List.range 2).foldl (fun d k =>
    let t := d.trk k
    if d.hasTrack k && t.hears { std := std, transport := transport } && decide (std < 2) && t.port == port && t.domain == domain
        && (std == 0 || twoStep) && decide (interval ≤ 7)
        && (d.eth.getD port {}).link && d.follows k sender then
      askDelay k (trackInput k ((origin80 : Int) + t.delay - d.time.tb) (max (250 * msNs) (4 * (sNs * 2 ^ interval / 128))) d)
    else d) d

/-- A delay message on a track's port and domain (R117). An exchange complete gives the mean path delay from its four instants, in tb80
units less corrections. A request is answered: Delay_Req by the time transmitter, Pdelay_Req by any IEEE 802.1AS track, in two steps. -/
def ptpDelayRx (port : Nat) (via : PtpVia) (domain : Nat) (m : PtpDelay) (d : Dev) : Dev :=
  (List.range 2).foldl (fun d k =>
    let t := d.trk k
    if d.hasTrack k && t.hears via && t.port == port && t.domain == domain then
      match m with
      | .answered t1 t2 t3 t4 => d.setTrk k fun t => { t with delay := ((t2 - t1) + (t4 - t3)) / 2 }
      | .asked =>
        if via.std = 1 then emit (.ptpTx port k (.pdelayRespFollowUp d.time.tb)) (emit (.ptpTx port k (.pdelayResp d.time.tb)) d)
        else if d.transmits k then emit (.ptpTx port k (.delayResp d.time.tb)) d else d
    else d) d

/-- Sync sent as time transmitter: one-step on an IEEE 1588 track, two-step with its Follow_Up on an IEEE 802.1AS track, and with it the
part's Announce (R117, R118; DESIGN CHOICE, notes/assumptions/97.md). -/
def ptpSyncTx (k : Nat) (d : Dev) : Dev :=
  if d.transmits k then
    let t := d.trk k
    let two := t.source == 1
    let d' := emit (.ptpTx t.port k (.announce (d.ownClockSet k))) (emit (.ptpSync t.port k d.time.tb d.clockClass two) d)
    if two then emit (.ptpTx t.port k (.followUp d.time.tb)) d' else d'
  else d

/-! ### PTP event messages in frames (R120-R122). The layouts are those of IEEE 802.3, IEEE 1588-2019 and the Internet protocols (PRESUMED,
notes/assumptions/13.md). -/

/-- A big-endian field of a frame. -/
def beAt (b : Bytes) (lo n : Nat) : Nat := beNat (sliceAt b lo n)

/-- Where a PTP event message's header stands in a frame, and where its IP header does for the two UDP transports. -/
def ptpHeader (b : Bytes) : Option (Nat × Option Nat) :=
  let p := if beAt b 12 2 = 0x8100 then 18 else 14
  match beAt b (p - 2) 2 with
  | 0x88F7 => some (p, none)
  | 0x0800 =>
    let u := p + 4 * (beAt b p 1 % 16)
    if beAt b (p + 9) 1 = 17 && beAt b (u + 2) 2 == 319 then some (u + 8, some p) else none
  | 0x86DD => if beAt b (p + 6) 1 = 17 && beAt b (p + 42) 2 == 319 then some (p + 48, some p) else none
  | _ => none

/-- The ones' complement sum of 16-bit words, folded. -/
def onesSum (b : Bytes) : Nat :=
  let words (n : Nat) : Nat := ((List.range n).map fun i => beAt b (2 * i) 2).sum
  let s := words ((b.length + 1) / 2)
  let s := s / 65536 + s % 65536
  s / 65536 + s % 65536

/-- The UDP checksum of a frame whose IP header stands at `ip` and whose UDP header stands at `udp`, recomputed. -/
def udpChecksum (ip udp : Nat) (b : Bytes) : Bytes :=
  let n := beAt b (udp + 4) 2
  let addr := if beAt b ip 1 / 16 = 4 then sliceAt b (ip + 12) 8 else sliceAt b (ip + 8) 32
  let seg := putAt (sliceAt b udp n) 6 [0, 0]
  let c := 0xFFFF - onesSum (addr ++ [0, 17] ++ (leBytes 2 n).reverse ++ seg)
  putAt b (udp + 6) (leBytes 2 (if c = 0 then 0xFFFF else c)).reverse

/-- A frame as it leaves, with its FCS recomputed. -/
def withFcs (b : Bytes) : Bytes := b ++ leBytes 4 (crcOf 1 b)

/-- A frame's correctionField gains a residence time, in units of 2^-16 ns, and its UDP checksum follows. -/
def corrected (at_ : Nat) (ip : Option Nat) (by_ : Int) (b : Bytes) : Bytes :=
  let c := sInt 64 (beAt b (at_ + 8) 8) + by_
  let b := putAt b (at_ + 8) (leBytes 8 (sNat 64 c)).reverse
  match ip with
  | some p => udpChecksum p (at_ - 8) b
  | none => b

/-- A frame is for a group of receivers. -/
def multicast (b : Bytes) : Bool := beAt b 0 1 % 2 == 1

/-- A PTP event message forwarded between two ports (R120, R122), store-and-forward and before any queued frame: Sync and Delay_Req gain
their residence time where both ports have TC set; Pdelay, and any message between other ports, is unmodified; gPTP is not forwarded, nor
is a message to the part's own address that is not multicast: that is only consumed. -/
def ptpForward (src dst : Nat) (b : Bytes) (ingress80 egress80 : Nat) (d : Dev) : Dev :=
  let x := d.eth.getD src {}
  let y := d.eth.getD dst {}
  match ptpHeader b with
  | none => d
  | some (p, ip) =>
    let kind := beAt b p 1 % 16
    let gptp := beAt b p 1 / 16 == 1 && ip.isNone
    if !x.link || !y.link || decide (4 ≤ src) || decide (4 ≤ dst) || src == dst || gptp then d
    else if !multicast b && beAt b 0 6 == Config.ownMac then d
    else if x.tc && y.tc && decide (kind < 2) then emit (.ptpForward dst (withFcs (corrected p ip ((egress80 : Int) - ingress80) b))) d
    else emit (.ptpForward dst (withFcs b)) d

/-! ### GNSS pulses (R119, R151) -/

/-- label_mode of the GNSS entry of lowest index in the record in force. -/
def Dev.labelMode (d : Dev) : Nat :=
  match (List.range 32).find? fun i => d.se i 0 1 == 4 with
  | some i => d.se i 56 1
  | none => 0

/-- The TAI instant in ns that labels a pulse stamped at tb64 `at64` (R151). -/
def Dev.pulseLabel (d : Dev) (at64 : Nat) : Option Nat :=
  match d.sens.dated with
  | none => none
  | some s =>
    if s.stamp ≤ at64 && decide (at64 ≤ s.stamp + 800 * msNs) then
      let t := s.utcNs / sNs
      some ((if d.labelMode = 0 then t + 1 else t) * sNs + d.sens.leapS.toNat * sNs)
    else none

/-- A rising edge of PPS_IN at the present instant (R119, R151). -/
def ppsIn (d : Dev) : Dev :=
  if !d.time.running then d else
  match d.pulseLabel d.tb64 with
  | none => { d with sens := { d.sens with ppsUnlabelled := satInc d.sens.ppsUnlabelled } }
  | some label =>
    let stamp : Int := (d.time.tb : Int) - d.time.cableNs.toNat * 65536
    (List.range 2).foldl (fun d k =>
      if d.hasTrack k && (d.trk k).source == 2 then
        trackInput k (((label * 65536 : Nat) : Int) - stamp) (1500 * msNs) d
      else d) d

/-- No valid input for the track's timeout makes it LOST (R110). -/
def trackTimeout (k : Nat) (d : Dev) : Dev :=
  if d.hasTrack k && decide ((d.trk k).lastInput + (d.trk k).timeout ≤ d.now) then trackLost k d else d

/-! ### Holdover (R111, R115, R116) -/

/-- HOLD_ERR = e0 + 30 ns/s × t + 267 ns/(K·s) × ∫|T − T0|dt, at most 0xFFFE (R116). Each term in whole ns, rounded down
(DESIGN CHOICE, notes/assumptions/97.md). -/
def Dev.holdErrNow (d : Dev) : Nat :=
  min 0xFFFE (d.time.holdE0 + 30 * (d.now - d.time.holdSince) / sNs
    + 267 * d.time.holdInt / (1000 * sNs))

/-- Every 10 ms in HOLDOVER the part computes HOLD_ERR anew. -/
def holdErrUpdate (d : Dev) : Dev :=
  if d.time.st == .holdover && decide (d.time.holdErrAt + 10 * msNs ≤ d.now) then
    { d with time := { d.time with holdErr := BitVec.ofNat 16 d.holdErrNow, holdErrAt := d.now } }
  else d

/-- HOLD_MAX_S has elapsed: FREE_RUN at the holdover's frequency (R108, R111). -/
def holdoverExpire (d : Dev) : Dev :=
  if d.time.st == .holdover && decide (d.time.holdSince + d.time.holdMaxS.toNat * sNs ≤ d.now) then
    ev 0x0403 0 (det [(16, [0])]) { d with time := { d.time with st := .freeRun, holdErr := 0xFFFF } }
  else d

/-! ### Ethernet ports (R110, R123, R124) -/

/-- EV_LINK. -/
def evLink (n : Nat) (up : Bool) (d : Dev) : Dev :=
  ev 0x0501 (if up then 0 else 1)
    (det [(16, [BitVec.ofNat 8 n]), (17, [BitVec.ofNat 8 (bit up)]), (18, [BitVec.ofNat 8 (d.eth.getD n {}).mode.toNat])]) d

/-- A port's link goes down: its tracks are LOST (R110). -/
def tracksOfPortLost (n : Nat) (d : Dev) : Dev :=
  (List.range 2).foldl (fun d k =>
    if d.hasTrack k && decide ((d.trk k).source < 2) && (d.trk k).port == n then trackLost k d else d) d

/-- The rate a mode gives when the link comes up; `fast` is what auto-negotiation reaches (*ETH_Pn_CTRL*). -/
def linkRate (n mode : Nat) (fast : Bool) : Nat :=
  if n < 2 then (if mode < 3 then 4 else if mode = 3 then 3 else 0)
  else match mode with
    | 0 => if fast then 2 else 1
    | 1 => 2
    | 2 => 1
    | _ => 0

/-- A port's link goes up or down, or its module is seated or removed (R124). -/
def ethLinkChange (n : Nat) (up fast seated : Bool) (d : Dev) : Dev :=
  if 4 ≤ n then d else
  let p := d.eth.getD n {}
  let d := { d with eth := upd d.eth n fun p => { p with modulePresent := decide (n < 2) && seated } }
  let rate := linkRate n p.mode.toNat fast
  let up := up && p.enable && decide (0 < rate) && (decide (2 ≤ n) || seated)
  if up == p.link then d else
  let d := { d with eth := upd d.eth n fun p =>
    { p with link := up, rate := BitVec.ofNat 3 (if up then rate else 0), linkAt := d.now } }
  let d := evLink n up d
  if up then d else tracksOfPortLost n d

/-- Clearing ENABLE takes the port out: its queued frames are dropped, its link is down, EV_LINK (R124). -/
def ethPortOff (n : Nat) (d : Dev) : Dev :=
  let d := { d with eth := upd d.eth n fun p =>
    { p with enable := false, link := false, rate := 0, queues := List.replicate 8 [], linkAt := d.now } }
  tracksOfPortLost n (evLink n false d)

/-- Setting ENABLE restarts link training in the port's mode: the link is down until it comes up (R124). -/
def ethPortOn (n : Nat) (d : Dev) : Dev :=
  { d with eth := upd d.eth n fun p => { p with enable := true, link := false, rate := 0 } }

/-- A gPTP frame: PTP over IEEE 802.3 with majorSdoId 1 (PRESUMED, notes/assumptions/13.md). -/
def isGptp (f : EthFrame) : Bool := f.etherType == 0x88F7 && (f.payload.headD 0).toNat / 16 == 1

/-- A frame received on a port is queued on the ports it is forwarded to, the two internal ones among them, by its priority code point
(R123). PAUSE frames and gPTP frames go no further (R122). -/
def ethFrameRx (n : Nat) (f : EthFrame) (d : Dev) : Dev :=
  let p := d.eth.getD n {}
  if !p.link || decide (4 ≤ n) || decide (9216 < f.len) || f.etherType == 0x8808 || isGptp f then d else
  let vid := match f.vlan with
    | some v => v.2
    | none => 0
  let pcp := match f.vlan with
    | some v => v.1 % 8
    | none => 0
  let out := Config.forwardPorts f.dst vid
  let put (q : List (List EthFrame)) : List (List EthFrame) := upd q pcp fun l => l ++ [f]
  let d := (List.range 4).foldl (fun d i =>
    if i != n && out.getLsbD i && (d.eth.getD i {}).link then
      { d with eth := upd d.eth i fun q => { q with queues := put q.queues } }
    else d) d
  (List.range 2).foldl (fun d i => if out.getLsbD (4 + i) then { d with ethInt := upd d.ethInt i put } else d) d

/-! ### Timer pins (R125-R131) -/

def Dev.pin (d : Dev) (n : Nat) : TmrPin := d.time.tmr.getD n {}

def Dev.setPin (d : Dev) (n : Nat) (f : TmrPin → TmrPin) : Dev :=
  { d with time := { d.time with tmr := upd d.time.tmr n f } }

/-- OWN_OUTEN lets the output drive, and its block runs: SAFE_STOP, HEARTBEAT and SAFE_SPI from the safety island's start,
the others once start-up has ended (R105, R538). -/
def Dev.driven (d : Dev) (bitNo : Nat) : Bool :=
  d.own.outen.getLsbD bitNo && (d.start == .done || ((bitNo == 17 || bitNo == 18 || bitNo == 26)
    && (d.start == .safetyRunning || d.start == .controlRunning || d.start == .ipmTrained)))

/-- The capture record (*Capture record*). -/
def captureRecord (at80 n : Nat) (rising : Bool) (seq : Nat) : Bytes :=
  padTo 64 (leBytes 10 at80 ++ [BitVec.ofNat 8 n, BitVec.ofNat 8 (bit rising)] ++ leBytes 4 seq)

/-- An edge at pin n at the present instant (R125, R126). The 100 ns run on the time base without its steps. -/
def tmrCapture (n : Nat) (rising : Bool) (d : Dev) : Dev :=
  let p := d.pin n
  let want := decide (n < 16) && ((p.mode = 1 && rising) || (p.mode = 2 && !rising) || p.mode = 3)
  if !want then d else
  if p.capAny && decide (d.time.mono < p.capMono + 100 * 65536) then
    d.setPin n fun p => { p with overrun := satInc p.overrun }
  else
    let seq := p.capSeq + 1
    let d := d.setPin n fun p => { p with cap := d.time.tb, capEdge := rising, capSeq := seq, capAny := true, capMono := d.time.mono }
    streamRecord (0x0800 + n) d.tb64 false (captureRecord d.time.tb n rising seq.toNat) d

/-- Pulse index k of a pin in tb80 (R127). -/
def TmrPin.pulseAt (p : TmrPin) (k : Nat) : Nat := p.start.toNat * 65536 + k * p.period.toNat

/-- An arming write is refused (R128). -/
def TmrPin.badArm (p : TmrPin) : Bool :=
  decide (p.mode.toNat < 4) || decide (p.width.toNat < 10) ||
  (p.mode == 5 && (decide (p.period.toNat < 200 * 65536) || decide (p.period.toNat ≤ p.width.toNat * 65536)))

/-- Setting ARM: refused with BADCFG, or started; a START less than 2 µs ahead sets LATE (R127, R128). -/
def tmrArm (n : Nat) (d : Dev) : Dev :=
  let p := d.pin n
  if p.badArm then d.setPin n fun p => { p with arm := false, badcfg := true } else
  let soon := d.time.tb + 2000 * 65536
  if soon ≤ p.pulseAt 0 then d.setPin n fun p => { p with arm := true, pending := true, next := 0, sent := 0 }
  else
    let d := ev 0x0406 0 (det [(16, [BitVec.ofNat 8 n])]) d
    if p.mode = 5 then
      let k := (soon - p.pulseAt 0 + p.period.toNat - 1) / max p.period.toNat 1
      d.setPin n fun p => { p with arm := true, late := true, pending := true, next := k, sent := k }
    else d.setPin n fun p => { p with arm := false, late := true, pending := false }

/-- Clearing ARM stops the pin after its pulse in progress (R128). -/
def tmrDisarm (n : Nat) (d : Dev) : Dev := d.setPin n fun p => { p with arm := false, pending := false }

/-- The level a pin shows during a pulse. -/
def TmrPin.activeLevel (p : TmrPin) : Bool := !p.polarity

/-- The pin's pulse in progress ends, and its next pulse starts, where their instants have come (R127, R129). -/
def tmrPulse (n : Nat) (d : Dev) : Dev :=
  let p := d.pin n
  let d := match p.pulseEnd with
    | some e =>
      if e ≤ d.time.tb then
        emit (.tmrEdge n (!p.activeLevel) e (d.driven n))
          (d.setPin n fun p => { p with pulseEnd := none, arm := p.arm && (p.mode == 5 || p.pending) })
      else d
    | none => d
  let p := d.pin n
  if p.pending && p.pulseEnd.isNone && decide (p.pulseAt p.next ≤ d.time.tb) then
    emit (.tmrEdge n p.activeLevel (p.pulseAt p.next) (d.driven n))
      (d.setPin n fun p => { p with
        pulseEnd := some (p.pulseAt p.next + p.width.toNat * 65536)
        pending := p.mode == 5
        next := p.next + 1
        sent := p.next + 1 })
  else d

/-- PPS_OUT: a pulse at each whole second of the time base (R131). -/
def ppsOut (d : Dev) : Dev :=
  let d := match d.time.ppsEnd with
    | some e => if e ≤ d.time.tb then
        emit (.ppsEdge false e (d.driven 16)) { d with time := { d.time with ppsEnd := none } } else d
    | none => d
  let s := d.time.tb / (65536 * sNs)
  if d.time.running && decide (d.time.ppsLast < s) then
    let at80 := s * 65536 * sNs
    emit (.ppsEdge true at80 (d.driven 16)) { d with time := { d.time with
      ppsLast := s, ppsSent := s, ppsEnd := some (at80 + d.time.widthMs.toNat * msNs * 65536) } }
  else d

/-! ### Time opcodes (R113, R135, R137) -/

/-- TIME_SELECT (R107, R113). A switch within STEP_LIMIT_US whose step of at most 20 ns would go below 0 is reduced and slewed, ALLOW_STEP or
not (DESIGN CHOICE, notes/assumptions/84.md). -/
def opTimeSelect : OpFn := fun c d =>
  let k := c.d.u8 24
  let allow := c.d.u8 25 == 1
  if 2 ≤ k || 2 ≤ c.d.u8 25 then opDone d .bad else
  let t := d.trk k
  let res (step rest : Int) : Cpl := .ok (sNat 64 (toNs step)) (sNat 32 (toNs rest))
  match d.time.st with
  | .freeRun =>
    if t.st == .disabled then opDone d (.conflict 0x0A01) else
    if t.st == .locked then
      if allow && t.offset < -(d.time.tb : Int) then opDone d (.conflict d.time.st.full) else
      let (d, step, rest) := startTracking k allow { d with time := { d.time with sel := k } }
      opDone d (res step rest)
    else opDone { d with time := { d.time with sel := k } } (res 0 0)
  | st =>
    if t.st != .locked then opDone d (.conflict t.st.full) else
    if withinLimit d k then
      let step := atLeastZero d.time.tb (max (-ns20) (min t.offset ns20))
      opDone (switchTo k d) (res step (t.offset - step))
    else if !allow || t.offset < -(d.time.tb : Int) then opDone d (.conflict st.full)
    else opDone (switchStepping k d) (res t.offset 0)

/-- TIME_SET: only in FREE_RUN; result0 is the tb64 before (R107, R114, R137). -/
def opTimeSet : OpFn := fun c d =>
  if d.time.st != .freeRun then opDone d (.conflict d.time.st.full) else
  let old := d.tb64
  let d' := stepBy (((c.d.f 32 8 * 65536 : Nat) : Int) - d.time.tb) true d
  opDone d' (.ok old)

/-- State code of a submission ring (*Ring states*). -/
def SqState.code : SqState → Nat
  | .absent => 0x0101 | .active => 0x0102 | .aborting => 0x0103 | .fault => 0x0104

/-- SET_LAUNCH_PERIOD: the ring must be ACTIVE or ABORTING; a period of 0 clears the grid (R135). -/
def opSetLaunchPeriod : OpFn := fun c d =>
  let n := c.d.u8 24
  if n = 0 || 64 ≤ n then opDone d .bad else
  let r := d.chan (.sq n)
  if r.st == .absent || r.st == .fault then opDone d (.conflict r.st.code) else
  let p := c.d.f 32 8
  opDone (d.setChan (.sq n) fun r => { r with grid := if p = 0 then none else some (c.d.f 40 8, p) }) .ok

/-- TIME_STATUS (R137). -/
def opTimeStatus : OpFn := fun _ d =>
  opDone d (.ok d.tb64 (d.time.st.code + 256 * d.time.sel + 65536 * d.time.holdErr.toNat))

/-! ### TIME_ and ETH_ registers written (R9, R109, R111, R124, R127, R128) -/

/-- Fields of TIME_CFG: an out-of-range field is ignored (*TIME_CFG*); lowering HOLD_MAX_S ends a holdover that
has lasted that long (R111). -/
def writeTimeCfg (v : Nat) (d : Dev) : Dev :=
  let ppb := bitsOf 27 8 v
  let lim := bitsOf 47 32 v
  let hold := bitsOf 63 48 v
  let x := d.time
  holdoverExpire { d with time := { x with
    auto := bitsOf 0 0 v == 1
    slewPpb := if 1000 ≤ ppb ∧ ppb ≤ 500000 then BitVec.ofNat 20 ppb else x.slewPpb
    stepLimitUs := if 1 ≤ lim then BitVec.ofNat 16 lim else x.stepLimitUs
    holdMaxS := if 60 ≤ hold then BitVec.ofNat 16 hold else x.holdMaxS } }

/-- TIME_TRKn_CFG: bits [31:1] are fixed while ENABLE is 1; setting ENABLE puts the track in LOST, clearing it
puts it in DISABLED at once (R110). A domain number above 127 is ignored for its field (DESIGN CHOICE, notes/assumptions/84.md). -/
def writeTrkCfg (k v : Nat) (d : Dev) : Dev :=
  let t := d.trk k
  let v := v % 2 ^ 32 - (if bitsOf 7 7 v = 1 then 128 else 0)
  if t.enabled then
    if v % 2 = 1 then d else
      let was := t.st
      let d := d.setTrk k fun t => { t with cfg := t.cfg &&& 0xFFFFFFFE }
      let d := trackTo k .disabled d
      let d := d.setTrk k fun t => { t with foreign := none, gmClass := 0 }
      if d.time.sel == k && was == .locked then selectedLost d else d
  else
    let v := if 128 ≤ bitsOf 15 8 v then v - bitsOf 15 8 v * 256 + t.domain * 256 else v
    let d := d.setTrk k fun t => { t with cfg := BitVec.ofNat 32 v }
    if v % 2 = 1 then trackTo k .lost (d.setTrk k fun t => { t with lastInput := d.now, good := 0, history := [] }) else d

/-- TIME_TMRn_CFG (R127, R128): MODE 6 and 7 are ignored for that field; MODE is fixed while ARM is 1. -/
def writeTmrCfg (n v : Nat) (d : Dev) : Dev :=
  let p := d.pin n
  let m := bitsOf 2 0 v
  let was := p.arm
  let d := d.setPin n fun p => { p with
    mode := if m < 6 ∧ !was then BitVec.ofNat 3 m else p.mode
    polarity := bitsOf 3 3 v == 1 }
  if bitsOf 4 4 v = 1 then (if was then d else tmrArm n d) else (if was then tmrDisarm n d else d)

/-- ETH_Pn_CTRL (R124). -/
def writeEthCtrl (n v : Nat) (d : Dev) : Dev :=
  let p := d.eth.getD n {}
  let on := bitsOf 0 0 v == 1
  let d := { d with eth := upd d.eth n fun p => { p with mode := BitVec.ofNat 3 (bitsOf 3 1 v), tc := bitsOf 4 4 v == 1 } }
  if p.enable == on then d else if on then ethPortOn n d else ethPortOff n d

end Sys2Proof.Machine
end

