-- ==== Sys2Proof/Machine/Touchstone.lean ====
section
/-! DEFINITION. The Touchstone units on their taps, and the device memory (spec/15 R472-R475; spec/08 R229). -/

namespace Sys2Proof.Machine

/-! ### Device memory (*Device address map*) -/

/-- Base of the exchange memory. -/
def exchBase : Nat := 0x002000000000
/-- Base of the exchange-memory flags. -/
def flagBase : Nat := 0x002100000000

/-- Bytes written to a device address. -/
def Dev.dput (d : Dev) (a : Nat) (b : Bytes) : Dev := { d with dmem := memWrite a b d.dmem }

/-- Bytes read from a device address. -/
def Dev.dget (d : Dev) (a n : Nat) : Bytes := memRead d.dmem a n

/-- Exchange-memory flag n (R233). -/
def Dev.flag (d : Dev) (n : Nat) : Nat := leNat (d.dget (flagBase + 4 * n) 4)

/-- An exchange-memory flag written whole (R233). -/
def Dev.setFlag (d : Dev) (n v : Nat) : Dev := d.dput (flagBase + 4 * n) (leBytes 4 v)

/-- An address lies in a store of *Device address map*. -/
def deviceAddr (a : Nat) : Bool :=
  (decide (a < 0x0800_0000 * 6) && decide (a % 0x0800_0000 < 0x0008_0000 * 24)) ||
  (decide (0x0010_0000_0000 ≤ a ∧ a < 0x0010_0000_0000 + 0x0100_0000 * 6)
    && decide ((a - 0x0010_0000_0000) % 0x0100_0000 < 12 * 1048576)) ||
  decide (exchBase ≤ a ∧ a < exchBase + 24 * 1048576) ||
  decide (flagBase ≤ a ∧ a < flagBase + 16384) ||
  decide (0x0022_0000_0000 ≤ a ∧ a < 0x0022_0000_0000 + 8 * 1048576) ||
  decide (0x0040_0000_0000 ≤ a ∧ a < 0x0040_0000_0000 + 14 * 1073741824)

/-- The engine whose local memory an address lies in. -/
def engineAt (a : Nat) : Option (Nat × Nat) :=
  let c := a / 0x0800_0000
  let e := a % 0x0800_0000 / 0x0008_0000
  if c < 6 ∧ e < 24 then some (c, e) else none

/-- Number of the store that holds an address; the engines of one cluster have adjoining stores. -/
def storeAt (a : Nat) : Nat := if a < 0x0010_0000_0000 then a / 0x0800_0000 else if a < 0x0020_0000_0000 then 16 + a / 0x0100_0000 else a / 0x0001_0000_0000

/-- Every byte of a range lies in a store: no range crosses the gap between two of them (R229). -/
def deviceRange (a n : Nat) : Bool :=
  deviceAddr a && (decide (n ≤ 1) || (deviceAddr (a + (n - 1)) && (storeAt a == storeAt (a + (n - 1)) || decide (0x0040_0000_0000 ≤ a))))

/-! ### Touchstone units -/

/-- Armed units whose tap and selector match start their stream (R474). -/
def tsBegin (tap : Nat) (sel : Nat → Bool) (d : Dev) : Dev :=
  { d with ts := d.ts.map fun u =>
    if u.st == .armed && u.tap.toNat == tap && sel u.sel.toNat then
      { u with st := .running, bytes := 0, crc := crcInit u.poly.toNat }
    else u }

/-- Running units on the tap cover these bytes (R473). -/
def tsFeed (tap : Nat) (sel : Nat → Bool) (b : Bytes) (d : Dev) : Dev :=
  { d with ts := d.ts.map fun u =>
    if u.st == .running && u.tap.toNat == tap && sel u.sel.toNat then
      { u with bytes := satAdd u.bytes b.length, crc := b.foldl (crcNext u.poly.toNat) u.crc }
    else u }

/-- The value of a unit at its stream's end. -/
def TsUnit.value (u : TsUnit) : Nat := crcDone u.poly.toNat u.crc

/-- The unit's value equals FLT_TSn_EXP in the low bits of the polynomial's width (R475). -/
def TsUnit.matched (u : TsUnit) : Bool :=
  u.value == u.expected.toNat % 2 ^ crcWidth u.poly.toNat

/-- One unit's stream ends: its value is kept and compared (R475). -/
def tsEndUnit (n : Nat) (d : Dev) : Dev :=
  let u := d.ts.getD n {}
  if u.st != .running then d else
  let d' := { d with ts := upd d.ts n fun u => { u with
    result := BitVec.ofNat 64 u.value
    st := if u.matched then .matched else .mismatched
    mismatch := u.mismatch || !u.matched } }
  if u.matched then d' else
  ev 0x0E05 1 (det [(16, [BitVec.ofNat 8 n]), (17, [BitVec.ofNat 8 u.tap.toNat]), (20, leBytes 8 u.value)])
    { d' with flt := { d'.flt with tsMismatch := satInc d'.flt.tsMismatch } }

/-- The stream of the tap's running units that match ends. -/
def tsEnd (tap : Nat) (sel : Nat → Bool) (d : Dev) : Dev :=
  (List.range 12).foldl (fun d n =>
    let u := d.ts.getD n {}
    if u.tap.toNat == tap && sel u.sel.toNat then tsEndUnit n d else d) d

/-- A unit armed or running takes no writes but DISARM (R474). -/
def TsUnit.busy (u : TsUnit) : Bool := u.st == .armed || u.st == .running

/-- FLT_TSn_CTRL written (R474, R475): DISARM ends an armed or running unit as ABANDONED; ARM arms it unless the
tap is 14 or 15 or the unit is fenced. -/
def writeTsCtrl (n v : Nat) (d : Dev) : Dev :=
  let u := d.ts.getD n {}
  if u.busy then
    if bitsOf 9 9 v = 1 then { d with ts := upd d.ts n fun u => { u with st := .abandoned } } else d
  else
    let tap := bitsOf 4 0 v
    let arm := bitsOf 8 8 v == 1 && tap != 14 && tap != 15 && u.st != .fenced && bitsOf 9 9 v == 0
    { d with ts := upd d.ts n fun u => { u with
      tap := BitVec.ofNat 5 tap, poly := BitVec.ofNat 2 (bitsOf 6 5 v), st := if arm then .armed else u.st } }

end Sys2Proof.Machine
end

