-- ==== Sys2Proof/Machine/FaultLog.lean ====
section
/-! DEFINITION. The fault log, error classes and the causes of base-metal mode (spec/15 R458, R476). -/

namespace Sys2Proof.Machine

/-- A class 1 fault: corrected and counted (R458). -/
def faultCorrected (n : Nat) (d : Dev) : Dev :=
  { d with flt := { d.flt with corrected := satAdd d.flt.corrected n } }

/-- Bytes 8-13 of a fault log entry, and its detail, as EV_FAULT carries them. -/
def LogEntry.evDetail (l : LogEntry) : Bytes :=
  [BitVec.ofNat 8 l.cls, BitVec.ofNat 8 l.kind] ++ leBytes 2 l.unit
    ++ [BitVec.ofNat 8 l.cause, BitVec.ofNat 8 l.action] ++ leBytes 8 l.detail

/-- The 32-byte fault log entry (*Fault log entry*). -/
def LogEntry.bytes (l : LogEntry) : Bytes :=
  leBytes 8 l.time ++ [BitVec.ofNat 8 l.cls, BitVec.ofNat 8 l.kind] ++ leBytes 2 l.unit
    ++ [BitVec.ofNat 8 l.cause, BitVec.ofNat 8 l.action, 0, 0] ++ leBytes 8 l.detail ++ List.replicate 8 0

/-- A fault of classes 2-8: logged, with EV_FAULT at most once a second for each class and unit (R458). -/
def logFault (cls kind unit cause action detail : Nat) (d : Dev) : Dev :=
  let e : LogEntry := { time := d.tb64, cls, kind, unit, cause, action, detail }
  let due := d.flt.evAt.all fun x =>
    !(x.1 == cls && x.2.1 == kind && x.2.2.1 == unit && decide (d.now < x.2.2.2 + sNs))
  let d := { d with flt := { d.flt with
    log := e :: d.flt.log
    uncorr := if cls = 2 then satInc d.flt.uncorr else d.flt.uncorr
    evAt := if due then (cls, kind, unit, d.now) :: d.flt.evAt.filter (fun x => !(x.1 == cls && x.2.1 == kind && x.2.2.1 == unit))
            else d.flt.evAt } }
  if due then ev 0x0E01 1 e.evDetail d else d

/-- A unit fenced on a fault: EV_UNIT_FENCED and FLT_CNT1.FENCES. -/
def unitFenced (kind unit cause : Nat) (d : Dev) : Dev :=
  ev 0x0E02 1 (det [(16, [BitVec.ofNat 8 kind]), (18, leBytes 2 unit), (20, [BitVec.ofNat 8 cause])])
    { d with flt := { d.flt with fences := satInc d.flt.fences } }

/-- A unit returned: EV_UNIT_RETURNED and FLT_CNT1.RETURNS. -/
def unitReturned (kind unit code : Nat) (d : Dev) : Dev :=
  ev 0x0E03 0 (det [(16, [BitVec.ofNat 8 kind]), (18, leBytes 2 unit), (20, [BitVec.ofNat 8 code])])
    { d with flt := { d.flt with returns := satInc d.flt.returns } }

/-- A cause of base-metal mode arises (R476); the entry itself follows in the same command. -/
def raiseCause (b : Nat) (d : Dev) : Dev :=
  { d with flt := { d.flt with causes := d.flt.causes ||| BitVec.ofNat 8 (2 ^ b) } }

/-- A cause of base-metal mode clears. -/
def clearCause (b : Nat) (d : Dev) : Dev :=
  { d with flt := { d.flt with causes := d.flt.causes &&& ~~~ BitVec.ofNat 8 (2 ^ b) } }

/-- An Assay begins on a unit (R469). -/
def beginAssay (kind unit : Nat) (why : AssayFor) (wasLive : Bool) (d : Dev) : Dev :=
  { d with flt := { d.flt with
    assays := d.flt.assays ++ [{ kind := kind, unit := unit, why := why, wasLive := wasLive, startAt := d.now }]
    assayRuns := d.flt.assayRuns + 1 } }

/-- Live control cores. -/
def Dev.liveCores (d : Dev) : Nat := (d.flt.core.filter (· == 0)).length

/-- Base-metal mode is in force, or one of its causes is present. -/
def Dev.inBase (d : Dev) : Bool := d.part == .baseMetal

/-- Code of an update state (spec/16, *Update states*). -/
def UpdSt.code : UpdSt → Nat
  | .idle => 0x0401 | .staging => 0x0402 | .staged => 0x0403 | .unstaging => 0x0404
  | .activating => 0x0405 | .trial => 0x0406 | .fallingBack => 0x0407 | .recovery => 0x0408

/-- The update state that keeps settings from being written, if it does (spec/16 R505; spec/03 R98; spec/12 R363). -/
def Dev.settingsLocked (d : Dev) : Option Nat :=
  match d.trust.st with
  | .activating | .trial | .fallingBack => some d.trust.st.code
  | _ => none

end Sys2Proof.Machine
end

