-- ==== Sys2Proof/Machine/Compute.lean ====
section
/-! DEFINITION. Clusters and engines: tasks, deques and stealing, roles and their messages, reduction rounds and the
utilisation ceiling (spec/07). -/

namespace Sys2Proof.Machine

def Dev.clus (d : Dev) (c : Nat) : Cluster := d.comp.cl.getD c {}
def Dev.eng (d : Dev) (c e : Nat) : Engine := (d.clus c).eng.getD e {}
def Dev.setClus (d : Dev) (c : Nat) (f : Cluster → Cluster) : Dev :=
  { d with comp := { d.comp with cl := upd d.comp.cl c f } }
def Dev.setEng (d : Dev) (c e : Nat) (f : Engine → Engine) : Dev :=
  d.setClus c fun k => { k with eng := upd k.eng e f }
def Dev.task (d : Dev) (id : Nat) : Option Task := d.comp.tasks.find? fun k => k.id == id
def Dev.setTask (d : Dev) (id : Nat) (f : Task → Task) : Dev :=
  { d with comp := { d.comp with tasks := d.comp.tasks.map fun k => if k.id = id then f k else k } }
def Dev.work (d : Dev) (id : Nat) : Option Work := d.comp.works.find? fun w => w.id == id
def Dev.setWork (d : Dev) (id : Nat) (f : Work → Work) : Dev :=
  { d with comp := { d.comp with works := d.comp.works.map fun w => if w.id = id then f w else w } }

/-- State code of an engine in CLUn_ENGm_STAT. -/
def EngSt.code : EngSt → Nat
  | .gated => 0 | .live => 1 | .fenced => 2 | .assay => 3

/-- Cluster clock of a DVFS step in MHz (*DVFS steps*). -/
def stepMhz (s : Nat) : Nat := 600 + 200 * s

/-- Worst-case power of a cluster's matrix arrays at a step, in 10 mW (*DVFS steps*). -/
def stepPower (s : Nat) : Nat := [85, 114, 142, 170, 198, 263, 340, 429, 533].getD s 533

/-- Live engines of a cluster. -/
def Dev.liveIn (d : Dev) (c : Nat) : Nat :=
  if (d.clus c).on then ((d.clus c).eng.filter fun e => e.st == .live).length else 0

/-- Live engines of the enabled clusters (FLT_FENCE.LIVE). -/
def Dev.liveEngines (d : Dev) : Nat := ((List.range 6).map d.liveIn).sum

/-- Live engines of a cluster, and of the enabled clusters, that are not about to leave service (R463, R471). -/
def Dev.keptIn (d : Dev) (c : Nat) : Nat :=
  if (d.clus c).on then ((d.clus c).eng.filter fun e => e.st == .live && e.leaving.isNone).length else 0
def Dev.keptEngines (d : Dev) : Nat := ((List.range 6).map d.keptIn).sum

/-- Engines of the enabled clusters that are fenced or under Assay. -/
def Dev.fencedEngines (d : Dev) : Nat :=
  ((List.range 6).map fun c =>
    if (d.clus c).on then ((d.clus c).eng.filter fun e => e.st == .fenced || e.st == .assay).length else 0).sum

/-- Number of an engine in an event's unit field and in a unit designator. -/
def engUnit (c e : Nat) : Nat := c * 256 + e

/-- An event of the compute array (*Compute array events*). -/
def evComp (c e code sev : Nat) (dt : Bytes) (d : Dev) : Dev := evFrom 9 (engUnit c e) code sev dt d

/-! ### Readiness and placement (R206, R214) -/

/-- A flag watch is met. -/
def Dev.watchMet (d : Dev) (w : Watch) : Bool :=
  let f := d.flag w.flag
  decide (2 ^ 31 ≤ f % 2 ^ 32) && (f &&& w.mask) == w.value

/-- The engine that a role's directory entry names. -/
def Dev.roleAt (d : Dev) (kind obj : Nat) : Option RoleEntry :=
  d.comp.dir.find? fun r => r.kind == kind && r.obj == obj

/-- A ready queue has room (R214). -/
def Dev.queueRoom (d : Dev) (c : Nat) : Bool := decide ((d.clus c).ready.length < 4096)

/-- A ready task that finds its cluster's ready queue full is held back until there is room, and never dropped (R214). -/
def holdBack (c id : Nat) (d : Dev) : Dev :=
  d.setTask id fun k => { k with st := .waiting, cluster := c, preds := [], watches := [] }

/-- Tasks go to the end of a cluster's ready queue, as many as it has room for (R214). -/
def queueTail (c : Nat) (ids : List Nat) (d : Dev) : Dev :=
  ids.foldl (fun d id =>
    if d.queueRoom c then d.setClus c fun q => { q with ready := q.ready ++ [id] } else holdBack c id d) d

/-- A task goes to the head of a cluster's ready queue; where the queue was full, its last task is held back (R214, R461). -/
def queueHead (c id : Nat) (d : Dev) : Dev :=
  let d := if d.queueRoom c then d else
    match (d.clus c).ready.getLast? with
    | some l => holdBack c l (d.setClus c fun q => { q with ready := q.ready.dropLast })
    | none => d
  d.setClus c fun q => { q with ready := id :: q.ready }

/-- Tasks go to the bottom of an engine's deque; what does not fit goes to the cluster's ready queue (R214). -/
def dequeTail (c e : Nat) (ids : List Nat) (d : Dev) : Dev :=
  ids.foldl (fun d id =>
    if (d.eng c e).deque.length < 128 then d.setEng c e fun x => { x with deque := x.deque ++ [id] } else queueTail c [id] d) d

/-- Where a ready task goes: a deque, or the ready queue (*Affinity*, R214). -/
def placeTask (k : Task) (d : Dev) : Dev :=
  let d := d.setTask k.id fun k => { k with st := .queued, readyAt := d.now }
  let toQueue (c : Nat) (d : Dev) : Dev := queueTail c [k.id] d
  let toDeque (c e : Nat) (d : Dev) : Dev := dequeTail c e [k.id] d
  match k.affinity, k.role with
  | 0, some r =>
    match d.roleAt r.1 r.2 with
    | some x => toDeque x.cluster x.engine (d.setTask k.id fun k => { k with cluster := x.cluster, engine := x.engine })
    | none => toQueue k.cluster d
  | 1, _ => if (d.eng k.cluster k.engine).st == .live then toDeque k.cluster k.engine d else toQueue k.cluster d
  | _, _ => toQueue k.cluster d

/-- Waiting tasks whose watches fall within the 256 that their cluster holds (R206). -/
def Dev.watched (d : Dev) (c : Nat) : List Task :=
  ((d.comp.tasks.filter fun k => k.st == .waiting && k.cluster == c).foldl
    (fun (s : List Task × Nat) k =>
      let n := s.2 + k.watches.length
      if n ≤ 256 then (k :: s.1, n) else s) ([], 0)).1.reverse

/-- Tasks whose predecessors have committed and whose watches are met become ready (R206, R214). -/
def readyTasks (d : Dev) : Dev :=
  (List.range 6).foldl (fun d c =>
    (d.watched c).foldl (fun d k =>
      if k.preds.isEmpty && k.watches.all d.watchMet && d.queueRoom c then placeTask k d else d) d) d

/-- Tasks of a piece of work are created from its plan (spec/07, "Tasks"). -/
def addTasks (work cluster cls : Nat) (roleOf : Nat → Option (Nat × Nat)) (plan : List PlanTask) (d : Dev) : Dev :=
  let base := d.comp.nextId
  let tasks := plan.mapIdx fun i (p : PlanTask) =>
    ({ id := base + i, work := work, idx := i, cls := cls, affinity := p.affinity, cluster := cluster, engine := p.engine,
       role := if p.affinity = 0 then roleOf p.engine else none, cycles := p.cycles,
       deadline := if cls = 0 then p.deadline else none, preds := p.preds.map (base + ·), watches := p.watches,
       inBytes := p.inBytes, regions := p.regions, copies := p.copies } : Task)
  { d with comp := { d.comp with tasks := d.comp.tasks ++ tasks, nextId := base + plan.length } }

/-- A piece of work begins in a cluster, and its tasks are created. -/
def addWork (kind : WorkKind) (cluster cls : Nat) (roleOf : Nat → Option (Nat × Nat)) (plan : List PlanTask) (d : Dev) : Dev :=
  let id := d.comp.nextId
  addTasks id cluster cls roleOf plan
    { d with comp := { d.comp with nextId := id + 1, works := d.comp.works ++ [{ id := id, kind := kind, cluster := cluster }] } }

/-- Tasks withdrawn from a cluster's ready queue and deques. -/
def Cluster.strip (ids : List Nat) (q : Cluster) : Cluster :=
  let out (l : List Nat) : List Nat := l.filter fun n => !ids.contains n
  { q with ready := out q.ready, eng := q.eng.map fun x => { x with deque := out x.deque } }

/-- Tasks withdrawn and stopped where they run. -/
def Cluster.stop (ids : List Nat) (q : Cluster) : Cluster :=
  { q.strip ids with eng := (q.strip ids).eng.map fun e =>
      { e with running := e.running.bind fun n => if ids.contains n then none else some n } }

/-- A piece of work and its tasks leave the array; its queued tasks are withdrawn, and a running one is stopped. -/
def dropWork (id : Nat) (d : Dev) : Dev :=
  let ids := (d.comp.tasks.filter fun k => k.work == id).map (·.id)
  { d with comp := { d.comp with
      works := d.comp.works.filter fun w => w.id != id
      tasks := d.comp.tasks.filter fun k => k.work != id
      copyq := d.comp.copyq.filter fun x => !(x.task.any ids.contains)
      cl := d.comp.cl.map (Cluster.stop ids) } }

/-! ### Taking work (R210-R215) -/

/-- The descriptor that a piece of cluster work runs for (R132). -/
def Dev.workTok (d : Dev) (id : Nat) : Option Tok :=
  (d.work id).bind fun w => match w.kind with
    | .infer t _ _ => some t
    | .solve s _ => ((d.solver.getD s {}).solving).map (·.tok)
    | _ => none

/-- The timed descriptor of a piece of cluster work that no engine has begun (R132). -/
def Dev.unbegun (d : Dev) (id : Nat) : Option (Tok × Pend) :=
  (d.workTok id).bind fun t => (d.pendOf t).bind fun p => if p.launch = 0 || p.begun then none else some (t, p)

/-- The instant by which timed cluster work must have been begun has passed (R134). -/
def Dev.pastTol (d : Dev) (id : Nat) : Bool :=
  match d.unbegun id with
  | some (_, p) => decide (p.launch + d.time.tolUs.toNat * usNs < d.tb64)
  | none => false

/-- An engine may take a task: not one it has failed on, none but pose-critical work while the cluster is HELD, and a
PINNED task only of its own role once that is rebuilt (R215, R219, R224, R461); none of timed work whose time to start is over (R134). -/
def Dev.mayTake (d : Dev) (c e : Nat) (k : Task) : Bool :=
  let x := d.eng c e
  !k.failedOn.contains (c, e) && !d.pastTol k.work && (!(d.clus c).held || k.cls == 0) &&
    (k.affinity != 0 || (match k.role with
      | some r => decide (x.kind.toNat = r.1) && decide (x.obj.toNat = r.2) && !x.rebuilding
      | none => true))

/-- The tasks named by a list of numbers. -/
def Dev.tasksOf (d : Dev) (l : List Nat) : List Task := l.filterMap d.task

/-- The first task of the highest class. -/
def firstOfClass (l : List Task) : Option Task :=
  (l.find? fun k => k.cls == 0).or ((l.find? fun k => k.cls == 1).or (l.find? fun k => k.cls == 2))

/-- The tasks an engine may take from its own deque, bottom first. -/
def Dev.ownTasks (d : Dev) (c e : Nat) : List Task := ((d.tasksOf (d.eng c e).deque).filter (d.mayTake c e)).reverse

/-- The tasks it may take from its cluster's ready queue, oldest first. -/
def Dev.queueTasks (d : Dev) (c e : Nat) : List Task := (d.tasksOf (d.clus c).ready).filter (d.mayTake c e)

/-- The engine's next task from its own deque: a task of its role first, then bottom first (R210, R215). -/
def Dev.ownTask (d : Dev) (c e : Nat) : Option Task :=
  (firstOfClass ((d.ownTasks c e).filter fun k => k.affinity == 0)).or (firstOfClass (d.ownTasks c e))

/-- The engine's next task from its cluster's ready queue: a task of its role that its deque had no room for, else the highest
class, then oldest (R210, R215). -/
def Dev.queueTask (d : Dev) (c e : Nat) : Option Task :=
  (firstOfClass ((d.queueTasks c e).filter fun k => k.affinity == 0)).or (firstOfClass (d.queueTasks c e))

/-- What an engine takes without stealing: its role's tasks first (R215), then its own pose-critical task, then one of the ready
queue, which may not wait for lower work of the engine's deque (R211), then deque and queue (R210). Where R210's order and
R211 differ, R211 decides (DEDUCED, notes/assumptions/87.md). -/
def Dev.nextTask (d : Dev) (c e : Nat) : Option Task :=
  let role (l : List Task) : Option Task := firstOfClass (l.filter fun k => k.affinity == 0)
  let pose (l : List Task) : Option Task := l.find? fun k => k.cls == 0
  (role (d.ownTasks c e)).or <| (role (d.queueTasks c e)).or <| (pose (d.ownTasks c e)).or <| (pose (d.queueTasks c e)).or <|
    (d.ownTask c e).or (d.queueTask c e)

/-- Victims of a local steal, in probe order (R212). -/
def Dev.victims (d : Dev) (c e : Nat) : List Nat :=
  (((List.range 23).map fun i => (e + 1 + i) % 24).filter fun v => (d.eng c v).st == .live).take (d.clus c).probes.toNat

/-- The tasks that an engine may steal from another's deque, oldest first. -/
def Dev.stealable (d : Dev) (c e v : Nat) : List Task :=
  (d.tasksOf (d.eng c v).deque).filter fun k => k.affinity != 0 && d.mayTake c e k

/-- A pose-critical task in another engine's deque, which the first engine of the cluster to finish runs before its own lower work,
wherever in the cluster it waits (R211; DEDUCED, notes/assumptions/87.md). -/
def Dev.poseSteal (d : Dev) (c e : Nat) : Option Task :=
  let higher (k : Task) : Bool := k.cls == 0 || (k.affinity == 0 && k.role.isSome)
  if (d.nextTask c e).any higher then none else
  ((List.range 23).map fun i => (e + 1 + i) % 24).findSome? fun v =>
    if (d.eng c v).st == .live then (d.stealable c e v).find? fun k => k.cls == 0 else none

/-- A local steal: the oldest task of the highest class at the first victim that has one (R212). -/
def Dev.localSteal (d : Dev) (c e : Nat) : Option Task :=
  let may (v : Nat) : List Task := d.stealable c e v
  let best (cls : Nat) : Option Task :=
    (d.victims c e).findSome? fun v => (may v).find? fun k => k.cls == cls
  (best 0).or ((best 1).or (best 2))

/-- A remote steal: an ANY task of a cluster in which one of its class has waited longer than 20 µs (R213). -/
def Dev.remoteSteal (d : Dev) (c e : Nat) : Option Task :=
  if !(d.clus c).remoteIn then none else
  let others := ((List.range 5).map fun i => (c + 1 + i) % 6).filter fun v => (d.clus v).on && (d.clus v).remoteOut
  let queued (v : Nat) : List Task :=
    d.tasksOf ((d.clus v).ready ++ ((d.clus v).eng.map (·.deque)).flatten)
  let best (cls : Nat) : Option Task := others.findSome? fun v =>
    let l := (queued v).filter fun k => k.cls == cls
    if l.any fun k => decide (k.readyAt + 20 * usNs < d.now) then
      l.find? fun k => k.affinity == 3 && d.mayTake c e k
    else none
  (best 0).or ((best 1).or (best 2))

/-- The first engine begins a piece of timed work (R132). -/
def workBegins (id : Nat) (d : Dev) : Dev :=
  match d.unbegun id with
  | some (t, p) => launchBegins t p d
  | none => d

/-- The task leaves every queue and starts on the engine, with no cycles spent (R209); its copy lists go to its cluster's copy engines
(R210-R213, R256). -/
def startTask (c e : Nat) (k : Task) (d : Dev) : Dev :=
  let jobs := k.copies.map fun x =>
    ({ ce := 2 * c + x.ce % 2, cls := k.cls, cluster := c, engine := e, src := x.src, dst := x.dst, len := x.len, task := some k.id } : CopyJob)
  let d := workBegins k.work d
  let d := { d with comp := { d.comp with cl := d.comp.cl.map (Cluster.strip [k.id]), copyq := d.comp.copyq ++ jobs } }
  (d.setTask k.id fun k => { k with st := .running c e, startAt := d.now, spent := 0, cluster := c }).setEng c e fun x =>
    { x with running := some k.id }

/-- The engine can take work. -/
def Dev.idleEngine (d : Dev) (c e : Nat) : Bool :=
  (d.clus c).on && (d.eng c e).st == .live && (d.eng c e).running.isNone && (d.eng c e).leaving.isNone

/-- A free engine takes its next task (R210). -/
def taskDispatch (c e : Nat) (d : Dev) : Dev :=
  if !d.idleEngine c e then d else
  match d.poseSteal c e with
  | some k => startTask c e k (d.setClus c fun q => { q with stealLocal := q.stealLocal + 1 })
  | none =>
  match d.nextTask c e with
  | some k => startTask c e k d
  | none =>
    match d.localSteal c e with
    | some k => startTask c e k (d.setClus c fun q => { q with stealLocal := q.stealLocal + 1 })
    | none =>
      match d.remoteSteal c e with
      | some k => startTask c e k (d.setClus c fun q => { q with stealRemote := q.stealRemote + 1 })
      | none => d

/-! ### Roles (R215-R219) -/

/-- Roles in a cluster that count towards the limit of 20 for a role of this kind: RECURRENT and TENSOR_HOLDER roles (R267), and
for a SOLVER_BLOCK role those of its own kind too, of which a cluster holds at most 20 (spec/11 CLUn ROLES; DEDUCED,
notes/assumptions/89.md). -/
def Dev.rolesIn (d : Dev) (kind c : Nat) : Nat :=
  ((d.clus c).eng.filter fun e => e.kind == 1 || e.kind == 2 || (e.kind == 3 && kind == 3)).length

/-- An engine that can take a role. -/
def Engine.vacant (e : Engine) : Bool := e.st == .live && e.kind == 0 && e.leaving.isNone

/-- Roles of a kind that a cluster has room for (R267, R268). -/
def Dev.roleRoom (d : Dev) (kind c : Nat) : Nat :=
  if (d.clus c).on then min (20 - d.rolesIn kind c) ((d.clus c).eng.filter (·.vacant)).length else 0

/-- The engine that takes a role in a cluster: the lowest-numbered live engine without one, where there is room (R267). -/
def Dev.roleEngine (d : Dev) (kind c : Nat) : Option Nat :=
  if d.roleRoom kind c = 0 then none else (List.range 24).find? fun e => (d.eng c e).vacant

/-- The engine that takes a moved role: in its own cluster first, then in the others by number. -/
def Dev.moveTarget (d : Dev) (kind c : Nat) : Option (Nat × Nat) :=
  (c :: (List.range 6).filter (· != c)).findSome? fun k => (d.roleEngine kind k).map fun e => (k, e)

/-- The epoch of a role's next move. -/
def Dev.nextEpoch (d : Dev) (kind obj : Nat) : Nat :=
  (match d.comp.epochs.find? fun x => x.1 == kind && x.2.1 == obj with
    | some x => x.2.2 + 1
    | none => 1) % 65536

/-- A role is placed on an engine under a raised epoch; the engine then rebuilds its state (R216). The role's PINNED
tasks go with it in the order in which they were queued (R219), and messages that waited for the role are sent (R218). -/
def placeRole (kind obj c e : Nat) (old : Option (Nat × Nat)) (d : Dev) : Dev :=
  let ep := d.nextEpoch kind obj
  let mine := (d.comp.tasks.filter fun k => k.affinity == 0 && k.role == some (kind, obj) && k.st == .queued).map (·.id)
  let queued := d.comp.cl.flatMap fun q => q.eng.flatMap (·.deque) ++ q.ready
  let order := (queued ++ mine).eraseDups.filter fun n => mine.contains n
  let entry : RoleEntry := { kind := kind, obj := obj, cluster := c, engine := e, epoch := ep }
  let d := { d with comp := { d.comp with
      epochs := (kind, obj, ep) :: d.comp.epochs.filter fun x => !(x.1 == kind && x.2.1 == obj)
      dir := d.comp.dir.filter (fun (r : RoleEntry) => !(r.kind == kind && r.obj == obj)) ++ [entry]
      cl := d.comp.cl.map (Cluster.strip mine) } }
  let d := d.setEng c e fun x => { x with
    kind := BitVec.ofNat 4 kind, obj := BitVec.ofNat 32 obj, epoch := BitVec.ofNat 16 ep
    rebuilding := true, movedFrom := old, acted := [] }
  let follow (k : Task) : Task :=
    if k.affinity == 0 && k.role == some (kind, obj) && k.st != .committed then { k with cluster := c, engine := e } else k
  let send (f : MsgFlight) : MsgFlight :=
    if f.toC = 255 && f.msg.kind == kind && f.msg.obj == obj then { f with toC := c, toE := e, msg := { f.msg with epoch := ep } } else f
  dequeTail c e order { d with comp := { d.comp with tasks := d.comp.tasks.map follow, net := d.comp.net.map send } }

/-- The engine's role ends on it: it accepts no more messages for the role (R216). Those it had received and not acted on wait
for the role's next engine, before any that are still on their way (R218; DESIGN CHOICE, notes/assumptions/87.md). -/
def clearRole (c e : Nat) (d : Dev) : Dev :=
  let next (f : MsgFlight) : MsgFlight :=
    match d.roleAt f.msg.kind f.msg.obj with
    | some r => { f with toC := r.cluster, toE := r.engine, msg := { f.msg with epoch := r.epoch } }
    | none => { f with toC := 255, toE := 255 }
  let d := { d with comp := { d.comp with net := (d.eng c e).inbox.map next ++ d.comp.net } }
  d.setEng c e fun x => { x with kind := 0, obj := 0, epoch := 0, rebuilding := false, movedFrom := none, inbox := [], acted := [] }

/-- A role whose object is unloaded: no engine holds it. -/
def freeRole (kind obj : Nat) (d : Dev) : Dev :=
  match d.roleAt kind obj with
  | none => d
  | some r =>
    let d := { d with comp := { d.comp with dir := d.comp.dir.filter fun r => !(r.kind == kind && r.obj == obj) } }
    if r.cluster < 6 then clearRole r.cluster r.engine d else d

/-- A role leaves an engine for another, the directories first (R216). With no engine free for it, it waits for one. -/
def moveRole (c e : Nat) (d : Dev) : Dev :=
  let x := d.eng c e
  if x.kind == 0 then d else
  let kind := x.kind.toNat
  let obj := x.obj.toNat
  match d.moveTarget kind c with
  | some (nc, ne) => clearRole c e (placeRole kind obj nc ne (some (c, e)) d)
  | none =>
    let d := { d with comp := { d.comp with dir := d.comp.dir.map fun r =>
      if r.kind == kind && r.obj == obj then { r with cluster := 255, engine := 255 } else r } }
    clearRole c e d

/-- Roles that wait for an engine take one. -/
def placeWaitingRoles (d : Dev) : Dev :=
  (d.comp.dir.filter fun r => r.cluster == 255).foldl (fun d r =>
    match d.moveTarget r.kind 0 with
    | some (c, e) => placeRole r.kind r.obj c e (some (255, 255)) d
    | none => d) d

/-- The new holder has rebuilt the role's state and accepts messages (R216). -/
def roleRebuilt (c e : Nat) (d : Dev) : Dev :=
  let x := d.eng c e
  if !x.rebuilding then d else
  let old := x.movedFrom.getD (255, 255)
  evComp c e 0x0903 0
    (det [(16, [BitVec.ofNat 8 x.kind.toNat, BitVec.ofNat 8 old.1, BitVec.ofNat 8 old.2, BitVec.ofNat 8 c, BitVec.ofNat 8 e]),
          (22, leBytes 2 x.epoch.toNat), (24, leBytes 4 x.obj.toNat)])
    (d.setEng c e fun x => { x with rebuilding := false, movedFrom := none })

/-! ### Messages (R217, R218) -/

/-- A message is sent to the engine that the directory names; one to a role that no directory lists waits for the role. While an
older message from this sender to the role is on its way, the new one follows it, so that they keep their order (R218). -/
def sendMsg (c e : Nat) (m : EngMsg) (d : Dev) : Dev :=
  let older := d.comp.net.reverse.find? fun f => f.fromC == c && f.fromE == e && f.msg.kind == m.kind && f.msg.obj == m.obj
  let f : MsgFlight := match older, d.roleAt m.kind m.obj with
    | some f, _ => { f with msg := { m with epoch := f.msg.epoch } }
    | none, some r => { fromC := c, fromE := e, toC := r.cluster, toE := r.engine, msg := m }
    | none, none => { fromC := c, fromE := e, toC := 255, toE := 255, msg := m }
  { d with comp := { d.comp with net := d.comp.net ++ [f] } }

/-- The oldest message on its way to an engine arrives. The holder of its role at its epoch takes it, while its queue of
32 has room; any other engine bounces it with its own current role, and its sender reads the directory again and re-sends it
and its later messages to the role, in order; for a role that waits for an engine they wait with it (R217, R218). -/
def engineMessage (c e : Nat) (d : Dev) : Dev :=
  match d.comp.net.find? fun f => f.toC == c && f.toE == e with
  | none => d
  | some f =>
    let x := d.eng c e
    let mine := decide (x.kind.toNat = f.msg.kind) && decide (x.obj.toNat = f.msg.obj) && decide (x.epoch.toNat = f.msg.epoch)
    if mine && decide (x.kind.toNat ≠ 0) then
      if 32 ≤ x.inbox.length then d else
      { d with comp := { d.comp with net := d.comp.net.erase f } }.setEng c e fun x => { x with inbox := x.inbox ++ [f] }
    else
      let (nc, ne, ep) := match d.roleAt f.msg.kind f.msg.obj with
        | some r => (r.cluster, r.engine, r.epoch)
        | none => (255, 255, f.msg.epoch)
      let d := (d.setClus c fun q => { q with bounces := satInc q.bounces }).setEng f.fromC f.fromE fun y =>
        { y with told := some (x.kind.toNat, x.obj.toNat, x.epoch.toNat) }
      { d with comp := { d.comp with net := d.comp.net.map fun g =>
        if g.fromC == f.fromC && g.fromE == f.fromE && g.msg.kind == f.msg.kind && g.msg.obj == f.msg.obj then
          { g with toC := nc, toE := ne, msg := { g.msg with epoch := ep } }
        else g } }

/-- Engines whose role's state is in place act on the messages they have received, in order (R216-R218). -/
def actMessages (d : Dev) : Dev :=
  let act (x : Engine) : Engine :=
    if x.rebuilding || x.inbox.isEmpty then x else { x with acted := x.acted ++ x.inbox.map (·.msg), inbox := [] }
  { d with comp := { d.comp with cl := d.comp.cl.map fun q => { q with eng := q.eng.map act } } }

/-! ### Reduction rounds (R220, R221) -/

/-- Rounds in flight: 8 in a cluster, 4 across the network; later ones wait (*Reductions*). -/
def Comp.inFlight (k : Comp) (r : Round) : Bool :=
  let before := k.rounds.takeWhile fun x => x.id != r.id
  if r.cross then decide ((before.filter (·.cross)).length < 4)
  else decide ((before.filter fun x => !x.cross && x.cluster == r.cluster).length < 8)

/-- A committed task's contribution to a round, which its first contribution opens (R220). A partition that was
contributed stays. -/
def contribute (c : Nat) (k : Contrib) (d : Dev) : Dev :=
  let rounds := if d.comp.rounds.any (fun r => r.id == k.round) then d.comp.rounds else
    d.comp.rounds ++ [{ id := k.round, cluster := c, cross := k.cross, elem := k.elem, op := k.op, parts := k.parts,
                        target := k.target, dest := k.dest, firstAt := d.now }]
  let d := { d with comp := { d.comp with rounds := rounds } }
  { d with comp := { d.comp with rounds := rounds.map fun r =>
    if r.id = k.round && r.got.all (fun g => g.1 != k.part) then { r with
      got := (k.part, k.vals) :: r.got
      whole := decide (r.parts ≤ r.got.length + 1) && (r.firstAt == d.now || !d.comp.inFlight r) }
    else r } }

/-- Every partition has been contributed: the round's result and its RANGE bit, in the fixed pairing by partition number where
every partition was present at once, else in the order of arrival (R221). -/
def Round.value (r : Round) : List Int × Bool :=
  if r.whole then reduceTree r.elem r.op ((inOrder r.got fun a b => decide (a.1 ≤ b.1)).map (·.2))
  else reduce r.elem r.op (r.got.reverse.map (·.2))

/-- A round is complete and may be delivered. -/
def Comp.complete (k : Comp) (r : Round) : Bool := decide (r.parts ≤ r.got.length) && k.inFlight r

/-- A range of cluster shared memory (spec/08 *Device addresses*). -/
def sharedRange (a n : Nat) : Bool :=
  (List.range 6).any fun c => decide (0x0010_0000_0000 + 0x0100_0000 * c ≤ a) && decide (a + n ≤ 0x0010_0000_0000 + 0x0100_0000 * c + 12582912)

/-- Bytes of an element. -/
def elemBytes (elem : Nat) : Nat := if elem = 1 then 8 else if elem = 2 then 10 else 4

/-- A round of a plan is delivered to cluster shared memory or to the control complex (R220). -/
def deliverRound (r : Round) (d : Dev) : Dev :=
  let v := r.value
  let d := { d with comp := { d.comp with rounds := d.comp.rounds.filter fun x => x.id != r.id } }
  if r.target = 0 then
    let d := if v.2 then { d with comp := { d.comp with ranged := r.id :: d.comp.ranged } } else d
    let b := (v.1.map fun x => leBytes (elemBytes r.elem) (sNat (8 * elemBytes r.elem) x)).flatten
    if sharedRange r.dest b.length then d.dput r.dest b else d
  else { d with comp := { d.comp with results := (r.id, v.1, v.2) :: d.comp.results } }

/-! ### The utilisation ceiling (R222-R224) -/

/-- U_pc of a cluster in whole percent, with `extra` planned cycles added (R222). -/
def Dev.uPc (d : Dev) (c extra live : Nat) : Nat :=
  let due := d.tb64 + 10 * msNs
  let cyc := ((d.comp.tasks.filter fun k => k.cluster == c && k.cls == 0 && k.st != .committed &&
    (match k.deadline with
      | some x => decide (d.tb64 ≤ x ∧ x < due)
      | none => false)).map (·.cycles)).sum + extra
  if live = 0 then (if cyc = 0 then 0 else 127) else cyc * 100 / (stepMhz (d.clus c).step * 10000 * live)

/-- U_pc exceeds CEILING, judged on the exact fraction. -/
def Dev.overCeiling (d : Dev) (c extra live : Nat) : Bool :=
  let due := d.tb64 + 10 * msNs
  let cyc := ((d.comp.tasks.filter fun k => k.cluster == c && k.cls == 0 && k.st != .committed &&
    (match k.deadline with
      | some x => decide (d.tb64 ≤ x ∧ x < due)
      | none => false)).map (·.cycles)).sum + extra
  decide ((d.clus c).ceiling.toNat * (stepMhz (d.clus c).step * 10000 * live) < cyc * 100)

/-- A fence (cause 0) or a clock step (cause 1) may raise a cluster's U_pc: the next computation judges it (R222, R224). -/
def mayRise (c cause : Nat) (d : Dev) : Dev := d.setClus c fun q => { q with rise := some cause }

/-- One cluster's computation: U_pc is shown, a rise above CEILING by a fence or a clock step sets HELD with EV_CEILING,
and ms with HELD set are counted (R222, R224). -/
def upcOne (c : Nat) (d : Dev) : Dev :=
  let q := d.clus c
  if !q.on then d else
  let live := d.liveIn c
  let u := min 127 (d.uPc c 0 live)
  let above := d.overCeiling c 0 live
  let d := d.setClus c fun q => { q with
    pcUtil := BitVec.ofNat 7 u
    heldMs := if q.held then satInc q.heldMs else q.heldMs
    withinAt := if !q.held || above then none else q.withinAt.or (some d.now)
    rise := if above then q.rise else none }
  match above && !q.held, q.rise with
  | true, some cause =>
    evComp c 0xFF 0x0901 1
      (det [(16, [BitVec.ofNat 8 c, BitVec.ofNat 8 u, BitVec.ofNat 8 live, BitVec.ofNat 8 cause])])
      (d.setClus c fun q => { q with held := true, withinAt := none })
  | _, _ => d

/-- Every 1 ms the part computes U_pc of each enabled cluster (R222). -/
def upcUpdate (d : Dev) : Dev := (List.range 6).foldl (fun d c => upcOne c d) d

/-- HELD clears once U_pc has stayed within CEILING for 100 ms (R224). -/
def holdClear (c : Nat) (d : Dev) : Dev :=
  let q := d.clus c
  match q.held, q.withinAt with
  | true, some a =>
    if d.now < a + 100 * msNs || d.overCeiling c 0 (d.liveIn c) then d else
    evComp c 0xFF 0x0902 0 (det [(16, [BitVec.ofNat 8 c, BitVec.ofNat 8 (min 127 (d.uPc c 0 (d.liveIn c)))])])
      (d.setClus c fun q => { q with held := false, withinAt := none })
  | _, _ => d

/-- Pose-critical work is placed only where U_pc stays within CEILING with it: the first of the clusters given that has
room, or none (R223). -/
def Dev.poseCluster (d : Dev) (cycles : Nat) (l : List Nat) : Option Nat :=
  l.find? fun c => (d.clus c).on && !d.overCeiling c cycles (d.liveIn c)

/-- A cluster's clock changes: what its running tasks have spent is counted at the clock they ran at (R209). -/
def setStep (c step : Nat) (d : Dev) : Dev :=
  let mhz := stepMhz (d.clus c).step
  let on (k : Task) : Bool := match k.st with
    | .running x _ => x == c
    | _ => false
  let spend (k : Task) : Task := if on k then { k with spent := k.spent + (d.now - k.startAt) * mhz, startAt := d.now } else k
  { d with comp := { d.comp with tasks := d.comp.tasks.map spend } }.setClus c fun q => { q with step := step }

/-! ### Bounds (R227, R228) -/

/-- Loops and copy lists cut at their bound: counted, with EV_BOUND_HIT at most once a second and cluster. -/
def boundHits (c n : Nat) (d : Dev) : Dev :=
  if n = 0 then d else
  let d := d.setClus c fun q => { q with boundHit := satAdd q.boundHit n, cuts := d.tally n q.cuts }
  let due := match (d.clus c).cutEvAt with
    | none => true
    | some a => decide (a + sNs ≤ d.now)
  if due then
    evComp c 0xFF 0x0904 0 (det [(16, [BitVec.ofNat 8 c]), (20, leBytes 4 (counted (d.clus c).cuts))])
      (d.setClus c fun q => { q with cutEvAt := some d.now })
  else d

/-! ### CLU_ registers written -/

/-- CLUn_CEIL. -/
def writeCluCeil (c v : Nat) (d : Dev) : Dev :=
  let x := bitsOf 6 0 v
  d.setClus c fun q => { q with ceiling := if 50 ≤ x ∧ x ≤ 95 then BitVec.ofNat 7 x else q.ceiling }

/-- CLUn_STEAL. -/
def writeCluSteal (c v : Nat) (d : Dev) : Dev :=
  let p := bitsOf 12 8 v
  d.setClus c fun q => { q with
    remoteOut := bitsOf 0 0 v == 1, remoteIn := bitsOf 1 1 v == 1
    probes := if 1 ≤ p ∧ p ≤ 23 then BitVec.ofNat 5 p else q.probes }

/-! ### Deques of an engine that leaves (R461) -/

/-- The tasks of an engine's deque go to the cluster ready queue in their order; its role moves with its PINNED tasks. -/
def evacuate (c e : Nat) (d : Dev) : Dev :=
  let d := moveRole c e d
  let l := (d.eng c e).deque
  queueTail c l (d.setEng c e fun x => { x with deque := [] })

/-- A failed task is ready again: at the head of its class in the cluster ready queue, or of its role engine's deque
(R461). -/
def requeueTask (k : Task) (d : Dev) : Dev :=
  let d := d.setTask k.id fun k => { k with st := .queued, readyAt := d.now, spent := 0 }
  let d := { d with comp := { d.comp with copyq := d.comp.copyq.filter fun x => x.task != some k.id } }
  match k.affinity, k.role with
  | 0, some r =>
    match d.roleAt r.1 r.2 with
    | some x => if x.cluster < 6 then dequeTail x.cluster x.engine [k.id] d else queueHead k.cluster k.id d
    | none => queueHead k.cluster k.id d
  | _, _ => queueHead k.cluster k.id d

end Sys2Proof.Machine
end

