-- ==== Sys2Proof/Machine/Sensor.lean ====
section
/-! DEFINITION. Sensor ingress: cameras, IMUs, CAN, GNSS, lidar and host samples, and the alignment slots
(spec/05). -/

namespace Sys2Proof.Machine

def Dev.sensor (d : Dev) (i : Nat) : Sensor := d.sens.s.getD i {}

def Dev.setSensor (d : Dev) (i : Nat) (f : Sensor → Sensor) : Dev :=
  { d with sens := { d.sens with s := upd d.sens.s i f } }

/-- Kind of sensor map entry i in the record in force (R140). An entry is used where its kind is not 0; sensor_count limits none
(DESIGN CHOICE, notes/assumptions/83.md). -/
def Dev.kind (d : Dev) (i : Nat) : Nat := if i < 32 then d.se i 0 1 else 0

/-- stamp_offset_ns of entry i. -/
def Dev.stampOffset (d : Dev) (i : Nat) : Int := sInt 32 (d.se i 4 4)

/-- Time of validity of a stamp: the stamp less stamp_offset_ns, as tb64 (R138); 0 where it would fall below
(DESIGN CHOICE, notes/assumptions/97.md). -/
def Dev.tovOf (d : Dev) (i at80 : Nat) : Nat := (((at80 / 65536 : Nat) : Int) - d.stampOffset i).toNat

/-- Bytes whose value the spec leaves open. -/
def Dev.freeBytes (d : Dev) (n : Nat) : Bytes := (List.range n).map fun i => BitVec.ofNat 8 (Config.freeValue (d.free + i))

/-! ### Slots (R156-R160) -/

/-- The 64-byte sample record (*Sample record*). -/
def Sample.record (x : Sample) : Bytes :=
  leBytes 10 x.stamp ++ [BitVec.ofNat 8 x.sensor, BitVec.ofNat 8 x.kind] ++ leBytes 2 x.flags.toNat ++ [0, 0]
    ++ leBytes 8 x.arrival.toNat ++ padTo 40 x.payload

/-- The slot's sample as a snapshot made at tb64 `at64` shows it, with the instant at which its acceptance completed: the latest that was
accepted before (R158). -/
def Sensor.acceptedBefore (s : Sensor) (at64 : Nat) : Option (Nat × Sample) :=
  if s.slot.isNone then none else s.past.find? fun p => decide (p.1 < at64)

def Sensor.before (s : Sensor) (at64 : Nat) : Option Sample := (s.acceptedBefore at64).map (·.2)

/-- The accepted samples to keep for snapshots, with a new one. -/
def Sensor.keep (s : Sensor) (at64 : Nat) (x : Sample) : List (Nat × Sample) :=
  let recent := s.past.takeWhile fun p => decide (at64 ≤ p.1 + sNs)
  (at64, x) :: recent ++ (s.past.drop recent.length).take 1

/-- A sample judged for its slot: accepted if its tov is later than the slot's or the slot is empty, else counted
in LATE; either way it is passed to the estimator's measurement queue (R156, R157, R160). -/
def acceptSample (x : Sample) (d : Dev) : Dev :=
  let i := x.sensor
  let s := d.sensor i
  if !s.enabled then d else
  let d := { d with sens := { d.sens with meas := d.sens.meas ++ [x] } }
  let ok := match s.slot with
    | none => true
    | some y => decide (y.tov.toNat < x.tov.toNat)
  if ok then
    let d := d.setSensor i fun s => { s with slot := some x, past := s.keep d.tb64 x, accepted := s.accepted + 1, lastAt := d.now, silent := false }
    let d := if s.silent then ev 0x0602 0 (det [(16, [BitVec.ofNat 8 i])]) d else d
    if bitsOf 1 1 (d.se i 2 1) = 1 then streamRecord (0x0100 + i) x.tov.toNat false x.record d else d
  else d.setSensor i fun s => { s with late := satInc s.late }

/-- The sample would be dropped under R157. -/
def Dev.isLate (d : Dev) (i tov : Nat) : Bool :=
  match (d.sensor i).slot with
  | none => false
  | some y => decide (tov ≤ y.tov.toNat)

/-- Four periods without an accepted sample post EV_SENSOR_SILENT once (R160). -/
def sensorSilence (i : Nat) (d : Dev) : Dev :=
  let s := d.sensor i
  let p := d.se i 8 4
  if s.enabled && d.kind i != 0 && p != 0 && !s.silent && decide (s.lastAt + 4 * p * 1000 ≤ d.now) then
    ev 0x0601 1 (det [(16, [BitVec.ofNat 8 i])]) (d.setSensor i fun s => { s with silent := true })
  else d

/-- A sample in progress when its sensor is disabled is discarded, and its slot is emptied (R159). -/
def disableSensor (i : Nat) (d : Dev) : Dev :=
  let d := d.setSensor i fun s => { s with enabled := false, slot := none, past := [], filling := none, held := none, silent := false }
  { d with sens := { d.sens with
    csi := d.sens.csi.map fun p => { p with rx := p.rx.filter fun r => r.sensor != i }
    imu := d.sens.imu.map fun p => match p.busy with
      | some r => if r.sensor == i then { p with busy := none } else p
      | none => p } }

/-- A sensor is enabled: it takes the first sample whose acquisition begins from now on (R159). -/
def enableSensor (i : Nat) (d : Dev) : Dev :=
  if (d.sensor i).enabled then d else
  let d := { d with est := { d.est with imu := d.est.imu.filter fun x => x.1 != i } }
  d.setSensor i fun s => { s with enabled := true, enabledAt := d.now, lastAt := d.now, silent := false }

/-- FULL of SF_SLOT_STATE. -/
def Dev.slotBits (d : Dev) : Nat :=
  (List.range 32).foldl (fun a i => a + (if (d.sensor i).slot.isSome then 2 ^ i else 0)) 0

/-! ### Cameras (R142-R144, R161) -/

/-- Bytes that a camera's three buffers, or a lidar entry's ring, take of the ingress region (R143). -/
def Dev.ingressBytes (d : Dev) (i : Nat) : Nat :=
  if d.kind i = 1 && d.se i 3 1 == 0 then 3 * d.se i 60 2 * d.se i 62 2
  else if d.kind i = 5 then d.se i 80 2 * 1024 else 0

/-- Byte offset of an entry's ingress storage in exchange memory: entries in sensor index order
(DESIGN CHOICE, notes/assumptions/16.md). -/
def Dev.ingressAt (d : Dev) (i : Nat) : Nat := (List.range i).foldl (fun a k => a + d.ingressBytes k) 0

/-- The enabled camera entry of a port and virtual channel. -/
def Dev.cameraOf (d : Dev) (port vc : Nat) : Option Nat :=
  (List.range 32).find? fun i =>
    d.kind i == 1 && d.se i 1 1 == port && d.se i 56 1 == vc && (d.sensor i).enabled

def Dev.csi (d : Dev) (p : Nat) : CsiPort := d.sens.csi.getD p {}

def Dev.setCsi (d : Dev) (p : Nat) (f : CsiPort → CsiPort) : Dev :=
  { d with sens := { d.sens with csi := upd d.sens.csi p f } }

/-- A packet header with `ecc` 1 is corrected and counted; with a larger value it is uncorrectable, and the packet
is discarded and counted (R144). `none` says that the packet goes no further. -/
def csiHeader (p ecc : Nat) (d : Dev) : Dev × Bool :=
  if !(d.csi p).enable || decide (12 ≤ p) then (d, false)
  else if ecc = 0 then (d, true)
  else if ecc = 1 then (d.setCsi p fun c => { c with eccCorr := satInc c.eccCorr }, true)
  else (d.setCsi p fun c => { c with hdrDrop := satInc c.hdrDrop }, false)

/-- The 8 most significant bits of each pixel, or Y of YUV422, of a long packet's payload (R143); the packing is
MIPI CSI-2's (PRESUMED, notes/assumptions/17.md). -/
def pixels8 (dataType : Nat) (b : Bytes) : Bytes :=
  let every (n : Nat) (keep : Nat → Bool) := (b.zipIdx.filter fun p => keep (p.2 % n)).map (·.1)
  match dataType with
  | 0x2A => b
  | 0x2B => every 5 fun k => decide (k < 4)
  | 0x2C => every 3 fun k => decide (k < 2)
  | 0x2D => every 7 fun k => decide (k < 4)
  | 0x2E => every 2 fun k => k == 0
  | 0x1E => every 2 fun k => k == 1
  | _ => []

/-- Touchstone selector of a CSI-2 tap: virtual channel and data type (R161). -/
def csiSel (vc : Nat) (dt : Option Nat) (sel : Nat) : Bool :=
  bitsOf 3 0 sel == vc && (match dt with
    | some t => bitsOf 13 8 sel == t
    | none => true)

/-- Frame Start begins a frame of the camera on the port and channel (R142, R159, R161). -/
def csiFrameStart (p vc frameNo ecc : Nat) (d : Dev) : Dev :=
  let (d, ok) := csiHeader p ecc d
  if !ok then d else
  let d := tsBegin p (csiSel vc none) d
  match d.cameraOf p vc with
  | none => d
  | some i =>
    d.setCsi p fun c => { c with
      lanesUp := BitVec.ofNat 4 (2 ^ d.se i 58 1 - 1)
      rx := { sensor := i, vc := vc, frameNo := BitVec.ofNat 16 frameNo, grab := (d.sensor i).grab.isSome }
            :: c.rx.filter fun r => r.vc != vc }

/-- A long packet of pixel data: one line of its frame, kept even with a payload CRC error (R143, R144);
`lead80` is its duration, so that its start of transmission is stamped. Only packets of the entry's data_type are lines, the first and the
last of a frame among them (DESIGN CHOICE, notes/assumptions/97.md). -/
def csiLongPacket (p vc dt : Nat) (data : Bytes) (crcOk : Bool) (ecc lead80 : Nat) (d : Dev) : Dev :=
  let (d, ok) := csiHeader p ecc d
  if !ok then d else
  let d := tsFeed p (csiSel vc (some dt)) data d
  let d := if crcOk then d else d.setCsi p fun c => { c with crcErr := satInc c.crcErr }
  match (d.csi p).rx.find? fun r => r.vc == vc with
  | none => d
  | some r =>
    if dt != d.se r.sensor 57 1 then d else
    let w := d.se r.sensor 60 2
    let h := d.se r.sensor 62 2
    let row := pixels8 dt data
    let short := w - row.length
    let row := row.take w ++ d.freeBytes short
    let d := { d with free := d.free + short }
    let keep := decide (r.lines < h)
    let d := if keep && d.se r.sensor 3 1 == 0 then
        d.dput (exchBase + d.ingressAt r.sensor + (d.sensor r.sensor).nextBuf * (w * h) + r.lines * w) row
      else d
    d.setCsi p fun c => { c with rx := c.rx.map fun x => if x.vc == vc then { x with
      firstLine := some (x.firstLine.getD (d.time.tb - lead80))
      lastLine := d.time.tb
      lines := if keep then x.lines + 1 else x.lines
      crcLines := if crcOk then x.crcLines else x.crcLines + 1
      rows := if keep then row :: x.rows else x.rows } else x }

/-- A camera frame's sample (*Sample record*, camera payload). -/
def Dev.cameraSample (d : Dev) (r : FrameRx) (stamp first stored : Nat) : Sample :=
  let i := r.sensor
  let h := d.se i 62 2
  { stamp := stamp, sensor := i, kind := 1
    flags := BitVec.ofNat 16 ((if 0 < r.crcLines then 4 else 0) + (if r.lines < h then 8 else 0))
    arrival := BitVec.ofNat 64 d.tb64, tov := BitVec.ofNat 64 (d.tovOf i stamp)
    payload := leBytes 10 first ++ leBytes 2 (d.se i 60 2) ++ leBytes 2 r.lines
      ++ leBytes 1 (d.se i 57 1) ++ leBytes 1 r.vc ++ leBytes 2 r.frameNo.toNat ++ leBytes 2 r.crcLines ++ leBytes 4 stored }

/-- EV_CSI_ERROR, at most once a second and port (*Sensor events*). -/
def csiErrorEvent (p vc lines : Nat) (d : Dev) : Dev :=
  let due := match (d.csi p).errAt with
    | none => true
    | some a => decide (a + sNs ≤ d.now)
  if 0 < lines && due then
    ev 0x0603 0 (det [(16, [BitVec.ofNat 8 p]), (17, [BitVec.ofNat 8 vc]), (20, leBytes 2 lines)])
      (d.setCsi p fun c => { c with errAt := some d.now })
  else d

/-- A pending FRAME_GRAB takes the frame (R163): its lines, and open bytes for lines not received. -/
def grabFrame (r : FrameRx) (tov : Nat) (d : Dev) : Dev :=
  match (d.sensor r.sensor).grab with
  | some t =>
    if !r.grab then d else
    let w := d.se r.sensor 60 2
    let h := d.se r.sensor 62 2
    let miss := (h - r.lines) * w
    let img := r.rows.reverse.flatten ++ d.freeBytes miss
    let d := { d with free := d.free + miss }
    let d := d.setSensor r.sensor fun s => { s with grab := none }
    match d.pendOf t with
    | none => d
    | some p =>
      let c : Cpl := if r.lines < h then .flagged 8 tov else .ok tov
      finish t { c with dest := some (p.d.f 32 8), payload := img } d
  | none => d

/-- Frame End completes a frame: its record, its stored buffer, a pending grab, its slot. The frame is returned
for the vision pipes (R138, R143, R144). -/
def csiFrameEnd (p vc _frameNo ecc : Nat) (d : Dev) : Dev × Option (FrameRx × Sample) :=
  let (d, ok) := csiHeader p ecc d
  if !ok then (d, none) else
  let d := tsEnd p (csiSel vc none) d
  let d := d.setCsi p fun c => { c with frames := c.frames + 1 }
  match (d.csi p).rx.find? fun r => r.vc == vc with
  | none => (d, none)
  | some r =>
    let d := d.setCsi p fun c => { c with rx := c.rx.filter fun x => x.vc != vc }
    let i := r.sensor
    -- a frame with no long packet has no event to stamp: its stamps are free values, not later than its arrival (R139)
    let stamp := if r.firstLine.isSome then r.lastLine else d.freeVal % (d.time.tb + 1)
    let first := r.firstLine.getD (d.useFree.freeVal % (stamp + 1))
    let d := if r.firstLine.isSome then d else d.useFree.useFree
    let w := d.se i 60 2
    let h := d.se i 62 2
    let route0 := d.se i 3 1 == 0
    let buf := (d.sensor i).nextBuf
    let off := d.ingressAt i + buf * (w * h)
    let x := d.cameraSample r stamp first (if route0 then off else 0xFFFFFFFF)
    let d := if route0 then d.setSensor i fun s => { s with nextBuf := (s.nextBuf + 1) % 3, stored := { tov := x.tov.toNat, first := first, addr := exchBase + off, lines := r.lines } :: s.stored.take 1 } else d
    let d := csiErrorEvent p vc r.crcLines d
    let d := grabFrame r x.tov.toNat d
    (acceptSample x d, some (r, x))

/-- A deskew calibration is received and applied above 1,500 Mb/s (R142). -/
def csiDeskew (p : Nat) (d : Dev) : Dev :=
  let fast := (List.range 32).any fun i => d.kind i == 1 && d.se i 1 1 == p && decide (1500 < d.se i 64 2)
  if (d.csi p).enable && fast then d.setCsi p fun c => { c with deskewed := true } else d

/-! ### IMUs (R145-R147) -/

/-- The enabled IMU entry of a port value; an edge of a disabled one begins no read (DESIGN CHOICE, notes/assumptions/97.md). -/
def Dev.imuOf (d : Dev) (v : Nat) : Option Nat :=
  (List.range 32).find? fun i => d.kind i == 2 && d.se i 1 1 == v && (d.sensor i).enabled

/-- A data-ready edge: stamped and read, or counted in OVERRUN while a read is in progress (R145, R146). The transaction holds its chip
select low, in the entry's SPI mode and clock. -/
def imuDrdy (p cs : Nat) (falling : Bool) (d : Dev) : Dev :=
  if 2 ≤ p || 2 ≤ cs then d else
  match d.imuOf (2 * p + cs) with
  | none => d
  | some i =>
    if (bitsOf 2 2 (d.se i 2 1) == 1) != falling then d else
    if (d.sens.imu.getD p {}).busy.isSome then
      { d with sens := { d.sens with imu := upd d.sens.imu p fun m => { m with overrun := satInc m.overrun } } }
    else
      emit (.imuRead p cs (d.se i 56 1) (d.se i 58 2) (BitVec.ofNat 8 (d.se i 57 1)) (d.se i 60 1) (d.driven (19 + p)))
        { d with sens := { d.sens with imu := upd d.sens.imu p fun m =>
          { m with busy := some { sensor := i, stamp := d.time.tb } } } }

/-- Word w of a read (R145): signed, in the byte order of the entry's word field; bytes past the read are zero
(DESIGN CHOICE, notes/assumptions/97.md). -/
def imuWord (b : Bytes) (word w : Nat) : Int :=
  let n := if bitsOf 2 0 word = 4 then 4 else 2
  let x := sliceAt b (w * n) n
  sInt (8 * n) (if bitsOf 3 3 word = 1 then beNat x else leNat x)

/-- One axis: word, scale and exponent, f, the axis_map byte (R147). -/
def imuAxis (b : Bytes) (word map m e f : Nat) : Int × Bool :=
  if bitsOf 6 6 map = 1 then (0, false) else
  let v := scaleWord (imuWord b word (bitsOf 4 0 map)) m e f
  sat32 (if bitsOf 7 7 map = 1 then -v else v)

/-- The six outputs of an IMU read, and whether one saturated (R147). -/
def Dev.imuConvert (d : Dev) (i : Nat) (b : Bytes) : Bytes × Bool :=
  let ax := (List.range 6).map fun k =>
    imuAxis b (d.se i 61 1) (d.se i (62 + k) 1)
      (if k < 3 then d.se i 68 4 else d.se i 76 4) (if k < 3 then d.se i 72 1 else d.se i 73 1) (if k < 3 then 16 else 27)
  ((ax.map fun a => leBytes 4 (sNat 32 a.1)).flatten, ax.any (·.2))

/-- A read ends: the sample is converted and judged for its slot (R138, R139, R147). -/
def imuReadDone (p : Nat) (data : Bytes) (d : Dev) : Dev :=
  match (d.sens.imu.getD p {}).busy with
  | none => d
  | some r =>
    let d := { d with sens := { d.sens with imu := upd d.sens.imu p fun m => { m with busy := none, reads := m.reads + 1 } } }
    let (pay, sat) := d.imuConvert r.sensor (padTo (d.se r.sensor 60 1) data)
    acceptSample { stamp := r.stamp, sensor := r.sensor, kind := 2, flags := if sat then 2 else 0,
                   arrival := BitVec.ofNat 64 d.tb64, tov := BitVec.ofNat 64 (d.tovOf r.sensor r.stamp), payload := pay } d

/-! ### CAN (R148-R150) -/

/-- The port only monitors: its transmitter is high impedance (R149). -/
def Dev.canMonitor (d : Dev) (p : Nat) : Bool := !d.driven (21 + p)

/-- One signal of a matching entry: its value in Q15.16 and whether it saturated, or `none` beyond the data
(R150). Signal block k starts at byte 66 + 8 k of the entry. -/
def Dev.canSignal (d : Dev) (i k : Nat) (data : Bytes) : Option (Int × Bool) :=
  let o := 66 + 8 * k
  let start := d.se i o 1
  let len := d.se i (o + 1) 1
  let fl := d.se i (o + 2) 1
  if 8 * data.length < start + len then none else
  let raw := (if bitsOf 1 1 fl = 1 then beNat data else leNat data) >>> start % 2 ^ len
  let v := if bitsOf 0 0 fl = 1 then sInt len raw else (raw : Int)
  some (sat32 (scaleWord v (d.se i (o + 4) 4) (d.se i (o + 3) 1) 16))

/-- A matching entry takes the frame as a sample, or counts it in BAD (R150). -/
def canTake (i id : Nat) (ext fd brs : Bool) (data : Bytes) (lead80 : Nat) (d : Dev) : Dev :=
  if !(d.sensor i).enabled || decide (d.now < (d.sensor i).enabledAt + lead80 / 65536) then d else
  let sig := (List.range (min (d.se i 57 1) 4)).map fun k => d.canSignal i k data
  if sig.any Option.isNone then d.setSensor i fun s => { s with bad := satInc s.bad } else
  let v := sig.filterMap fun x => x
  let stamp := d.time.tb - lead80
  acceptSample
    { stamp := stamp, sensor := i, kind := 3, flags := if v.any (·.2) then 2 else 0,
      arrival := BitVec.ofNat 64 d.tb64, tov := BitVec.ofNat 64 (d.tovOf i stamp)
      payload := padTo 16 (v.map fun x => leBytes 4 (sNat 32 x.1)).flatten
        ++ leBytes 4 (id % 2 ^ 29 + (if ext then 2 ^ 31 else 0)) ++ [BitVec.ofNat 8 data.length,
           BitVec.ofNat 8 (bit fd + 2 * bit brs)] } d
/-- The entry names the frame's port and identifier (R150). -/
def Dev.canMatches (d : Dev) (p id : Nat) (ext : Bool) (i : Nat) : Bool :=
  d.kind i == 3 && d.se i 1 1 == p && (bitsOf 0 0 (d.se i 56 1) == 1) == ext &&
  (id &&& d.se i 62 4) == (d.se i 58 4 &&& d.se i 62 4)

/-- Fault confinement state of the error counters (R149; ISO 11898-1:2015, PRESUMED, notes/assumptions/18.md). -/
def canState (recCount tecCount : Nat) : Nat :=
  if 256 ≤ tecCount then 2 else if 128 ≤ tecCount || 128 ≤ recCount then 1 else 0

/-- EV_CAN_STATE. -/
def evCan (p st : Nat) (d : Dev) : Dev :=
  ev 0x0604 (if st = 0 then 0 else 1) (det [(16, [BitVec.ofNat 8 p]), (17, [BitVec.ofNat 8 st])]) d

/-- A frame received without error lowers the receive error counter: by one up to 127, above that to a value from 119 to 127, which is
free (ISO 11898-1:2015, PRESUMED, notes/assumptions/18.md). -/
def canGood (p : Nat) (d : Dev) : Dev :=
  let c := d.sens.can.getD p {}
  let down := if c.recCount ≤ 127 then c.recCount - 1 else 119 + d.freeVal % 9
  let d := if c.recCount ≤ 127 then d else d.useFree
  let st := canState down c.tecCount
  let d := { d with sens := { d.sens with can := upd d.sens.can p fun c => { c with recCount := down, state := st } } }
  if st = c.state then d else evCan p st d

/-- A data frame received on a CAN port (R148-R150): remote frames are ignored, FD frames while FD is 0 are not
accepted, and the frame is acknowledged, and counts for fault confinement, unless the port only monitors. -/
def canFrameRx (p id : Nat) (ext fd brs remote : Bool) (data : Bytes) (lead80 : Nat) (d : Dev) : Dev :=
  let c := d.sens.can.getD p {}
  if 2 ≤ p || remote || (fd && !c.live.getLsbD 4) || (c.state == 2 && !d.canMonitor p) then d else
  let d := { d with sens := { d.sens with can := upd d.sens.can p fun c => { c with frames := c.frames + 1 } } }
  let d := if d.canMonitor p then d else emit (.canAck p) (canGood p d)
  let l := (List.range 32).filter (d.canMatches p id ext)
  if l.isEmpty then
    { d with sens := { d.sens with can := upd d.sens.can p fun c => { c with noMatch := satInc c.noMatch } } }
  else l.foldl (fun d i => canTake i id ext fd brs data lead80 d) d

/-- A bus error (R149): the error frame is counted; the counters take the values that ISO 11898-1 gives them, which
the command carries, unless the port only monitors; a change of state posts EV_CAN_STATE. -/
def canBusError (p recCount tecCount : Nat) (d : Dev) : Dev :=
  if 2 ≤ p then d else
  let d := { d with sens := { d.sens with can := upd d.sens.can p fun c => { c with errFrames := satInc c.errFrames } } }
  if d.canMonitor p then d else
  let old := (d.sens.can.getD p {}).state
  if old = 2 then d else
  let st := canState recCount tecCount
  let d := emit (.canError p) { d with sens := { d.sens with can := upd d.sens.can p fun c =>
    { c with recCount := min recCount 255, tecCount := min tecCount 511, state := st } } }
  if st = old then d else evCan p st d

/-- 128 occurrences of 11 recessive bits return a bus-off port to error-active (R149). -/
def canBusOffRecovery (p : Nat) (d : Dev) : Dev :=
  if (d.sens.can.getD p {}).state = 2 && !d.canMonitor p then
    evCan p 0 { d with sens := { d.sens with can := upd d.sens.can p fun c => { c with recCount := 0, tecCount := 0, state := 0 } } }
  else d

/-- A written SF_CANn_CFG takes effect at the next bus idle. -/
def canConfigApply (p : Nat) (d : Dev) : Dev :=
  { d with sens := { d.sens with can := upd d.sens.can p fun c => { c with live := c.cfg } } }

/-- SF_CANn_CFG written: an out-of-range sample point is ignored (*SF_CANn_CFG*). -/
def writeCanCfg (p v : Nat) (d : Dev) : Dev :=
  { d with sens := { d.sens with can := upd d.sens.can p fun c =>
    let o := c.cfg.toNat
    let nom := bitsOf 12 6 v
    let dat := bitsOf 19 13 v
    { c with cfg := BitVec.ofNat 32 (bitsOf 4 0 v
      + atBit 6 (if 50 ≤ nom ∧ nom ≤ 90 then nom else bitsOf 12 6 o)
      + atBit 13 (if 50 ≤ dat ∧ dat ≤ 90 then dat else bitsOf 19 13 o)) } } }

/-! ### GNSS (R151, R152) -/

/-- Bytes between commas. -/
def splitComma : Bytes → List Bytes
  | [] => [[]]
  | b :: r =>
    match splitComma r with
    | [] => [[b]]
    | f :: l => if b = 0x2C then [] :: f :: l else (b :: f) :: l

/-- A decimal number as (digits, number of decimals). -/
def decimal (b : Bytes) : Option (Nat × Nat) :=
  if b.isEmpty then none else
  b.foldl (fun a c => match a with
    | none => none
    | some (m, k, dot) =>
      if c = 0x2E then (if dot then none else some (m, k, true))
      else if 0x30 ≤ c.toNat ∧ c.toNat ≤ 0x39 then some (m * 10 + (c.toNat - 0x30), if dot then k + 1 else k, dot)
      else none) (some (0, 0, false)) |>.map fun x => (x.1, x.2.1)

/-- A signed decimal number. -/
def sDecimal (b : Bytes) : Option (Int × Nat) :=
  match b with
  | 0x2D#8 :: r => (decimal r).map fun x => (-(x.1 : Int), x.2)
  | _ => (decimal b).map fun x => ((x.1 : Int), x.2)

/-- round(v × 2^f / 10^k), ties away from zero (notes/assumptions/19.md). -/
def decFixed (v : Int) (k f den : Nat) : Int :=
  let n := v.natAbs * 2 ^ f
  let q := (2 * n + 10 ^ k * den) / (2 * (10 ^ k * den))
  if v < 0 then -(q : Int) else q

/-- A hexadecimal digit. -/
def hexDigit (c : Byte) : Option Nat :=
  let n := c.toNat
  if 0x30 ≤ n ∧ n ≤ 0x39 then some (n - 0x30)
  else if 0x41 ≤ n ∧ n ≤ 0x46 then some (n - 0x37)
  else if 0x61 ≤ n ∧ n ≤ 0x66 then some (n - 0x57) else none

/-- A sentence from its "$" on: its address and data fields where the checksum after "*" is right (NMEA 0183). -/
def nmeaFields (s : Bytes) : Option (List Bytes) :=
  match s with
  | 0x24#8 :: r =>
    let body := r.takeWhile (· != 0x2A)
    match r.drop body.length with
    | 0x2A#8 :: h1 :: h0 :: _ =>
      match hexDigit h1, hexDigit h0 with
      | some a, some b => if body.foldl (fun x c => x ^^^ c.toNat) 0 = 16 * a + b then some (splitComma body) else none
      | _, _ => none
    | _ => none
  | _ => none

/-- hhmmss.sss as ns of the day. -/
def dayNs (b : Bytes) : Option Nat :=
  match decimal b with
  | none => none
  | some (m, k) =>
    let hms := m / 10 ^ k
    let frac := m % 10 ^ k
    some ((hms / 10000 * 3600 + hms / 100 % 100 * 60 + hms % 100) * sNs + frac * sNs / 10 ^ k)

/-- Days from 1970-01-01 to a date of the Gregorian calendar. -/
def daysFrom1970 (y m day : Nat) : Nat :=
  let y' := if m ≤ 2 then y - 1 else y
  let era := y' / 400
  let yoe := y' - era * 400
  let mp := (m + 9) % 12
  let doy := (153 * mp + 2) / 5 + day - 1
  era * 146097 + (yoe * 365 + yoe / 4 - yoe / 100 + doy) - 719468

/-- Kind of the sentence: the three letters after the talker. -/
def nmeaType (f : List Bytes) : Bytes := (f.getD 0 []).drop 2

/-- A two-digit year names 1980-2079 (PRESUMED, notes/assumptions/19.md). -/
def fullYear (y : Nat) : Nat := if y < 80 then 2000 + y else 1900 + y

/-- UTC of a ZDA or RMC sentence in ns since 1970. -/
def sentenceUtc (f : List Bytes) : Option Nat :=
  let n (k : Nat) : Option Nat := (decimal (f.getD k [])).map (·.1)
  if nmeaType f = [0x5A, 0x44, 0x41] then
    match dayNs (f.getD 1 []), n 2, n 3, n 4 with
    | some t, some dd, some mm, some yy => some (daysFrom1970 yy mm dd * 86400 * sNs + t)
    | _, _, _, _ => none
  else if nmeaType f = [0x52, 0x4D, 0x43] then
    match dayNs (f.getD 1 []), n 9 with
    | some t, some ymd => some (daysFrom1970 (fullYear (ymd % 100)) (ymd / 100 % 100) (ymd / 10000) * 86400 * sNs + t)
    | _, _ => none
  else none

/-- ddmm.mmm and its hemisphere in Q8.55 degrees. -/
def degrees (b hemi : Bytes) : Option Int :=
  match decimal b with
  | none => none
  | some (m, k) =>
    let dd := m / 10 ^ k / 100
    let mins := m - dd * 100 * 10 ^ k
    let v := decFixed ((dd * 60 * 10 ^ k + mins : Nat) : Int) k 55 60
    some (if hemi = [0x53] || hemi = [0x57] then -v else v)

/-- The GNSS payload of a GGA sentence (*Payload by kind*): the height is altitude plus geoid separation (R152). What an empty field
would give is not stated: it is a free value, `free` 0 to 5 (notes/assumptions/19.md). -/
def ggaPayload (free : Nat → Nat) (f : List Bytes) : Bytes :=
  let num (k : Nat) : Option (Int × Nat) := sDecimal (f.getD k [])
  let la := (degrees (f.getD 2 []) (f.getD 3 [])).getD (free 0)
  let lo := (degrees (f.getD 4 []) (f.getD 5 [])).getD (free 1)
  let height : Int := match num 9, num 11 with
    | some (a, ka), some (g, kg) => sSat 32 (decFixed (a * (10 ^ kg : Nat) + g * (10 ^ ka : Nat)) (ka + kg) 16 1)
    | _, _ => free 2
  let small (k n : Nat) : Int := ((num k).map (·.1)).getD (free n)
  let dop : Int := match num 8 with
    | some (v, k) => sSat 16 (decFixed v k 8 1)
    | none => free 5
  leBytes 8 (sNat 64 la) ++ leBytes 8 (sNat 64 lo) ++ leBytes 4 (sNat 32 height) ++ [BitVec.ofNat 8 (sNat 8 (small 6 3)), BitVec.ofNat 8 (sNat 8 (small 7 4))]
    ++ leBytes 2 (sNat 16 dop)

/-- TAI in ns of a UTC instant (R151). -/
def Dev.taiOf (d : Dev) (utc : Nat) : Nat := utc + d.sens.leapS.toNat * sNs

/-- A GGA sentence gives one sample of each GNSS entry (R152): its time is on the date of the latest ZDA or RMC, or
the day after when it is more than 12 h before the dated sentence's time. Without a time field its tov is a free value. -/
def ggaTake (f : List Bytes) (lead80 : Nat) (d : Dev) : Dev :=
  let entries := (List.range 32).filter fun i => d.kind i == 4 && (d.sensor i).enabled
  match d.sens.dated with
  | none => entries.foldl (fun d i => d.setSensor i fun s => { s with bad := satInc s.bad }) d
  | some s =>
    let free (n : Nat) : Nat := Config.freeValue (d.free + n)
    let day := s.utcNs / (86400 * sNs)
    let tov := match dayNs (f.getD 1 []) with
      | some t =>
        let utc := day * 86400 * sNs + t
        d.taiOf (if utc + 43200 * sNs < s.utcNs then utc + 86400 * sNs else utc)
      | none => free 6
    let pay := ggaPayload free f
    entries.foldl (fun d i =>
      if d.now < (d.sensor i).enabledAt + lead80 / 65536 then d else
      acceptSample { stamp := d.time.tb - lead80, sensor := i, kind := 4, arrival := BitVec.ofNat 64 d.tb64,
                     tov := BitVec.ofNat 64 tov, payload := pay } d) { d with free := d.free + 7 }

/-- A sentence received: a missing or wrong checksum is counted and the sentence discarded; ZDA and RMC date the
GNSS time, GGA gives samples (R151, R152). -/
def gnssSentence (s : Bytes) (lead80 : Nat) (d : Dev) : Dev :=
  match nmeaFields s with
  | none => { d with sens := { d.sens with checksumErr := satInc d.sens.checksumErr } }
  | some f =>
    if nmeaType f = [0x47, 0x47, 0x41] then
      ggaTake f lead80 { d with sens := { d.sens with sentences := d.sens.sentences + 1 } }
    else match sentenceUtc f with
      | some u => { d with sens := { d.sens with
          sentences := d.sens.sentences + 1
          dated := some { stamp := (d.time.tb - lead80) / 65536, utcNs := u } } }
      | none => d

/-- SF_GNSS_CFG written: an out-of-range BAUD is ignored. -/
def writeGnssCfg (v : Nat) (d : Dev) : Dev :=
  let b := bitsOf 21 0 v
  { d with sens := { d.sens with
    gnssBaud := if 9600 ≤ b ∧ b ≤ 3000000 then BitVec.ofNat 22 b else d.sens.gnssBaud
    leapS := BitVec.ofNat 8 (bitsOf 31 24 v) } }

/-! ### Lidar (R153, R154) -/

/-- The lidar entry that a datagram matches by its destination port and source address, whichever port it came in at (R153). -/
def Dev.lidarOf (d : Dev) (udp ipVer : Nat) (src : Bytes) : Option Nat :=
  (List.range 32).find? fun i =>
    d.kind i == 5 && d.se i 56 1 == ipVer && d.se i 58 2 == udp &&
    sliceAt d.prof.active (512 + 112 * i + 60) (if ipVer = 4 then 4 else 16) == src

/-- tov of a sweep by time_source: the last packet's ingress stamp, or its embedded time (R138). -/
def Dev.lidarTov (d : Dev) (i at80 : Nat) (payload : Bytes) : Nat :=
  let o := d.se i 78 2
  match d.se i 57 1 with
  | 1 => fld payload o 8
  | 2 => beNat (sliceAt payload o 6) * sNs + beNat (sliceAt payload (o + 6) 4)
  | _ => d.tovOf i at80

/-- The sweep being filled closes and its sample is judged; an accepted sweep is the slot's, and the bytes of any other are free again, so
that the slot's sweep and the one being filled always lie next to each other (R154). -/
def sweepClose (i : Nat) (part : Bool) (d : Dev) : Dev :=
  match (d.sensor i).filling with
  | none => d
  | some w =>
    let late := d.isLate i w.tovRaw
    let d := d.setSensor i fun s => { s with
      filling := none, held := if late then s.held else some w, wr := if late then w.start else s.wr }
    acceptSample
      { stamp := w.last, sensor := i, kind := 5, flags := if part then 16 else 0
        arrival := BitVec.ofNat 64 d.tb64, tov := BitVec.ofNat 64 w.tovRaw
        payload := leBytes 10 w.first ++ leBytes 2 w.count ++ leBytes 4 w.bytes ++ leBytes 4 w.start } d

/-- Bytes written into a ring of `size` bytes from offset `o`, wrapping. -/
def ringPut (base size o : Nat) (b : Bytes) (d : Dev) : Dev :=
  let head := b.take (size - o)
  (d.dput (base + o) head).dput base (b.drop head.length)

/-- A datagram of a lidar entry: written with its 16-byte header into the entry's ring, or dropped where it would
overwrite the slot's sweep or the sweep being filled (R153, R154). One of a disabled entry, or that began before the entry was enabled, is not
taken (R159); one
that matches no entry is the frame `f`, switched as any other. -/
def lidarDatagram (port udp ipVer : Nat) (src payload : Bytes) (lead80 : Nat) (f : EthFrame) (d : Dev) : Dev :=
  if !(d.eth.getD port {}).link then d else
  match d.lidarOf udp ipVer src with
  | none => ethFrameRx port f d
  | some i =>
    let s := d.sensor i
    if !s.enabled || decide (d.now < s.enabledAt + lead80 / 65536) then d else
    let size := d.se i 80 2 * 1024
    let n := 16 + payload.length
    let usedBy (w : Option Sweep) := match w with
      | some w => w.bytes
      | none => 0
    if size < usedBy s.held + usedBy s.filling + n then
      sweepClose i true (d.setSensor i fun s => { s with bad := satInc s.bad })
    else
      let stamp := d.time.tb - lead80
      let hdr := leBytes 10 stamp ++ leBytes 2 payload.length ++ [0, 0, 0, 0]
      let d := ringPut (exchBase + d.ingressAt i) size s.wr (hdr ++ payload) d
      let w := s.filling.getD { start := s.wr, first := stamp }
      let w := { w with count := w.count + 1, bytes := w.bytes + n, last := stamp, lastAt := d.now,
                        tovRaw := d.lidarTov i stamp payload }
      let d := d.setSensor i fun s => { s with filling := some w, wr := (s.wr + n) % max size 1 }
      if d.se i 76 2 ≤ w.count then sweepClose i false d else d

/-- 100 ms after its last datagram a sweep closes with SWEEP_PARTIAL (R154). -/
def sweepTimeout (i : Nat) (d : Dev) : Dev :=
  match (d.sensor i).filling with
  | some w => if w.lastAt + 100 * msNs ≤ d.now then sweepClose i true d else d
  | none => d

/-! ### Sensor opcodes (R155, R162, R163) -/

/-- SENSOR_INJECT (R155): its instant is that of its fetch. -/
def opSensorInject : OpFn := fun c d =>
  let i := c.d.u8 24
  let len := c.d.u8 25
  let tov := c.d.f 32 8
  let ring := match c.ch with
    | .sq n => n
    | _ => 0
  if d.kind i != 6 || d.se i 1 1 != ring || len = 0 || 24 < len || decide (c.fetchedAt + 10 * msNs < tov) then opDone d .bad else
  let late := (d.sensor i).enabled && d.isLate i tov
  let d' := acceptSample
    { stamp := tov * 65536, sensor := i, kind := 6, flags := 1, arrival := BitVec.ofNat 64 c.fetchedAt,
      tov := BitVec.ofNat 64 tov, payload := padTo 40 (padTo 24 ((c.d.bytes 40 24).take len)) } d
  opDone d' (if late then .flagged 1 c.fetchedAt else .ok c.fetchedAt)

/-- SLOT_READ (R162, R163). -/
def opSlotRead : OpFn := fun c d =>
  let i := c.d.u8 24
  if d.kind i = 0 then opDone d .bad else
  let s := d.sensor i
  match s.slot with
  | none => opDone d (.flagged 2 0 s.accepted.toNat)
  | some x => opDone d (c.output 32 x.record (.ok x.tov.toNat s.accepted.toNat))

/-- FRAME_GRAB waits for the next whole frame of the camera (R163). -/
def opFrameGrab : OpFn := fun c d =>
  let i := c.d.u8 24
  if d.kind i != 1 || decide (c.d.f 40 4 < d.se i 60 2 * d.se i 62 2) then opDone d .bad
  else if (d.sensor i).grab.isSome then opDone d (.of stObjectBusy)
  else (d.setSensor i fun s => { s with grab := some c.tok }, .later)

/-- GNSS_SEND: 10 bits a byte at BAUD, one send after another (R152, R162). -/
def opGnssSend : OpFn := fun c d =>
  let n := c.d.f 24 2
  if n = 0 || 4096 < n then opDone d .bad else
  let b := c.input d 32 n
  let begins := d.sens.gnssTx.foldl (fun a x => max a x.2) d.now
  let ends :=  begins + n * 10 * sNs / max d.sens.gnssBaud.toNat 1
  let d := emit (.gnssTx b (d.driven 23)) { d with sens := { d.sens with gnssTx := d.sens.gnssTx ++ [(c.tok, ends)] } }
  (commitPoint c.tok d, .later)

/-- GNSS_SENDs whose last byte has been shifted out complete (R162). -/
def gnssDone (d : Dev) : Dev :=
  let out := d.sens.gnssTx.filter fun x => decide (x.2 ≤ d.now)
  if out.isEmpty then d else
  out.foldl (fun d x => finish x.1 .ok d)
    { d with sens := { d.sens with gnssTx := d.sens.gnssTx.filter fun x => decide (d.now < x.2) } }

end Sys2Proof.Machine
end

