-- ==== Sys2Proof/Machine/Own.lean ====
section
/-! DEFINITION. Ownership election, leases and handover (spec/03 R81-R87). -/

namespace Sys2Proof.Machine

/-- State code of the ownership machine (*Ownership states*). -/
def OwnSt.code : OwnSt → Nat
  | .vacant => 0x0201 | .arbitrating => 0x0204 | .owned => 0x0202 | .handover => 0x0203

/-- State code of the profile machine (*Profile states*). -/
def ProfSt.code : ProfSt → Nat
  | .applied => 0x0301 | .applying => 0x0302 | .writing => 0x0303

/-- State code of the part (*Part-wide states*). -/
def PartSt.code : PartSt → Nat
  | .starting => 1 | .ready => 2 | .running => 3 | .baseMetal => 4 | .updatePause => 5

/-- Priority of a master (*OWN_PRIO*). -/
def Own.prioOf (o : Own) (m : Nat) : Nat := bitsOf (4 * (m - 1) + 2) (4 * (m - 1)) o.prio.toNat

/-- A master owns the part. -/
def Own.isOwner (o : Own) (m : Nat) : Bool :=
  (o.st == .owned || o.st == .handover) && o.owner == m && decide (0 < m)

/-- tb64 instant at which the lease ends (R99). -/
def Dev.leaseEndTb (d : Dev) : Nat := d.tb64 + (d.own.leaseEnd - d.now)

/-- The lease runs anew from now (R83). -/
def renewLease (d : Dev) : Dev :=
  { d with own := { d.own with leaseEnd := d.now + d.own.leaseMs.toNat * msNs } }

/-- A change of owner, to 0 for none, with EV_OWNER_CHANGED (R86). -/
def setOwner (m cause : Nat) (d : Dev) : Dev :=
  let old := d.own.owner
  ev 0x0210 0 (det [(16, [BitVec.ofNat 8 old, BitVec.ofNat 8 m, BitVec.ofNat 8 cause])])
    { d with own := { d.own with st := if m = 0 then .vacant else .owned, owner := m, successor := 0 } }

/-- NOT_OWNER of HIF_CNT0 (R61). -/
def countNotOwner (d : Dev) : Dev := { d with hif := { d.hif with notOwner := satInc d.hif.notOwner } }

/-- An OWN field written by a master that is not the owner is ignored and counted in OWN_CNT (R87). -/
def countOwnWrite (m : Nat) (d : Dev) : Dev :=
  { d with own := { d.own with cnt := upd d.own.cnt (m - 1) satInc } }

/-- A write of OWN fields: it takes effect only from the owner (R9, R87). -/
def ownWrite (m : Nat) (f : Dev → Dev) (d : Dev) : Dev := if d.own.isOwner m then f d else countOwnWrite m d

/-- OWN_CLAIM (R81, R82). -/
def opOwnClaim : OpFn := fun c d =>
  let m := c.master
  if d.own.prioOf m = 0 then opDone d { (Cpl.conflict 0x02FF) with result0 := BitVec.ofNat 64 d.own.owner } else
  match d.own.st with
  | .vacant =>
    ({ d with own := { d.own with st := .arbitrating, windowEnd := d.now + 2 * msNs, claims := [(m, c.tok)] } }, .later)
  | .arbitrating => ({ d with own := { d.own with claims := d.own.claims ++ [(m, c.tok)] } }, .later)
  | st =>
    if d.own.owner = m then opDone (renewLease d) (.ok m)
    else opDone d { (Cpl.conflict st.code) with result0 := BitVec.ofNat 64 d.own.owner }

/-- The claimant that wins: the highest priority, then the lower master number (R82). -/
def Own.winner (o : Own) : Nat :=
  o.claims.foldl (fun w c =>
    if w = 0 || o.prioOf w < o.prioOf c.1 || (o.prioOf w = o.prioOf c.1 && c.1 < w) then c.1 else w) 0

/-- The arbitration window ends: the winner owns the part and the claims complete (R82, R83). Where every claim has been aborted or
discarded meanwhile, the state goes back to VACANT without an event (DESIGN CHOICE, notes/assumptions/83.md). -/
def arbitrationEnd (d : Dev) : Dev :=
  if d.own.st == .arbitrating && decide (d.own.windowEnd ≤ d.now) then
    let w := d.own.winner
    let claims := d.own.claims
    let d := { d with own := { d.own with claims := [] } }
    if w = 0 then { d with own := { d.own with st := .vacant } } else
    let d := renewLease (setOwner w 0 d)
    claims.foldl (fun d c =>
      finish c.2 (if c.1 = w then .ok w else { (Cpl.conflict 0x0202) with result0 := BitVec.ofNat 64 w }) d) d
  else d

/-- OWN_HEARTBEAT, judged at the instant it takes effect (R83, R85). -/
def opOwnHeartbeat : OpFn := fun c d =>
  if d.own.isOwner c.master then let d := renewLease d; opDone d (.ok d.leaseEndTb)
  else opDone (countNotOwner d) (.of stNotOwner)

/-- OWN_HANDOVER (R84, R85). -/
def opOwnHandover : OpFn := fun c d =>
  let s := c.d.u8 24
  if !d.own.isOwner c.master then opDone (countNotOwner d) (.of stNotOwner)
  else if s = 0 || 4 < s || s = c.master || d.own.prioOf s = 0 then opDone d .bad
  else if d.own.st == .handover then opDone d (.conflict d.own.st.code)
  else
    let ms := if c.d.f 26 2 = 0 then d.own.handoverMs.toNat else c.d.f 26 2
    opDone { d with own := { d.own with st := .handover, successor := s, handoverEnd := d.now + ms * msNs } } .ok

/-- OWN_ACCEPT (R84). -/
def opOwnAccept : OpFn := fun c d =>
  if d.own.st == .handover && d.own.successor == c.master then
    let d := renewLease (setOwner c.master 1 d)
    opDone d (.ok d.leaseEndTb)
  else opDone d (.conflict d.own.st.code)

/-- OWN_RELEASE, judged at the instant it takes effect (R81, R85). -/
def opOwnRelease : OpFn := fun c d =>
  if d.own.isOwner c.master then opDone (setOwner 0 2 d) .ok
  else opDone (countNotOwner d) (.of stNotOwner)

/-- The lease check finds the lease ended (R83). -/
def leaseLapse (d : Dev) : Dev :=
  if (d.own.st == .owned || d.own.st == .handover) && decide (d.own.leaseEnd ≤ d.now) then setOwner 0 3 d else d

/-- The handover timer runs out: the owner stays (R84). -/
def handoverExpire (d : Dev) : Dev :=
  if d.own.st == .handover && decide (d.own.handoverEnd ≤ d.now) then
    ev 0x0211 0 (det [(16, [BitVec.ofNat 8 d.own.successor])])
      { d with own := { d.own with st := .owned, successor := 0 } }
  else d

/-! ### OWN_ registers written -/

/-- OWN_CFG: a value outside its range is ignored for that field. -/
def writeOwnCfg (v : Nat) (d : Dev) : Dev :=
  let l := bitsOf 15 0 v
  let h := bitsOf 31 16 v
  { d with own := { d.own with
    leaseMs := if 100 ≤ l ∧ l ≤ 10000 then BitVec.ofNat 16 l else d.own.leaseMs
    handoverMs := if 10 ≤ h ∧ h ≤ 60000 then BitVec.ofNat 16 h else d.own.handoverMs } }

/-- OWN_PRIO. -/
def writeOwnPrio (v : Nat) (d : Dev) : Dev :=
  { d with own := { d.own with prio := BitVec.ofNat 32 v &&& 0x7777 } }

/-- OWN_OUTEN (R105). -/
def writeOwnOuten (v : Nat) (d : Dev) : Dev :=
  { d with own := { d.own with outen := BitVec.ofNat 32 (v % 2 ^ 27) } }

end Sys2Proof.Machine
end

