-- ==== Sys2Proof/Machine/Memory.lean ====
section
/-! DEFINITION. The in-package memory and its channels, the slow tier, tier objects and copies (spec/08). -/

namespace Sys2Proof.Machine

/-! ### The in-package memory (R234-R242) -/

/-- Base of the IPM's usable space. -/
def ipmBase : Nat := 0x0040_0000_0000
/-- Its size: 14 GiB. -/
def ipmSize : Nat := 14 * 1073741824

/-- Where an IPM offset lies (R234): stripe, group, stripe within the group, word, check member, member, channel,
position and channel byte address. -/
structure IpmPlace where
  stripe : Nat
  group : Nat
  s : Nat
  word : Nat
  check : Nat
  member : Nat
  channel : Nat
  position : Nat
  address : Nat
  deriving DecidableEq, Repr

/-- The placement of IPM offset A (R234). -/
def ipmPlace (a : Nat) : IpmPlace :=
  let n := a / 448
  let g := n % 8
  let s := n / 8
  let w := a % 448 / 8
  let check := s % 8
  let dm := w % 7
  let member := if dm < check then dm else dm + 1
  let p := w / 7
  { stripe := n, group := g, s := s, word := w, check := check, member := member, channel := 8 * member + g,
    position := p, address := 64 * s + 8 * p }

def Dev.ipmCh (d : Dev) (n : Nat) : IpmCh := d.ipm.ch.getD n {}
def Dev.setIpmCh (d : Dev) (n : Nat) (f : IpmCh → IpmCh) : Dev :=
  { d with ipm := { d.ipm with ch := upd d.ipm.ch n f } }

/-- Code of a channel state (*Channel states*). -/
def ChSt.code : ChSt → Nat
  | .online => 0 | .offline => 1 | .failed => 2 | .resync => 3

/-- Channels of a group that are out of service. -/
def Dev.groupOut (d : Dev) (g : Nat) : List Nat :=
  ((List.range 8).map fun k => 8 * k + g).filter fun n => (d.ipmCh n).st != .online

/-- IPM_OOS. -/
def Dev.ipmOos (d : Dev) : Nat := ((List.range 64).map fun n => if (d.ipmCh n).st == .online then 0 else 2 ^ n).sum

/-- An uncorrectable position: counted, logged, with EV_IPM_UNCORR at most once a second and group (R236, R237). -/
def ipmUncorr (off : Nat) (d : Dev) : Dev :=
  let p := ipmPlace off
  let d := logFault 2 0xFF p.group 10 1 off { d with ipm := { d.ipm with uncorr := satInc d.ipm.uncorr } }
  let due := match d.ipm.uncorrEvAt.getD p.group none with
    | none => true
    | some a => decide (a + sNs ≤ d.now)
  if due then
    evFrom 11 0 0x0B03 1 (det [(16, [BitVec.ofNat 8 p.group]), (20, leBytes 8 (p.stripe * 448))])
      { d with ipm := { d.ipm with uncorrEvAt := upd d.ipm.uncorrEvAt p.group fun _ => some d.now } }
  else d

/-- A channel changes state, with EV_IPM_CHANNEL; `cause` 0 command, 1 fault (R239). -/
def chChange (n : Nat) (s : ChSt) (cause : Nat) (d : Dev) : Dev :=
  let sev := if s == .offline || s == .failed then 1 else 0
  evFrom 11 0 0x0B01 sev (det [(16, [BitVec.ofNat 8 n, BitVec.ofNat 8 s.code, BitVec.ofNat 8 cause])])
    (d.setIpmCh n fun c => { c with st := s, resyncAt := if s == .resync then d.now else c.resyncAt, prior := if s == .resync then c.st else c.prior })

/-- The returns that wait for a channel complete. -/
def endReturns (n : Nat) (c : Cpl) (d : Dev) : Dev :=
  (d.ipmCh n).returning.foldl (fun d t => finish t c d) (d.setIpmCh n fun c => { c with returning := [] })

/-- A channel fault: to FAILED, or, in a group with another channel out of service, the loss of the group (R239, R240).
A return that the fault ends completes with ST_DATA_ERROR and an Assay code that the spec does not state. -/
def channelFault (n : Nat) (d : Dev) : Dev :=
  let g := n % 8
  match (d.ipmCh n).st with
  | .failed => d
  | .online =>
    match d.groupOut g with
    | [] => unitFenced 4 n 7 (logFault 3 4 n 7 2 0 (chChange n .failed 1 d))
    | o :: _ =>
      let d := { d with ipm := { d.ipm with lost := d.ipm.lost ||| BitVec.ofNat 8 (2 ^ g) } }
      let d := evFrom 11 0 0x0B02 2 (det [(16, [BitVec.ofNat 8 g, BitVec.ofNat 8 o, BitVec.ofNat 8 n])]) d
      raiseCause 2 (logFault 5 0xFF g 10 3 0 d)
  | _ =>
    let d := endReturns n { (Cpl.of stDataError) with result0 := BitVec.ofNat 64 d.freeVal } d.useFree
    unitFenced 4 n 7 (logFault 3 4 n 7 2 0 (chChange n .failed 1 d))

/-! ### Positions (R235, R236, R241) -/

/-- A channel's bytes that its resync has rewritten by now: 0.4 GB/s (R242). -/
def Dev.resyncBytes (d : Dev) (n : Nat) : Nat := (d.now - (d.ipmCh n).resyncAt) * 2 / 5

/-- IPM_CHn.RESYNC_PM: the part of the channel's 256 MiB. -/
def Dev.resyncPm (d : Dev) (n : Nat) : Nat :=
  if (d.ipmCh n).st == .resync then min 1000 (d.resyncBytes n * 1000 / 268435456) else 0

/-- Members of a position's group whose word there is rebuilt at every read: out of service, or in RESYNC and not passed yet
(R241, R242). -/
def Dev.membersOut (d : Dev) (x : IpmPlace) : List Nat :=
  (List.range 8).filter fun k =>
    let n := 8 * k + x.group
    match (d.ipmCh n).st with
    | .online => false
    | .resync => decide (d.resyncBytes n ≤ x.address)
    | _ => true

/-- The words of a position by member: seven data words, and the check word, their exclusive-OR (R234, R235). -/
def Dev.ipmWords (d : Dev) (x : IpmPlace) : List Nat :=
  let data := (List.range 7).map fun m => fld (d.dget (ipmBase + 448 * x.stripe + 8 * (7 * x.position + m)) 8) 0 8
  let check := data.foldl (· ^^^ ·) 0
  (data.take x.check) ++ check :: data.drop x.check

/-- The words as a read meets them. -/
def ipmSeen (r : IpmRead) (words : List Nat) : List Nat :=
  words.mapIdx fun k w => (r.flips.filter fun f => f.1 == k).foldl (fun w f => w ^^^ f.2 % 2 ^ 64) w

/-- Members in service whose word is marked: poisoned, or of a burst that failed a third time. -/
def Dev.ipmMarked (d : Dev) (r : IpmRead) : List Nat :=
  let out := d.membersOut (ipmPlace r.offset)
  (List.range 8).filter fun k => !out.contains k &&
    (r.poisoned.contains k || r.bursts.any fun b => b.1 == k && decide (3 ≤ b.2))

/-- Bursts read again: each up to twice. -/
def Dev.ipmRetries (d : Dev) (r : IpmRead) : Nat :=
  let out := d.membersOut (ipmPlace r.offset)
  ((r.bursts.filter fun b => decide (b.1 < 8) && !out.contains b.1).map fun b => min b.2 2).sum

/-- The read of a position is uncorrectable (*IPM error handling*). With a member's word rebuilt there is no word left over to
check the others by. -/
def Dev.ipmBad (d : Dev) (r : IpmRead) : Bool :=
  let x := ipmPlace r.offset
  let n := (d.ipmMarked r).length
  if (d.membersOut x).isEmpty then
    decide (2 ≤ n) || (n == 0 && (ipmSeen r (d.ipmWords x)).foldl (· ^^^ ·) 0 != 0)
  else decide (0 < n)

/-- A member's word is rebuilt from the other seven and written back to it, counted for it and for its channel; 16 within 1 s
are a fault of the channel (R236, R239). -/
def ipmRebuild (r : IpmRead) (k : Nat) (d : Dev) : Dev :=
  let x := ipmPlace r.offset
  let word := ((ipmSeen r (d.ipmWords x)).eraseIdx k).foldl (· ^^^ ·) 0
  let d := if k = x.check then d
    else d.dput (ipmBase + 448 * x.stripe + 8 * (7 * x.position + if k < x.check then k else k - 1)) (leBytes 8 word)
  let n := 8 * k + x.group
  let d := faultCorrected 1 { d with ipm := { d.ipm with rebuilt := satInc d.ipm.rebuilt } }
  let d := d.setIpmCh n fun c => { c with rebuilt := d.now :: c.rebuilt.filter fun a => decide (d.now < a + sNs) }
  if 16 ≤ (d.ipmCh n).rebuilt.length then channelFault n (d.setIpmCh n fun c => { c with rebuilt := [] }) else d

/-- A position is read: bursts read again are counted, a marked word is rebuilt, or the position is uncorrectable (R236, R241). -/
def ipmPosition (r : IpmRead) (d : Dev) : Dev :=
  let n := d.ipmRetries r
  let bad := d.ipmBad r
  let marked := d.ipmMarked r
  let d := faultCorrected n { d with ipm := { d.ipm with retry := satAdd d.ipm.retry n } }
  if bad then ipmUncorr r.offset d
  else match marked with
    | [k] => ipmRebuild r k d
    | _ => d

/-- A patrol pass over stripes of a group: each position read is repaired; `last` says that the pass ends (R238). -/
def ipmScrub (l : List IpmRead) (last : Bool) (d : Dev) : Dev :=
  let d := l.foldl (fun d r => ipmPosition r d) d
  if last then { d with ipm := { d.ipm with passes := d.ipm.passes + 1 } } else d

/-! ### Returns and resync (R242) -/

/-- A RESYNC whose returns have all been taken is given up: the channel is as before them (R69). -/
def resyncDropped (n : Nat) (d : Dev) : Dev :=
  let c := d.ipmCh n
  if c.st == .resync && c.returning.isEmpty && c.waiting.isEmpty then chChange n c.prior 0 d else d

/-- An Assay for a return has ended (R242). -/
def channelAssayed (n code : Nat) (t : Tok) (d : Dev) : Dev :=
  if code = 0 then chChange n .resync 0 (d.setIpmCh n fun c => { c with returning := t :: c.returning })
  else finish t { (Cpl.of stDataError) with result0 := BitVec.ofNat 64 code } d

/-- Every position of a resyncing channel has been rewritten (R242). -/
def ipmResyncDone (n : Nat) (d : Dev) : Dev :=
  if (d.ipmCh n).st == .resync then endReturns n .ok (chChange n .online 0 d) else d

/-- Returns that waited for an Assay which another asked for go on once it has ended: as *Channel states* says of the state
that the channel is in by then (R239, R242). -/
def ipmReturns (d : Dev) : Dev :=
  if d.ipm.ch.all fun c => c.waiting.isEmpty then d else
  (List.range 64).foldl (fun d n =>
    let c := d.ipmCh n
    if c.waiting.isEmpty || d.flt.assays.any (fun a => a.kind == 4 && a.unit == n) then d else
    let e := d.setIpmCh n fun c => { c with waiting := [] }
    match c.st with
    | .online => c.waiting.foldl (fun d t => finish t .ok d) e
    | .resync => e.setIpmCh n fun c' => { c' with returning := c'.returning ++ c.waiting }
    | _ => beginAssay 4 n (.chapter (c.waiting.headD { ch := .net, count := 0 })) false
        (d.setIpmCh n fun c => { c with waiting := c.waiting.drop 1 })) d

/-- IPM_CHANNEL (*Channel states*, R239-R242). -/
def opIpmChannel : OpFn := fun c d =>
  let n := c.d.u8 24
  let back := c.d.u8 25
  if 63 < n || 1 < back then opDone d .bad else
  match (d.ipmCh n).st, back with
  | .online, 0 =>
    if (d.groupOut (n % 8)).isEmpty then opDone (chChange n .offline 0 d) .ok else opDone d (.of stObjectBusy)
  | .resync, 0 => opDone d (.of stObjectBusy)
  | .online, _ => opDone d .ok
  | _, 0 => opDone d .ok
  | .resync, _ => (d.setIpmCh n fun x => { x with returning := c.tok :: x.returning }, .later)
  | _, _ =>
    if d.flt.assays.any fun a => a.kind == 4 && a.unit == n then (d.setIpmCh n fun x => { x with waiting := x.waiting ++ [c.tok] }, .later)
    else (beginAssay 4 n (.chapter c.tok) false d, .later)

/-! ### The slow-tier port (R243-R248) -/

/-- Code of NVME_STATE.STATE. -/
def NvSt.code : NvSt → Nat
  | .absent => 0 | .unlabelled => 1 | .attached => 2 | .failed => 3

/-- The port changes state, with EV_SLOW_STATE. -/
def slowState (s : NvSt) (d : Dev) : Dev :=
  if d.nvme.st == s then d else
  evFrom 13 0 0x0D01 (if s == .absent || s == .failed then 1 else 0) (det [(16, [BitVec.ofNat 8 s.code])])
    { d with nvme := { d.nvme with st := s } }

/-- Commands to the NVMe device. -/
def nvmeSend (q : Nat) (l : List NvmeCmd) (d : Dev) : Dev := l.foldl (fun d c => emit (.nvme q c) d) d

/-- The I/O queue pair of a service class (R248). -/
def classQueue (cls : Nat) : Nat := min cls 2 + 1

/-- The namespace in use: the lowest NSID without metadata, of a block size and a format that the port supports, and of at least
64 GiB (R243, R244). -/
def chooseNamespace (l : List Namespace) : Option Namespace :=
  (l.filter fun n => !n.metadata && !n.protection && (n.lba == 512 || n.lba == 4096) && decide (64 * 1073741824 ≤ n.bytes)).foldl (fun b n =>
    match b with
    | none => some n
    | some x => if n.nsid < x.nsid then some n else some x) none

/-- The SSD fails, or is gone (R246). -/
def slowFailure (absent : Bool) (d : Dev) : Dev :=
  if absent then
    slowState .absent { d with nvme := { d.nvme with gen := 0, width := 0, capacity := 0, lba := 0, pairs := 0 } }
  else slowState .failed d

/-- The SSD reports a critical warning, and the port reads its health log. -/
def slowHealth (b : Nat) (d : Dev) : Dev := nvmeSend 0 [.healthLog] <| evFrom 13 0 0x0D02 1 (det [(16, [BitVec.ofNat 8 b])]) d

/-- The slow tier is attached: HIF_FEAT bit 0 (R246). -/
def Dev.slowOn (d : Dev) : Bool := d.nvme.st == .attached

/-! ### Tier objects (R249-R254) -/

def Dev.obj (d : Dev) (id : Nat) : Option TierObj := d.tier.objs.find? fun o => o.id == id
def Dev.setObj (d : Dev) (id : Nat) (f : TierObj → TierObj) : Dev :=
  { d with tier := { d.tier with objs := d.tier.objs.map fun o => if o.id = id then f o else o } }

/-- State code of an object (*Object states*). -/
def ObjSt.code : ObjSt → Nat
  | .home => 0x0501 | .promoting => 0x0502 | .resident => 0x0503 | .evicting => 0x0504 | .lost => 0x0505

/-- Bytes in units of 64 KiB, rounded up. -/
def units (n : Nat) : Nat := (n + 65535) / 65536

/-- 64 KiB units that the tier manager allocates: 13.5 GiB. -/
def ipmUnits : Nat := 221184

/-- Pins on an object. -/
def TierObj.pinCount (o : TierObj) : Nat := (o.pins.map (·.2)).sum
def TierObj.hostPins (o : TierObj) : Nat := ((o.pins.find? fun p => p.1 == 0xFF).map (·.2)).getD 0

/-- The object occupies IPM. -/
def TierObj.inIpm (o : TierObj) : Bool := o.st == .promoting || o.st == .resident || o.st == .evicting

/-- TIER_IPM.USED and PINNED, in units. -/
def Dev.ipmUsed (d : Dev) : Nat :=
  ((d.tier.objs.filter (·.inIpm)).map fun o => units o.size).sum + (d.tier.allocs.map (·.2)).sum
def Dev.ipmPinned (d : Dev) : Nat :=
  ((d.tier.objs.filter fun o => o.st == .promoting || (o.st == .resident && decide (0 < o.pinCount))).map fun o => units o.size).sum
    + (d.tier.allocs.map (·.2)).sum

/-- An eviction candidate (*Object states*). -/
def TierObj.candidate (o : TierObj) : Bool := o.st == .resident && o.pinCount == 0

/-- Free units, evicting tiles not counted as free. -/
def Dev.ipmFree (d : Dev) : Nat := ipmUnits - d.ipmUsed

/-- Units that evictions under way will free. -/
def Dev.ipmLeaving (d : Dev) : Nat := ((d.tier.objs.filter (·.st == .evicting)).map fun o => units o.size).sum

/-- Units free once every candidate is evicted and every eviction under way has ended (R251, R268). -/
def Dev.ipmAvail (d : Dev) : Nat :=
  ipmUnits + d.ipmLeaving + ((d.tier.objs.filter (·.candidate)).map fun o => units o.size).sum - d.ipmUsed

/-! ### Places of objects (R245, R247, R249) -/

/-- The gaps from `pos` to `hi` that a rising list of (start, length) leaves. -/
def gaps : Nat → Nat → List (Nat × Nat) → List (Nat × Nat)
  | pos, hi, [] => if pos < hi then [(pos, hi - pos)] else []
  | pos, hi, (a, n) :: r => (if pos < min a hi then [(pos, min a hi - pos)] else []) ++ gaps (max pos (a + n)) hi r

/-- The first `n` units of a list of gaps. -/
def takeGaps : Nat → List (Nat × Nat) → List (Nat × Nat)
  | _, [] => []
  | n, (a, k) :: r => if n = 0 then [] else (a, min n k) :: takeGaps (n - min n k) r

/-- Extents in rising order. -/
def rising (l : List (Nat × Nat)) : List (Nat × Nat) := inOrder l fun a b => decide (a.1 ≤ b.1)

/-- 64 KiB units of the IPM for a resident copy: the lowest free ones above the control complex's 512 MiB. -/
def Dev.ipmUnitsFor (d : Dev) (n : Nat) : List (Nat × Nat) :=
  takeGaps n (gaps 8192 (8192 + ipmUnits) (rising (d.tier.objs.flatMap (·.units))))

/-- Where bytes `off` … `off + len - 1` of a resident copy lie: device address, length, offset from `off`. -/
def ipmPieces (off len : Nat) : Nat → List (Nat × Nat) → List (Nat × Nat × Nat)
  | _, [] => []
  | pos, (a, n) :: r =>
    let lo := max off pos
    let hi := min (off + len) (pos + 65536 * n)
    (if lo < hi then [(ipmBase + 65536 * a + (lo - pos), hi - lo, lo - off)] else []) ++ ipmPieces off len (pos + 65536 * n) r

/-- Bytes written to a place in the IPM. -/
def putUnits (l : List (Nat × Nat)) (b : Bytes) (d : Dev) : Dev :=
  (l.foldl (fun (s : Dev × Bytes) e => (s.1.dput (ipmBase + 65536 * e.1) (s.2.take (65536 * e.2)), s.2.drop (65536 * e.2))) (d, b)).1

/-- Bytes of object space: the used space less both labels and both directories (R245). -/
def Dev.slowSpace (d : Dev) : Nat :=
  if d.slowOn then d.nvme.capacity - 2 * 1048576 - 2 * Config.directoryBytes d.nvme.capacity else 0

/-- CRC-32C of each 4 KiB block of an object (R245). -/
def blockCrcs (b : Bytes) : List Nat := (List.range ((b.length + 4095) / 4096)).map fun k => crcOf 0 ((b.drop (4096 * k)).take 4096)

/-- The bytes of an index at home: the codes, neighbour lists or vectors of its nodes in the order of the index image (R257). -/
def PIndex.stored (x : PIndex) (kind : Nat) : Bytes :=
  if kind = 3 then x.codes.flatten
  else if kind = 4 then x.cur.lists.flatMap fun l => (l ++ List.replicate (x.deg - l.length) 0xFFFFFFFF).flatMap (leBytes 4)
  else x.vecs.flatten

/-- The data bytes of an object. An index object's past its last node are open (R257; notes/assumptions/88.md). -/
def Dev.objData (d : Dev) (o : TierObj) : Bytes :=
  if 3 ≤ o.kind ∧ o.kind ≤ 5 then
    let b := (d.place.ix.getD ((o.id - 0x40000000) / 0x100) {}).stored o.kind
    (b ++ d.freeBytes (o.size - b.length)).take o.size
  else o.data

/-- Where an object lies on the slow tier: a mirrored one in opposite halves of the object space, the lowest free blocks of
each (R245, R247; DESIGN CHOICE, notes/assumptions/88.md). A set of a model is part of its package there. -/
def Dev.placeSlow (d : Dev) (o : TierObj) : TierObj :=
  if !o.slow then o else if o.kind = 2 then { o with crcs := blockCrcs o.data } else
  let n := (o.size + 4095) / 4096
  let all := d.slowSpace / 4096
  let used := rising (d.tier.objs.flatMap fun x => if x.id == o.id then [] else x.ext ++ x.mir)
  let low := gaps 0 (all / 2) used
  let high := gaps (all / 2) all used
  { o with ext := takeGaps n (if o.mirrored then low else high ++ low), mir := if o.mirrored then takeGaps n high else []
           crcs := if 3 ≤ o.kind ∧ o.kind ≤ 5 then [] else blockCrcs o.data }

/-- Objects are made: each with its place at home and, where it is resident at once, in the IPM. -/
def addObjs (l : List TierObj) (d : Dev) : Dev :=
  l.foldl (fun d o =>
    let o := d.placeSlow o
    let o := if o.inIpm then { o with units := d.ipmUnitsFor (units o.size) } else o
    let d := { d with tier := { d.tier with objs := d.tier.objs ++ [o] } }
    let d := if o.ext.isEmpty then d else
      nvmeSend (classQueue o.lastCls) ([.write o.id false o.ext] ++ (if o.mir.isEmpty then [] else [.write o.id true o.mir]) ++ [.flush]) d
    if o.inIpm then putUnits o.units o.data d else d) d

/-- With a slow tier attached, map tiles that lived in the IPM alone have their home there; their changes are still to be
written back (R249, R384). -/
def mapHomes (d : Dev) : Dev :=
  (d.tier.objs.filter fun o => o.kind == 6 && !o.slow).foldl (fun d o =>
    d.setObj o.id fun o => d.placeSlow { o with slow := true, mirrored := true, changed := true, pins := o.pins.filter fun p => p.1 != 0x80 }) d

/-- What the port does to a device that it finds: it identifies it, reads and sets its features, and makes its 8 I/O queue pairs of 1,024
entries, where it has not yet deleted earlier ones after doing so (R243; DESIGN CHOICE, notes/assumptions/88.md). -/
def nvmeSetUp (pairs : Nat) : List NvmeCmd :=
  [.identify, .getFeatures, .numberOfQueues 8, .writeCache] ++ ((List.range pairs).map fun k => .deleteQueues (k + 1))
    ++ (List.range 8).map fun k => .createQueues (k + 1) 1024

/-- The root port finds a device: its link, its namespace and its label decide the state (R243, R244, R246). Map tiles that live
in the IPM alone have their home on a slow tier that is attached. -/
def nvmeDetect (gen width : Nat) (l : List Namespace) (d : Dev) : Dev :=
  let d := nvmeSend 0 (nvmeSetUp d.nvme.pairs) { d with nvme := { d.nvme with
    gen := min gen 4, width := if width = 1 ∨ width = 2 ∨ width = 4 then width else 0, pairs := 8, trained := true } }
  match chooseNamespace l with
  | none => slowState .absent { d with nvme := { d.nvme with capacity := 0, lba := 0 } }
  | some n =>
    let d := { d with nvme := { d.nvme with capacity := min n.bytes (16 * 1099511627776), lba := n.lba } }
    if n.labelled then mapHomes (slowState .attached d) else slowState .unlabelled d

/-- Candidates in the order of R251: fleet service, perception, pose-critical; least recently pinned; lower number. -/
def Dev.candidates (d : Dev) : List TierObj :=
  inOrder (d.tier.objs.filter (·.candidate)) fun a b =>
    decide (b.lastCls < a.lastCls) ||
      (a.lastCls == b.lastCls && (decide (a.lastPin < b.lastPin) || (a.lastPin == b.lastPin && decide (a.id ≤ b.id))))

/-- IPM held for a purpose of the part's own. -/
def Dev.setAlloc (d : Dev) (owner n : Nat) : Dev :=
  let rest := d.tier.allocs.filter fun a => a.1 != owner
  { d with tier := { d.tier with allocs := if n = 0 then rest else rest ++ [(owner, n)] } }

/-- A pin taken for a holder (R249). -/
def TierObj.pin (holder cls now : Nat) (o : TierObj) : TierObj :=
  let n := ((o.pins.find? fun p => p.1 == holder).map (·.2)).getD 0
  { o with pins := (holder, min 65535 (n + 1)) :: o.pins.filter (fun p => p.1 != holder), lastPin := now, lastCls := cls }

/-- Every pin of a holder on an object released. -/
def Dev.unpinAll (d : Dev) (id holder : Nat) : Dev :=
  d.setObj id fun o => { o with pins := o.pins.filter fun p => p.1 != holder }

/-- The movement of an object ends: Touchstone units on its copy engine cover its bytes, those on the slow-tier read stream a promotion's
from there, and their streams end (R257). Bytes are none where the movement ends early. -/
def movementEnds (o : TierObj) (b : Bytes) (d : Dev) : Dev :=
  let any (_ : Nat) : Bool := true
  let d := if d.tier.serving.contains o.id then tsEnd (16 + o.ce) any (tsFeed (16 + o.ce) any b d) else d
  if o.slow && o.st != .evicting then tsEnd 12 (· == o.id) (tsFeed 12 (· == o.id) b d) else d

/-- A promotion or write-back whose turn has come: CE12 and CE13 serve two at a time, by class and then in order. A read or
write of the slow tier goes to the class's queue, and Touchstone units armed on the copy engine, or on the object's promotion, start (R22,
R248, R256, R257). -/
def tierServe (d : Dev) : Dev :=
  (List.range 2).foldl (fun d _ =>
    if 2 ≤ d.tier.serving.length then d else
    match (d.tier.queue.find? fun x => x.1 == 0).or ((d.tier.queue.find? fun x => x.1 == 1).or d.tier.queue.head?) with
    | none => d
    | some q =>
      let d := { d with tier := { d.tier with queue := d.tier.queue.erase q, serving := d.tier.serving ++ [q.2] } }
      match d.obj q.2 with
      | none => d
      | some o =>
        let ce := if d.tier.objs.any fun x => d.tier.serving.contains x.id && x.id != o.id && x.ce == 12 then 13 else 12
        let d := tsBegin (16 + ce) (fun _ => true) (d.setObj o.id fun o => { o with readAt := d.now, ce := ce })
        if !o.slow then d
        else if o.st == .evicting then
          nvmeSend (classQueue q.1) [.write o.id false o.ext, .write o.id true o.mir] d
        else nvmeSend (classQueue q.1) [.read o.id false o.ext] (tsBegin 12 (· == o.id) d)) d

/-- Objects leave: their blocks on the slow tier are deallocated (R243), their copies under way end, and TIER_PROMOTE and
TIER_EVICT descriptors that wait for one complete as for an object that does not exist (DESIGN CHOICE,
notes/assumptions/88.md). -/
def dropObjs (gone : TierObj → Bool) (d : Dev) : Dev :=
  let l := d.tier.objs.filter gone
  let d := l.foldl (fun d o => movementEnds o [] d) d
  let d := { d with tier := { d.tier with
    objs := d.tier.objs.filter (fun o => !gone o), queue := d.tier.queue.filter (fun x => l.all fun o => o.id != x.2)
    serving := d.tier.serving.filter fun i => l.all fun o => o.id != i } }
  tierServe (l.foldl (fun d o =>
    let d := if o.ext.isEmpty || !d.slowOn then d else nvmeSend (classQueue o.lastCls) [.deallocate o.id] d
    let d := o.wants.foldl (fun d w => match w with
      | .host t => finish t .bad d
      | _ => d) d
    o.evict.foldl (fun d t => finish t .bad d) d) d)

/-- A promotion or write-back joins the queue. -/
def tierJoin (id cls : Nat) (d : Dev) : Dev :=
  tierServe { d with tier := { d.tier with queue := d.tier.queue ++ [(cls, id)] } }

/-- It ends, and the next is served. -/
def tierLeave (id : Nat) (d : Dev) : Dev :=
  tierServe { d with tier := { d.tier with
    serving := d.tier.serving.filter (· != id), queue := d.tier.queue.filter fun x => x.2 != id } }

/-- An eviction: a map tile with changes is written back first; any other frees its space at once (R249). -/
def evictObj (o : TierObj) (d : Dev) : Dev :=
  if o.kind = 6 && o.changed then tierJoin o.id o.lastCls (d.setObj o.id fun o => { o with st := .evicting })
  else
    let d := d.setObj o.id fun o => { o with st := .home, units := [] }
    { d with tier := { d.tier with evictions := d.tier.evictions + 1 } }

/-- Candidates are evicted, in order, until `need` units are free or being freed (R251). -/
def makeRoom (need : Nat) (skip : Nat) (d : Dev) : Dev :=
  let free := ipmUnits + d.ipmLeaving - d.ipmUsed
  if need ≤ free then d else
  let passed := (d.tier.objs.filter fun o => o.id != skip && (o.st == .promoting || (o.st == .resident && decide (0 < o.pinCount)))).length
  let d := { d with tier := { d.tier with skipped := satAdd d.tier.skipped passed } }
  (d.candidates.foldl (fun (s : Dev × Nat) o =>
    if need ≤ s.2 then s else (evictObj o s.1, s.2 + units o.size)) (d, free)).1

/-- A promotion's copy is queued (R249, R256). -/
def startPromotion (id : Nat) (d : Dev) : Dev :=
  let cls := ((d.obj id).map (·.lastCls)).getD 1
  tierJoin id cls (d.setObj id fun o => { o with st := .promoting, bad := [] })

/-- How a promotion begins. -/
inductive Promo where
  | done
  | waits
  /-- bytes of the IPM and of the slow tier that are short -/
  | short (ipm slow : Nat)
  | lost
  deriving DecidableEq, Repr

/-- A promotion for a holder (*Object states*, R249-R251). With no SSD, an object homed on the slow tier is short of it (R24). -/
def promote (id holder cls : Nat) (w : Wants) (d : Dev) : Dev × Promo :=
  match d.obj id with
  | none => (d, .lost)
  | some o =>
    match o.st with
    | .resident => (d.setObj id (·.pin holder cls d.now), .done)
    | .promoting => (d.setObj id fun o => { o.pin holder cls d.now with wants := o.wants ++ [w] }, .waits)
    | .evicting => (d.setObj id fun o => { o.pin holder cls d.now with wants := o.wants ++ [w] }, .waits)
    | .lost => (d, .lost)
    | .home =>
      let need := units o.size
      let slow := if o.slow && (d.nvme.st == .absent || d.nvme.st == .unlabelled) then o.size else 0
      if 0 < slow || d.ipmAvail < need then (d, .short ((need - d.ipmAvail) * 65536) slow) else
      let d := makeRoom need id d
      (startPromotion id (d.setObj id fun o => { o.pin holder cls d.now with wants := [w] }), .waits)

/-- The status of a descriptor that depends on an object that is LOST (R253). -/
def TierObj.lostStatus (o : TierObj) : Byte := if o.kind = 1 || o.kind = 2 then stModelDataLost else stDataError

/-- An object becomes LOST; its users are told in the same command (R253). The spec lists no fault-log cause for it. -/
def loseObject (id : Nat) (d : Dev) : Dev :=
  match d.obj id with
  | none => d
  | some o =>
    if o.st == .lost then d else
    let d := tierLeave id (movementEnds o [] (d.setObj id fun o => { o with st := .lost, bad := [], repair := [], units := [], rewrite := [] }))
    let d := { d with tier := { d.tier with lost := satInc d.tier.lost, lostNow := d.tier.lostNow ++ [id] } }
    let d := evFrom 12 0 0x0C02 1 (det [(16, [BitVec.ofNat 8 o.kind]), (20, leBytes 4 id)]) d
    let d := logFault 2 0xFF 0 (d.freeVal % 256) 1 0 d.useFree
    let d := o.evict.foldl (fun d t => finish t (.conflict 0x0505) d) (d.setObj id fun o => { o with evict := [] })
    o.wants.foldl (fun d w => match w with
      | .host t => finish t (.of o.lostStatus) d
      | _ => d) d

/-- A read from home of an object's block fails: the device says so, or the bytes `got` do not match the directory's CRC-32C.
The block is read again, then from the mirror, and then the object is LOST (R245, R252, R253). The bad block of a promotion or
of a rewrite, and of an object at home. A block that the second read gives is no failed one. With the device's own failure the port reads
its Error Information log (R243; DESIGN CHOICE, notes/assumptions/88.md). -/
def slowReadFail (id block : Nat) (got : Option Bytes) (d : Dev) : Dev :=
  match d.obj id with
  | none => d
  | some o =>
    let crcs := if o.crcs.isEmpty then blockCrcs (d.objData o) else o.crcs
    let good := match got with
      | some b => crcs[block]? == some (crcOf 0 b)
      | none => false
    if good then d.setObj id fun o => { o with bad := o.bad.filter fun x => x != (block, false) } else
    if !(o.st == .promoting || o.st == .home || !o.rewrite.isEmpty) then d else
    let d := if o.slow then { d with nvme := { d.nvme with mediaErr := satInc d.nvme.mediaErr } } else d
    let d := if o.slow && got.isNone then nvmeSend 0 [.errorLog] d else d
    let note (l : List (Nat × Bool)) (d : Dev) : Dev := d.setObj id fun o => { o with bad := l, readAt := d.now }
    match o.bad.find? fun x => x.1 == block with
    | none =>
      let d := note (o.bad ++ [(block, false)]) d
      let d := { d with tier := { d.tier with retries := satInc d.tier.retries } }
      if o.slow then nvmeSend (classQueue o.lastCls) [.read id false [(block, 1)]] d else d
    | some (_, false) =>
      if !o.mirrored then loseObject id d else
      let d := note ((o.bad.filter fun x => x.1 != block) ++ [(block, true)]) d
      let d := evFrom 12 0 0x0C01 0 (det [(20, leBytes 4 id), (24, leBytes 4 block)])
        { d with tier := { d.tier with mirrorReads := satInc d.tier.mirrorReads } }
      nvmeSend (classQueue o.lastCls) [.read id true [(block, 1)]] d
    | some (_, true) => loseObject id d

/-- A read unanswered within TIMEOUT_MS of its issue is an unrecovered read error (R248). -/
def nvmeTimeout (id block : Nat) (d : Dev) : Dev :=
  match d.obj id with
  | none => d
  | some o =>
    if !o.slow || d.now < o.readAt + d.nvme.timeoutMs.toNat * msNs then d else
    slowReadFail id block none { d with nvme := { d.nvme with timeouts := satInc d.nvme.timeouts } }

/-- A promotion's copy is whole and checked (R249). Waiting map tiles' write-backs end first. The host's descriptors
complete here; a slot, an index or a map reads the state of its object. -/
def promotionDone (id : Nat) (d : Dev) : Dev :=
  match d.obj id with
  | none => d
  | some o =>
    if o.st != .promoting || !d.tier.serving.contains id || decide (ipmUnits < d.ipmUsed) then d else
    let bad := (o.bad.filter (·.2)).map (·.1)
    let place := d.ipmUnitsFor (units o.size)
    let b := d.objData o
    let d := { d with free := d.free + o.size }
    let d := putUnits place b (d.setObj id fun o => { o with st := .resident, wants := [], bad := [], repair := bad, units := place })
    let d := movementEnds o b d
    let d := { d with tier := { d.tier with promotions := d.tier.promotions + 1 },
                      nvme := { d.nvme with reads := if o.slow then d.nvme.reads + 1 else d.nvme.reads } }
    let blocks := bad.map fun b => (b, 1)
    let d := if bad.isEmpty then d else nvmeSend (classQueue o.lastCls) [.write id false blocks] d
    (o.wants.foldl (fun d w => match w with
      | .host t => finish t .ok d
      | _ => d) (tierLeave id d))

/-- Failed blocks are rewritten from the good copy and flushed, or the good copy alone is left (R248, R252). -/
def tierRepair (id : Nat) (ok : Bool) (d : Dev) : Dev :=
  match d.obj id with
  | none => d
  | some o =>
    if o.repair.isEmpty then d else
    let d := d.setObj id fun o =>
      if ok then { o with repair := [] } else { o with repair := [], mirrored := false, ext := if o.mirrored then o.mir else o.ext, mir := [] }
    let d := if ok then nvmeSend (classQueue o.lastCls) [.flush] { d with tier := { d.tier with repaired := satInc d.tier.repaired } } else d
    evFrom 12 0 0x0C03 0 (det [(16, [if ok then 0 else 1]), (20, leBytes 4 id)]) d

/-- A promotion that waited for its object's eviction finds too little IPM: it ends, with its pins (R251, R254). -/
def promotionShort (id bytes : Nat) (d : Dev) : Dev :=
  match d.obj id with
  | none => d
  | some o =>
    let unpin (p : Nat × Nat) : Nat × Nat := if p.1 = 0xFF then (p.1, p.2 - (o.wants.filter fun w => w matches .host _).length) else p
    let d := d.setObj id fun o => { o with wants := [], pins := (o.pins.map unpin).filter fun p => decide (0 < p.2) }
    o.wants.foldl (fun d w => match w with
      | .host t => finish t { status := stResourceShort, stateCode := 1, result0 := BitVec.ofNat 64 bytes } d
      | _ => d) d

/-- An eviction's write-back has ended and is flushed: the object is HOME, or promotes again for what waits, where there is room (R248, R249, R251). -/
def evictionDone (id : Nat) (d : Dev) : Dev :=
  match d.obj id with
  | none => d
  | some o =>
    if o.st != .evicting || !d.tier.serving.contains id then d else
    let d := movementEnds o o.data d
    let d := d.setObj id fun o => { o with st := .home, changed := false, evict := [], evictor := none, units := [], crcs := blockCrcs o.data }
    let d := if o.slow then nvmeSend (classQueue o.lastCls) [.flush] d else d
    let d := tierLeave id { d with tier := { d.tier with evictions := d.tier.evictions + 1 } }
    let d := o.evict.foldl (fun d t => finish t .ok d) d
    if o.wants.isEmpty then d
    else if d.ipmAvail < units o.size then promotionShort id ((units o.size - d.ipmAvail) * 65536) d
    else startPromotion id (makeRoom (units o.size) id d)

/-! ### Tier opcodes (R258, R259) -/

def opTierQuery : OpFn := fun c d =>
  match d.obj (c.d.f 24 4) with
  | none => opDone d .bad
  | some o =>
    let h := (o.pins.filter fun p => decide (0 < p.2)).length
    opDone d (.ok (o.st.code % 256 + atBit 8 o.kind + atBit 16 h + atBit 32 (units o.size)) o.hostPins)

def opTierPromote : OpFn := fun c d =>
  match d.obj (c.d.f 24 4) with
  | none => opDone d .bad
  | some o =>
    match promote o.id 0xFF 1 (.host c.tok) d with
    | (d, .done) => opDone d .ok
    | (d, .waits) => (d, .later)
    | (d, .short n m) => opDone d { status := stResourceShort, stateCode := BitVec.ofNat 16 (bit (0 < n) + 2 * bit (0 < m))
                                    result0 := BitVec.ofNat 64 n, result1 := BitVec.ofNat 32 ((m + 4095) / 4096) }
    | (d, .lost) => opDone d { (Cpl.of o.lostStatus) with stateCode := if o.kind ≤ 2 then 0 else 0x0505 }

/-- TIER_EVICT turned away (R250): counted in EVICT_BUSY, with the object's state. -/
def evictBusy (o : TierObj) (d : Dev) : Dev × OpResult :=
  opDone { d with tier := { d.tier with evictBusy := satInc d.tier.evictBusy } }
    { (Cpl.of stObjectBusy) with stateCode := BitVec.ofNat 16 o.st.code }

def opTierEvict : OpFn := fun c d =>
  match d.obj (c.d.f 24 4) with
  | none => opDone d .bad
  | some o =>
    match o.st with
    | .home => opDone d .ok
    | .promoting => evictBusy o d
    | .lost => opDone d (.conflict 0x0505)
    | .evicting => (d.setObj o.id fun o => { o with evict := o.evict ++ [c.tok] }, .later)
    | .resident =>
      if 0 < o.pinCount then evictBusy o d
      else if o.kind = 6 && o.changed then
        (evictObj o (d.setObj o.id fun o => { o with evict := [c.tok], evictor := some c.tok }), .later)
      else opDone (evictObj o d) .ok

def opTierUnpin : OpFn := fun c d =>
  match d.obj (c.d.f 24 4) with
  | none => opDone d .bad
  | some o =>
    let n := c.d.f 28 2
    let h := o.hostPins
    if h < n then opDone d .bad else
    let left := if n = 0 then 0 else h - n
    opDone (d.setObj o.id fun o => { o with pins :=
      (o.pins.filter fun p => p.1 != 0xFF) ++ (if left = 0 then [] else [(0xFF, left)]) }) (.ok 0 left)

/-- Bytes of object space in use on the slow tier: mirrored objects twice; a model's set is part of its package, an
object that a format has taken from the directory has none, and a merge's new lists count beside the old (R246, R247, R412). -/
def Dev.slowUsed (d : Dev) : Nat :=
  ((d.tier.objs.filter fun o => o.slow && o.kind != 2 && !o.ext.isEmpty).map fun o =>
    (if o.mirrored then 2 else 1) * ((o.size + 4095) / 4096 * 4096)).sum
    + (d.place.ix.map fun x => if x.merge.isSome && x.residency == 0 then (x.idCap * (4 * x.deg) + 4095) / 4096 * 4096 else 0).sum

/-- Bytes of the flash model store in use, of 780 MiB (spec/01 R24). -/
def Dev.flashUsed (d : Dev) : Nat := ((d.tier.objs.filter fun o => !o.slow && o.kind == 1).map fun o => o.size).sum
def flashStore : Nat := 780 * 1048576

def opTierUsage : OpFn := fun _ d =>
  opDone d (.ok (d.ipmUsed + atBit 32 d.ipmPinned) ((d.slowUsed + 1048575) / 1048576))

/-- SLOW_ATTACH (R246, R259). With no SSD the amount short is not stated. A format leaves an empty directory: model objects homed there are LOST, others gone. -/
def opSlowAttach : OpFn := fun c d =>
  let mode := c.d.u8 24
  let confirm := c.d.f 28 4
  if 1 < mode || (mode = 0 && confirm != 0) || (mode = 1 && confirm != 0x544D5246) then opDone d .bad else
  match d.nvme.st with
  | .absent => opDone d.useFree { status := stResourceShort, stateCode := 2, result1 := BitVec.ofNat 32 d.freeVal }
  | .failed => opDone d (.conflict 0x0C03)
  | st =>
    if mode = 0 then
      if st == .attached then opDone d (.ok d.nvme.capacity) else opDone d (.conflict 0x0C01)
    else if (d.tier.objs.filter (·.slow)).any fun o => decide (0 < o.pinCount) then opDone d (.of stObjectBusy)
    else
      let gone := (d.tier.objs.filter fun o => o.slow && decide (o.kind ≤ 2)).map (·.id)
      let d := gone.foldl (fun d id => loseObject id d) d
      let d := dropObjs (fun o => o.slow && decide (2 < o.kind)) d
      let keep := d.tier.objs.map fun o => if o.slow then { o with ext := [], mir := [], crcs := [] } else o
      let d := nvmeSend (classQueue 1) [.writeLabels, .flush] { d with tier := { d.tier with objs := keep } }
      opDone (mapHomes (slowState .attached d)) (.ok d.nvme.capacity)

/-! ### Copies and on-chip memory (R229, R230, R256, R257, R460) -/

/-- The units of the IPM that a range of it meets are being rewritten from home (R291). -/
def Dev.rewriting (d : Dev) (a n : Nat) : Bool :=
  d.tier.objs.any fun o => o.rewrite.any fun u => decide (a < ipmBase + u + 65536) && decide (ipmBase + u < a + n)

/-- Where an object's resident copy holds the unit at an IPM offset: the place in the object. -/
def TierObj.unitPos (o : TierObj) (u : Nat) : Option Nat :=
  ((List.range (Machine.units o.size)).find? fun k => (ipmPieces (65536 * k) 1 0 o.units).any fun q => q.1 == ipmBase + u).map (65536 * ·)

/-- Units of a resident copy are written again from home (R291, R417). -/
def rewriteUnits (o : TierObj) (d : Dev) : Dev :=
  let b := d.objData o
  o.rewrite.foldl (fun d u => match o.unitPos u with
    | some k => d.dput (ipmBase + u) ((b.drop k).take 65536)
    | none => d) { d with free := d.free + o.size }

/-- A copy ends: its bytes are at the destination, then its flag write issues; Touchstone units on the engine's tap cover
it (R256, R257). -/
def copyBytes (ce : Nat) (dstHost : Bool) (b : Bytes) (dst : Nat) (flag : Option (Nat × Nat)) (d : Dev) : Dev :=
  let any (_ : Nat) : Bool := true
  let d := tsEnd (16 + ce) any (tsFeed (16 + ce) any b (tsBegin (16 + ce) any d))
  let d := if dstHost then hostWrite dst b d else d.dput dst b
  match flag with
  | some f => d.setFlag f.1 f.2
  | none => d

/-- Every byte of the copy lies in a store (R229). -/
def copyValid (srcHost dstHost : Bool) (src dst len : Nat) : Bool :=
  (srcHost || deviceRange src len) && (dstHost || deviceRange dst len)

/-- A flag word is uncorrectable: it reads as 0x7FFF_FFFF for 100 ms (R460). -/
def flagUncorr (n : Nat) (d : Dev) : Dev :=
  let d := d.setFlag n 0x7FFFFFFF
  { d with tier := { d.tier with flagBad := (n, d.now + 100 * msNs) :: d.tier.flagBad.filter fun x => x.1 != n } }

/-- After its 100 ms the part writes 0 to the flag (R460). -/
def flagExpire (n : Nat) (d : Dev) : Dev :=
  match d.tier.flagBad.find? fun x => x.1 == n with
  | none => d
  | some x =>
    if d.now < x.2 then d else
    { d.setFlag n 0 with tier := { d.tier with flagBad := d.tier.flagBad.filter fun x => x.1 != n } }

/-- IPM_SCRUB, NVME_CFG written. -/
def writeIpmScrub (v : Nat) (d : Dev) : Dev :=
  let p := bitsOf 7 0 v
  { d with ipm := { d.ipm with periodH := if 1 ≤ p ∧ p ≤ 168 then BitVec.ofNat 8 p else d.ipm.periodH } }
def writeNvmeCfg (v : Nat) (d : Dev) : Dev :=
  let p := bitsOf 15 0 v
  { d with nvme := { d.nvme with timeoutMs := if 10 ≤ p ∧ p ≤ 10000 then BitVec.ofNat 16 p else d.nvme.timeoutMs } }

end Sys2Proof.Machine
end

