-- ==== Sys2Proof/Machine/Stereo.lean ====
section
/-! DEFINITION. The stereo computation as functions of images: rectification, pyramid, census, aggregation,
selection and the pixel encodings (spec/06 R166-R181). -/

namespace Sys2Proof.Machine

/-- An image: rows of intensities; `none` is a no-data pixel or a line not received. -/
structure Image where
  w : Nat
  h : Nat
  px : Array (Array (Option Nat))

/-- The pixel (x, y), where the image holds one. -/
def Image.at (m : Image) (x y : Int) : Option Nat :=
  if 0 ≤ x ∧ 0 ≤ y ∧ x < m.w ∧ y < m.h then (m.px.getD y.toNat #[]).getD x.toNat none else none

/-- An image from received lines, the first line first; a missing line has no pixels. -/
def Image.ofRows (w h : Nat) (rows : List Bytes) : Image :=
  { w := w, h := h, px := (rows.map fun r => (r.map fun b => some b.toNat).toArray).toArray }

/-- Intensity with no-data as 0 (R181). -/
def Image.val (m : Image) (x y : Nat) : Nat := (m.at x y).getD 0

/-! ### Rectification (R166, R167) -/

/-- Nodes in a row, and rows of nodes, of a table (R166). -/
def nodesX (w : Nat) : Nat := (w + 15) / 16 + 1
def nodeCount (w h : Nat) : Nat := nodesX w * nodesX h

/-- Node (gx, gy): its input point in units of 2^-12 pixel, or `none` for a void node. -/
def node (w : Nat) (tbl : Bytes) (gx gy : Nat) : Option (Int × Int) :=
  let o := 8 * (gy * nodesX w + gx)
  if fld tbl o 4 = 0x80000000 then none else some (sInt 32 (fld tbl o 4), sInt 32 (fld tbl (o + 4) 4))

/-- The input point of output pixel (u, v) in units of 1/16 pixel, by the table or the identity map (R167); a tie
of this rounding goes upward (notes/assumptions/20.md). -/
def inputPoint (w : Nat) (tbl : Option Bytes) (u v : Nat) : Option (Int × Int) :=
  match tbl with
  | none => some ((16 * u : Nat), (16 * v : Nat))
  | some t =>
    let gx := u / 16
    let gy := v / 16
    let fx : Int := (u % 16 : Nat)
    let fy : Int := (v % 16 : Nat)
    match node w t gx gy, node w t (gx + 1) gy, node w t gx (gy + 1), node w t (gx + 1) (gy + 1) with
    | some a, some b, some c, some e =>
      let mix (p q r s : Int) : Int :=
        ((16 - fx) * (16 - fy) * p + fx * (16 - fy) * q + (16 - fx) * fy * r + fx * fy * s + 32768).fdiv 65536
      some (mix a.1 b.1 c.1 e.1, mix a.2 b.2 c.2 e.2)
    | _, _, _, _ => none

/-- The input rows that an output pixel reads (R168). -/
def inputRows (y16 : Int) : Int × Int := (y16.fdiv 16, if y16.fmod 16 = 0 then y16.fdiv 16 else y16.fdiv 16 + 1)

/-- One rectified pixel: bilinear in the input, rounded with ties upward; no-data where R167 says so. -/
def rectPixel (src : Image) (tbl : Option Bytes) (u v : Nat) : Option Nat :=
  match inputPoint src.w tbl u v with
  | none => none
  | some (x, y) =>
    let ix := x.fdiv 16
    let iy := y.fdiv 16
    let fx := (x.fmod 16).toNat
    let fy := (y.fmod 16).toNat
    let get (dx dy : Nat) : Option Nat :=
      if (dx = 1 ∧ fx = 0) ∨ (dy = 1 ∧ fy = 0) then some 0 else src.at (ix + dx) (iy + dy)
    match get 0 0, get 1 0, get 0 1, get 1 1 with
    | some a, some b, some c, some e =>
      some (((16 - fx) * (16 - fy) * a + fx * (16 - fy) * b + (16 - fx) * fy * c + fx * fy * e + 128) / 256)
    | _, _, _, _ => none

/-- The rectified image. -/
def rectify (src : Image) (tbl : Option Bytes) : Image :=
  { w := src.w, h := src.h,
    px := ((List.range src.h).map fun v => ((List.range src.w).map fun u => rectPixel src tbl u v).toArray).toArray }

/-! ### Pyramid and census (R173, R175) -/

/-- The next pyramid level. -/
def pyrDown (m : Image) : Image :=
  let w := (m.w + 1) / 2
  let h := (m.h + 1) / 2
  let g (x y : Nat) : Nat := m.val (min x (m.w - 1)) (min y (m.h - 1))
  { w := w, h := h,
    px := ((List.range h).map fun y => ((List.range w).map fun x =>
      some ((g (2 * x) (2 * y) + g (2 * x + 1) (2 * y) + g (2 * x) (2 * y + 1) + g (2 * x + 1) (2 * y + 1) + 2) / 4)).toArray).toArray }

/-- Levels 0 to p, the finest first. -/
def pyramid : Nat → Image → List Image
  | 0, m => [m]
  | p + 1, m => m :: pyramid p (pyrDown m)

/-- The 62 other pixels of the 9-wide, 7-high window. -/
def window : List (Int × Int) :=
  (((List.range 7).map fun (j : Nat) => (List.range 9).map fun (i : Nat) => ((i : Int) - 4, (j : Int) - 3)).flatten).filter
    fun p => p != (0, 0)

/-- The census of a pixel: one bit for each other pixel of its window (R175). -/
def census (m : Image) (x y : Nat) : List Bool :=
  let c := m.val x y
  window.map fun o =>
    let x' := (x : Int) + o.1
    let y' := (y : Int) + o.2
    if 0 ≤ x' ∧ 0 ≤ y' ∧ x' < m.w ∧ y' < m.h then decide (m.val x'.toNat y'.toNat < c) else false

/-- Matching cost of candidate d at (x, y) (R175). -/
def matchCost (cl cr : Array (Array (List Bool))) (x y d : Nat) : Nat :=
  if x < d then 62 else
  let a := (cl.getD y #[]).getD x []
  let b := (cr.getD y #[]).getD (x - d) []
  (a.zip b).foldl (fun n p => if p.1 == p.2 then n else n + 1) 0

/-- The census of a whole image. -/
def censusImage (m : Image) : Array (Array (List Bool)) :=
  ((List.range m.h).map fun y => ((List.range m.w).map fun x => census m x y).toArray).toArray

/-! ### Aggregation (R174, R176) -/

/-- A pixel's costs over its candidate set lo, lo+1, …. -/
structure Costs where
  lo : Nat
  c : Array Nat

/-- The cost of candidate d, where it is in the set. -/
def Costs.get (k : Costs) (d : Nat) : Option Nat := if k.lo ≤ d then k.c[d - k.lo]? else none

/-- The smallest cost of the set. -/
def Costs.least (k : Costs) : Nat := k.c.foldl min (k.c.getD 0 0)

/-- One step of a path (R176): the costs C at p, and the path's costs at p − r, or `none` outside the image. -/
def pathStep (p1 p2 : Nat) (c : Costs) (prev : Option Costs) : Costs :=
  match prev with
  | none => c
  | some q =>
    let m := q.least
    let at' (d : Nat) : Nat := (q.get d).getD (m + p2)
    { c with c := ((List.range c.c.size).map fun i =>
        let d := c.lo + i
        let down := if d = 0 then m + p2 + p1 else at' (d - 1) + p1
        c.c.getD i 0 + min (min (at' d) down) (min (at' (d + 1) + p1) (m + p2)) - m).toArray }

/-- The path costs of one row from the row before it, for a path whose p − r is at (x + dx) of that row. -/
def rowFrom (p1 p2 : Nat) (dx : Int) (row : Array Costs) (prev : Option (Array Costs)) : Array Costs :=
  row.mapIdx fun x c =>
    let px := (x : Int) + dx
    pathStep p1 p2 c (match prev with
      | none => none
      | some r => if 0 ≤ px then r[px.toNat]? else none)

/-- The path costs of one row along the row itself, left to right. -/
def rowAlong (p1 p2 : Nat) (row : List Costs) : List Costs :=
  (row.foldl (fun (acc : List Costs × Option Costs) c =>
    let l := pathStep p1 p2 c acc.2
    (l :: acc.1, some l)) ([], none)).1.reverse

/-- All rows of a vertical or diagonal path, top to bottom. -/
def rowsDown (p1 p2 : Nat) (dx : Int) (rows : List (Array Costs)) : List (Array Costs) :=
  (rows.foldl (fun (acc : List (Array Costs) × Option (Array Costs)) r =>
    let l := rowFrom p1 p2 dx r acc.2
    (l :: acc.1, some l)) ([], none)).1.reverse

/-- The path costs of the 4 live paths, or of 8 (R176). -/
def paths (eight : Bool) (p1 p2 : Nat) (rows : List (Array Costs)) : List (List (Array Costs)) :=
  let four := [rows.map fun r => (rowAlong p1 p2 r.toList).toArray,
    rowsDown p1 p2 0 rows, rowsDown p1 p2 (-1) rows, rowsDown p1 p2 1 rows]
  if !eight then four else
  four ++ [rows.map fun r => (rowAlong p1 p2 r.toList.reverse).reverse.toArray,
    (rowsDown p1 p2 0 rows.reverse).reverse, (rowsDown p1 p2 (-1) rows.reverse).reverse,
    (rowsDown p1 p2 1 rows.reverse).reverse]

/-- S(p, d): the sum over the paths (R176). -/
def sumPaths (ps : List (List (Array Costs))) (x y : Nat) : Costs :=
  let ks := ps.map fun l => ((l.getD y #[]).getD x { lo := 0, c := #[] })
  match ks with
  | [] => { lo := 0, c := #[] }
  | k :: _ => { k with c := ((List.range k.c.size).map fun i => (ks.map fun q => q.c.getD i 0).sum).toArray }

/-- The winner: smallest S, ties to the smaller d (R177). -/
def winner (k : Costs) : Nat :=
  k.lo + ((List.range k.c.size).foldl (fun b i => if k.c.getD i 0 < k.c.getD b 0 then i else b) 0)

/-- One level: the candidate centres from the coarser winners, or `none` at level P (R174). -/
def searchLevel (eight : Bool) (p1 p2 dmax : Nat) (l r : Image) (coarse : Option (Nat → Nat → Nat)) :
    List (List Costs) :=
  let cl := censusImage l
  let cr := censusImage r
  let costs (x y : Nat) : Costs :=
    let (lo, n) := match coarse with
      | none => (0, 64)
      | some D => let c := 2 * D (x / 2) (y / 2)
                  (c - 8, min dmax (c + 8) + 1 - (c - 8))
    { lo := lo, c := ((List.range n).map fun i => matchCost cl cr x y (lo + i)).toArray }
  let rows := (List.range l.h).map fun y => ((List.range l.w).map fun x => costs x y).toArray
  let ps := paths eight p1 p2 rows
  (List.range l.h).map fun y => (List.range l.w).map fun x => sumPaths ps x y

/-- The levels from P down to 0: S at level 0 and the centre of each level-0 pixel, if it has one. -/
def searchAll (eight : Bool) (p1 p2 : Nat) : List (Image × Image) → Nat →
    List (List Costs) × Option (Nat → Nat → Nat)
  | [], _ => ([], none)
  | [(l, r)], _ => (searchLevel eight p1 p2 63 l r none, none)
  | (l, r) :: rest, p =>
    let (s, _) := searchAll eight p1 p2 rest (p - 1)
    let win := (s.map fun row => (row.map winner).toArray).toArray
    let D (x y : Nat) : Nat := (win.getD y #[]).getD x 0
    (searchLevel eight p1 p2 (64 * 2 ^ p - 1) l r (some D), some D)

/-! ### Selection (R177-R181) -/

/-- num / den to nearest, ties away from zero. -/
def divNear (num : Int) (den : Nat) : Int :=
  let q : Int := ((2 * num.natAbs + den) / (2 * den) : Nat)
  if num < 0 then -q else q

/-- The disparity of the winner in units of 1/32 pixel (R177). -/
def subPixel (k : Costs) (d1 dmax : Nat) : Nat :=
  let base : Int := (32 * d1 : Nat)
  let off : Int := match (if d1 = 0 then none else k.get (d1 - 1)), k.get d1, k.get (d1 + 1) with
    | some a, some b, some c =>
      let q : Int := (a : Int) - 2 * b + c
      if 0 < q then max (-16) (min 16 (divNear (32 * ((a : Int) - c)) (2 * q.toNat))) else 0
    | _, _, _ => 0
  (max 0 (min ((32 * dmax : Nat) : Int) (base + off))).toNat

/-- The second-best cost c2, over candidates at least 2 from d1 (R178). -/
def secondBest (k : Costs) (d1 : Nat) : Option Nat :=
  ((List.range k.c.size).filter fun i => decide (2 ≤ ((k.lo + i : Nat) - (d1 : Int)).natAbs)).foldl
    (fun (b : Option Nat) i => some (match b with
      | none => k.c.getD i 0
      | some v => min v (k.c.getD i 0))) none

/-- The left-right check of pixel x in a row of S (R179). -/
def lrFails (row : Array Costs) (x d32 lrTol : Nat) : Bool :=
  let r := (d32 + 16) / 32
  let x' : Int := (x : Int) - r
  let best := ((List.range 17).map fun (i : Nat) => (r : Int) - 8 + i).foldl (fun (b : Option (Nat × Nat)) e =>
    if e < 0 then b else
    let xe := x' + e
    if xe < 0 then b else
    match (row[xe.toNat]?).bind fun k => k.get e.toNat with
    | none => b
    | some s => match b with
      | none => some (e.toNat, s)
      | some (_, s') => if s < s' then some (e.toNat, s) else b) none
  match best with
  | none => true
  | some (e, _) => decide (lrTol < ((e : Int) - r).natAbs)

/-- Highest minus lowest intensity in the 9 × 7 window (R180). -/
def texture (m : Image) (x y : Nat) : Nat :=
  let vals := m.val x y :: window.filterMap fun o =>
    let x' := (x : Int) + o.1
    let y' := (y : Int) + o.2
    if 0 ≤ x' ∧ 0 ≤ y' ∧ x' < m.w ∧ y' < m.h then some (m.val x'.toNat y'.toNat) else none
  vals.foldl max 0 - vals.foldl min 255

/-- One output pixel: intensity, confidence-and-reason, disparity word (R178, R180, R181). -/
def selectPixel (q : VpParams) (dmax : Nat) (left : Image) (row : Array Costs) (centre : Option Nat) (x y : Nat) :
    Nat × Nat × Nat :=
  let k := row.getD x { lo := 0, c := #[] }
  let d1 := winner k
  let c1 := (k.get d1).getD 0
  let d32 := subPixel k d1 dmax
  let c2 := secondBest k d1
  let noData := (left.at x y).isNone
  let conf := match c2 with
    | some c => if c = 0 || noData then 0 else 31 * (c - c1) / c
    | none => 0
  let edge := match centre with
    | some c => (d1 == c + 8 || (decide (8 ≤ c) && d1 == c - 8)) && d1 != 0 && d1 != dmax
    | none => false
  let reason :=
    if noData || decide (x < d1) then 5
    else if 0 < q.tex && texture left x y < q.tex then 1
    else if d1 = dmax then 3
    else if lrFails row x d32 q.lrTol then 2
    else if 100 * (c2.getD 0 - c1) < q.uniq * c2.getD 0 then 4
    else if edge then 6 else 0
  let writes := reason == 4 || reason == 6 || reason == 0
  (left.val x y, conf + 32 * reason, if writes then d32 else 0x8000)

/-- Stereo over whole images: rows of output pixels (R166-R181). -/
def stereo (eight : Bool) (p : Nat) (q : VpParams) (l r : Image) : List (List (Nat × Nat × Nat)) :=
  let lv := (pyramid p l).zip (pyramid p r)
  let (s, D) := searchAll eight q.p1 q.p2 lv p
  let dmax := 64 * 2 ^ p - 1
  (List.range l.h).map fun y =>
    let row := (s.getD y []).toArray
    (List.range l.w).map fun x => selectPixel q dmax l row (D.map fun D => 2 * D (x / 2) (y / 2)) x y

/-- The three planes of rows of output pixels (R183). -/
def planesOf (rows : List (List (Nat × Nat × Nat))) : Bytes × Bytes × Bytes :=
  ((rows.map fun r => r.map fun p => BitVec.ofNat 8 p.1).flatten,
   (rows.map fun r => r.map fun p => BitVec.ofNat 8 p.2.1).flatten,
   (rows.map fun r => (r.map fun p => leBytes 2 p.2.2).flatten).flatten)

/-- Pixels with reason VALID. -/
def validOf (rows : List (List (Nat × Nat × Nat))) : Nat :=
  (rows.map fun r => (r.filter fun p => decide (p.2.1 < 32)).length).sum

/-- A mono camera's output: rectified intensity, no disparity (R181). -/
def monoRows (m : Image) : List (List (Nat × Nat × Nat)) :=
  (List.range m.h).map fun y => (List.range m.w).map fun x => (m.val x y, 0, 0)

end Sys2Proof.Machine
end

