-- ==== Sys2Proof/Machine/Vision.lean ====
section
/-! DEFINITION. The stereo pipes: pairing, admission, bands, frame records, hand-overs and the vision opcodes
(spec/06). -/

namespace Sys2Proof.Machine

def Dev.vp (d : Dev) (p : Nat) : VpPipe := d.vision.pipe.getD p {}

def Dev.setVp (d : Dev) (p : Nat) (f : VpPipe → VpPipe) : Dev :=
  { d with vision := { d.vision with pipe := upd d.vision.pipe p f } }

def Dev.ring (d : Dev) (i : Nat) : VpRing := d.vision.ring.getD i {}

def Dev.setRing (d : Dev) (i : Nat) (f : VpRing → VpRing) : Dev :=
  { d with vision := { d.vision with ring := upd d.vision.ring i f } }

/-- Code of a pipe state (*Pipe states*). -/
def VpSt.code : VpSt → Nat
  | .gated => 0 | .home => 1 | .hosting => 2 | .off => 3 | .fenced => 4

/-! ### The record's stereo fields (R164) -/

/-- A routed camera entry's role: 0 mono, 1 left, 2 right. -/
def Dev.vrole (d : Dev) (i : Nat) : Nat := d.se i 72 1
/-- The entry is a routed camera. -/
def Dev.routed (d : Dev) (i : Nat) : Bool := d.kind i == 1 && d.se i 3 1 != 0
/-- The entry owns a ring: left or mono. -/
def Dev.ownsRing (d : Dev) (i : Nat) : Bool := d.routed i && d.vrole i != 2
/-- The ring of a routed camera: its own, or its partner's for a right camera. -/
def Dev.ringOf (d : Dev) (i : Nat) : Nat := if d.vrole i = 2 then d.se i 73 1 else i
/-- Home pipe of a ring. -/
def Dev.homePipe (d : Dev) (i : Nat) : Nat := d.se i 3 1 - 1
/-- The ring is a pair's. -/
def Dev.isPair (d : Dev) (i : Nat) : Bool := d.vrole i == 1
def Dev.vW (d : Dev) (i : Nat) : Nat := d.se i 60 2
def Dev.vH (d : Dev) (i : Nat) : Nat := d.se i 62 2
/-- Pyramid depth of a ring; 0 for mono. -/
def Dev.vP (d : Dev) (i : Nat) : Nat := if d.isPair i then d.se i 74 1 else 0

/-- The parameters in force for a pair: the record's, or those of VP_PARAMS (R197). -/
def Dev.vparams (d : Dev) (i : Nat) : VpParams :=
  (d.ring i).params.getD { p1 := d.se i 82 1, p2 := d.se i 83 1, uniq := d.se i 84 1, tex := d.se i 85 1, lrTol := d.se i 86 1 }

/-- Bands of a frame (R182). -/
def Dev.vBands (d : Dev) (i : Nat) : Nat := (d.vH i + d.se i 76 2 - 1) / max (d.se i 76 2) 1

/-- n rounded up to a multiple of 4,096. -/
def up4k (n : Nat) : Nat := (n + 4095) / 4096 * 4096

/-- Slot stride of a ring (R183). -/
def slotStride (pair : Bool) (w rows : Nat) : Nat := up4k ((if pair then 4 else 1) * w * rows)

/-- 64 × k(P) (*Reach by pyramid depth*). -/
def k64 (p : Nat) : Nat :=
  match p with
  | 0 => 256 | 1 => 192 | 2 => 176 | 3 => 172 | _ => 171

/-- The terms of *Pipe limits* of one ring or their sums: ingress pixels/s, core cycles/s, line buffer bytes. -/
structure VpTerms where
  ingress : Rat := 0
  core : Rat := 0
  lines : Nat := 0
  deriving DecidableEq, Repr

/-- Terms of a ring from its fields (R189); the rates are exact. -/
def vpTerms (pair : Bool) (w h periodUs p rectLines : Nat) : VpTerms :=
  let rate (n : Nat) : Rat := (n * 1000000 : Nat) / (max periodUs 1 : Nat)
  if pair then
    { ingress := rate (2 * w * h), core := rate (w * h * k64 p) / 64, lines := up4k (w * (2 * rectLines + 240)) }
  else { ingress := rate (w * h), core := 0, lines := up4k (w * (rectLines + 24)) }

def VpTerms.add (a b : VpTerms) : VpTerms :=
  { ingress := a.ingress + b.ingress, core := a.core + b.core, lines := a.lines + b.lines }

/-- Every sum is within its limit (*Pipe limits*). -/
def VpTerms.fits (a : VpTerms) : Bool :=
  decide (a.ingress ≤ 1200000000) && decide (a.core ≤ 1200000000) && decide (a.lines ≤ 3145728)

/-- A load in per mille of its limit, rounded down. -/
def perMille (load : Rat) : Nat := (load * 1000 / 1200000000).floor.toNat

/-- Terms of ring i. -/
def Dev.ringTerms (d : Dev) (i : Nat) : VpTerms :=
  vpTerms (d.isPair i) (d.vW i) (d.vH i) (d.se i 8 4) (d.vP i) (d.se i 78 2)

/-- The pipe that serves a ring now, if any (*Pipe states*, R193, R196). -/
def Dev.servedBy (d : Dev) (i : Nat) : Option Nat :=
  let h := d.homePipe i
  let o := 1 - h
  if (d.vp h).st == .home || (d.vp h).st == .hosting then some h
  else if (d.vp o).st == .hosting then some o else none

/-- Rings in service on pipe p. -/
def Dev.served (d : Dev) (p : Nat) : List Nat :=
  (List.range 32).filter fun i => d.ownsRing i && d.servedBy i == some p

/-- Terms of the frames in progress on a pipe. -/
def Dev.termsNow (d : Dev) (p : Nat) : VpTerms :=
  (List.range 32).foldl (fun a i =>
    ((d.ring i).cur.filter fun f => f.pipe == p).foldl (fun a _ => a.add (d.ringTerms i)) a) {}

/-- Line buffer that the STEREO_STOREDs running on a pipe hold (R191). -/
def Dev.jobLines (d : Dev) (p : Nat) : Nat :=
  ((d.vision.jobs.filter fun j => j.pipe == p && j.due.isSome).map (·.need)).sum

/-- A pipe has a frame in progress, a record to write or a stored frame's stereo under way. -/
def Dev.pipeBusy (d : Dev) (p : Nat) : Bool :=
  (d.vision.ring.any fun r => (r.cur ++ r.closing).any fun f => f.pipe == p)
    || d.vision.jobs.any fun j => j.pipe == p && j.due.isSome

/-- The pipe that takes a ring's frame with this first-line stamp: the one that serves the ring, where the stamp falls at
least 1 ms after the last hand-over. A pipe that waits to hand its cameras over takes no further frame of them (R194). -/
def Dev.takes (d : Dev) (i first : Nat) : Option Nat :=
  let v := d.vp (d.homePipe i)
  let early := match v.movedAt with
    | some m => decide (first < m + msNs * 65536)
    | none => false
  match d.servedBy i with
  | none => none
  | some p => if early || (p == d.homePipe i && !v.moving.isEmpty) then none else some p

/-- Event of a pipe: VP0 is source 7, VP1 source 8 (*Vision events*). -/
def evVp (p code sev : Nat) (dt : Bytes) (d : Dev) : Dev := evFrom (7 + p) 0 code sev dt d

/-! ### Frame records and ends (R186) -/

/-- State code of R17 for a resource that is not enabled; its low byte is the model's choice
(notes/assumptions/8.md). -/
def notEnabled : Nat := 0x0B00

/-- The frame record's bytes (*Frame record*). -/
def VpFrame.record (f : VpFrame) (w h : Nat) : Bytes :=
  padTo 64 (leBytes 8 f.left.tov ++ leBytes 8 f.right.tov ++ leBytes 4 f.seq.toNat ++ leBytes 2 f.written
    ++ leBytes 2 f.dropped ++ leBytes 2 f.status ++ leBytes 2 f.firstSlot ++ leBytes 4 f.valid ++ leBytes 2 w
    ++ leBytes 2 h ++ leBytes 2 f.pipe)

/-- The record is written and the frame flag set (R183, R186). -/
def putRecord (i : Nat) (f : VpFrame) (d : Dev) : Dev :=
  let slots := d.se i 75 1
  let base := exchBase + d.se i 88 4 + slots * slotStride (d.isPair i) (d.vW i) (d.se i 76 2)
  let d := d.dput (base + f.seq.toNat % 2 * 64) (f.record (d.vW i) (d.vH i))
  d.setFlag (d.se i 80 2 + slots) (0x80000000 + f.seq.toNat % 65536)

/-- Where the band's rows of a frame grabbed by STEREO_GRAB go in the host buffer: each plane's rows in place (R197). -/
def grabBand (i : Nat) (f : VpFrame) (row : Nat) (pl : Bytes × Bytes × Bytes) (d : Dev) : Dev :=
  match f.grab with
  | none => d
  | some t =>
    match t.ch, d.pendOf t with
    | .sq _, some p =>
      let a := p.d.f 32 8
      let n := d.vW i * d.vH i
      let at_ := row * d.vW i
      let d := hostWrite (a + at_) pl.1 d
      if d.isPair i then hostWrite (a + 2 * n + 2 * at_) pl.2.2 (hostWrite (a + n + at_) pl.2.1 d) else d
    | _, _ => d

/-- A STEREO_GRAB completes with its frame's record. On a channel without host memory the planes follow inline, and their
bytes of bands that were not produced are open (R78, R197; DESIGN CHOICE, notes/assumptions/21.md). -/
def grabDone (i : Nat) (f : VpFrame) (d : Dev) : Dev :=
  match f.grab with
  | none => d
  | some t =>
    let c : Cpl := if f.status = 0 then .ok f.left.tov else .flagged f.status f.left.tov
    match t.ch with
    | .sq _ => finish t c d
    | _ =>
      let l := f.planes.reverse
      let n := d.vW i * d.vH i
      let fill (k : Nat) (x : Bytes) (m : Nat) : Bytes := x ++ ({ d with free := d.free + k }).freeBytes (m - x.length)
      let a := fill 0 (l.map (·.1)).flatten n
      let img := if d.isPair i then
          a ++ fill n (l.map (·.2.1)).flatten n ++ fill (2 * n) (l.map (·.2.2)).flatten (2 * n)
        else a
      finish t { c with payload := img } { d with free := d.free + 4 * n }

/-- The VP_MOVEs off that wait for pipe p end as *Pipe states* says of the state it is in by then: a HOME pipe hands its
cameras over once nothing is in progress on it, and the ASSAY_RUN that waits begins (R193, R194, R486). -/
def moveCheck (p : Nat) (d : Dev) : Dev :=
  let v := d.vp p
  let o := 1 - p
  let all (k : Tok × Bool → Cpl) (d : Dev) : Dev :=
    v.moving.foldl (fun d m => finish m.1 (k m) d) (d.setVp p fun v => { v with moving := [] })
  let busy : Cpl := { (Cpl.of stObjectBusy) with result0 := 5 }
  if v.moving.isEmpty then d else
  match v.st with
  | .gated => all (fun _ => .conflict notEnabled) d
  | .hosting => all (fun m => if m.2 then busy else .of stObjectBusy) d
  | .off => all (fun m => if m.2 then busy else .ok) d
  | .fenced => all (fun m => if m.2 then busy else .ok) d
  | .home =>
    if (d.vp o).st == .gated then all (fun _ => .conflict notEnabled) d
    else if d.pipeBusy p then d else
    let d := d.setVp p fun v => { v with st := .off, moving := [], movedAt := some d.time.tb }
    let d := if (d.vp o).st == .home then d.setVp o fun v => { v with st := .hosting } else d
    let d := evVp p 0x0701 1 (det [(16, [BitVec.ofNat 8 p, BitVec.ofNat 8 o, 1])]) d
    v.moving.foldl (fun d m => if m.2 then beginAssay 2 p (.run m.1) true d else finish m.1 .ok d) d

/-- The records of a ring's ended frames are written, oldest first, once both cameras' frames have ended, so that their tov
and defects are known (R172, R186; DESIGN CHOICE, notes/assumptions/86.md). -/
def closeFrames (i : Nat) (d : Dev) : Dev :=
  let ready (f : VpFrame) : Bool := f.left.ended && (!d.isPair i || f.right.ended)
  let go := (d.ring i).closing.takeWhile ready
  let d := d.setRing i fun r => { r with closing := r.closing.dropWhile ready }
  go.foldl (fun d f =>
    let side := (if f.left.truncated || f.right.truncated then 1 else 0) + (if f.left.error || f.right.error then 2 else 0)
    let f := { f with status := f.status + side }
    moveCheck f.pipe (grabDone i f (putRecord i f d))) d

/-- A frame in progress ends with status bits: it gets no further band, and it is counted (R171, R172, R186). -/
def endFrame (i status : Nat) (f : VpFrame) (d : Dev) : Dev :=
  let d := d.setRing i fun r => { r with
    cur := r.cur.filter fun x => x.seq != f.seq, closing := r.closing ++ [{ f with status := f.status + status }] }
  let d := d.setVp f.pipe fun v => { v with
    frames := if 0 < f.written then v.frames + 1 else v.frames
    skew := if bitsOf 2 2 status = 1 then satInc v.skew else v.skew
    abandoned := if bitsOf 3 3 status = 1 then satInc v.abandoned else v.abandoned }
  closeFrames i d

/-! ### Pairing and admission (R170, R194, R195) -/

/-- A frame is admitted to a pipe (R182, R195, R197). -/
def admitFrame (i : Nat) (f : VpFrame) (p : Nat) (d : Dev) : Dev :=
  let r := d.ring i
  let hosted := p != d.homePipe i
  let tbl (s : Nat) : Option Bytes := (d.vision.tables.find? fun t => t.1 == s).map (·.2)
  let f := { f with
    pipe := p
    tblL := tbl i
    tblR := if d.isPair i then tbl (d.se i 73 1) else none
    params := d.vparams i
    status := if hosted then 32 else 0
    firstSlot := r.bandCount % max (d.se i 75 1) 1
    grab := r.grab }
  d.setRing i fun r => { r with cur := r.cur ++ [f], grab := none, lastAdmit := d.now }

/-- A frame that is paired, or of a mono camera: admitted by a HOME pipe, kept for the admission window by a HOSTING one
(R194, R195). A frame that no pipe takes has no output (R194, R196). -/
def framePaired (i : Nat) (f : VpFrame) (d : Dev) : Dev :=
  match d.takes i f.first with
  | none => d
  | some p =>
    if (d.vp p).st == .hosting then d.setRing i fun r => { r with paired := r.paired ++ [{ f with pipe := p }] }
    else admitFrame i f p d

/-- HOSTED in a record's status. -/
def Dev.hosted (d : Dev) (i p : Nat) : Nat := if p = d.homePipe i then 0 else 32

/-- A left frame with no partner: a record with UNPAIRED, no bands (R170). -/
def leftUnpaired (i : Nat) (f : VpFrame) (d : Dev) : Dev :=
  let d := d.setRing i fun r => { r with waitL := none }
  match d.takes i f.first with
  | none => d
  | some p =>
    let d := d.setVp p fun v => { v with unpaired := satInc v.unpaired }
    closeFrames i (d.setRing i fun r => { r with
      closing := r.closing ++ [{ f with pipe := p, status := 64 + d.hosted i p, right := { ended := true } }] })

/-- A right frame with no partner is counted (R170). -/
def rightUnpaired (i : Nat) (first : Nat) (d : Dev) : Dev :=
  let d := d.setRing i fun r => { r with waitR := none }
  match d.takes i first with
  | none => d
  | some p => d.setVp p fun v => { v with unpaired := satInc v.unpaired }

/-- Two first-line stamps lie within sync_us of each other. -/
def Dev.inSync (d : Dev) (i a b : Nat) : Bool := decide (((a : Int) - b).natAbs ≤ d.se i 92 2 * 1000 * 65536)

/-- The first line of a routed camera's frame (R170): a mono frame is served, a left or right frame is paired or
waits for its partner. -/
def firstLine (s stamp : Nat) (d : Dev) : Dev :=
  let i := d.ringOf s
  let f : VpFrame := { seq := (d.ring i).frameSeq, first := stamp }
  let count (d : Dev) : Dev := d.setRing i fun r => { r with frameSeq := r.frameSeq + 1 }
  if d.vrole s = 0 then framePaired i f (count d)
  else if d.vrole s = 1 then
    let d := match (d.ring i).waitL with
      | some x => leftUnpaired i x d
      | none => d
    let d := count d
    match (d.ring i).waitR with
    | some (b, y) =>
      if d.inSync i stamp b then framePaired i { f with right := y } (d.setRing i fun r => { r with waitR := none })
      else (rightUnpaired i b d).setRing i fun r => { r with waitL := some f }
    | none => d.setRing i fun r => { r with waitL := some f }
  else
    let d := match (d.ring i).waitR with
      | some (b, _) => rightUnpaired i b d
      | none => d
    match (d.ring i).waitL with
    | some x =>
      if d.inSync i x.first stamp then framePaired i x (d.setRing i fun r => { r with waitL := none })
      else (leftUnpaired i x d).setRing i fun r => { r with waitR := some (stamp, {}) }
    | none => d.setRing i fun r => { r with waitR := some (stamp, {}) }

/-- sync_us has passed with no partner (R170). -/
def pairTimeout (i : Nat) (d : Dev) : Dev :=
  let due (a : Nat) : Bool := decide (a + d.se i 92 2 * 1000 * 65536 ≤ d.time.tb)
  let d := match (d.ring i).waitL with
    | some f => if due f.first then leftUnpaired i f d else d
    | none => d
  match (d.ring i).waitR with
  | some (a, _) => if due a then rightUnpaired i a d else d
  | none => d

/-- The frame that a sensor's port is receiving. -/
def Dev.receiving (d : Dev) (s : Nat) : Option FrameRx :=
  (d.csi (d.se s 1 1)).rx.find? fun r => r.sensor == s

/-- Lines received of one side of the frame in progress. -/
def Dev.sideRows (d : Dev) (s : Nat) (x : VpSide) : List Bytes :=
  if x.ended then x.rows else match d.receiving s with
    | some r => r.rows.reverse
    | none => []

/-- The side of a frame that a sensor fills in: left or mono for the ring's own sensor, else right. -/
def VpFrame.side (f : VpFrame) (left : Bool) : VpSide := if left then f.left else f.right

def VpFrame.setSide (f : VpFrame) (left : Bool) (x : VpSide) : VpFrame := if left then { f with left := x } else { f with right := x }

/-- A sensor's frame under way has ended: its side of the one frame that still takes it, wherever that frame is. -/
def putSide (i : Nat) (left : Bool) (x : VpSide) (d : Dev) : Dev :=
  let put (f : VpFrame) : VpFrame := if (f.side left).ended then f else f.setSide left x
  d.setRing i fun r => { r with
    waitL := if left then r.waitL.map put else r.waitL
    waitR := if left then r.waitR else r.waitR.map fun w => if w.2.ended then w else (w.1, x)
    paired := r.paired.map put, cur := r.cur.map put, closing := r.closing.map put }

/-- Ingress starts to overwrite a stored frame that a STEREO_STORED still reads: it fails (R192). -/
def storedOverwritten (s : Nat) (d : Dev) : Dev :=
  let n := d.vW s * d.vH s
  let at_ := exchBase + d.ingressAt s + (d.sensor s).nextBuf * n
  let hit (j : StoredJob) : Bool := [j.frameL, j.frameR].any fun f => decide (f.addr < at_ + n ∧ at_ < f.addr + j.w * j.h)
  (d.vision.jobs.filter hit).foldl (fun d j => finish j.tok { (Cpl.of stDataError) with stateCode := 1 } d)
    { d with vision := { d.vision with jobs := d.vision.jobs.filter fun j => !hit j } }

/-- A line of a camera has been received: a routed camera's first line begins its frame, and line n of the later camera
after line n + rect_lines/4 of the earlier one ends the pair's frame with SKEW (R170, R171). -/
def visionLine (port vc : Nat) (before : Nat) (d : Dev) : Dev :=
  match (d.csi port).rx.find? fun r => r.vc == vc with
  | none => d
  | some r =>
    if r.lines = before then d
    else if !d.routed r.sensor then storedOverwritten r.sensor d else
    let d := if before = 0 then firstLine r.sensor (r.firstLine.getD 0) d else d
    let i := d.ringOf r.sensor
    let left := r.sensor == i
    let other := if left then d.se i 73 1 else i
    match (d.ring i).cur.find? fun f => !(f.side left).ended with
    | none => d
    | some f =>
      if d.isPair i && decide (r.lines + d.se i 78 2 / 4 ≤ (d.sideRows other (f.side !left)).length) then endFrame i 4 f d else d

/-- Lines of a port's frame in progress on a channel. -/
def Dev.linesOn (d : Dev) (port vc : Nat) : Nat :=
  match (d.csi port).rx.find? fun r => r.vc == vc with
  | some r => r.lines
  | none => 0

/-- A routed camera's frame has ended: its lines, tov and defects stay with the pipe's frame. One that ends with no line
received begins here, with the free first-line stamp of its sample (R144, R170, R172). -/
def visionFrameEnd (fr : Option (FrameRx × Sample)) (d : Dev) : Dev :=
  match fr with
  | none => d
  | some (r, x) =>
    if !d.routed r.sensor then d else
    let i := d.ringOf r.sensor
    let d := if r.firstLine.isNone then firstLine r.sensor (fld x.payload 0 10) d else d
    closeFrames i (putSide i (r.sensor == i)
      { ended := true, rows := r.rows.reverse, tov := x.tov.toNat,
        truncated := x.flags.getLsbD 3, error := x.flags.getLsbD 2 } d)

/-- A Frame Start where the channel's last frame had no Frame End: for the pipe that frame ends here, truncated at the lines
received (DESIGN CHOICE, notes/assumptions/86.md). `old` is the part before the packet. -/
def visionFrameStart (port vc : Nat) (old d : Dev) : Dev :=
  let rx (d : Dev) : Option FrameRx := (d.csi port).rx.find? fun r => r.vc == vc
  match rx old with
  | none => d
  | some r =>
    if rx d == some r || !d.routed r.sensor || r.firstLine.isNone then d else
    let i := d.ringOf r.sensor
    closeFrames i (putSide i (r.sensor == i)
      { ended := true, rows := r.rows.reverse, tov := d.tovOf r.sensor r.lastLine,
        truncated := decide (r.lines < d.vH r.sensor), error := decide (0 < r.crcLines) } d)

/-- A camera is disabled: the frames of its ring that are in progress, or that its own unfinished frame takes part in, get
no further bands and a record with ABANDONED; the tov of a frame that is never delivered is a free value
(R172; notes/assumptions/86.md). -/
def abandonCamera (s : Nat) (d : Dev) : Dev :=
  if !d.routed s then d else
  let i := d.ringOf s
  let left := s == i
  let d := match (d.ring i).waitR with
    | some (b, _) => if left then d else rightUnpaired i b d
    | none => d
  let waiting := (d.ring i).paired ++ (if left then (d.ring i).waitL.toList.map fun f => { f with right := { ended := true } } else [])
  let d := d.setRing i fun r => { r with paired := [], waitL := if left then none else r.waitL }
  let d := waiting.foldl (fun d f =>
    match d.takes i f.first with
    | none => d
    | some p =>
      (d.setVp p fun v => { v with abandoned := satInc v.abandoned }).setRing i fun r => { r with
        closing := r.closing ++ [{ f with pipe := p, status := 8 + d.hosted i p }] }) d
  let d := (d.ring i).cur.foldl (fun d f => endFrame i 8 f d) d
  let tov := d.freeVal % 2 ^ 64
  closeFrames i (putSide i left { ended := true, tov := tov } d.useFree)

/-- A sensor is disabled, with the frames its camera takes part in (R159, R172). -/
def sensorOff (i : Nat) (d : Dev) : Dev := abandonCamera i (disableSensor i d)

/-- SENSOR_ENABLE (R159, R163). -/
def opSensorEnable : OpFn := fun c d =>
  let i := c.d.u8 24
  if d.kind i = 0 || 2 ≤ c.d.u8 25 then opDone d .bad
  else if c.d.u8 25 = 1 then opDone (enableSensor i d) .ok
  else opDone (sensorOff i d) .ok

/-- SF_CSIn_CTRL.ENABLE written (R159, R172). -/
def writeCsiCtrl (p v : Nat) (d : Dev) : Dev :=
  let on := bitsOf 0 0 v == 1
  if (d.csi p).enable == on then d else
  let d := d.setCsi p fun c => { c with enable := on, rx := [], lanesUp := if on then c.lanesUp else 0 }
  if on then d else
  let l := d.sens.s.mapIdx fun i x => if d.kind i == 1 && d.se i 1 1 == p then { x with slot := none, past := [] } else x
  let d := { d with sens := { d.sens with s := l } }
  (List.range 32).foldl (fun d i => if d.kind i == 1 && d.se i 1 1 == p && (d.sensor i).enabled then abandonCamera i d else d) d

/-! ### Bands (R182-R187) -/

/-- R_lag of a ring (R187). -/
def Dev.rLag (d : Dev) (i : Nat) : Nat :=
  d.se i 78 2 / 2 + (if d.isPair i then 2 ^ (d.vP i + 1) else 0) + 4

/-- The last input line that the values of output rows up to `y` depend on (R168, R173, R175): the window's three rows below,
at the coarsest level. -/
def Dev.lastLine (d : Dev) (i y : Nat) : Nat :=
  let c := if d.isPair i then 2 ^ d.vP i else 1
  (if d.isPair i then (y / c + 4) * c - 1 else y) + (d.se i 78 2 / 2 - 1)

/-- The output rows of the whole frame from the lines received so far. -/
def Dev.frameRows (d : Dev) (i : Nat) (f : VpFrame) : List (List (Nat × Nat × Nat)) :=
  let w := d.vW i
  let h := d.vH i
  let l := rectify (Image.ofRows w h (d.sideRows i f.left)) f.tblL
  if d.isPair i then
    stereo false (d.vP i) f.params l (rectify (Image.ofRows w h (d.sideRows (d.se i 73 1) f.right)) f.tblR)
  else monoRows l

/-- The instants of a list that lie in the last second. -/
def Dev.lastSecond (d : Dev) (l : List Nat) : List Nat := l.filter fun a => decide (d.now < a + sNs)

/-- At most once a second and ring, the drops of the last second (*Vision events*). -/
def dropEvent (i p : Nat) (d : Dev) : Dev :=
  let r := d.ring i
  let l := d.now :: d.lastSecond r.drops
  let due := match r.dropEvAt with
    | none => true
    | some a => decide (a + sNs ≤ d.now)
  let d := d.setRing i fun r => { r with drops := l, dropEvAt := if due then some d.now else r.dropEvAt }
  if due then evVp p 0x0704 0 (det [(16, [BitVec.ofNat 8 i]), (20, leBytes 4 l.length)]) d else d

/-- The next band of the oldest frame in progress is due: it is written and flagged, or dropped where its slot's flag is not
0; after the last band the frame ends (R182, R184-R187). The pipe waits for R187's line, and for a later one where the values
of the band depend on it (DESIGN CHOICE, notes/assumptions/85.md). -/
def bandReady (i : Nat) (d : Dev) : Dev :=
  match (d.ring i).cur with
  | [] => d
  | f :: _ =>
    let rows := d.se i 76 2
    let h := d.vH i
    let b := f.nextBand
    let lastRow := (b + 1) * rows - 1
    let need := min (h - 1) (max (lastRow + d.rLag i) (d.lastLine i (min lastRow (h - 1))))
    let have' (s : Nat) (x : VpSide) : Bool := x.ended || decide (need < (d.sideRows s x).length)
    let ready := have' i f.left && (!d.isPair i || have' (d.se i 73 1) f.right)
    if !ready || d.vBands i ≤ b then d else
    let slots := max (d.se i 75 1) 1
    let n := (d.ring i).bandCount
    let slot := n % slots
    let flag := d.se i 80 2 + slot
    let held := d.flag flag != 0
    let out := ((d.frameRows i f).drop (b * rows)).take rows
    let pl := planesOf out
    let last := b + 1 == d.vBands i
    let w := d.vW i
    let base := exchBase + d.se i 88 4 + slot * slotStride (d.isPair i) w rows
    let d := grabBand i f (b * rows) pl d
    let g := { f with nextBand := b + 1, firstSlot := if b = 0 then slot else f.firstSlot
                      written := if held then f.written else f.written + 1,
                      dropped := if held then f.dropped + 1 else f.dropped
                      valid := if d.isPair i && !held then f.valid + validOf out else f.valid
                      planes := if f.grab.isSome then pl :: f.planes else f.planes }
    let d := d.setRing i fun r => { r with bandCount := r.bandCount + 1, cur := g :: r.cur.drop 1 }
    let d := if held then
        dropEvent i f.pipe (d.setVp f.pipe fun v => { v with bandDrop := satInc v.bandDrop })
      else
        let d := d.dput base pl.1
        let d := if d.isPair i then (d.dput (base + w * rows) pl.2.1).dput (base + 2 * w * rows) pl.2.2 else d
        let tag := 2 ^ 31 + (if last then 2 ^ 26 else 0) + atBit 16 (b % 1024) + f.seq.toNat % 65536
        let d := d.setRing i fun r => { r with tags := ((n, tag) :: r.tags.reverse.take (slots - 1)).reverse }
        d.setFlag flag tag
    if last then endFrame i 0 g d else d

/-! ### Admission windows of a HOSTING pipe (R195) -/

/-- A paired frame is not admitted: a record with SKIPPED, no bands, and EV_VP_SKIPPED at most once a second. -/
def skipFrame (i p : Nat) (f : VpFrame) (d : Dev) : Dev :=
  let r := d.ring i
  let l := d.now :: d.lastSecond r.skips
  let due := match r.skipEvAt with
    | none => true
    | some a => decide (a + sNs ≤ d.now)
  let d := d.setRing i fun r => { r with
    skips := l, skipEvAt := if due then some d.now else r.skipEvAt
    closing := r.closing ++ [{ f with pipe := p, status := 16 + d.hosted i p }] }
  let d := closeFrames i (d.setVp p fun v => { v with skipped := satInc v.skipped })
  if due then evVp p 0x0703 1 (det [(16, [BitVec.ofNat 8 i]), (20, leBytes 4 l.length)]) d else d

/-- The rings in order of the age of their last admitted frame, oldest first, then by sensor index. -/
def byAge (d : Dev) (l : List Nat) : List Nat :=
  inOrder l fun a b => decide ((d.ring a).lastAdmit < (d.ring b).lastAdmit) ||
    ((d.ring a).lastAdmit == (d.ring b).lastAdmit && decide (a ≤ b))

/-- The end of a 100 µs window: the frames paired within it are admitted while every limit holds, or skipped (R195). -/
def admissionWindow (p : Nat) (d : Dev) : Dev :=
  if (d.vp p).st != .hosting then d else
  (byAge d (d.served p)).foldl (fun d i =>
    (d.ring i).paired.foldl (fun d f =>
      if ((d.termsNow p).add (d.ringTerms i)).fits then admitFrame i f p d else skipFrame i p f d)
      (d.setRing i fun r => { r with paired := [] })) d

/-! ### Pipe states (R193, R194) -/

/-- The frames in progress on a pipe are lost: no record. A STEREO_GRAB waits for the next; a STEREO_STORED runs again on the
other pipe (R72, R192, R194). -/
def loseFrames (p : Nat) (d : Dev) : Dev :=
  let ring (r : VpRing) : VpRing :=
    let (gone, cur) := r.cur.partition fun f => f.pipe == p
    let (ended, closing) := r.closing.partition fun f => f.pipe == p
    { r with cur := cur, closing := closing, grab := ((gone ++ ended).findSome? (·.grab)).or r.grab
             paired := r.paired.filter fun f => f.pipe != p }
  { d with vision := { d.vision with
    ring := d.vision.ring.map ring, jobs := d.vision.jobs.map fun j => if j.pipe == p then { j with due := none } else j } }

/-- A fault fences a pipe and its cameras move to the other (R193, R194, R196). A VP_MOVE that waits to take the other pipe
out of service meets a HOSTING pipe. -/
def vpFence (p : Nat) (d : Dev) : Dev :=
  let v := d.vp p
  if 2 ≤ p || v.st == .gated || v.st == .fenced then d else
  let o := 1 - p
  let d := moveCheck p ((loseFrames p d).setVp p fun w => { w with st := .fenced, movedAt := if v.st == .off then w.movedAt else some d.time.tb })
  if (d.vp o).st == .home && v.st != .off then
    moveCheck o (evVp p 0x0701 1 (det [(16, [BitVec.ofNat 8 p, BitVec.ofNat 8 o, 0])]) (d.setVp o fun v => { v with st := .hosting }))
  else d

/-- VP_MOVE (R193, R194, R197). -/
def opVpMove : OpFn := fun c d =>
  let p := c.d.u8 24
  let back := c.d.u8 25
  if 2 ≤ p || 2 ≤ back then opDone d .bad else
  let o := 1 - p
  if (d.vp p).st == .gated || (d.vp o).st == .gated then opDone d (.conflict notEnabled) else
  match (d.vp p).st, back with
  | .home, 0 =>
    let d := d.setVp p fun v => { v with moving := v.moving ++ [(c.tok, false)] }
    (moveCheck p d, .later)
  | .hosting, 0 => opDone d (.of stObjectBusy)
  | .off, 1 =>
    let d := (admissionWindow o d).setVp p fun v => { v with st := .home, movedAt := some d.time.tb }
    let d := if (d.vp o).st == .hosting then d.setVp o fun v => { v with st := .home } else d
    opDone (evVp p 0x0702 0 (det [(16, [BitVec.ofNat 8 p])]) d) .ok
  | .fenced, 1 => opDone d (.of stObjectBusy)
  | _, _ => opDone d .ok

/-! ### The other vision opcodes (R168, R169, R191, R192, R197, R198) -/

/-- The first output row and node that break the window rule of a table (R168). -/
def tableFault (w h rectLines : Nat) (t : Bytes) : Option Nat :=
  (List.range h).findSome? fun v => (List.range w).findSome? fun u =>
    match inputPoint w (some t) u v with
    | none => none
    | some (_, y) =>
      let (a, b) := inputRows y
      let half : Int := (rectLines / 2 : Nat)
      if a < (v : Int) - half || (v : Int) + half - 1 < b then some (v / 16 * nodesX w + u / 16) else none

/-- rect_lines of a routed camera: its ring's. -/
def Dev.rectLines (d : Dev) (s : Nat) : Nat := d.se (d.ringOf s) 78 2

/-- Bytes of table memory used (R169). -/
def Vision.tableBytes (v : Vision) : Nat := (v.tables.map fun t => t.2.length).sum

/-- RECT_LOAD (R168, R169). -/
def opRectLoad : OpFn := fun c d =>
  let s := c.d.u8 24
  let len := c.d.f 40 4
  let w := d.vW s
  let h := d.vH s
  if d.kind s != 1 || (len != 0 && len != 8 * nodeCount w h) then opDone d .bad else
  let rest := d.vision.tables.filter fun t => t.1 != s
  if len = 0 then opDone { d with vision := { d.vision with tables := rest } } .ok else
  let t := c.input d 32 len
  let used := (rest.map fun t => t.2.length).sum
  match (if d.routed s then tableFault w h (d.rectLines s) t else none) with
  | some n => opDone d { Cpl.bad with result0 := BitVec.ofNat 64 n }
  | none =>
    if 2097152 < used + len then
      opDone d { status := stResourceShort, result0 := BitVec.ofNat 64 (used + len - 2097152) }
    else opDone { d with vision := { d.vision with tables := (s, t) :: rest } } .ok

/-- VP_PARAMS (R197, R198). -/
def opVpParams : OpFn := fun c d =>
  let i := c.d.u8 24
  let q : VpParams := { p1 := c.d.u8 25, p2 := c.d.u8 26, uniq := c.d.u8 27, tex := c.d.u8 28, lrTol := c.d.u8 29 }
  if !d.routed i || d.vrole i != 1 || q.p1 = 0 || 63 < q.p1 || q.p2 < q.p1 || 50 < q.uniq || 7 < q.lrTol then opDone d .bad
  else if d.servedBy i = none && (d.vp (d.homePipe i)).st == .gated then opDone d (.conflict notEnabled)
  else opDone (d.setRing i fun r => { r with params := some q }) .ok

/-- STEREO_GRAB waits for the ring's next admitted frame (R197, R198). -/
def opStereoGrab : OpFn := fun c d =>
  let i := c.d.u8 24
  let need := (if d.isPair i then 4 else 1) * d.vW i * d.vH i
  if !d.ownsRing i || decide (c.d.f 40 4 < need) then opDone d .bad
  else if (d.vp (d.homePipe i)).st == .gated then opDone d (.conflict notEnabled)
  else
    let r := d.ring i
    let pending := r.grab.isSome || (r.cur ++ r.closing).any fun f => f.grab.isSome
    if pending then opDone d (.of stObjectBusy)
    else (d.setRing i fun r => { r with grab := some c.tok }, .later)

/-- A stored frame's image from its buffer in exchange memory; lines it did not receive are no part of it (R143, R167). -/
def Dev.storedImage (d : Dev) (w h : Nat) (f : StoredFrame) : Image :=
  Image.ofRows w h ((List.range (min f.lines h)).map fun y => d.dget (f.addr + y * w) w)

/-- The pipe that STEREO_STORED runs on: the one it names, or the less loaded enabled one; a pipe out of service gives
its work to the other (R192, R197). -/
def Dev.storedPipe (d : Dev) (sel : Nat) : Option Nat :=
  let live (p : Nat) : Bool := (d.vp p).st == .home || (d.vp p).st == .hosting
  if sel = 0xFF then
    if live 0 && (!live 1 || decide ((d.termsNow 0).lines ≤ (d.termsNow 1).lines)) then some 0
    else if live 1 then some 1 else none
  else if (d.vp sel).st == .gated then none
  else if live sel then some sel else if live (1 - sel) then some (1 - sel) else none

/-- Line buffer that neither the live cameras nor the stored frames' stereo hold on a pipe. -/
def Dev.freeLines (d : Dev) (p : Nat) : Nat := 3145728 - ((d.termsNow p).lines + d.jobLines p)

/-- The time that a stored frame's stereo takes, in ns: its core cycles (*Reach by pyramid depth*), twice over with 8 paths,
at the rate the live cameras leave free (DESIGN CHOICE, notes/assumptions/21.md). -/
def Dev.storedTime (d : Dev) (j : StoredJob) (p : Nat) : Nat :=
  let cycles := (j.w * j.h * k64 j.depth * (if j.eight then 2 else 1) + 63) / 64
  let rate := (1200000000 - (d.termsNow p).core).floor.toNat
  (cycles * sNs + max rate 1 - 1) / max rate 1

/-- A STEREO_STORED starts, or starts again, on a pipe in service with enough line buffer free (R72, R192). -/
def storedStart (j : StoredJob) (d : Dev) : StoredJob :=
  match d.storedPipe j.pipe with
  | none => j
  | some p => if d.freeLines p < j.need then j else { j with pipe := p, due := some (d.now + d.storedTime j p) }

/-- STEREO_STORED (R191, R192, R198). -/
def opStereoStored : OpFn := fun c d =>
  let l := c.d.u8 24
  let r := c.d.u8 25
  let n := c.d.u8 26
  let p := c.d.u8 27
  let q : VpParams := { p1 := c.d.u8 28, p2 := c.d.u8 29, uniq := c.d.u8 30, tex := c.d.u8 31, lrTol := c.d.u8 44 }
  let sync := c.d.f 46 2
  let rl := c.d.f 48 2
  let w := d.vW l
  let h := d.vH l
  let okCam (s : Nat) : Bool := d.kind s == 1 && d.se s 3 1 == 0
  if !okCam l || !okCam r || l = r || d.vW r != w || d.vH r != h || (n != 4 && n != 8) || 4 < p || q.p1 = 0 || 63 < q.p1
      || q.p2 < q.p1 || 50 < q.uniq || 7 < q.lrTol || sync = 0 || 1000 < sync || rl < 16 || 256 < rl || rl % 16 != 0
      || (2 ≤ c.d.u8 45 && c.d.u8 45 != 0xFF) || c.d.f 40 4 < 4 * w * h then opDone d .bad else
  match d.storedPipe (c.d.u8 45) with
  | none => opDone d (.conflict notEnabled)
  | some pipe =>
    match (d.sensor l).stored with
    | [] => opDone d (.conflict d.part.code)
    | a :: _ =>
      match (d.sensor r).stored.find? fun x => decide (((x.first : Int) - a.first).natAbs ≤ sync * 1000 * 65536) with
      | none => opDone d (.conflict d.part.code)
      | some b =>
        let need := up4k (w * (2 * rl + if n = 8 then 480 else 240))
        let free := d.freeLines pipe
        if free < need then opDone d { status := stResourceShort, result0 := BitVec.ofNat 64 (need - free) } else
        let tbl (s : Nat) : Option Bytes := (d.vision.tables.find? fun t => t.1 == s).map (·.2)
        let j := storedStart { tok := c.tok, pipe := pipe, w := w, h := h, frameL := a, frameR := b, eight := n == 8, depth := p,
                               params := q, tblL := tbl l, tblR := tbl r, need := need } d
        ({ d with vision := { d.vision with jobs := d.vision.jobs ++ [j] } }, .later)

/-- A STEREO_STORED completes with its planes (R191). -/
def storedDone (j : StoredJob) (d : Dev) : Dev :=
  let d := { d with vision := { d.vision with jobs := d.vision.jobs.filter fun x => x.tok != j.tok } }
  match d.pendOf j.tok with
  | none => d
  | some p =>
    let out := stereo j.eight j.depth j.params (rectify (d.storedImage j.w j.h j.frameL) j.tblL)
      (rectify (d.storedImage j.w j.h j.frameR) j.tblR)
    let pl := planesOf out
    finish j.tok { (Cpl.ok j.frameL.tov (validOf out)) with dest := some (p.d.f 32 8), payload := pl.1 ++ pl.2.1 ++ pl.2.2 } d

/-- The stored frames' stereo whose time has come completes; what a fenced pipe left starts again (R72, R191, R192). -/
def storedStep (d : Dev) : Dev :=
  let ends (j : StoredJob) : Bool := match j.due with
    | some a => decide (a ≤ d.now)
    | none => false
  let gone := d.vision.jobs.filter ends
  let d := gone.foldl (fun d j => moveCheck j.pipe (storedDone j d)) d
  d.vision.jobs.foldl (fun d j =>
    if j.due.isSome then d
    else if (d.vp 0).st == .gated && (d.vp 1).st == .gated then
      finish j.tok (.conflict notEnabled) { d with vision := { d.vision with jobs := d.vision.jobs.filter fun x => x.tok != j.tok } }
    else
    let k := storedStart j d
    { d with vision := { d.vision with jobs := d.vision.jobs.map fun x => if x.tok == j.tok then k else x } }) d

/-! ### Profile application (R168, R188) -/

/-- Applying a record ends every frame without a record, clears the new vision flags, restarts the rings, discards
tables that break R168, and sets the pipes by vp_en. -/
def visionApply (d : Dev) : Dev :=
  let d := { d with vision := { d.vision with
    ring := d.vision.ring.map fun r => { grab := r.grab.or ((r.cur ++ r.closing).findSome? (·.grab)) }
    jobs := d.vision.jobs.map fun j => { j with due := none }
    pipe := d.vision.pipe.mapIdx fun p v => { v with
      st := if bitsOf p p (d.pf 21 1) = 0 then .gated else if v.st == .fenced then .fenced else .home
      movedAt := none } } }
  let host (p : Nat) (d : Dev) : Dev :=
    if (d.vp p).st == .home && (d.vp (1 - p)).st == .fenced then d.setVp p fun v => { v with st := .hosting } else d
  let d := moveCheck 1 (moveCheck 0 (host 1 (host 0 d)))
  let d := (List.range 32).foldl (fun d i =>
    if d.ownsRing i then
      (List.range (d.se i 75 1 + 1)).foldl (fun d k => d.setFlag (d.se i 80 2 + k) 0) d
    else d) d
  d.vision.tables.foldl (fun d t =>
    let bad := d.kind t.1 != 1 || t.2.length != 8 * nodeCount (d.vW t.1) (d.vH t.1) ||
      (d.routed t.1 && (tableFault (d.vW t.1) (d.vH t.1) (d.rectLines t.1) t.2).isSome)
    if bad then
      evVp ((d.homePipe t.1) % 2) 0x0705 1 (det [(16, [BitVec.ofNat 8 t.1])])
        { d with vision := { d.vision with tables := d.vision.tables.filter fun x => x.1 != t.1 } }
    else d) d

end Sys2Proof.Machine
end

