-- ==== Sys2Proof/Machine/Neural.lean ====
section
/-! DEFINITION. Model slots: packages and their checks, loading, inferences and waves, bindings and recurrent state
(spec/09). -/

namespace Sys2Proof.Machine

def Dev.slot (d : Dev) (s : Nat) : Slot := d.neural.slot.getD s {}
def Dev.setSlot (d : Dev) (s : Nat) (f : Slot → Slot) : Dev :=
  { d with neural := { d.neural with slot := upd d.neural.slot s f } }
def Dev.setBind (d : Dev) (b : Nat) (f : Binding → Binding) : Dev :=
  { d with neural := { d.neural with binds := d.neural.binds.map fun x => if x.id = b then f x else x } }
def Dev.bind (d : Dev) (b : Nat) : Option Binding := d.neural.binds.find? fun x => x.id == b

/-- State code of a slot (*Slot states*). -/
def SlotSt.code : SlotSt → Nat
  | .empty => 0x0601 | .installing => 0x0602 | .installed => 0x0603 | .loading => 0x0604
  | .loaded => 0x0605 | .unloading => 0x0606 | .disabled => 0x0607

/-- Object numbers of a slot's package and set (R263). -/
def pkgObj (s : Nat) : Nat := 0x30000000 + 0x100 * s
def setObjId (s : Nat) : Nat := 0x30000001 + 0x100 * s

/-- The package of a slot. -/
def Dev.pkg (d : Dev) (s : Nat) : Bytes := ((d.obj (pkgObj s)).map (·.data)).getD []

/-- A field of a slot's package header (R260). -/
def Dev.pk (d : Dev) (s lo n : Nat) : Nat := fld (d.pkg s) lo n

/-- HIF_FEAT (*Feature bits*). -/
def Dev.feat (d : Dev) : Nat :=
  0x3DFC + bit d.slowOn + 2 * bit d.card.usable + 512 * bitsOf 1 1 (d.pf 21 1)

/-- A slot changes state, with EV_MODEL_STATE unless it comes into or out of INSTALLING or LOADING (R264). -/
def slotState (s : Nat) (st : SlotSt) (cause : Nat) (d : Dev) : Dev :=
  let old := (d.slot s).st
  let d := d.setSlot s fun x => { x with st := st }
  let quiet (x : SlotSt) : Bool := x == .installing || x == .loading
  if old == st || quiet old || quiet st then d else
  evFrom 9 0 0x0910 (if st == .disabled then 1 else 0)
    (det [(16, [BitVec.ofNat 8 s, BitVec.ofNat 8 st.code, BitVec.ofNat 8 cause])]) d

/-! ### Installing a package (R260-R266) -/

/-- The header's sections that are in use: entry, offset, length, CRC-32C and kind. -/
def sectionsOf (p : Bytes) : List (Nat × Nat × Nat × Nat × Nat) :=
  ((List.range 8).map fun i =>
    (i, fld p (128 + 16 * i) 4, fld p (132 + 16 * i) 4, fld p (136 + 16 * i) 4, fld p (140 + 16 * i) 1)).filter
    fun x => !(x.2.1 == 0 && x.2.2.1 == 0 && x.2.2.2.1 == 0 && x.2.2.2.2 == 0)

/-- The section of a kind: offset and length. -/
def sectionOf (p : Bytes) (kind : Nat) : Option (Nat × Nat) :=
  ((sectionsOf p).find? fun x => x.2.2.2.2 == kind).map fun x => (x.2.1, x.2.2.1)

/-- The bytes of a section. -/
def sectionBytes (p : Bytes) (kind : Nat) : Bytes :=
  match sectionOf p kind with
  | some x => (p.drop x.1).take x.2
  | none => []

/-- The first of a list of checks that fails: its offset. -/
def firstFault (l : List (Nat × Bool)) : Option Nat := (l.find? fun x => !x.2).map (·.1)

/-- Bytes lo … lo+n-1 are zero, as a check at each of them. -/
def zeroChecks (p : Bytes) (lo n : Nat) : List (Nat × Bool) :=
  (List.range n).map fun i => (lo + i, p.getD (lo + i) 0 == 0)

/-- Check 3: sections lie within the package, do not overlap and have their CRC-32C. -/
def sectionFault (p : Bytes) : Option Nat :=
  let l := sectionsOf p
  firstFault ((l.map fun x => (128 + 16 * x.1, decide (4096 ≤ x.2.1) && decide (x.2.1 + x.2.2.1 ≤ p.length))) ++
    (l.map fun x => (128 + 16 * x.1, l.all fun y =>
      y.1 == x.1 || decide (y.2.1 + y.2.2.1 ≤ x.2.1) || decide (x.2.1 + x.2.2.1 ≤ y.2.1))) ++
    (l.map fun x => (x.2.1, crcOf 0 ((p.drop x.2.1).take x.2.2.1) == x.2.2.2.1)))

/-- An element format that an input or output may have (*Element format codes*). -/
def ioFormat (dir source fmt : Nat) : Bool :=
  if dir = 1 then [1, 2, 5, 6, 0xD, 0xE, 0xF].contains fmt
  else match source with
    | 0 => [1, 2, 5, 6, 0xD, 0xE, 0xF].contains fmt
    | 3 => fmt == 0x10
    | _ => fmt == 2

/-- The checks of one I/O entry (R261, R262). -/
def ioChecks (p : Bytes) (i : Nat) : List (Nat × Bool) :=
  let o := 512 + 32 * i
  let nin := fld p 27 1
  let nout := fld p 28 1
  if nin + nout ≤ i then zeroChecks p o 32 else
  let dir := if i < nin then 0 else 1
  let rank := fld p (o + 3) 1
  let area := if dir = 0 then fld p 60 4 else fld p 64 4
  [(o, fld p o 1 == dir), (o + 1, ioFormat dir (fld p (o + 2) 1) (fld p (o + 1) 1)),
   (o + 2, if dir = 1 then fld p (o + 2) 1 == 0 else decide (fld p (o + 2) 1 ≤ 3)),
   (o + 3, decide (1 ≤ rank ∧ rank ≤ 4))] ++
  ((List.range 4).map fun k =>
    let x := fld p (o + 4 + 4 * k) 4
    (o + 4 + 4 * k, if rank ≤ k then x == 1 else decide (1 ≤ x))) ++
  [(o + 20, fld p (o + 20) 4 % 64 == 0), (o + 24, decide (fld p (o + 20) 4 + fld p (o + 24) 4 ≤ area))] ++
  zeroChecks p (o + 28) 4

/-- Check 4: every header field and I/O entry within its range, reserved bytes zero, in order of their offsets. -/
def headerFault (p : Bytes) : Option Nat :=
  let f := fld p
  let len (k : Nat) : Nat := ((sectionOf p k).map (·.2)).getD 0
  firstFault (zeroChecks p 6 2 ++
    [(24, f 24 1 % 2 == 1 && decide (f 24 1 < 4)), (25, decide (1 ≤ f 25 1 ∧ f 25 1 ≤ 8)),
     (26, decide (1 ≤ f 26 1 ∧ f 26 1 ≤ 16)), (27, decide (1 ≤ f 27 1 ∧ f 27 1 ≤ 8)),
     (28, decide (1 ≤ f 28 1 ∧ f 28 1 ≤ 8)), (29, decide (f 29 1 ≤ 64))] ++ zeroChecks p 30 2 ++
    [(32, f 32 4 == len 2), (36, f 36 4 == len 3),
     (52, f 52 4 % 64 == 0 && decide (f 52 4 ≤ 393216) && ((f 52 4 == 0) == (f 29 1 == 0))),
     (57, decide (f 57 1 ≤ 20))] ++ zeroChecks p 58 2 ++ zeroChecks p 68 60 ++
    ((List.range 8).map fun i => (140 + 16 * i, decide (fld p (140 + 16 * i) 1 ≤ 6) &&
      (fld p (140 + 16 * i) 1 != 0 || decide ((sectionsOf p).all fun x => x.1 != i)))) ++
    ((List.range 8).map fun i => zeroChecks p (141 + 16 * i) 3).flatten ++
    ((List.range 8).map fun i => zeroChecks p (268 + 16 * i) 4).flatten ++
    zeroChecks p 388 60 ++ ((List.range 16).map (ioChecks p)).flatten ++ zeroChecks p 1024 3072)

/-- n rounded up to 64 KiB. -/
def up64k (n : Nat) : Nat := units n * 65536

/-- Check 5: the window steps. -/
def stepsFault (p : Bytes) : Option Nat :=
  let n := fld p 25 1
  let w (i : Nat) : Nat := fld p (256 + 16 * i) 4
  firstFault (((List.range (n - 1)).map fun i => (256 + 16 * (i + 1), decide (w (i + 1) < w i))) ++
    [(256 + 16 * (n - 1), decide (up64k (fld p 40 4 + fld p 44 4) ≤ up64k (w (n - 1))))])

/-- Check 6: tasks of a plan that may be ready at once with overlapping output regions (R207). -/
def planFault (p : Bytes) : Option Nat :=
  [4, 5].findSome? fun k => match sectionOf p k with
    | some x => if Config.planOverlaps (sectionBytes p k) then some x.1 else none
    | none => none

/-- *Install checks*, in order: check code, status and offset of the first that fails. The offset of a wrong total
length is not stated. -/
def installFault (p : Bytes) (total feat free : Nat) : Option (Nat × Byte × Nat) :=
  if fld p 0 4 ≠ 0x4B474E49 then some (1, stBadDescriptor, 0)
  else if fld p 4 2 ≠ 1 then some (1, stBadDescriptor, 4)
  else if p.length ≠ total || total < 4096 then some (1, stBadDescriptor, free)
  else if padTo 64 (Config.sha3 (p.drop 4096)) ≠ (p.drop 448).take 64 then some (2, stBadDescriptor, 448)
  else match sectionFault p with
  | some o => some (3, stBadDescriptor, o)
  | none =>
    match headerFault p with
    | some o => some (4, stBadDescriptor, o)
    | none =>
      match stepsFault p with
      | some o => some (5, stBadDescriptor, o)
      | none =>
        match planFault p with
        | some o => some (6, stBadDescriptor, o)
        | none => if fld p 16 8 &&& feat ≠ fld p 16 8 then some (7, stVersion, 0) else none

/-- Home space that a slot's install holds while it runs. -/
def Slot.reserved (x : Slot) (slow : Bool) : Nat :=
  if x.st == .installing && x.slow == slow then
    if slow then 2 * ((x.total + 4095) / 4096 * 4096) else x.total
  else 0

/-- Free home space, apart from what slot `s` has reserved. -/
def Dev.homeFree (d : Dev) (s : Nat) (slow : Bool) : Nat :=
  let res := ((List.range 16).map fun i => if i = s then 0 else (d.slot i).reserved slow).sum
  if slow then d.slowSpace - d.slowUsed - res else flashStore - d.flashUsed - res

/-- A slot's package and set leave the tiers. -/
def dropPackage (s : Nat) (d : Dev) : Dev := dropObjs (fun o => o.id == pkgObj s || o.id == setObjId s) d

/-- A slot's package replaces any earlier one (R263, R266). -/
def putPackage (s : Nat) (p : Bytes) (slow : Bool) (d : Dev) : Dev :=
  let mk (id kind : Nat) (b : Bytes) : TierObj :=
    { id := id, kind := kind, size := b.length, slow := slow, mirrored := slow, data := b }
  addObjs [mk (pkgObj s) 1 p, mk (setObjId s) 2 (sectionBytes p 2)] (dropPackage s d)

/-- MODEL_INSTALL (R264-R266). A first chunk in DISABLED discards the earlier package; an install begun there that fails goes back to
DISABLED. -/
def opModelInstall : OpFn := fun c d =>
  let s := c.d.u8 24
  let fl := c.d.u8 25
  let len := c.d.f 28 4
  let off := c.d.f 40 4
  let total := c.d.f 44 4
  let first := fl % 2 == 1
  let final := fl / 2 % 2 == 1
  let x := d.slot s
  if 15 < s || 7 < fl || len = 0 || 67108864 < len || (!first && total != 0) then opDone d .bad else
  if x.st == .loading || x.st == .loaded || x.st == .unloading then opDone d (.conflict x.st.code) else
  if !first && x.st != .installing then opDone d (.conflict x.st.code) else
  if (!final && len % 4096 != 0) || (first && off != 0) || (!first && off != x.chunks.length) then opDone d .bad else
  let slow := if first then d.slowOn && fl / 4 % 2 == 0 else x.slow
  let need := if slow then 2 * ((total + 4095) / 4096 * 4096) else total
  let left := if first && x.st == .disabled then dropPackage s d else d
  if first && decide (left.homeFree s slow < need) then
    opDone d { status := stResourceShort, stateCode := if slow then 2 else 32, result0 := BitVec.ofNat 64 (need - left.homeFree s slow) }
  else
    let b := c.input d 32 len
    let d := left
    let d := if first then d.setSlot s fun x => { x with
        prior := if x.st == .installing then x.prior else x.st
        st := .installing, chunks := b, total := total, slow := slow }
      else d.setSlot s fun x => { x with chunks := x.chunks ++ b }
    if !final then opDone d .ok else
    let x := d.slot s
    let p := x.chunks
    let back (st : SlotSt) (d : Dev) : Dev := slotState s st 0 (d.setSlot s fun x => { x with chunks := [], total := 0 })
    match installFault p x.total d.feat d.freeVal with
    | some (code, status, o) =>
      let r : Cpl := if status == stVersion then .of stVersion
        else { Cpl.bad with result0 := BitVec.ofNat 64 o, result1 := BitVec.ofNat 32 code }
      opDone (back x.prior d.useFree) r
    | none => opDone (back .installed (putPackage s p x.slow d.useFree)) (.ok p.length)

/-- MODEL_REMOVE (*Slot states*). -/
def opModelRemove : OpFn := fun c d =>
  let s := c.d.u8 24
  if 15 < s then opDone d .bad else
  match (d.slot s).st with
  | .empty => opDone d .ok
  | .installing | .installed | .disabled =>
    let d := dropPackage s d
    opDone (slotState s .empty 0 (d.setSlot s fun x => { x with chunks := [], total := 0, prior := .empty })) .ok
  | st => opDone d (.conflict st.code)

/-! ### Loading (R267-R274) -/

/-- Units of a cluster's model area that are free (R267). -/
def Dev.areaFree (d : Dev) (c : Nat) : Nat :=
  176 - (d.neural.slot.map fun x => x.area.getD c 0).sum
    - (d.solver.map fun x => match x.solving with
        | some z => z.area.getD c 0
        | none => 0).sum

/-- Enabled clusters as a mask. -/
def Dev.clusterEn (d : Dev) : Nat := ((List.range 6).map fun c => if (d.clus c).on then 2 ^ c else 0).sum

/-- Clusters of a mask. -/
def clustersOf (mask : Nat) : List Nat := (List.range 6).filter fun c => mask.testBit c

/-- State role engines of a package (R287). -/
def stateRoles (p : Bytes) : Nat :=
  if fld p 52 4 = 0 then 0 else (fld p 29 1 + (393216 / fld p 52 4) - 1) / (393216 / fld p 52 4)

/-- What a load asks for in one mode and step: window and activation units, set and checkpoint units, holders, state
role engines (*Load needs*). -/
structure LoadPlan where
  mode : Nat
  step : Nat
  window : Nat
  act : Nat
  ipm : Nat
  holders : Nat
  states : Nat
  deriving DecidableEq, Repr

/-- The needs in a mode at a step. -/
def loadPlan (p : Bytes) (mode step : Nat) : LoadPlan :=
  let set := if mode = 0 then fld p 32 4 else fld p 36 4
  let ck := if fld p 56 1 = 0 then 0 else fld p 29 1 * fld p 52 4
  { mode := mode, step := step, window := if mode = 0 then units (fld p (256 + 16 * step) 4) else 0,
    act := units (fld p 48 4), ipm := units set + units ck, holders := if mode = 1 then fld p 57 1 else 0,
    states := stateRoles p }

/-- The cluster that hosts the state roles: the lowest-numbered of the mask with room, beside its holders (R287). -/
def Dev.stateCluster (d : Dev) (mask : Nat) (q : LoadPlan) : Option Nat :=
  (clustersOf mask).find? fun c => decide (q.holders + q.states ≤ d.roleRoom 1 c)

/-- The holders do not fit in some cluster of the mask (R271). -/
def Dev.holdersShort (d : Dev) (mask : Nat) (q : LoadPlan) : Bool :=
  (clustersOf mask).any fun c => decide (d.roleRoom 2 c < q.holders)

/-- Bits of the tiers that are short (R272): IPM 0, cluster shared 2, engine-local 3. -/
def Dev.loadShort (d : Dev) (mask : Nat) (q : LoadPlan) : Nat :=
  let cl := clustersOf mask
  bit (decide (d.ipmAvail < q.ipm)) + 4 * bit (cl.any fun c => decide (d.areaFree c < q.window + q.act)) +
    8 * bit (d.holdersShort mask q || (decide (0 < q.states) && (d.stateCluster mask q).isNone))

/-- Home of the package unreadable: slow tier 1 or flash model store 5. -/
def Dev.homeShort (d : Dev) (s : Nat) : Nat :=
  match d.obj (pkgObj s) with
  | none => 32
  | some o => if o.st == .lost || (o.slow && !d.slowOn) then (if o.slow then 2 else 32) else 0

/-- The mode and step that a load takes, with its flags (R269, R271): shrunk 1, mode fallback 2. -/
def Dev.choosePlan (d : Dev) (p : Bytes) (mask mode : Nat) (exact : Bool) : LoadPlan × Nat :=
  let streamed (fl : Nat) : LoadPlan × Nat :=
    let steps := if exact then [0] else List.range (fld p 25 1)
    match steps.find? fun i => (d.loadShort mask (loadPlan p 0 i)) / 4 % 2 == 0 with
    | some i => (loadPlan p 0 i, fl + bit (i != 0))
    | none => (loadPlan p 0 (steps.length - 1), fl)
  if mode = 1 then
    let q := loadPlan p 1 255
    if fld p 24 1 / 2 % 2 = 0 || d.holdersShort mask q then streamed 2 else (q, 0)
  else streamed 0

/-- The wave size of a cluster (R270). -/
def Dev.waveSize (d : Dev) (p : Bytes) (c : Nat) (q : LoadPlan) : Nat :=
  if q.act = 0 then fld p 26 1 else min (fld p 26 1) ((d.areaFree c - q.window) / q.act)

/-- Engine-local bytes that a load is short of in a cluster: the state roles count where they are hosted, or, where no cluster
of the mask has room for them, in its lowest-numbered one (R268, R287; DESIGN CHOICE, notes/assumptions/89.md). -/
def Dev.localShort (d : Dev) (mask : Nat) (q : LoadPlan) (c : Nat) : Nat :=
  let host := (d.stateCluster mask q).or (clustersOf mask).head?
  393216 * (q.holders + (if host = some c then q.states else 0)) - 393216 * d.roleRoom 1 c

/-- The package has its home on the slow tier. -/
def Dev.homeSlow (d : Dev) (s : Nat) : Bool := ((d.obj (pkgObj s)).map (·.slow)).getD false

/-- The load report (*Load report*). The home tier's need is the package in 64 KiB units, counted once, mirrored or not; R268 counts no
free amount for it: an unreadable package is short by its whole need (DESIGN CHOICE, notes/assumptions/89.md). -/
def loadReport (d : Dev) (s : Nat) (st : SlotSt) (p : Bytes) (mask : Nat) (q : LoadPlan) (flags short : Nat) (waves : List Nat) : Bytes :=
  let sh := short ||| d.homeShort s
  let elm := 393216 * (q.holders + q.states)
  let worst (f : Nat → Nat) : Nat := ((clustersOf mask).map f).foldl max 0
  let home := up64k p.length
  let slow := d.homeSlow s
  let stepOff := 256 + 16 * q.step
  padTo 256 ([BitVec.ofNat 8 s, BitVec.ofNat 8 st.code, BitVec.ofNat 8 q.mode, BitVec.ofNat 8 q.step,
      BitVec.ofNat 8 (flags + 4 * bit (sh != 0)), BitVec.ofNat 8 mask] ++ waves.map (BitVec.ofNat 8 ·)
    ++ leBytes 4 (if q.mode = 0 then fld p stepOff 4 else 0) ++ leBytes 4 (fld p 48 4)
    ++ leBytes 4 (if q.mode = 0 then fld p (stepOff + 4) 4 else fld p 384 4)
    ++ leBytes 4 (if q.mode = 0 then fld p (stepOff + 8) 4 else 0)
    ++ leBytes 4 (if sh = 0 then q.ipm * 65536 else 0)
    ++ leBytes 8 elm ++ leBytes 8 ((q.window + q.act) * 65536) ++ leBytes 8 (q.ipm * 65536)
    ++ leBytes 8 (if slow then home else 0) ++ leBytes 8 (if slow then 0 else home)
    ++ leBytes 8 (worst (d.localShort mask q))
    ++ leBytes 8 (worst fun c => (q.window + q.act - d.areaFree c) * 65536)
    ++ leBytes 8 ((q.ipm - d.ipmAvail) * 65536)
    ++ leBytes 8 (if sh / 2 % 2 = 1 then home else 0) ++ leBytes 8 (if sh / 32 % 2 = 1 then home else 0))

/-- A result payload for an optional buffer address (0 for none). -/
def OpCtx.optOutput (c : OpCtx) (at8 : Nat) (b : Bytes) (k : Cpl) : Cpl :=
  match c.ch with
  | .sq _ => if c.d.f at8 8 = 0 then k else { k with dest := some (c.d.f at8 8), payload := b }
  | _ => k

/-- The recurrent state that a package gives instance i at first (*Section kinds*). -/
def initialState (p : Bytes) (i : Nat) : Bytes :=
  padTo (fld p 52 4) ((sectionBytes p 6).drop (i * fld p 52 4))

/-- The tensor holders' role object of a slot and index (model slot in the high part, as R287 numbers state roles). -/
def holderObj (s j : Nat) : Nat := 0x100 * s + j

/-- The report of a load that is refused, or ended before it completes: its slot, the state after it and its mask (R274; DESIGN
CHOICE, notes/assumptions/89.md). The slot keeps that of its last load. -/
def refusedReport (s st mask : Nat) : Bytes :=
  padTo 256 [BitVec.ofNat 8 s, BitVec.ofNat 8 st, 0, 0, 0, BitVec.ofNat 8 mask]

/-- A load takes its roles: the holders in every cluster of the mask, and the state roles in one (R271, R287). -/
def loadRoles (s mask : Nat) (q : LoadPlan) (sc : Nat) (d : Dev) : Dev :=
  let d := (clustersOf mask).foldl (fun d k =>
    (List.range q.holders).foldl (fun d j =>
      match d.roleEngine 2 k with
      | some e => placeRole 2 (holderObj s (32 * k + j)) k e none d
      | none => d) d) d
  (List.range q.states).foldl (fun d j =>
    match d.roleEngine 1 sc with
    | some e => placeRole 1 (holderObj s j) sc e none d
    | none => d) d

/-- A load takes its IPM: the set of its mode is promoted with the slot's pin, and its checkpoints are allocated, candidates
evicted for both (R251, R273). A resident copy of the other mode's set is no copy of this one. -/
def loadSet (s : Nat) (p : Bytes) (mode ck : Nat) (d : Dev) : Dev :=
  let b := sectionBytes p (if mode = 0 then 2 else 3)
  let d := d.setObj (setObjId s) fun o =>
    let o := d.placeSlow { o with size := b.length, data := b }
    if o.st == .resident && (d.obj (setObjId s)).any fun x => x.data != b then { o with st := .home, units := [] } else o
  let d := (promote (setObjId s) s 1 (.model s) d).1
  (makeRoom ck (setObjId s) d).setAlloc (0x2000 + s) ck

/-- MODEL_LOAD (R267-R274). -/
def opModelLoad : OpFn := fun c d =>
  let s := c.d.u8 24
  let m := c.d.u8 25
  let x := d.slot s
  let mask := if m = 0 then d.clusterEn else m
  let rep (r : Cpl) : Cpl := c.optOutput 32 (refusedReport s x.st.code mask) r
  if 15 < s || 63 < m || 1 < c.d.u8 26 || mask = 0 then opDone d (rep .bad)
  else if mask &&& d.clusterEn != mask then opDone d (rep (.conflict notEnabled))
  else
    match x.st with
    | .disabled => opDone d (rep { (Cpl.of stModelDataLost) with stateCode := 0x0607 })
    | .installed =>
      let p := d.pkg s
      let (q, flags) := d.choosePlan p mask (d.pf 23 1) (c.d.u8 26 == 1)
      let short := d.loadShort mask q ||| d.homeShort s
      if short != 0 then
        let r := loadReport d s .installed p mask q flags short [0, 0, 0, 0, 0, 0]
        let sharedShort := ((clustersOf mask).map fun c => (q.window + q.act - d.areaFree c) * 65536).foldl max 0
        opDone (d.setSlot s fun x => { x with report := r })
          (c.optOutput 32 r { status := stResourceShort, stateCode := BitVec.ofNat 16 short
                              result0 := BitVec.ofNat 64 ((q.ipm - d.ipmAvail) * 65536)
                              result1 := BitVec.ofNat 32 sharedShort })
      else
        let waves := (List.range 6).map fun k => if mask.testBit k then d.waveSize p k q else 0
        let r := loadReport d s .loaded p mask q flags 0 waves
        let area := (List.range 6).map fun k => if mask.testBit k then q.window + waves.getD k 0 * q.act else 0
        let sc := (d.stateCluster mask q).getD 0
        let ck := if fld p 56 1 = 0 then 0 else units (fld p 29 1 * fld p 52 4)
        let d := loadSet s p q.mode ck (loadRoles s mask q sc d)
        let d := d.setSlot s fun x => { x with
          filled := false, mask := mask, mode := q.mode, step := q.step, flags := flags, wave := waves, area := area
          loadTok := some c.tok, loadDest := c.d.f 32 8, report := r, stateEngines := q.states, committed := 0
          insts := (List.range (fld p 29 1)).map fun i => { state := initialState p i }, reqs := [], fetched := [], win := [] }
        (slotState s .loading 0 d, .later)
    | st => opDone d (rep (.conflict st.code))

/-- Roles of a slot: the state roles and the tensor holders. -/
def Dev.slotRoles (d : Dev) (s : Nat) : List RoleEntry :=
  d.comp.dir.filter fun r => (r.kind == 1 || r.kind == 2) && r.obj / 0x100 == s

/-- The IPM bytes of a slot's set are there to be read. -/
def Dev.setReady (d : Dev) (s : Nat) : Bool :=
  match d.obj (setObjId s) with
  | some o => o.st == .resident
  | none => true

/-- Copies of ingots (offset in the set, length, offset in the window) from the IPM into the window of cluster `c`, in a class (R22,
R255). `streamed` says that a wave brings them. -/
def Dev.windowCopies (d : Dev) (s c cls : Nat) (streamed : Bool) (ingots : List (Nat × Nat × Nat)) : List CopyJob :=
  let l := ((d.obj (setObjId s)).map (·.units)).getD []
  let window := 0x0010_0000_0000 + 0x0100_0000 * c + 1048576 + 65536 * (Config.windowPlace s c % 176)
  ingots.flatMap fun g => (ipmPieces g.1 g.2.1 0 l).map fun q =>
    { ce := 2 * c, cls := cls, cluster := c, engine := 0, src := q.1, dst := window + g.2.2 + q.2.2, len := q.2.1, load := some s
      ingot := if streamed then some g else none }

/-- Once a set is RESIDENT, the copy engines of each cluster fill its window with the ingots that the step keeps there (R255,
R273). -/
def fillWindows (s : Nat) (d : Dev) : Dev :=
  let x := d.slot s
  if x.st != .loading || x.filled || x.mode != 0 || !d.setReady s then d else
  let jobs := (clustersOf x.mask).flatMap fun c => d.windowCopies s c 1 false (Config.residentIngots (sectionBytes (d.pkg s) 4) x.step)
  { d with comp := { d.comp with copyq := d.comp.copyq ++ jobs } }.setSlot s fun x => { x with filled := true }

/-- A TENSOR_HOLDER engine takes its tensors from the set in the IPM, at the load and after a move (R219, R255). -/
def holderRebuilt (s j c e : Nat) (d : Dev) : Dev :=
  let l := ((d.obj (setObjId s)).map (·.units)).getD []
  let base := 0x0800_0000 * c + 0x0008_0000 * e
  ((Config.holderTensors (sectionBytes (d.pkg s) 5) j).flatMap fun g => (ipmPieces g.1 g.2.1 0 l).map fun q => (q, g.2.2)).foldl
    (fun d q => d.dput (base + q.2 + q.1.2.2) (d.dget q.1.1 q.1.2.1)) d

/-- A load completes once the set object is RESIDENT, every window holds its step's ingots and every role is ready (R273). -/
def loadCheck (s : Nat) (d : Dev) : Dev :=
  let d := fillWindows s d
  let x := d.slot s
  if x.st != .loading then d else
  let ready := d.setReady s && (d.comp.copyq.all fun j => j.load != some s) && (d.slotRoles s).all fun r => decide (r.cluster < 6) && !(d.eng r.cluster r.engine).rebuilding
  if !ready then d else
  let w := if x.mode = 0 then fld (d.pkg s) (256 + 16 * x.step) 4 else 0
  let r1 := x.step + 256 * x.mode
  let k : Cpl := if x.flags = 0 then .ok w r1 else .flagged x.flags w r1
  let d := slotState s .loaded 0 (d.setSlot s fun x => { x with loadTok := none })
  match x.loadTok with
  | none => d
  | some t => finish t (if x.loadDest = 0 then k else { k with dest := some x.loadDest, payload := x.report }) d

/-- A slot's windows, buffers, roles, state instances and pin are given up (R280, R281, R292). -/
def freeSlot (s : Nat) (d : Dev) : Dev :=
  let d := (d.slotRoles s).foldl (fun d r => freeRole r.kind r.obj d) d
  let d := (d.unpinAll (setObjId s) s).setAlloc (0x2000 + s) 0
  let d := { d with comp := { d.comp with copyq := d.comp.copyq.filter fun j => j.load != some s } }
  d.setSlot s fun x => { x with area := [0, 0, 0, 0, 0, 0], wave := [0, 0, 0, 0, 0, 0], insts := [], win := [], mask := 0, stateEngines := 0 }

/-- MODEL_UNLOAD may take effect once every INFER fetched before it has completed (R280). -/
def unloadCheck (s : Nat) (d : Dev) : Dev :=
  match (d.slot s).unload with
  | none => d
  | some (seq, t) =>
    if ((d.slot s).fetched.any fun f => decide (f.1 < seq)) || d.startsYet .infer s seq then d else stageTok t d

/-- MODEL_UNLOAD takes effect (R280). An INFER fetched after it, before the slot left LOADED, completes then as *Slot states* has it
(DEDUCED, notes/assumptions/89.md). -/
def unloadCommit (t : Tok) (s : Nat) (d : Dev) : Dev :=
  let x := d.slot s
  let d := x.fetched.foldl (fun d f => endTok f.2 (.conflict 0x0603) d) d
  let d := x.resets.foldl (fun d z => endTok z.2.1 (.conflict 0x0603) d) d
  finish t .ok (slotState s .installed 0 (freeSlot s (d.setSlot s fun x => { x with
    fetched := [], reqs := [], resets := [], unload := none })))

/-- A binding of the slot is in force. -/
def Dev.bound (d : Dev) (s : Nat) : Bool := d.neural.binds.any fun b => b.slot == s

/-- Fusion runs on the slot (R310). -/
def Dev.fusedOn (d : Dev) (s : Nat) : Bool := d.fusion.st == .running && d.fusion.slot == s

/-- Number of a descriptor's fetch. -/
def Dev.seqOf (d : Dev) (t : Tok) : Nat := ((d.pendOf t).map (·.seq)).getD 0

/-- MODEL_UNLOAD (*Slot states*, R280, R310). -/
def opModelUnload : OpFn := fun c d =>
  let s := c.d.u8 24
  if 15 < s then opDone d .bad else
  match (d.slot s).st with
  | .installed | .disabled => opDone d .ok
  | .loaded =>
    if d.bound s || d.fusedOn s then opDone d (.of stObjectBusy) else
    let d := slotState s .unloading 0 (d.setSlot s fun x => { x with unload := some (d.seqOf c.tok, c.tok) })
    (unloadCheck s d, .later)
  | st => opDone d (.conflict st.code)

/-- MODEL_QUERY (*Neural opcodes*). -/
def opModelQuery : OpFn := fun c d =>
  let s := c.d.u8 24
  let x := d.slot s
  if 15 < s then opDone d .bad else
  opDone d (c.optOutput 32 (padTo 256 x.report)
    (.ok (x.st.code % 256 + atBit 8 x.step + atBit 16 x.mode + atBit 24 x.mask + atBit 32 x.committed.toNat)
      (d.pk s 8 8 % 2 ^ 32)))

/-! ### Inferences (R275-R280, R288) -/

/-- The completion that *Slot states* gives an INFER, MODEL_BIND or STATE_RESET of a slot that is not LOADED. -/
def slotRefusal (st : SlotSt) : Cpl :=
  if st == .disabled then { (Cpl.of stModelDataLost) with stateCode := 0x0607 } else .conflict st.code

/-- At its fetch an INFER finds its slot LOADED, or completes (R280). -/
def inferFetched (c : OpCtx) (seq : Nat) (d : Dev) : Dev × Option Cpl :=
  let s := c.d.u8 24
  if 15 < s then (d, some .bad) else
  if (d.slot s).st != .loaded then (d, some (slotRefusal (d.slot s).st))
  else (d.setSlot s fun x => { x with fetched := x.fetched ++ [(seq, c.tok)] }, none)

/-- The INFER leaves its slot's books. -/
def inferGone (s : Nat) (t : Tok) (d : Dev) : Dev :=
  d.setSlot s fun x => { x with fetched := x.fetched.filter (fun f => f.2 != t), reqs := x.reqs.filter fun r => r.tok != t }

/-- The body's checks (R276). -/
def Dev.inferBad (d : Dev) (c : OpCtx) : Bool :=
  let s := c.d.u8 24
  let fl := c.d.u8 25
  let wf := c.d.f 26 2
  let p := d.pkg s
  let watch := wf / 2 ^ 15 == 1
  let inLen := fld p 60 4
  let outLen := fld p 64 4
  let inA := c.d.f 32 8
  let outA := c.d.f 40 8
  let stateful := fl / 4 % 2 == 1
  31 < fl || bitsOf 14 12 wf != 0 || c.d.f 48 4 < inLen || c.d.f 52 4 < outLen
    || (fl % 2 == 1 && (inA < 0x800000 || 0x1800000 < inA + c.d.f 48 4))
    || (fl / 2 % 2 == 1 && (outA < 0x1000000 || 0x1800000 < outA + c.d.f 52 4))
    || (watch && (0xEFF < wf % 4096 || c.d.f 56 4 < 2 ^ 31))
    || (fl / 8 % 2 == 1 && !watch)
    || (stateful && decide (fld p 29 1 ≤ c.d.u8 60)) || (!stateful && c.d.u8 60 != 0)
    || (List.range (fld p 27 1)).any fun i => fld p (512 + 32 * i + 2) 1 != 0

/-- A STATE_RESET of an instance that was fetched before number `seq` has not taken effect (R290). -/
def Dev.resetAhead (d : Dev) (s i seq : Nat) : Bool :=
  channels.any fun ch => (d.chan ch).pend.any fun p =>
    p.op == .stateReset && p.d.u8 24 == s && (p.d.u8 25 == 255 || p.d.u8 25 == i) && decide (p.seq < seq) && !p.stage.ended

/-- A state instance is claimed by another ring than `ch`, or by fusion (R288, R310). -/
def Dev.claimBusy (d : Dev) (s i : Nat) (ch : Chan) : Bool :=
  (match ((d.slot s).insts.getD i {}).claim with
    | some x => x != ch
    | none => false) || d.fusedOn s

/-- A ring claims a state instance (R288). -/
def Slot.claim (i : Nat) (ch : Chan) (x : Slot) : Slot :=
  { x with insts := upd x.insts i fun q => { q with claim := some ch } }

/-- INFER, once its dependency, epoch and launch conditions are met (R275-R278, R288, R310). A state step that a STATE_RESET precedes
claims its instance after it (R290). A slot that has left LOADED in the meantime refuses it (*Slot states*). -/
def opInfer : OpFn := fun c d =>
  let s := c.d.u8 24
  let fl := c.d.u8 25
  let wf := c.d.f 26 2
  let gone (k : Cpl) : Dev × OpResult := opDone (inferGone s c.tok d) k
  if (d.slot s).st != .loaded && (d.slot s).st != .unloading then gone (slotRefusal (d.slot s).st) else
  if d.inferBad c then gone .bad else
  let inst := if fl / 4 % 2 = 1 then some (c.d.u8 60) else none
  let seq := d.seqOf c.tok
  let later := inst.any fun i => d.resetAhead s i seq
  if !later && inst.any fun i => d.claimBusy s i c.ch then gone (.of stObjectBusy) else
  let r : InferReq :=
    { tok := c.tok, seq := seq, inst := inst, fleet := fl / 16 % 2 == 1, release := fl / 8 % 2 == 1, claimed := !later
      watch := if wf / 2 ^ 15 = 1 then some { flag := wf % 4096, mask := c.d.f 28 4, value := c.d.f 56 4 } else none }
  let claim (x : Slot) : Slot := match inst, later with
    | some i, false => x.claim i c.ch
    | _, _ => x
  (d.setSlot s fun x => claim { x with reqs := x.reqs ++ [r] }, .later)

/-- A band of a slot's bindings that is under way in a cluster. -/
def Dev.bandsIn (d : Dev) (s c : Nat) (p : BandJob → Bool) : List (Nat × BandJob) :=
  (d.neural.binds.filter fun b => b.slot == s).flatMap fun b => (b.jobs.filter fun j => j.cluster == c && !j.ended && p j).map fun j => (b.id, j)

/-- Inferences of a slot that run in a cluster: its current wave (R278). -/
def Dev.waveBusy (d : Dev) (s c : Nat) : Nat :=
  ((d.slot s).reqs.filter fun r => r.cluster == c && r.work.isSome).length + (d.bandsIn s c (·.started)).length

/-- An inference that waits for a wave: an INFER, or a band of a binding. -/
abbrev Member := InferReq ⊕ (Nat × BandJob)

/-- The inferences of a slot that wait for a wave in a cluster, oldest first; of one instant the INFERs come first (R278, R283; DESIGN
CHOICE, notes/assumptions/89.md). -/
def Dev.waveReady (d : Dev) (s c : Nat) : List Member :=
  let infers : List (Nat × Member) := ((d.slot s).reqs.filter fun r => r.ready && r.cluster == c && r.work.isNone && r.done.isNone).map fun r =>
    (r.readyAt, .inl r)
  let bands : List (Nat × Member) := (d.bandsIn s c fun j => !j.started).map fun j => (j.2.readyAt, .inr j)
  (inOrder (infers ++ bands) fun a b => decide (a.1 ≤ b.1)).map (·.2)

/-- The cluster with the most free places in its current wave, then the lower-numbered one (R277). Before a wave starts its members are
the ready inferences; one that waits for a later wave takes no place of this one. -/
def Dev.freeCluster (d : Dev) (s : Nat) : Nat :=
  let x := d.slot s
  let inWave (c : Nat) : Nat := if d.waveBusy s c = 0 then (d.waveReady s c).length else d.waveBusy s c
  let free (c : Nat) : Int := (x.wave.getD c 0 : Int) - inWave c
  ((clustersOf x.mask).foldl (fun (b : Option Nat) c =>
    match b with
    | none => some c
    | some y => if free y < free c then some c else some y) none).getD 0

/-- State instances of a model that one state role engine holds (R287). -/
def instsPerRole (p : Bytes) : Nat := if fld p 52 4 = 0 then 1 else 393216 / fld p 52 4

/-- The cluster for an inference that becomes ready (R277): its state role's, where that role has an engine, or the one with the most
free places. -/
def Dev.inferCluster (d : Dev) (s : Nat) (r : InferReq) : Option Nat :=
  match r.inst with
  | some i => ((d.roleAt 1 (holderObj s (i / instsPerRole (d.pkg s)))).map (·.cluster)).filter (· < 6)
  | none => some (d.freeCluster s)

/-- The state instance that a fetched INFER steps, whatever holds it. -/
def Dev.stepOf (d : Dev) (t : Tok) : Option Nat :=
  (d.openOf t).bind fun p => if p.d.u8 25 / 4 % 2 = 1 then some (p.d.u8 60) else none

/-- A state step of the instance that its ring was given before number `seq` has not committed (R288). -/
def Dev.stepAhead (d : Dev) (s i seq : Nat) (ch : Chan) : Bool :=
  (d.slot s).fetched.any fun f => f.2.ch == ch && decide (f.1 < seq) && d.stepOf f.2 == some i

/-- A state step whose STATE_RESETs have taken effect claims its instance afresh, or finds it claimed (R288, R290). -/
def claimCheck (s : Nat) (d : Dev) : Dev :=
  (d.slot s).reqs.foldl (fun d r =>
    match r.inst with
    | none => d
    | some i =>
      if r.claimed || d.resetAhead s i r.seq then d
      else if d.claimBusy s i r.tok.ch then finish r.tok (.of stObjectBusy) (inferGone s r.tok d)
      else d.setSlot s fun x => { x.claim i r.tok.ch with reqs := x.reqs.map fun q => if q.tok = r.tok then { q with claimed := true } else q }) d

/-- Requests whose watch is met, and whose instance's earlier steps and resets have committed, become ready (R277, R288, R290). -/
def readyInfers (s : Nat) (d : Dev) : Dev :=
  (d.slot s).reqs.foldl (fun d r =>
    let first := match r.inst with
      | none => true
      | some i => !d.stepAhead s i r.seq r.tok.ch && !d.resetAhead s i r.seq
    let met := match r.watch with
      | none => true
      | some w => d.watchMet w
    if r.ready || r.done.isSome || !r.claimed || !first || !met then d else
    match d.inferCluster s r with
    | none => d
    | some c => d.setSlot s fun x => { x with reqs := x.reqs.map fun q => if q.tok = r.tok then
        { q with ready := true, readyAt := d.now, cluster := c } else q }) (claimCheck s d)

/-- The role that a PINNED task of a slot's plan runs for: the state role of its instance, or a holder of the cluster. -/
def planRole (s c : Nat) (x : Slot) (inst : Option Nat) (p : Bytes) (j : Nat) : Option (Nat × Nat) :=
  match inst with
  | some i => if j = 0 && fld p 52 4 != 0 then some (1, holderObj s (i / (393216 / fld p 52 4)))
              else if x.mode = 1 then some (2, holderObj s (32 * c + (j - 1))) else none
  | none => if x.mode = 1 then some (2, holderObj s (32 * c + j)) else none

/-- The tasks of an inference have affinity CLUSTER, but for those PINNED to a state role or a holder; the task that ends a state step
and writes the new state is PINNED to the state role (R277, R287). -/
def inferPlan (stateful : Bool) (roleOf : Nat → Option (Nat × Nat)) (plan : List PlanTask) : List PlanTask :=
  plan.mapIdx fun i p =>
    if stateful && i + 1 == plan.length then { p with affinity := 0, engine := 0 }
    else { p with affinity := if p.affinity = 0 && (roleOf p.engine).isSome then 0 else 2 }

/-! ### Streamed ingots (R278) -/

/-- Two ranges overlap. -/
def overlap (a n b m : Nat) : Bool := decide (a < b + m) && decide (b < a + n)

/-- The slot that a piece of work is an inference of. -/
def Dev.workSlot (d : Dev) (w : Work) : Option Nat :=
  match w.kind with
  | .infer _ s _ => some s
  | .band b _ _ => (d.bind b).map (·.slot)
  | _ => none

/-- Work of a slot. -/
def Dev.slotWork (d : Dev) (s : Nat) : List Nat := (d.comp.works.filter fun w => d.workSlot w == some s).map (·.id)

/-- The uncommitted tasks of a slot's inferences in a cluster. -/
def Dev.waveTasks (d : Dev) (s c : Nat) : List Task :=
  let l := (d.comp.works.filter fun w => w.cluster == c && d.workSlot w == some s).map (·.id)
  d.comp.tasks.filter fun k => k.st != .committed && l.contains k.work

/-- The ingots that each wave of a slot's step streams (R278). -/
def Dev.streamed (d : Dev) (s : Nat) : List (Nat × Nat × Nat) :=
  if (d.slot s).mode != 0 then [] else Config.streamedIngots (sectionBytes (d.pkg s) 4) (d.slot s).step

/-- A task of a slot's plan reads a streamed ingot. -/
def Dev.readsIngot (d : Dev) (s : Nat) (k : Task) (off : Nat) : Bool :=
  (Config.ingotReaders (sectionBytes (d.pkg s) 4) (d.slot s).step off).contains k.idx

/-- A window holds a streamed ingot. -/
def Slot.holds (x : Slot) (c off : Nat) : Bool := x.win.any fun h => h.c == c && h.off == off

/-- A task reads a streamed ingot that its cluster's window does not hold (R204, R278). -/
def Dev.waitsIngot (d : Dev) (k : Task) : Bool :=
  match d.work k.work with
  | none => false
  | some w =>
    match d.workSlot w with
    | none => false
    | some s => (d.streamed s).any fun g => d.readsIngot s k g.1 && !(d.slot s).holds w.cluster g.1

/-- The place of a streamed ingot in the window still holds another that a task of the wave has to read (R278). -/
def Dev.placeHeld (d : Dev) (s c : Nat) (g : Nat × Nat × Nat) : Bool :=
  (d.slot s).win.any fun h => h.c == c && h.off != g.1 && overlap h.dst h.len g.2.2 g.2.1 && (d.waveTasks s c).any fun k => d.readsIngot s k h.off

/-- A copy that a copy engine may serve now: its source is not being rewritten, and its place in a window is free (R278, R291). -/
def Dev.mayCopy (d : Dev) (j : CopyJob) : Bool :=
  !d.rewriting j.src j.len && match j.load, j.ingot with
  | some s, some g => !d.placeHeld s j.cluster g
  | _, _ => true

/-- The copy that the queue of an engine holds for these operands, if any. -/
def Dev.queuedCopy (d : Dev) (ce src dst len : Nat) (r : Reader) : Option CopyJob :=
  d.comp.copyq.find? fun j => j.ce == ce && j.src == src && j.dst == dst && j.len == len && (match r with
    | .engine c e => j.load.isNone && j.cluster == c && j.engine == e
    | _ => j.load.isSome)

/-- The copy that an engine serves next: the highest class, then the oldest (R22, R256). -/
def Dev.nextCopy (d : Dev) (ce : Nat) : Option CopyJob :=
  let l := d.comp.copyq.filter fun j => j.ce == ce && d.mayCopy j
  (l.find? fun j => j.cls == 0).or ((l.find? fun j => j.cls == 1).or l.head?)

/-- A copy's turn has come: a queued one is the next of its engine, and none touches the local memory of an engine that runs
another unit's task (R203, R256). -/
def Dev.copyTurn (d : Dev) (ce src dst len : Nat) (srcHost dstHost : Bool) (r : Reader) : Bool :=
  let own (c e : Nat) : Bool := match r with
    | .engine x y => x == c && y == e
    | _ => false
  let free (host : Bool) (a : Nat) : Bool := host || (match engineAt a with
    | some (c, e) => (d.eng c e).running.isNone || own c e
    | none => true)
  (match d.queuedCopy ce src dst len r with
    | some j => d.nextCopy ce == some j
    | none => true) && free srcHost src && free dstHost dst

/-- What a copy reads from device memory. A bound band has zeros for its rows past the frame's end, whatever its slot holds (R283). -/
def Dev.copyView (d : Dev) (r : Reader) (src len : Nat) : Bytes :=
  let b := d.dget src len
  let work : Option Work := match r with
    | .engine c e => ((d.eng c e).running.bind d.task).bind fun k => d.work k.work
    | _ => none
  match (work.map fun w => w.kind : Option WorkKind) with
  | some (.band n _ tag) =>
    match d.bind n with
    | none => b
    | some x =>
      let i := x.sensor
      let rows := d.se i 76 2
      let w := d.vW i
      let here := d.vH i - tag / 65536 % 1024 * rows
      let base (j : BandJob) : Nat := exchBase + d.se i 88 4 + (j.inFlag - d.se i 80 2) * slotStride (d.isPair i) w rows
      let past (o : Nat) : Bool := decide (o < (if d.isPair i then 4 else 1) * w * rows) &&
        (if o < 2 * w * rows then decide (here ≤ o % (w * rows) / w) else decide (here ≤ (o - 2 * w * rows) / (2 * w)))
      match x.jobs.find? fun j => j.tag == tag with
      | none => b
      | some j => b.mapIdx fun o v => if base j ≤ src + o && past (src + o - base j) then 0 else v
  | _ => b

/-- A piece of a streamed ingot has come in; with the last one the window holds the ingot, and no other at its place (R278). -/
def ingotArrives (j : CopyJob) (d : Dev) : Dev :=
  match j.load, j.ingot with
  | some s, some g =>
    let more := d.comp.copyq.any fun q => q.load == some s && q.cluster == j.cluster && q.ingot == some g
    d.setSlot s fun x =>
      let win := x.win.filter fun h => !(h.c == j.cluster && overlap h.dst h.len g.2.2 g.2.1)
      { x with win := if more then win else win ++ [{ c := j.cluster, off := g.1, dst := g.2.2, len := g.2.1 }] }
  | _, _ => d

/-- In tier mode 0 a wave streams the ingots that its step does not keep resident into the window, once, in its class (R22, R278). -/
def streamWave (s c cls : Nat) (d : Dev) : Dev :=
  let jobs := d.windowCopies s c cls true (d.streamed s)
  { d with comp := { d.comp with copyq := d.comp.copyq ++ jobs } }.setSlot s fun x => { x with win := x.win.filter fun h => h.c != c }

/-- A task that runs again copies its ingots again where the window no longer holds them (R278). -/
def streamCheck (s : Nat) (d : Dev) : Dev :=
  (clustersOf (d.slot s).mask).foldl (fun d c =>
    let l := d.waveTasks s c
    if l.isEmpty then d else
    let lack (g : Nat × Nat × Nat) : Bool := l.any (fun k => d.readsIngot s k g.1) && !(d.slot s).holds c g.1
      && d.comp.copyq.all fun q => q.load != some s || q.cluster != c || q.ingot != some g
    let cls := if l.all (fun k => k.cls == 2) then 2 else 1
    { d with comp := { d.comp with copyq := d.comp.copyq ++ d.windowCopies s c cls true ((d.streamed s).filter lack) } }) d

/-- The watched flag is released in the commit queue of the inference's last read (R277). -/
def inferRelease (s : Nat) (t : Tok) (d : Dev) : Dev :=
  match (d.slot s).reqs.find? fun r => r.tok == t with
  | some r =>
    match r.release, r.watch with
    | true, some w =>
      (d.setFlag w.flag 0).setSlot s fun x => { x with reqs := x.reqs.map fun q => if q.tok = t then { q with release := false } else q }
    | _, _ => d
  | none => d

/-- Output bytes staged by offset, as one area of n bytes; bytes that no task wrote are open. -/
def Dev.staged (d : Dev) (n : Nat) (out : List (Nat × Bytes)) : Bytes :=
  out.foldl (fun b x => (putAt b x.1 x.2).take n) (d.freeBytes n)

/-- A state step commits: the instance's new state, its counts and its checkpoint (R289). -/
def commitStep (s i : Nat) (st : Bytes) (d : Dev) : Dev :=
  let p := d.pkg s
  let n := fld p 56 1
  d.setSlot s fun x => { x with insts := upd x.insts i fun q =>
    let q := { q with state := padTo (fld p 52 4) st, steps := satInc q.steps, sinceCkpt := q.sinceCkpt + 1, stale := none }
    if n ≠ 0 && q.steps.toNat % n = 0 then { q with ckpt := some q.state, sinceCkpt := 0 } else q }

/-- Every task of an inference has committed: its effects wait for its descriptor's place in the ring order (R50, R69, R208). -/
def inferDone (w : Work) (t : Tok) (s : Nat) (d : Dev) : Dev :=
  let d := inferRelease s t d
  stageTok t (d.setSlot s fun x => { x with reqs := x.reqs.map fun q => if q.tok = t then { q with work := none, done := some w } else q })

/-- An inference commits: its outputs, its state, its completion (R50, R69, R279, R289). -/
def inferCommit (t : Tok) (s : Nat) (d : Dev) : Dev :=
  let r := (d.slot s).reqs.find? fun q => q.tok == t
  match d.pendOf t, r.bind (·.done) with
  | some pn, some w =>
    let p := d.pkg s
    let n := fld p 64 4
    let out := d.staged n w.out
    let d := { d with free := d.free + n }
    let xm := pn.d.u8 25 / 2 % 2 == 1
    let d := if xm then d.dput (exchBase + pn.d.f 40 8) out else d
    let inst := r.bind (·.inst)
    let stale := inst.bind fun i => ((d.slot s).insts.getD i {}).stale
    let d := match inst with
      | some i => commitStep s i w.state d
      | none => d
    let flags := bit w.accSat + 2 * bit w.boundHit + (stale.map (·.1)).getD 0
    let k : Cpl := { (if flags = 0 then Cpl.ok d.tb64 ((stale.map (·.2)).getD 0) else Cpl.flagged flags d.tb64 ((stale.map (·.2)).getD 0)) with
      stateCode := BitVec.ofNat 16 w.cluster }
    let k := if xm then k else { k with dest := some (pn.d.f 40 8), payload := out }
    finish t k (inferGone s t (d.setSlot s fun x => { x with committed := x.committed + 1 }))
  | _, _ => inferGone s t d

/-- An inference ends without commit: its descriptor completes with a status. -/
def inferFails (t : Tok) (s : Nat) (k : Cpl) (d : Dev) : Dev := finish t k (inferGone s t d)

/-! ### Recurrent state (R287-R290) -/

/-- The running step of an instance runs again whole, from the state that its role now holds (R289). -/
def stepAgain (s i : Nat) (d : Dev) : Dev :=
  ((d.slot s).reqs.filter fun r => r.inst == some i && (r.work.isSome || r.done.isSome)).foldl (fun d r =>
    let d := match r.work with
      | some w => dropWork w d
      | none => d
    let d := d.setChan r.tok.ch fun c => { c with pend := c.pend.map fun p =>
      if p.count = r.tok.count && p.stage == .staged then { p with stage := .running } else p }
    d.setSlot s fun x => { x with reqs := x.reqs.map fun q => if q.tok = r.tok then { q with ready := false, work := none, done := none } else q }) d

/-- A state role's engine has rebuilt its instances from checkpoints or initial state after a move (R289). -/
def stateRebuilt (s j : Nat) (d : Dev) : Dev :=
  let p := d.pkg s
  let k := instsPerRole p
  let ck := fld p 56 1 != 0
  let mine := (List.range (d.slot s).insts.length).filter fun i => i / k == j
  let lost (q : Inst) : Nat := if ck then q.sinceCkpt.toNat else q.steps.toNat
  let worst := (mine.map fun i => lost ((d.slot s).insts.getD i {})).foldl max 0
  let d := mine.foldl (fun d i => d.setSlot s fun x => { x with insts := upd x.insts i fun q => { q with
    state := if ck then q.ckpt.getD (initialState p i) else initialState p i
    stale := some (if ck then 4 else 8, lost q) } }) d
  let d := mine.foldl (fun d i => stepAgain s i d) d
  evFrom 9 0 0x0913 1 (det [(16, [BitVec.ofNat 8 s, BitVec.ofNat 8 j]), (20, leBytes 4 worst)]) d

/-- A STATE_RESET may take effect once the steps of its instances fetched before it have committed (R290). -/
def resetCheck (s : Nat) (d : Dev) : Dev :=
  (d.slot s).resets.foldl (fun d z =>
    let hit (f : Nat × Tok) : Bool := decide (f.1 < z.1) && (d.stepOf f.2).any fun k => z.2.2 == 255 || z.2.2 == k
    if (d.slot s).fetched.any hit then d else stageTok z.2.1 d) d

/-- A STATE_RESET takes effect: its instances have the initial state and no claim (R290). -/
def resetCommit (t : Tok) (s i : Nat) (d : Dev) : Dev :=
  let p := d.pkg s
  let clear (k : Nat) (q : Inst) : Inst := if i = 255 || i = k then { state := initialState p k } else q
  finish t .ok (d.setSlot s fun x => { x with insts := x.insts.mapIdx clear, resets := x.resets.filter fun y => y.2.1 != t })

/-- STATE_RESET (R290, R294, R310). -/
def opStateReset : OpFn := fun c d =>
  let s := c.d.u8 24
  let i := c.d.u8 25
  let x := d.slot s
  if 15 < s then opDone d .bad
  else if x.st != .loaded then opDone d (slotRefusal x.st)
  else if d.fusedOn s then opDone d (.of stObjectBusy)
  else if i ≠ 255 && x.insts.length ≤ i then opDone d .bad
  else (resetCheck s (d.setSlot s fun x => { x with resets := x.resets ++ [(d.seqOf c.tok, c.tok, i)] }), .later)

/-! ### Bindings (R282-R286) -/

/-- Stride of a model's output slots (R283). -/
def Dev.bindStride (d : Dev) (s : Nat) : Nat := up4k (d.pk s 64 4)

/-- Why a binding is refused (R282). -/
def Dev.bindBad (d : Dev) (s sensor outFlag outSlots outBase : Nat) : Bool :=
  let p := d.pkg s
  let ring := outSlots * d.bindStride s
  outSlots < 2 || 16 < outSlots
    || (List.range (fld p 27 1)).any (fun i =>
      let o := 512 + 32 * i
      let src := fld p (o + 2) 1
      let rank := fld p (o + 3) 1
      let dims := (List.range rank).map fun k => fld p (o + 4 + 4 * k) 4
      src == 0 || dims != [d.se sensor 76 2, d.vW sensor] || (src != 1 && !d.isPair sensor))
    || outFlag < 0x400 || 0xEFF < outFlag + outSlots - 1
    || outBase < 0x1000000 || 0x1800000 < outBase + ring || outBase % 4096 != 0
    || d.neural.binds.any fun b =>
      overlap outFlag outSlots b.outFlag b.outSlots || overlap outBase ring b.outBase (b.outSlots * d.bindStride b.slot)

/-- MODEL_BIND (R282, R294, R310). -/
def opModelBind : OpFn := fun c d =>
  let s := c.d.u8 24
  let b := c.d.u8 25
  let sensor := c.d.u8 26
  if 15 < s || 15 < b || !d.ownsRing sensor then opDone d .bad
  else if (d.slot s).st != .loaded then opDone d (slotRefusal (d.slot s).st)
  else if d.fusedOn s then opDone d (.of stObjectBusy)
  else if d.bindBad s sensor (c.d.f 28 2) (c.d.u8 30) (c.d.f 32 4) then opDone d .bad
  else if d.neural.binds.any fun x => x.id == b || x.sensor == sensor then opDone d (.of stObjectBusy)
  else
    let n : Binding := { id := b, slot := s, sensor := sensor, outFlag := c.d.f 28 2, outSlots := c.d.u8 30,
                         outBase := c.d.f 32 4, pos := (d.ring sensor).bandCount }
    opDone { d with neural := { d.neural with binds := d.neural.binds ++ [n] } } (.ok (d.bindStride s))

/-- A skipped or failed band is counted, in its slot too, with EV_BIND_SKIP at most once a second (R284, R286). -/
def bindSkip (b cause : Nat) (d : Dev) : Dev :=
  let d := d.setBind b fun x => { x with skipped := x.skipped + 1, skips := d.tally 1 x.skips }
  match d.bind b with
  | none => d
  | some x =>
    let d := d.setSlot x.slot fun y => { y with bindSkips := y.bindSkips + 1 }
    let due := match x.skipEvAt with
      | none => true
      | some a => decide (a + sNs ≤ d.now)
    if due then
      evFrom 9 0 0x0912 1 (det [(16, [BitVec.ofNat 8 b, BitVec.ofNat 8 cause]), (20, leBytes 4 (counted x.skips))])
        (d.setBind b fun x => { x with skipEvAt := some d.now })
    else d

/-- A binding leaves. -/
def dropBind (b : Nat) (d : Dev) : Dev :=
  { d with neural := { d.neural with binds := d.neural.binds.filter fun y => y.id != b } }

/-- A binding that ends leaves once its bands in progress are over; a MODEL_UNBIND's, at the command's place in the ring order
(R50, R285). -/
def bindEndCheck (b : Nat) (d : Dev) : Dev :=
  match d.bind b with
  | none => d
  | some x =>
    if !x.jobs.isEmpty then d else
    match x.ending with
    | none => d
    | some none => dropBind b d
    | some (some t) => stageTok t d

/-- MODEL_UNBIND takes effect: its result0 is the bands skipped while bound (*Neural opcodes*). -/
def unbindCommit (t : Tok) (b : Nat) (d : Dev) : Dev :=
  finish t (.ok (((d.bind b).map (·.skipped)).getD 0)) (dropBind b d)

/-- MODEL_UNBIND (R285, R294). -/
def opModelUnbind : OpFn := fun c d =>
  let b := c.d.u8 24
  if 15 < b then opDone d .bad else
  match d.bind b with
  | none => opDone d (.conflict 0x0601)
  | some x =>
    if x.ending.isSome then opDone d (.conflict 0x0601) else
    (bindEndCheck b (d.setBind b fun x => { x with ending := some (some c.tok) }), .later)

/-- The input band is released in the commit queue of its last reader (R284). -/
def bandRelease (b k : Nat) (d : Dev) : Dev :=
  match d.bind b with
  | none => d
  | some x =>
    match x.jobs.find? fun j => j.k == k with
    | none => d
    | some j =>
      if j.released then d else
      (d.setFlag j.inFlag 0).setBind b fun x => { x with jobs := x.jobs.map fun j => if j.k = k then { j with released := true } else j }

/-- The estimator takes a band's feature output, or its failure: with a frame's last band, the frame's tov stands in its frame
record, the depths of its bands carry it, and the last output tensor holds the place descriptor (R286; spec/12 R374, R381;
spec/13 R401). -/
def estBand (x : Binding) (j : BandJob) (d : Dev) : Dev :=
  let last := j.tag.testBit 26
  let bad := x.spoilt || j.failed
  let d := d.setBind x.id fun y => { y with spoilt := bad && !last }
  let d := { d with est := { d.est with depths := d.est.depths ++ j.depths.map fun z => (x.sensor, 0, z) } }
  if !last then d else
  let at_ := exchBase + d.se x.sensor 88 4 + max (d.se x.sensor 75 1) 1 * slotStride (d.isPair x.sensor) (d.vW x.sensor) (d.se x.sensor 76 2) + j.tag % 2 * 64
  let o := 512 + 32 * (d.pk x.slot 27 1 + d.pk x.slot 28 1 - 1)
  let f := (x.sensor, fld (d.dget at_ 8) 0 8)
  { d with est := { d.est with
      bands := d.est.bands ++ [f], spoilt := if bad then d.est.spoilt ++ [f] else d.est.spoilt
      depths := d.est.depths.map fun z => if z.1 == x.sensor && z.2.1 == 0 then (z.1, f.2, z.2.2) else z
      descrs := if j.failed then d.est.descrs else d.est.descrs ++ [(f.2, padTo (d.pk x.slot (o + 24) 4) (j.out.drop (d.pk x.slot (o + 20) 4)))] } }

/-- In band order output flags are set and the estimator takes its bands; a failed band sets no flag (R284, R286). -/
def bandFlags : Nat → Nat → Dev → Dev
  | 0, _, d => d
  | n + 1, b, d =>
    match d.bind b with
    | none => d
    | some x =>
      match x.jobs with
      | j :: r =>
        if !j.ended then d else
        let d := d.setBind b fun x => { x with jobs := r }
        bandFlags n b (if x.est then estBand x j d else if j.failed then d else d.setFlag (x.outFlag + j.k % x.outSlots) j.tag)
      | [] => d

/-- A band is over, with output or without. -/
def bandOver (b k : Nat) (failed : Bool) (out : Bytes) (d : Dev) : Dev :=
  let d := bandRelease b k d
  let d := d.setBind b fun x => { x with jobs := x.jobs.map fun j => if j.k = k then { j with ended := true, failed := failed, out := out } else j }
  bindEndCheck b (bandFlags 32 b d)

/-- The matched pixels of a pair's band whose disparity a frame update may use, as numbers in the frame with the disparity: reason VALID and at least the
estimator's confidence (spec/06 R178; spec/12 R374). -/
def Dev.bandDepths (d : Dev) (i : Nat) (j : BandJob) (out : Bytes) : List (Nat × Nat) :=
  if !d.isPair i then [] else
  let rows := d.se i 76 2
  let w := d.vW i
  let base := exchBase + d.se i 88 4 + (j.inFlag - d.se i 80 2) * slotStride true w rows
  (Config.matchedPixels out).filterMap fun o =>
    let c := fld (d.dget (base + w * rows + o) 1) 0 1
    if o < w * rows ∧ c / 32 = 0 ∧ fld d.est.cfg 17 1 ≤ c % 32 then
      some (j.tag / 65536 % 1024 * rows * w + o, fld (d.dget (base + 2 * w * rows + 2 * o) 2) 0 2) else none

/-- Every task of a band has committed: its output stands in its slot, and it counts as an inference of the model (R283, R284). -/
def bandDone (w : Work) (b k : Nat) (d : Dev) : Dev :=
  match d.bind b with
  | none => d
  | some x =>
    let d := d.setSlot x.slot fun y => { y with committed := y.committed + 1 }
    let n := d.pk x.slot 64 4
    let out := d.staged n w.out
    let d := { d with free := d.free + n }
    if x.est then
      bandOver b k false out (d.setBind b fun y => { y with jobs := y.jobs.map fun j =>
        if j.k = k then { j with depths := d.bandDepths x.sensor j out } else j })
    else
    bandOver b k false [] (d.dput (exchBase + x.outBase + k % x.outSlots * d.bindStride x.slot) out)

/-- A band fails for good: no output (R286). -/
def bandFails (b k : Nat) (d : Dev) : Dev := bandOver b k true [] (bindSkip b 1 d)

/-! ### Waves (R270, R278, R283, R284) -/

/-- The next band of a ring that is flagged and not under way, from the binding's place on: its band count, flag and tag. The watch has
the mask 0x83FF_FFFF and the tag that the ring gave the band (R184, R206, R283). -/
def Dev.nextBand (d : Dev) (x : Binding) : Option (Nat × Nat × Nat) :=
  let slots := max (d.se x.sensor 75 1) 1
  let flag (n : Nat) : Nat := d.se x.sensor 80 2 + n % slots
  ((d.ring x.sensor).tags.find? fun t =>
    decide (x.pos ≤ t.1) && d.watchMet { flag := flag t.1, mask := 0x83FFFFFF, value := t.2 &&& 0x83FFFFFF }
      && x.jobs.all fun j => j.inFlag != flag t.1 || j.released).map fun t => (t.1, flag t.1, t.2)

/-- The band's output slot is held (R284). The estimator's bands have none. -/
def Dev.outHeld (d : Dev) (b : Nat) (j : BandJob) : Bool :=
  match d.bind b with
  | some x => !x.est && d.flag (x.outFlag + j.k % x.outSlots) != 0
  | none => false

/-- A member of a wave that is skipped as it starts. -/
def Dev.skips (d : Dev) : Member → Bool
  | .inl _ => false
  | .inr (b, j) => d.outHeld b j

/-- The members that a wave with so many places takes; a band that is skipped takes none. -/
def Dev.waveTakes (d : Dev) (room : Nat) : List Member → List Member
  | [] => []
  | m :: r => if room = 0 then [] else m :: d.waveTakes (if d.skips m then room else room - 1) r

/-- An INFER starts with the plan's tasks. -/
def inferStart (s c : Nat) (plan : List PlanTask) (r : InferReq) (d : Dev) : Dev :=
  let id := d.comp.nextId
  let role := planRole s c (d.slot s) r.inst (d.pkg s)
  let d := addWork (.infer r.tok s r.inst) c (if r.fleet then 2 else 1) role (inferPlan r.inst.isSome role plan) d
  d.setSlot s fun x => { x with reqs := x.reqs.map fun q => if q.tok = r.tok then { q with work := some id } else q }

/-- A band starts with the plan's tasks. -/
def bandRun (s c : Nat) (plan : List PlanTask) (b : Nat) (j : BandJob) (d : Dev) : Dev :=
  let role := planRole s c (d.slot s) none (d.pkg s)
  let d := d.setBind b fun x => { x with jobs := x.jobs.map fun q => if q.k = j.k then { q with started := true } else q }
  addWork (.band b j.k j.tag) c 1 role (inferPlan false role plan) d

/-- A band whose output slot is held is skipped: no task, its input band released (R284). -/
def bandSkip (b : Nat) (j : BandJob) (d : Dev) : Dev :=
  let d := bindSkip b 0 ((d.setFlag j.inFlag 0).setBind b fun x => { x with jobs := x.jobs.filter fun q => q.k != j.k })
  bindEndCheck b (bandFlags 32 b d)

/-- A wave starts: the ready inferences of the model in the cluster, INFERs and bands, oldest first, up to the wave size, each with the
plan's tasks (R270, R278). In tier mode 1 an inference takes any free place. -/
def waveStart (s c : Nat) (plan : List PlanTask) (d : Dev) : Dev :=
  let x := d.slot s
  let busy := d.waveBusy s c
  if (x.st != .loaded && x.st != .unloading) || (x.mode = 0 && 0 < busy) then d else
  let l := d.waveTakes (x.wave.getD c 0 - busy) (d.waveReady s c)
  let skipped (m : Member) : Bool := d.skips m
  let starts := l.filter fun m => !skipped m
  let fleet := starts.all fun m => match m with
    | .inl r => r.fleet
    | .inr _ => false
  let d := if x.mode = 0 && !starts.isEmpty then streamWave s c (if fleet then 2 else 1) d else d
  l.foldl (fun d m => match m with
    | .inl r => inferStart s c plan r d
    | .inr (b, j) => if skipped m then bandSkip b j d else bandRun s c plan b j d) d

/-- A flagged band becomes an inference, ready in the cluster that R277 gives it; with no wave in progress there, one starts (R278,
R283). -/
def bandStart (b c : Nat) (plan : List PlanTask) (d : Dev) : Dev :=
  match d.bind b with
  | none => d
  | some x =>
    if x.ending.isSome || d.freeCluster x.slot != c then d else
    match d.nextBand x with
    | none => d
    | some (pos, f, tag) =>
      let job : BandJob := { k := x.k, inFlag := f, tag := tag, cluster := c, readyAt := d.now }
      waveStart x.slot c plan (d.setBind b fun x => { x with pos := pos + 1, k := x.k + 1, jobs := x.jobs ++ [job] })

/-! ### The end of a loaded model (R281, R292) -/

/-- Every binding of a slot ends: its bands under way are released and set no output flag (R281, R292). -/
def dropBindings (s : Nat) (d : Dev) : Dev :=
  (d.neural.binds.filter fun b => b.slot == s).foldl (fun d x =>
    let d := x.jobs.foldl (fun d j => if j.released then d else d.setFlag j.inFlag 0) d
    let d := dropBind x.id d
    match x.ending with
    | some (some t) => endTok t (.ok x.skipped) d
    | _ => d) d

/-- A loaded model ends: its work stops, its INFERs, held ones too, and the commands that wait on it complete with `k`, a load with its report of
the state `after` (R274, R281, R292). -/
def endModel (s : Nat) (after : SlotSt) (k : Cpl) (d : Dev) : Dev :=
  let d := (d.slotWork s).foldl (fun d w => dropWork w d) d
  let d := dropBindings s d
  let x := d.slot s
  let d := x.fetched.foldl (fun d f => endTok f.2 k d) d
  let d := x.resets.foldl (fun d z => endTok z.2.1 k d) d
  let d := match x.loadTok with
    | some t => finish t (if x.loadDest = 0 then k else
        { k with dest := some x.loadDest, payload := refusedReport s after.code x.mask }) d
    | none => d
  let d := match x.unload with
    | some z => endTok z.2 .ok d
    | none => d
  freeSlot s (d.setSlot s fun x => { x with fetched := [], reqs := [], resets := [], loadTok := none, unload := none })

/-- A profile is applied: every LOADED model is unloaded (R281). -/
def neuralApply (d : Dev) : Dev :=
  (List.range 16).foldl (fun d s =>
    let st := (d.slot s).st
    if st == .loaded || st == .loading || st == .unloading then
      slotState s .installed 1 (endModel s .installed (.conflict 0x0302) d)
    else d) d

/-- A slot's package or set object is LOST: the slot is DISABLED (R253, R292), an INSTALLED one too, though *Slot states* has a dash
there (DEDUCED, notes/assumptions/89.md). An install over the package goes on, and leaves the slot DISABLED if it fails (the same log). -/
def modelLost (s : Nat) (d : Dev) : Dev :=
  let st := (d.slot s).st
  if st == .installing then d.setSlot s fun x => { x with prior := if x.prior == .installed then .disabled else x.prior } else
  if st == .empty || st == .disabled then d else
  let d := endModel s .disabled { (Cpl.of stModelDataLost) with stateCode := 0x0607 } d
  let d := d.setSlot s fun x => { x with st := .disabled }
  evFrom 9 0 0x0910 1 (det [(16, [BitVec.ofNat 8 s, BitVec.ofNat 8 0x07, 2])]) d

/-- The slot whose set object holds an IPM address. -/
def Dev.setHolding (d : Dev) (a : Nat) : Option Nat :=
  (d.tier.objs.find? fun o => o.kind == 2 && o.st == .resident && o.units.any fun p =>
    decide (ipmBase + 65536 * p.1 ≤ a) && decide (a < ipmBase + 65536 * (p.1 + p.2))).map fun o => (o.id - 0x30000000) / 0x100

/-- A read of a model's set object in the IPM is uncorrectable: its unit is rewritten from home, and the reader's task waits in its order,
as does every reader of the unit until the rewrite ends (R291). -/
def modelRepair (s off : Nat) (task : Option Nat) (d : Dev) : Dev :=
  let u := off / 65536 * 65536
  let new := !(d.obj (setObjId s)).any fun o => o.rewrite.contains u
  let d := d.setObj (setObjId s) fun o => { o with
    rewrite := if new then o.rewrite ++ [u] else o.rewrite, bad := if new then [] else o.bad, readAt := if new then d.now else o.readAt
    stalled := o.stalled ++ task.toList }
  let d := match task with
    | some k => d.setTask k fun k => { k with st := .stalled }
    | none => d
  if !new then d else
  evFrom 9 0 0x0911 0 (det [(16, [BitVec.ofNat 8 s]), (20, leBytes 8 (off / 65536 * 65536))]) d

end Sys2Proof.Machine
end

