-- ==== Sys2Proof/Machine/Fusion.lean ====
section
/-! DEFINITION. Fusion: the tick grid, conflicts, track identity and its opcodes (spec/10). -/

namespace Sys2Proof.Machine

def Dev.setFus (d : Dev) (f : Fusion → Fusion) : Dev := { d with fusion := f d.fusion }

/-- Code of a fusion state (*Fusion states*). -/
def FusSt.code : FusSt → Nat
  | .idle => 0 | .running => 1 | .checking => 2

/-- Fusion changes state, with EV_FUSION_STATE (R316, *Fusion events*). -/
def fusState (s : FusSt) (cause : Nat) (d : Dev) : Dev :=
  if d.fusion.st == s then d else
  evFrom 6 0 0x0606 (if s == .checking then 1 else 0) (det [(16, [BitVec.ofNat 8 s.code, BitVec.ofNat 8 cause])])
    (d.setFus fun f => { f with st := s })

/-! ### Observables (R300-R302) -/

/-- Row i of the rotation matrix built from q_b_s, times |q|² (notes/assumptions/22.md). -/
def rotRow (w x y z : Int) (i : Nat) : Int × Int × Int :=
  match i with
  | 0 => (w * w + x * x - y * y - z * z, 2 * (x * y - w * z), 2 * (x * z + w * y))
  | 1 => (2 * (x * y + w * z), w * w - x * x + y * y - z * z, 2 * (y * z - w * x))
  | _ => (2 * (x * z - w * y), 2 * (y * z + w * x), w * w - x * x - y * y + z * z)

/-- n / m to nearest with ties away from zero, for m > 0. -/
def roundDiv (n : Int) (m : Nat) : Int :=
  let a := (2 * n.natAbs + m) / (2 * m)
  if n < 0 then -(a : Int) else a

/-- A sensor-frame vector in frame B: rotated exactly, each component rounded once and saturated (R302). -/
def rotated (q v : List Int) (shift : Nat) : List Int :=
  let norm := ((q.map fun x => x * x).sum).toNat
  (List.range 3).map fun i =>
    let r := rotRow (q.getD 0 0) (q.getD 1 0) (q.getD 2 0) (q.getD 3 0) i
    sSat 32 (roundDiv (r.1 * v.getD 0 0 + r.2.1 * v.getD 1 0 + r.2.2 * v.getD 2 0) (norm * 2 ^ shift))

/-- q_b_s of a sensor map entry. -/
def Dev.quat (d : Dev) (i : Nat) : List Int := (List.range 4).map fun k => sInt 32 (d.se i (40 + 4 * k) 4)

/-- Signed 32-bit word k of a sample's payload. -/
def Sample.word (x : Sample) (k : Nat) : Int := sInt 32 (fld x.payload (4 * k) 4)

/-- The layout of a sensor's payload: 2 IMU, 3 CAN signals, else neither. -/
def Dev.layout (d : Dev) (i : Nat) : Nat := if d.kind i = 6 then d.se i 56 1 else d.kind i

/-- The value of an observable in a sample, or none where its kind does not supply it (*Observables*). -/
def Dev.observable (d : Dev) (i : Nat) (x : Sample) (obs : Nat) : Option (List Int) :=
  let imu := d.layout i == 2
  let can := d.layout i == 3
  match obs with
  | 0 => if imu then some (rotated (d.quat i) [x.word 0, x.word 1, x.word 2] 0) else none
  | 1 => if imu then some (rotated (d.quat i) [x.word 3, x.word 4, x.word 5] 11) else none
  | 2 => if imu then some ((rotated (d.quat i) [x.word 3, x.word 4, x.word 5] 11).drop 2)
         else if can then some [x.word 1] else none
  | 3 => if can then some [x.word 0] else none
  | 4 => if can then some [x.word 2] else none
  | 5 => if can then some [x.word 3] else none
  | _ => none

/-! ### The snapshot and the conflict check (R296, R297, R303-R308) -/

/-- Sensors of the mask that have a sample. -/
def Dev.fusPresent (d : Dev) (at64 : Nat) : List (Nat × Sample) :=
  (List.range 32).filterMap fun i =>
    if d.fusion.sensorMask.testBit i then ((d.sensor i).before at64).map fun x => (i, x) else none

/-- A sensor declares an observable. -/
def Dev.declares (d : Dev) (i obs : Nat) : Bool := (d.se i 12 4).testBit obs

/-- The pairs of present sensors that declare an observable, with their difference, in order of bit and sensors. -/
def Dev.fusPairs (d : Dev) (l : List (Nat × Sample)) : List (Nat × Nat × Nat × Nat) :=
  ((List.range 6).map fun o =>
    let s := l.filter fun x => d.declares x.1 o
    (s.map fun a => (s.filter fun b => decide (a.1 < b.1)).filterMap fun b =>
      match d.observable a.1 a.2 o, d.observable b.1 b.2 o with
      | some u, some v => some (o, a.1, b.1, (List.zipWith (fun p q => (p - q).natAbs) u v).foldl max 0)
      | _, _ => none).flatten).flatten

/-- A pair's run count. -/
def Fusion.runOf (f : Fusion) (o a b : Nat) : Nat :=
  ((f.runs.find? fun r => r.obs == o && r.lo == a && r.hi == b).map (·.count)).getD 0

/-- Bit mask of a list of sensors. -/
def maskOf (l : List Nat) : Nat := l.foldl (fun m i => m ||| 2 ^ i) 0

/-- A sensor's entry of the input block. -/
def Dev.fusEntry (d : Dev) (tick : Nat) (masked late : Nat) (cf : List Conflict) (i : Nat) (x : Sample) : Bytes :=
  let age : Int := (tick : Int) - x.tov.toNat
  let val (o : Nat) : Bytes := ((d.observable i x o).getD (List.replicate (if o < 2 then 3 else 1) 0)).flatMap fun v => leBytes 4 (sNat 32 v)
  let cm := (cf.filter fun c => c.lo == i || c.hi == i).foldl (fun m c => m ||| 2 ^ c.obs) 0
  padTo 128 (padTo 64 x.record ++ leBytes 8 (sNat 64 age)
    ++ [BitVec.ofNat 8 (1 + 2 * bit (late.testBit i) + 4 * bit (masked.testBit i)), 0, 0, 0] ++ leBytes 4 cm
    ++ val 0 ++ val 1 ++ val 2 ++ val 3 ++ val 4 ++ val 5)

/-- The snapshot of a tick and its conflict check: the tick, and each pair's run count (R296, R303, R304, R307). -/
def Dev.fusSnapshot (d : Dev) (tick seq : Nat) : FusTick × List PairRun :=
  let f := d.fusion
  let l := d.fusPresent tick
  let judged := (d.fusPairs l).map fun p =>
    let b := f.bounds.getD p.1 0
    (p, b, decide (b ≠ 0) && decide (b < p.2.2.2))
  let cf := (judged.filter fun x => x.2.2).map fun x =>
    let (o, a, c, df) := x.1
    ({ obs := o, lo := a, hi := c, count := f.runOf o a c + 1, excess := min 0x7FFF (256 * df / x.2.1) } : Conflict)
  let masked := maskOf ((cf.map (·.lo)) ++ cf.map (·.hi))
  let late := maskOf ((l.filter fun x => match f.lastTick with
    | some p => decide (x.2.tov.toNat ≤ p) && ((d.sensor x.1).acceptedBefore tick).any fun y => decide (p ≤ y.1)
    | none => false).map (·.1))
  let oldest := l.foldl (fun (b : Option (Nat × Int)) x =>
    let age : Int := (tick : Int) - x.2.tov.toNat
    match b with
    | none => some (x.1, age)
    | some y => if y.2 < age then some (x.1, age) else some y) none
  let block := padTo 64 (leBytes 8 tick ++ leBytes 4 seq ++ leBytes 4 (maskOf (l.map (·.1))) ++ leBytes 4 masked ++ leBytes 4 late)
    ++ (List.range 32).flatMap fun i => match l.find? fun x => x.1 == i with
      | some x => d.fusEntry tick masked late cf i x.2
      | none => List.replicate 128 0
  ({ seq := seq, at64 := tick, present := maskOf (l.map (·.1)), masked := masked, late := late, oldest := oldest,
     conflicts := cf, block := block },
   cf.map fun c => { obs := c.obs, lo := c.lo, hi := c.hi, count := c.count })

/-- EV_SENSOR_CONFLICT once for a run that reaches conflict_runs (R307). -/
def conflictEvents (t : FusTick) (d : Dev) : Dev :=
  t.conflicts.foldl (fun d c =>
    if c.count = d.fusion.conflictRuns then
      evFrom 6 0 0x0605 1 (det [(16, [BitVec.ofNat 8 c.obs, BitVec.ofNat 8 c.lo, BitVec.ofNat 8 c.hi, BitVec.ofNat 8 (min 255 c.count)]),
        (20, leBytes 4 t.seq), (24, leBytes 2 c.excess)])
        (d.setFus fun f => { f with events := satInc f.events })
    else d) d

/-- Ticks skipped, with EV_FUSION_SKIP at most once a second (R298, R299). -/
def skipTicks (n : Nat) (posts : Bool) (d : Dev) : Dev :=
  if n = 0 then d else
  let d := d.setFus fun f => { f with skippedSince := f.skippedSince + n, skips := d.tally n f.skips, skipped := satAdd f.skipped n }
  let due := match d.fusion.skipEvAt with
    | none => true
    | some a => decide (a + sNs ≤ d.now)
  if posts && due then
    evFrom 6 0 0x0607 0 (det [(20, leBytes 4 (counted d.fusion.skips))]) (d.setFus fun f => { f with skipEvAt := some d.now })
  else d

/-! ### Records (R312, R313, R318, R319) -/

/-- A track record: the network's bytes of the row, and the part's (*Track record*). -/
def trackRecord (k : FusTrack) (row : Bytes) (seq status cause : Nat) : Bytes :=
  leBytes 4 k.id ++ leBytes 4 seq ++ [BitVec.ofNat 8 status, BitVec.ofNat 8 cause] ++ (sliceAt row 10 40)
    ++ leBytes 2 k.row ++ leBytes 4 (seq - k.born) ++ sliceAt row 56 4 ++ [0, 0, 0, 0]

/-- The tick record's bytes (*Tick record*). -/
def tickRecord (f : Fusion) (t : FusTick) (flags tracks commit cluster lost : Nat) : Bytes :=
  let cf := t.conflicts.take 8
  let all := flags + bit (!t.conflicts.isEmpty) + 2 * bit (decide (8 < t.conflicts.length)) + 64 * bit (t.late != 0) + 512 * bit t.reset
  padTo 128 (leBytes 4 t.seq ++ leBytes 2 all ++ leBytes 2 tracks
    ++ leBytes 8 (sNat 64 ((t.oldest.map (·.2)).getD 0)) ++ [BitVec.ofNat 8 ((t.oldest.map (·.1)).getD 0xFF), BitVec.ofNat 8 cf.length]
    ++ leBytes 2 (min 65535 f.skippedSince) ++ leBytes 4 t.present ++ leBytes 4 t.masked ++ leBytes 4 t.late
    ++ leBytes 8 commit ++ leBytes 4 lost ++ [BitVec.ofNat 8 cluster, 0, 0, 0]
    ++ padTo 64 (cf.flatMap fun c => [BitVec.ofNat 8 c.obs, BitVec.ofNat 8 (min 255 c.count)] ++ leBytes 2 (0x100 + c.lo)
      ++ leBytes 2 (0x100 + c.hi) ++ leBytes 2 c.excess))

/-- A track record written; records of one tick share its instant. -/
def putTrack (t : FusTick) (b : Bytes) (d : Dev) : Dev := streamRecord 0x0501 t.at64 true b d

/-- Tracks that end with this tick's records. -/
def Fusion.ending (f : Fusion) : List FusTrack := f.tracks.filter fun k => k.ends.isSome

/-- Tracks end with their causes, in track_id order, before the tick's other records (R313). -/
def endTracks (t : FusTick) (d : Dev) : Dev :=
  let l := d.fusion.ending
  (inOrder l fun a b => decide (a.id ≤ b.id)).foldl (fun d k =>
    (putTrack t (trackRecord k k.last t.seq 2 (k.ends.getD 0)) d).setFus fun f => { f with ended := f.ended + 1 })
    (d.setFus fun f => { f with tracks := f.tracks.filter fun k => k.ends.isNone })

/-- The tick record is written last, and counted (R318). -/
def putTick (t : FusTick) (flags tracks cluster lost : Nat) (d : Dev) : Dev :=
  let r := tickRecord d.fusion t flags tracks d.tb64 cluster lost
  let d := streamRecord 0x0500 t.at64 false r d
  d.setFus fun f => { f with skippedSince := 0, ticks := f.ticks + 1, lastSeq := t.seq }

/-- The next track_id from n on that no bound track has (R312). -/
def freeTrackId (used : List Nat) : Nat → Nat → Nat
  | 0, n => n
  | k + 1, n =>
    let n := if n = 0 || 0xFFFFFFFF < n then 1 else n
    if used.contains n then freeTrackId used k (n + 1) else n

/-- One output row handled by its score (R312): the record written, if any. -/
def handleRow (t : FusTick) (out : Bytes) (d : Dev) (r : Nat) : Dev × Nat :=
  let row := sliceAt out (64 * r) 64
  let score := fld row 11 1
  let f := d.fusion
  match f.tracks.find? fun k => k.row == r with
  | some k =>
    if f.keepScore ≤ score then
      let b := trackRecord k row t.seq 1 0
      ((putTrack t b d).setFus fun f => { f with tracks := f.tracks.map fun x => if x.row = r then { x with last := row } else x }, 1)
    else
      ((putTrack t (trackRecord k row t.seq 2 0) d).setFus fun f =>
        { f with tracks := f.tracks.filter (fun x => x.row != r), ended := f.ended + 1 }, 1)
  | none =>
    if f.createScore ≤ score then
      let id := freeTrackId (f.tracks.map (·.id)) 257 f.nextId
      let k : FusTrack := { id := id, row := r, born := t.seq, last := row }
      ((putTrack t (trackRecord k row t.seq 0 0) d).setFus fun f =>
        { f with tracks := f.tracks ++ [k], nextId := if id = 0xFFFFFFFF then 1 else id + 1, created := f.created + 1 }, 1)
    else (d, 0)

/-! ### Ticks (R298, R299, R311, R317, R540) -/

/-- Object number of the FUSION role of a slot: that of its state role (R287, R310). -/
def fusionObj (s : Nat) : Nat := holderObj s 0

/-- The cluster of the FUSION role, where an engine holds it. -/
def Dev.fusionCluster (d : Dev) : Option Nat := ((d.roleAt 4 (fusionObj d.fusion.slot)).map (·.cluster)).filter (· < 6)

/-- The fusion slot's state instance gets its initial value (R317). What its next completion says of a rebuild stays to be said (R314). -/
def resetInstance (d : Dev) : Dev :=
  let s := d.fusion.slot
  d.setSlot s fun x => { x with insts := [{ state := initialState (d.pkg s) 0, stale := (x.insts.getD 0 {}).stale }] }

/-- A tick's inference starts in the FUSION role's cluster (R311); while no engine holds the role it waits. -/
def startTick (t : FusTick) (d : Dev) : Dev :=
  let s := d.fusion.slot
  match d.fusionCluster with
  | none => d.setFus fun f => { f with waiting := some t }
  | some c =>
    let t := { t with cluster := c, done := none }
    let d := if t.reset then resetInstance d else d
    let roleOf (j : Nat) : Option (Nat × Nat) :=
      if j = 0 then some (4, fusionObj s) else if (d.slot s).mode = 1 then some (2, holderObj s (32 * c + (j - 1))) else none
    addWork (.tick t.seq) c 1 roleOf t.plan (d.setFus fun f => { f with running := some t })

/-- What the first tick record after a rebuild says of it: its flags and the steps lost (R314). -/
def Dev.fusionStale (d : Dev) : Nat × Nat :=
  if d.fusion.st == .running then ((d.slot d.fusion.slot).insts.getD 0 {}).stale.getD (0, 0) else (0, 0)

/-- The rebuild has been reported. -/
def staleTold (d : Dev) : Dev :=
  if d.fusion.st == .running then d.setSlot d.fusion.slot fun x => { x with insts := upd x.insts 0 fun q => { q with stale := none } } else d

/-- The tick's record where nothing ran: in CHECKING, or a final tick (R317, R540). -/
def plainTick (t : FusTick) (flags : Nat) (d : Dev) : Dev :=
  let st := d.fusionStale
  putTick t (flags + st.1) d.fusion.ending.length 0xFF st.2 (staleTold (endTracks t d))

/-- Every bound track ends at the next record with a cause; one that ends already keeps its own. -/
def endAll (cause : Nat) (d : Dev) : Dev :=
  d.setFus fun f => { f with tracks := f.tracks.map fun k => { k with ends := k.ends.or (some cause) } }

/-- The work of ticks. -/
def tickWorks (d : Dev) : List Nat :=
  (d.comp.works.filter fun w => match w.kind with
    | .tick _ => true
    | _ => false).map (·.id)

/-- Inferences of ticks under way are given up; their ticks count as skipped. -/
def dropTicks (d : Dev) : Dev :=
  let n := d.fusion.running.toList.length + d.fusion.waiting.toList.length
  let d := (tickWorks d).foldl (fun d w => dropWork w d) d
  skipTicks n false (d.setFus fun f => { f with running := none, waiting := none })

/-- The FUSION role ends, and a slot that is still LOADED keeps its state role as a load gives it (R310, R316). -/
def fusionRelease (d : Dev) : Dev :=
  let s := d.fusion.slot
  match d.roleAt 4 (fusionObj s) with
  | some r =>
    let d := freeRole 4 (fusionObj s) d
    if (d.slot s).st != .loaded then d
    else if r.cluster < 6 then placeRole 1 (holderObj s 0) r.cluster r.engine none d
    else { d with comp := { d.comp with dir := d.comp.dir ++ [{ r with kind := 1, obj := holderObj s 0 }] } }
  | none => d

/-- Fusion stops: IDLE, its role and its slot's claim given up. -/
def fusionIdle (cause : Nat) (d : Dev) : Dev :=
  let d := if d.fusion.st == .running then fusionRelease d else d
  (fusState .idle cause d).setFus fun f => { f with slot := 0xFF, tracks := [], running := none, waiting := none, lastTick := none }

/-- FUSION_STOP and FUSION_RESET fetched by a tick's snapshot take effect in fetch order (R317): whether it is final, whether it is a
reset, and the resets that complete after its record. Resets after the stop find fusion IDLE. -/
def takeAsked (running : Bool) (l : List (Tok × Bool)) : Option Tok × List Tok × List Tok :=
  l.foldl (fun (s : Option Tok × List Tok × List Tok) x =>
    match s.1, x.2 with
    | none, true => (some x.1, s.2.1, s.2.2)
    | none, false => if running then (none, s.2.1 ++ [x.1], s.2.2) else (none, s.2.1, s.2.2 ++ [x.1])
    | some _, _ => (s.1, s.2.1, s.2.2 ++ [x.1])) (none, [], [])

/-- The first instant of the grid phase + k × per, for any integer k, that is not before `earliest` (R295; DESIGN CHOICE,
notes/assumptions/30.md). -/
def firstInstant (phase per earliest : Nat) : Nat :=
  phase % per + (earliest - phase % per + per - 1) / per * per

/-- A final tick: no inference, every bound track ends, a record with FINAL, and fusion is IDLE. Its resets come first and complete with
its record; commands fetched since find fusion IDLE (R317). -/
def finalTick (t : FusTick) (d : Dev) : Dev :=
  let d := if t.reset && d.fusion.st == .running then resetInstance d else d
  let d := plainTick t (1024 + (if d.fusion.st == .checking then 32 else 0)) (endAll 2 d)
  let d := t.resetToks.foldl (fun d k => finish k (.ok t.seq) d) d
  let d := fusionIdle 0 d
  let d := match t.final with
    | some k => finish k (.ok t.seq) d
    | none => d
  (d.fusion.asked.foldl (fun d x => finish x.1 .ok d) d).setFus fun f => { f with asked := [] }

/-- A tick that has been snapshot runs: its inference, or, at a final tick, its record alone. -/
def runTick (t : FusTick) (d : Dev) : Dev :=
  if t.final.isSome then finalTick t (d.setFus fun f => { f with waiting := none })
  else startTick t (d.setFus fun f => { f with waiting := none })

/-- A tick that waits runs once no other does and the FUSION role has an engine (R298, R311). -/
def tickCheck (d : Dev) : Dev :=
  match d.fusion.running, d.fusion.waiting with
  | none, some t => if t.final.isSome || d.fusionCluster.isSome then runTick t d else d
  | _, _ => d

/-- The estimator leaves the samples in the snapshot of the sensors masked at this tick out of its updates (R306). -/
def leaveMasked (d : Dev) : Dev :=
  let out (x : Sample) : Bool := decide (x.sensor < 32) && d.fusion.masked.getLsbD x.sensor && (d.sensor x.sensor).slot == some x
  { d with est := { d.est with queue := d.est.queue.filter fun x => !out x, unused := d.est.unused.filter fun x => !out x } }

/-- A grid instant comes (R295, R296, R298, R299, R304, R317). Instants that were passed over count as skipped. A tick that waits is
replaced, with its resets; after a final tick there is no other. -/
def fusionTick (plan : List PlanTask) (d : Dev) : Dev :=
  let f := d.fusion
  if f.st == .idle || decide (d.tb64 < f.next) || (f.waiting.any fun t => t.final.isSome) then d else
  let per := f.periodUs * usNs
  let passed := (d.tb64 - f.next) / per
  let at64 := f.next + passed * per
  if f.stepTo.any fun x => decide (at64 ≤ x) then d else
  let d := skipTicks passed false d
  let seq := f.seq + passed
  let byNow (x : Tok × Bool) : Bool := (d.pendOf x.1).all fun p => decide (p.fetchedAt ≤ at64)
  let (stop, resets, noop) := takeAsked (f.st == .running) (f.asked.filter byNow)
  let (t, runs) := d.fusSnapshot at64 seq
  let lates := ((List.range 32).filter fun i => t.late.testBit i).length
  let d := d.setFus fun f => { f with
    next := at64 + per, seq := seq + 1, lastTick := some at64, runs := runs, asked := f.asked.filter (fun x => !byNow x), masked := BitVec.ofNat 32 t.masked
    lateForTick := satAdd f.lateForTick lates
    conflictTicks := if t.conflicts.isEmpty then f.conflictTicks else satInc f.conflictTicks }
  let d := conflictEvents t (leaveMasked d)
  let d := noop.foldl (fun d k => finish k (.ok seq) d) d
  let t := { t with plan := plan, reset := !resets.isEmpty, resetToks := resets, final := stop }
  if f.st == .checking then (if stop.isSome then finalTick t d else plainTick t 32 d) else
  let (t, d) := match f.waiting with
    | none => (t, d)
    | some w => ({ t with reset := t.reset || w.reset, resetToks := w.resetToks ++ t.resetToks }, skipTicks 1 true d)
  if f.running.isNone then runTick t d else d.setFus fun f => { f with waiting := some t }

/-- Every task of the running tick has committed. -/
def tickDone (w : Work) (d : Dev) : Dev :=
  d.setFus fun f => { f with running := f.running.map fun t => { t with done := some w } }

/-- The tick's inference commits: its records are written, or it is discarded (R311-R314, R318). -/
def fusionCommit (discarded : Bool) (d : Dev) : Dev :=
  match d.fusion.running with
  | none => d
  | some t =>
    match t.done with
    | none => d
    | some w =>
      let s := d.fusion.slot
      let d := if t.reset then endAll 2 d else d
      let stale := d.fusionStale
      let d := staleTold d
      let d :=
        if discarded then
          putTick t (16 + stale.1) 0 t.cluster stale.2 (d.setFus fun f => { f with discarded := satInc f.discarded })
        else
          let ended := d.fusion.ending.length
          let d := endTracks t d
          let n := d.pk s 64 4
          let out := d.staged n w.out
          let d := { d with free := d.free + n }
          let d := commitStep s 0 w.state d
          let (d, rows) := (List.range (min d.fusion.maxTracks d.fusion.rows)).foldl (fun (x : Dev × Nat) r =>
            let y := handleRow t out x.1 r
            (y.1, x.2 + y.2)) (d, 0)
          let d := if ((d.slot s).insts.getD 0 {}).sinceCkpt = 0 then d.setFus fun f => { f with ckpt := f.tracks } else d
          let d := d.setSlot s fun x => { x with committed := x.committed + 1 }
          putTick t (128 * bit w.accSat + 256 * bit w.boundHit + stale.1) (rows + ended) t.cluster stale.2 d
      let d := t.resetToks.foldl (fun d k => finish k (.ok t.seq) d) d
      tickCheck (d.setFus fun f => { f with running := none })

/-- The FUSION role was rebuilt on another engine: the checkpoint's bindings stand where they are still bound, and the tick that ran
runs again whole (R289, R314). -/
def fusionRebuilt (d : Dev) : Dev :=
  let s := d.fusion.slot
  let d := stateRebuilt s 0 d
  let ck := d.pk s 56 1 != 0
  let now (k : FusTrack) : FusTrack :=
    match if ck && k.ends.isNone then d.fusion.ckpt.find? (fun c => c.id == k.id) else none with
    | some c => { k with row := c.row }
    | none => { k with ends := k.ends.or (some 1) }
  let d := d.setFus fun f => { f with tracks := f.tracks.map now }
  match d.fusion.running with
  | none => d
  | some t => startTick t ((tickWorks d).foldl (fun d w => dropWork w d) d)

/-- The fusion slot became DISABLED (R315). Resets have no more effect, and a final tick that waited comes now. -/
def fusionLost (s : Nat) (d : Dev) : Dev :=
  if !d.fusedOn s then d else
  let toks := (d.fusion.running.map (·.resetToks)).getD [] ++ (d.fusion.waiting.map (·.resetToks)).getD []
  let last := d.fusion.waiting.filter fun t => t.final.isSome
  let d := dropTicks (endAll 3 (if last.isSome then d.setFus fun f => { f with waiting := none } else d))
  let d := toks.foldl (fun d k => finish k .ok d) d
  let d := fusState .checking 2 ((freeRole 4 (fusionObj s) d).setFus fun f => { f with slot := 0xFF })
  match last with
  | some t => finalTick { t with reset := false, resetToks := [] } d
  | none => d

/-- A profile is applied (R303, R316). -/
def fusionApply (d : Dev) : Dev :=
  let f := d.fusion
  let toks := f.asked.map (·.1) ++ (f.running.map (·.resetToks)).getD [] ++ (f.waiting.map (·.resetToks)).getD [] ++ (f.waiting.bind (·.final)).toList
  let d := toks.foldl (fun d k => finish k (.conflict 0x0302) d) d
  let d := if f.st == .idle then d else fusionIdle 1 (dropTicks d)
  d.setFus fun f => { f with bounds := ({} : Fusion).bounds, runs := [], asked := [] }

/-! ### Fusion opcodes (R309, R317, R320, R321) -/

/-- The first field of a package that breaks R309. -/
def fusionPkgFault (p : Bytes) : Option Nat :=
  let f := fld p
  let dims (o : Nat) : List Nat := (List.range 4).map fun k => f (o + 4 + 4 * k) 4
  firstFault [(27, f 27 1 == 2), (28, f 28 1 == 1), (29, f 29 1 == 1), (60, f 60 4 == 4160),
    (513, f 513 1 == 2), (514, f 514 1 == 0), (516, dims 512 == [1, 1, 1, 64]), (532, f 532 4 == 0),
    (545, f 545 1 == 2), (546, f 546 1 == 0), (548, dims 544 == [1, 1, 32, 128]), (564, f 564 4 == 64),
    (577, f 577 1 == 2),
    (580, match dims 576 with
      | [1, 1, r, 64] => decide (1 ≤ r ∧ r ≤ 256)
      | _ => false)]

/-- FUSION_START (R295, R309, R310, R321). Where no engine holds the role, result1 has 0xF for its cluster (DESIGN CHOICE,
notes/assumptions/89.md). -/
def opFusionStart : OpFn := fun c d =>
  let s := c.d.u8 24
  let create := c.d.u8 26
  let keep := c.d.u8 27
  let maxT := c.d.f 28 2
  let phase := c.d.f 32 8
  let per := c.d.f 40 4
  let mask := c.d.f 44 4
  let only := s == 0xFF
  let bad := (15 < s && !only) || per < 1000 || 1000000 < per
    || (only && (create != 0 || keep != 0 || maxT != 0))
    || (!only && (create = 0 || keep = 0 || create < keep || maxT = 0))
    || (List.range 32).any fun i => mask.testBit i && d.kind i == 0
  if bad then opDone d .bad
  else if d.fusion.st != .idle then opDone d (.of stObjectBusy)
  else
    let first := firstInstant phase (per * usNs) (d.tb64 + msNs)
    let start (st : FusSt) (rows : Nat) (d : Dev) : Dev :=
      let d := streamStart 0x0500 (streamStart 0x0501 d)
      fusState st 0 (d.setFus fun f => { f with
        slot := s, conflictRuns := if c.d.u8 25 = 0 then 8 else c.d.u8 25, createScore := create, keepScore := keep
        maxTracks := maxT, rows := rows, phase := phase, periodUs := per, sensorMask := mask, next := first, seq := 0
        runs := [], running := none, waiting := none, skippedSince := 0, tracks := [], nextId := 1, ckpt := []
        asked := [], lastTick := none, stepTo := none })
    if only then opDone (start .checking 0 d) (.ok first 0xF) else
    let x := d.slot s
    if x.st != .loaded then opDone d (slotRefusal x.st) else
    match fusionPkgFault (d.pkg s) with
    | some o => opDone d { Cpl.bad with result0 := BitVec.ofNat 64 o }
    | none =>
      let rows := d.pk s 588 4
      if rows < maxT then opDone d .bad
      else if x.insts.any (fun q => q.claim.isSome) || d.bound s then opDone d (.of stObjectBusy)
      else
        match d.roleAt 1 (holderObj s 0) with
        | some r =>
          let d := freeRole 1 (holderObj s 0) d
          let d := if r.cluster < 6 then placeRole 4 (fusionObj s) r.cluster r.engine none d
            else { d with comp := { d.comp with dir := d.comp.dir ++ [{ r with kind := 4, obj := fusionObj s }] } }
          opDone (start .running rows d) (.ok first (if r.cluster < 6 then r.cluster else 0xF))
        | none => opDone (start .running rows d) (.ok first 0xF)

/-- FUSION_STOP and FUSION_RESET wait for a tick (R317, *Fusion states*). -/
def opFusionStop : OpFn := fun c d =>
  if d.fusion.st == .idle then opDone d .ok else (d.setFus fun f => { f with asked := f.asked ++ [(c.tok, true)] }, .later)
def opFusionReset : OpFn := fun c d =>
  if d.fusion.st == .idle then opDone d .ok else (d.setFus fun f => { f with asked := f.asked ++ [(c.tok, false)] }, .later)

/-- FUSION_BOUNDS (R307, R321). -/
def opFusionBounds : OpFn := fun c d =>
  let l := (List.range 6).map fun i => c.d.f (24 + 4 * i) 4
  if l.any fun b => decide (2 ^ 31 ≤ b) then opDone d .bad
  else opDone (d.setFus fun f => { f with bounds := l, runs := [] }) .ok

/-- FUSION_STATUS. -/
def opFusionStatus : OpFn := fun _ d =>
  let f := d.fusion
  opDone d (.ok (f.lastSeq % 2 ^ 32 + atBit 32 f.tracks.length + atBit 48 f.st.code + atBit 56 f.slot) f.masked.toNat)

end Sys2Proof.Machine
end

