-- ==== Sys2Proof/Machine/SolverMath.lean ====
section
/-! DEFINITION. The solver's numbers: formats, conversion, checks, the preconditioner and the vectors of the loop
(spec/11 R323-R348). -/

namespace Sys2Proof.Machine

/-! ### Fixed-point helpers (R333) -/

/-- A value with f fraction bits, in a format with g of them and w bits in all: rounded once, saturated. -/
def toFormat (f g : Int) (w : Nat) (v : Int) : Int × Bool :=
  let x := if f ≤ g then v * (2 ^ (g - f).toNat : Nat) else roundShift v (f - g).toNat
  let c := sSat w x
  (c, c != x)

/-- ceil(a / 2). -/
def halfUp (a : Nat) : Nat := (a + 1) / 2

/-- max(1, ceil(log2 a)). -/
def logUp (a : Nat) : Nat := max 1 (if a ≤ 1 then 0 else Nat.log2 (a - 1) + 1)

/-- Entry i of row v of a vector kept by variable and component. -/
def at2 (l : List (List Int)) (v i : Nat) : Int := (l.getD v []).getD i 0

/-! ### The problem buffer (R324, R325) -/

/-- Sizes in the header: variables, blocks, constraint entries. -/
structure SHead where
  nv : Nat
  nb : Nat
  nc : Nat
  cls : Nat
  nk : Nat
  fh : Nat
  fb : Nat
  pivot : Nat
  kinds : List (Nat × Nat × Nat)
  deriving DecidableEq, Repr

/-- The header's fields. -/
def sHead (b : Bytes) : SHead :=
  let f := fld b
  { nv := f 0 4, nb := f 4 4, nc := f 8 4, cls := f 12 1, nk := f 13 1, fh := f 14 1, fb := f 15 1
    pivot := if f 16 1 = 0 then 20 else f 16 1
    kinds := (List.range (min (f 13 1) 16)).map fun i => (f (32 + 4 * i) 1, f (33 + 4 * i) 1, f (34 + 4 * i) 1) }

/-- The first header field at fault. -/
def sHeadFault (b : Bytes) : Option Nat :=
  let f := fld b
  let h := sHead b
  firstFault ([(0, decide (1 ≤ h.nv ∧ h.nv ≤ 262144)), (4, decide (h.nb ≤ 4194304)),
    (8, if h.cls = 0 then h.nc == 0 else decide (h.nc ≤ 65536)), (12, decide (h.cls ≤ 1)), (13, decide (1 ≤ h.nk ∧ h.nk ≤ 16)),
    (14, decide (h.fh ≤ 62)), (15, decide (h.fb ≤ 62)), (16, f 16 1 == 0 || decide (8 ≤ f 16 1 ∧ f 16 1 ≤ 40))] ++
    zeroChecks b 17 15 ++ ((List.range 16).map fun i =>
      if i < h.nk then
        [(32 + 4 * i, decide (1 ≤ f (32 + 4 * i) 1 ∧ f (32 + 4 * i) 1 ≤ 16)), (33 + 4 * i, decide (f (33 + 4 * i) 1 ≤ 30)),
         (34 + 4 * i, decide (f (34 + 4 * i) 1 ≤ 48)), (35 + 4 * i, f (35 + 4 * i) 1 == 0)]
      else zeroChecks b (32 + 4 * i) 4).flatten ++ zeroChecks b 96 160)

/-- The variables. -/
def sVars (b : Bytes) (h : SHead) : List SVar :=
  (List.range h.nv).map fun i => { id := fld b (256 + 16 * i) 8, kind := fld b (264 + 16 * i) 1 }

/-- Block dimension of a kind, of a variable. -/
def SHead.dim (h : SHead) (k : Nat) : Nat := (h.kinds.getD k (0, 0, 0)).1
def dimOf (h : SHead) (vars : List SVar) (v : Nat) : Nat := h.dim ((vars.getD v { id := 0, kind := 0 }).kind)

/-- The off-diagonal blocks as (row, column). -/
def sBlocks (b : Bytes) (h : SHead) : List (Nat × Nat) :=
  let o := 256 + 16 * h.nv
  (List.range h.nb).map fun i => (fld b (o + 8 * i) 4, fld b (o + 8 * i + 4) 4)

/-- A block's values from an offset, row by row. -/
def readBlock (b : Bytes) (o r c : Nat) : List (List Int) :=
  (List.range r).map fun i => (List.range c).map fun j => sInt 64 (fld b (o + 8 * (i * c + j)) 8)

/-- Offsets of consecutive items of the given sizes. -/
def offsets (o : Nat) (sizes : List Nat) : List Nat :=
  (sizes.foldl (fun (s : List Nat × Nat) n => (s.2 :: s.1, s.2 + n)) ([], o)).1.reverse

/-- Everything the sections hold, with their offsets. -/
structure SParts where
  h : SHead
  vars : List SVar
  blocks : List (Nat × Nat)
  diagAt : List Nat
  blockAt : List Nat
  bAt : List Nat
  consAt : Nat
  total : Nat
  deriving DecidableEq, Repr

/-- The sections of a problem buffer (*Problem sections*). -/
def sParts (b : Bytes) : SParts :=
  let h := sHead b
  let vars := sVars b h
  let blocks := sBlocks b h
  let dims := (List.range h.nv).map (dimOf h vars)
  let o := 256 + 16 * h.nv + 8 * h.nb
  let ds := dims.map fun d => 8 * d * d
  let bs := blocks.map fun x => 8 * dims.getD x.1 0 * dims.getD x.2 0
  let o2 := o + ds.sum
  let o3 := o2 + bs.sum
  let o4 := o3 + (dims.map (8 * ·)).sum
  { h := h, vars := vars, blocks := blocks, diagAt := offsets o ds, blockAt := offsets o2 bs,
    bAt := offsets o3 (dims.map (8 * ·)), consAt := o4, total := o4 + 32 * h.nc }

/-- The constraint entries (R339). -/
def sCons (b : Bytes) (q : SParts) : List SCon :=
  (List.range q.h.nc).map fun i =>
    let o := q.consAt + 32 * i
    { group := fld b o 2, type := fld b (o + 2) 1, comp := fld b (o + 3) 1, var := fld b (o + 4) 4,
      lo := sInt 64 (fld b (o + 8) 8), hi := sInt 64 (fld b (o + 16) 8) }

/-- The first fault of the variables and the blocks, in the entries that lie whole within `len` bytes (R325). -/
def sListFault (b : Bytes) (q : SParts) (len : Nat) : Option Nat :=
  let h := q.h
  let ids := q.vars.map (·.id)
  let o := 256 + 16 * h.nv
  firstFault (((List.range (min h.nv ((len - 256) / 16))).map fun i =>
      [(256 + 16 * i, !(ids.take i).contains (ids.getD i 0)),
       (264 + 16 * i, decide ((q.vars.getD i { id := 0, kind := 0 }).kind < h.nk))] ++ zeroChecks b (265 + 16 * i) 7).flatten ++
    ((List.range (min h.nb ((len - o) / 8))).map fun i =>
      let x := q.blocks.getD i (0, 0)
      let y := q.blocks.getD (i - 1) (0, 0)
      [(o + 8 * i, decide (x.1 < h.nv) && (i == 0 || decide (y.1 ≤ x.1))),
       (o + 8 * i + 4, decide (x.2 < h.nv) && decide (x.1 < x.2) && (i == 0 || y.1 != x.1 || decide (y.2 < x.2)))]).flatten)

/-- The first fault of the values and the constraints (R325). -/
def sValueFault (b : Bytes) (q : SParts) : Option Nat :=
  let h := q.h
  let sym (v : Nat) : List (Nat × Bool) :=
    let d := dimOf h q.vars v
    let m := readBlock b (q.diagAt.getD v 0) d d
    ((List.range d).map fun i => (List.range d).map fun j => (q.diagAt.getD v 0 + 8 * (i * d + j), at2 m i j == at2 m j i)).flatten
  firstFault (((List.range h.nv).map sym).flatten ++
    ((List.range h.nc).map fun i =>
      let a := q.consAt + 32 * i
      let c := (sCons b q).getD i { group := 0, type := 0, comp := 0, var := 0, lo := 0, hi := 0 }
      [(a, decide (c.group ≤ 65534)), (a + 2, decide (c.type ≤ 1)), (a + 4, decide (c.var < h.nv)),
       (a + 3, decide (c.comp < dimOf h q.vars c.var)), (a + 16, c.type == 1 || c.hi == c.lo)] ++ zeroChecks b (a + 24) 8).flatten)

/-! ### Formats (R326, R331, R332) -/

/-- Block neighbours of every variable, with itself first. -/
def sNeigh (q : SParts) (v : Nat) : List Nat :=
  v :: (q.blocks.filterMap fun x => if x.1 = v then some x.2 else if x.2 = v then some x.1 else none)

/-- m_k and g_k of the kinds in use (0 for others), G and e (R331). -/
structure SFormats where
  mm : List Nat
  gk : List Nat
  used : List Bool
  gg : Nat
  e : Nat
  deriving DecidableEq, Repr

def sFormats (q : SParts) : SFormats :=
  let h := q.h
  let kind (v : Nat) : Nat := (q.vars.getD v { id := 0, kind := 0 }).kind
  let hh (k : Nat) : Nat := let x := h.kinds.getD k (0, 0, 0); x.2.2 + 2 * x.2.1
  let vs := List.range h.nv
  let used := (List.range 16).map fun k => vs.any fun v => kind v == k
  let neighbours := vs.map fun v => sNeigh q v
  let mk := (List.range 16).map fun k =>
    if used.getD k false then
      ((vs.filter fun v => kind v == k).map fun v => ((neighbours.getD v []).map fun u => halfUp (hh k + hh (kind u))).foldl max 0).foldl max 0
    else 0
  let gk := (List.range 16).map fun k =>
    if used.getD k false then
      logUp (((vs.filter fun v => kind v == k).map fun v => ((neighbours.getD v []).map fun u => dimOf h q.vars u).sum).foldl max 0)
    else 0
  let m := ((List.range 16).map fun k => mk.getD k 0 + gk.getD k 0).foldl max 0
  let n := (vs.map fun v => dimOf h q.vars v).sum
  { mm := mk, gk := gk, used := used, gg := logUp n, e := m + 6 + logUp n }

/-- The kind entry named where the formats cannot be built (R331). -/
def formatsFault (f : SFormats) : Option Nat :=
  let s (k : Nat) : Nat := f.mm.getD k 0 + f.gk.getD k 0
  let big := ((List.range 16).map s).foldl max 0
  match (List.range 16).find? fun k => decide (31 < f.mm.getD k 0) || decide (60 < s k) with
  | some k => some (32 + 4 * k)
  | none => if 79 < f.e then ((List.range 16).find? fun k => s k == big).map fun k => 32 + 4 * k else none

/-- The structure signature (R326). -/
def sSignature (b : Bytes) (q : SParts) : Nat :=
  crcOf 3 ((q.vars.mapIdx fun i v => leBytes 8 v.id ++ [BitVec.ofNat 8 (dimOf q.h q.vars i)]).flatten ++ (b.drop (256 + 16 * q.h.nv)).take (8 * q.h.nb))

/-- The offset of a buffer's first fault: the header, the variables and blocks as far as the buffer reaches, then the length and the number
of components, for which no field is named, then the values and the formats (R323-R325). -/
def sFault (b : Bytes) (len free : Nat) : Option Nat :=
  match sHeadFault b with
  | some o => some o
  | none =>
    let q := sParts b
    match sListFault b q len with
    | some o => some o
    | none =>
      if q.total ≠ len then some free
      else if 1048576 < ((List.range q.h.nv).map (dimOf q.h q.vars)).sum then some 0
      else match sValueFault b q with
      | some o => some o
      | none => formatsFault (sFormats q)

/-! ### Conversion (R330, R334) -/

/-- Formats of a problem by variable. -/
def Problem.kindOf (p : Problem) (v : Nat) : Nat := (p.vars.getD v { id := 0, kind := 0 }).kind
def Problem.dim (p : Problem) (v : Nat) : Nat := (p.kinds.getD (p.kindOf v) (0, 0, 0)).1
def Problem.s (p : Problem) (v : Nat) : Nat := (p.kinds.getD (p.kindOf v) (0, 0, 0)).2.1
def Problem.m (p : Problem) (v : Nat) : Nat := p.mm.getD (p.kindOf v) 0
def Problem.g (p : Problem) (v : Nat) : Nat := p.gk.getD (p.kindOf v) 0
/-- Fraction bits of b̂, r and q of a variable. -/
def Problem.fr (p : Problem) (v : Nat) : Int := 60 - (p.m v : Int) - p.g v

/-- A block converted to the scaled format of a row of kind m: its values and how many saturated. -/
def convBlock (fh sa sb m : Nat) (x : List (List Int)) : List (List Int) × Nat :=
  let y := x.map fun r => r.map (toFormat ((fh : Int) - sa - sb) (31 - (m : Int)) 32)
  (y.map fun r => r.map (·.1), ((y.flatten).filter (·.2)).length)

/-- The transpose of a block. -/
def transpose (r c : Nat) (x : List (List Int)) : List (List Int) :=
  (List.range c).map fun j => (List.range r).map fun i => at2 x i j

/-- The scaled problem, less its constraints and preconditioner. -/
def convert (b : Bytes) (mask : Nat) : Problem :=
  let q := sParts b
  let h := q.h
  let f := sFormats q
  let kind (v : Nat) : Nat := (q.vars.getD v { id := 0, kind := 0 }).kind
  let s (v : Nat) : Nat := (h.kinds.getD (kind v) (0, 0, 0)).2.1
  let m (v : Nat) : Nat := f.mm.getD (kind v) 0
  let g (v : Nat) : Nat := f.gk.getD (kind v) 0
  let dim := dimOf h q.vars
  let vs := List.range h.nv
  let diag := vs.map fun v => convBlock h.fh (s v) (s v) (m v) (readBlock b (q.diagAt.getD v 0) (dim v) (dim v))
  let off := q.blocks.mapIdx fun i x =>
    let raw := readBlock b (q.blockAt.getD i 0) (dim x.1) (dim x.2)
    (x, convBlock h.fh (s x.1) (s x.2) (m x.1) raw, convBlock h.fh (s x.1) (s x.2) (m x.2) (transpose (dim x.1) (dim x.2) raw))
  let bb := vs.map fun v => (List.range (dim v)).map fun i =>
    toFormat ((h.fb : Int) - s v) (60 - (m v : Int) - g v) 64 (sInt 64 (fld b (q.bAt.getD v 0 + 8 * i) 8))
  let rows := vs.map fun v =>
    (v, (diag.getD v ([], 0)).1) :: off.filterMap fun (x : (Nat × Nat) × (List (List Int) × Nat) × (List (List Int) × Nat)) =>
      if x.1.1 = v then some (x.1.2, x.2.1.1) else if x.1.2 = v then some (x.1.1, x.2.2.1) else none
  let hit (v : Nat) : Bool := decide (0 < (diag.getD v ([], 0)).2) || (bb.getD v []).any (·.2) ||
    off.any fun x => (x.1.1 == v || x.1.2 == v) && decide (0 < x.2.1.2 + x.2.2.2)
  let n := (vs.map dim).sum
  let ab := 8 * ((vs.map fun v => dim v * dim v).sum + (q.blocks.map fun x => dim x.1 * dim x.2).sum)
  { cls := h.cls, kinds := h.kinds, pivot := h.pivot, vars := q.vars, sig := sSignature b q, mm := f.mm, gk := f.gk
    e := f.e, gg := f.gg, rows := rows, b := bb.map fun r => r.map (·.1), cons := sCons b q
    fixed := vs.map fun v => List.replicate (dim v) none, bounds := vs.map fun v => List.replicate (dim v) none
    prec := [], flags := vs.map fun v => bit (hit v)
    inputSat := (diag.map (·.2)).sum + (off.map fun x => max x.2.1.2 x.2.2.2).sum + ((bb.flatten).filter (·.2)).length
    mask := mask, blockBytes := ab
    ipmBytes := up64k (ab + 72 * n + 48 * h.nv + 32 * h.nc) }

/-! ### The preconditioner (R335-R338) -/

/-- A fraction with a positive denominator. -/
structure Frac where
  n : Int
  d : Nat
  deriving DecidableEq, Repr

def Frac.add (a b : Frac) : Frac := { n := a.n * b.d + b.n * a.d, d := a.d * b.d }

/-- The factors of a block over its free components, with F = 63 − m fraction bits: L's rows, the pivots, and which were
below the threshold (R335). Row i is built from the rows before it. -/
def factorRows (lift : Bool) (F : Nat) (thr : Int) (a : List (List Int)) : List (List Int) × List Int × List Bool :=
  (List.range a.length).foldl (fun (s : List (List Int) × List Int × List Bool) i =>
    let (L, D, low) := s
    let row := (List.range i).foldl (fun (l : List Int) j =>
      let acc := ((List.range j).map fun k => l.getD k 0 * at2 L j k * D.getD k 0).sum
      let num := at2 a i j * (2 ^ (2 * F) : Nat) - acc
      let dj := D.getD j 1
      let v := if dj = 0 then 0 else (if 0 < dj then roundDiv num (dj.natAbs * 2 ^ F) else -(roundDiv num (dj.natAbs * 2 ^ F)))
      l ++ [v]) []
    let di := roundShift (at2 a i i * (2 ^ (2 * F) : Nat) - ((List.range i).map fun k => row.getD k 0 * row.getD k 0 * D.getD k 0).sum) (2 * F)
    let bad := decide (di < thr)
    (L ++ [row], D ++ [if bad && lift then thr else di], low ++ [bad])) ([], [], [])

/-- Column j of L⁻¹, each entry as an integer over 2^(F × (i − j)). -/
def invColumn (F : Nat) (L : List (List Int)) (n j : Nat) : List Int :=
  (List.range n).foldl (fun (c : List Int) i =>
    c ++ [if i < j then 0 else if i = j then 1 else
      -(((List.range i).map fun k => if k < j then 0 else
        at2 L i k * c.getD k 0 * (2 ^ (F * (i - k - 1)) : Nat)).sum)]) []

/-- M⁻¹ from the factors, exactly: entry (i, j) = Σ_k L⁻¹_ki L⁻¹_kj / d_k, as a fraction of value 1. -/
def invBlock (F : Nat) (L : List (List Int)) (D : List Int) : List (List Frac) :=
  let n := D.length
  let cols := (List.range n).map (invColumn F L n)
  (List.range n).map fun i => (List.range n).map fun j =>
    (List.range n).foldl (fun (s : Frac) k =>
      if k < max i j then s else
      let num := at2 cols i k * at2 cols j k * (2 ^ F : Nat)
      let den := D.getD k 1
      if den = 0 then s else
      s.add { n := if den < 0 then -num else num, d := den.natAbs * 2 ^ (F * (k - i) + F * (k - j)) }) { n := 0, d := 1 }

/-- A variable's preconditioner block over the components given: the block, its lifted or low pivot, and saturated entries. -/
def precOf (p : Problem) (v : Nat) (comps : List Nat) : SPrec × Bool × Nat :=
  let m := p.m v
  let F := 63 - m
  let blk := ((p.rows.getD v []).head?.map (·.2)).getD []
  let a := comps.map fun i => comps.map fun j => at2 blk i j * (2 ^ 32 : Nat)
  let norm := ((List.range (p.dim v)).map fun i => at2 blk i i).foldl max 0
  let thr := max (roundShift (norm * (2 ^ 32 : Nat)) p.pivot) (2 ^ 32 : Nat)
  let (L, D, low) := factorRows (p.cls == 0) F thr a
  let M := invBlock F L D
  let fits (j : Nat) : Bool := M.all fun r => r.all fun x => decide (x.n.natAbs < 2 ^ j * x.d)
  let j := ((List.range 32).find? fits).getD 31
  let rows := M.map fun r => r.map fun x => let y := roundDiv (x.n * (2 ^ (31 - j) : Nat)) x.d; (sSat 32 y, sSat 32 y != y)
  ({ comps := comps, j := j, rows := rows.map fun r => r.map (·.1) }, low.any id, ((rows.flatten).filter (·.2)).length)

/-- The components of a variable that are neither anchored nor at an active bound. -/
def freeComps (p : Problem) (active : List (List (Option Int))) (v : Nat) : List Nat :=
  (List.range (p.dim v)).filter fun i =>
    ((p.fixed.getD v []).getD i none).isNone && ((active.getD v []).getD i none).isNone

/-! ### Anchors, bounds and infeasibility (R339, R340) -/

/-- What a load or solve reports of an infeasibility: reason, group, variable, component, entries. -/
structure Infeasible where
  reason : Nat
  group : Nat
  var : Nat := 0xFFFFFFFF
  comp : Nat := 0xFF
  a : Nat := 0xFFFFFFFF
  b : Nat := 0xFFFFFFFF
  deriving DecidableEq, Repr

/-- Variables connected to v by blocks, after n sweeps. -/
def reach (p : Problem) : Nat → List Nat → List Nat
  | 0, l => l
  | n + 1, l =>
    let l' := (List.range p.vars.length).filter fun v => l.contains v || (p.rows.getD v []).any fun x => l.contains x.1
    if l'.length = l.length then l' else reach p n l'

/-- Checks 1 to 4 of *Infeasibility checks*, in order. -/
def sInfeasible (p : Problem) : Option Infeasible :=
  let n := p.cons.length
  let c (i : Nat) : SCon := p.cons.getD i { group := 0, type := 0, comp := 0, var := 0, lo := 0, hi := 0 }
  let same (i j : Nat) : Bool := (c i).var == (c j).var && (c i).comp == (c j).comp
  let pair (bad : Nat → Nat → Bool) : Option (Nat × Nat) :=
    (List.range n).findSome? fun j => ((List.range j).find? fun i => same i j && bad i j).map fun i => (i, j)
  let mk (r i j : Nat) : Infeasible := { reason := r, group := (c j).group, var := (c j).var, comp := (c j).comp, a := i, b := j }
  match pair fun i j => (c i).type == 0 && (c j).type == 0 && (c i).lo != (c j).lo with
  | some x => some (mk 1 x.1 x.2)
  | none =>
    match (List.range n).find? fun i => (c i).type == 1 && decide ((c i).hi < (c i).lo) with
    | some i => some { reason := 2, group := (c i).group, var := (c i).var, comp := (c i).comp, a := i }
    | none =>
      let outside (i j : Nat) : Bool := (c i).type == 0 && (c j).type == 1 && (decide ((c i).lo < (c j).lo) || decide ((c j).hi < (c i).lo))
      match pair fun i j => outside i j || outside j i with
      | some x => some (mk 3 x.1 x.2)
      | none =>
        let anchored (v : Nat) : Bool := (p.fixed.getD v []).any (·.isSome)
        match (List.range p.vars.length).find? fun v => !(reach p p.vars.length [v]).any anchored with
        | some v => some { reason := 4, group := 0xFFFF, var := v }
        | none => none

/-- The group with the most entries on a variable, the lower number on ties (check 5). -/
def pivotGroup (p : Problem) (v : Nat) : Nat :=
  let gs := (p.cons.filter fun c => c.var == v).map (·.group)
  (gs.foldl (fun (b : Option (Nat × Nat)) g =>
    let n := (gs.filter (· == g)).length
    match b with
    | none => some (g, n)
    | some x => if x.2 < n || (x.2 == n && decide (g < x.1)) then some (g, n) else some x) none |>.map (·.1)).getD 0xFFFF

/-- Anchors and bounds put into the problem: fixed components, intersected bounds, and b̂ less the fixed columns. -/
def withCons (p : Problem) : Problem :=
  let vs := List.range p.vars.length
  let fixed := vs.map fun v => (List.range (p.dim v)).map fun i =>
    (p.cons.find? fun c => c.type == 0 && c.var == v && c.comp == i).map (·.lo)
  let bounds := vs.map fun v => (List.range (p.dim v)).map fun i =>
    (p.cons.filter fun c => c.type == 1 && c.var == v && c.comp == i).foldl (fun (b : Option (Int × Int)) c =>
      match b with
      | none => some (c.lo, c.hi)
      | some x => some (max x.1 c.lo, min x.2 c.hi)) none
  let val (u j : Nat) : Int := ((fixed.getD u []).getD j none).getD 0
  let bb := vs.map fun v => (List.range (p.dim v)).map fun i =>
    let moved := ((p.rows.getD v []).map fun x => ((List.range (p.dim x.1)).map fun j => at2 x.2 i j * val x.1 j).sum).sum
    let f : Int := 94 - p.m v
    toFormat f (p.fr v) 64 (at2 p.b v i * (2 ^ (f - p.fr v).toNat : Nat) - moved)
  { p with fixed := fixed, bounds := bounds, b := bb.map fun r => r.map (·.1)
           flags := p.flags.mapIdx fun v x => if (bb.getD v []).any (·.2) then x ||| 1 else x }

/-- The preconditioner of a whole problem (R335-R338): the problem with it, or the variable of a low pivot in the
constrained class. -/
def withPrec (p : Problem) : Problem ⊕ Infeasible :=
  let vs := List.range p.vars.length
  let l := vs.map fun v => precOf p v (freeComps p [] v)
  match (if p.cls = 1 then vs.find? fun v => (l.getD v ({}, false, 0)).2.1 else none) with
  | some v => .inr { reason := 5, group := pivotGroup p v, var := v }
  | none =>
    let lifted := vs.filter fun v => (l.getD v ({}, false, 0)).2.1
    .inl { p with
      prec := l.map (·.1), lifted := lifted, inputSat := p.inputSat + (l.map (·.2.2)).sum
      flags := p.flags.mapIdx fun v x => x ||| (if lifted.contains v then 2 else 0) ||| (if 0 < (l.getD v ({}, false, 0)).2.2 then 1 else 0)
        ||| (if (p.fixed.getD v []).any (·.isSome) then 8 else 0) }

/-! ### Vectors of the loop (R342) -/

/-- A vector with its saturation marks. -/
abbrev SVec := List (List (Int × Bool))
def SVec.vals (v : SVec) : List (List Int) := v.map fun r => r.map (·.1)
def SVec.sat (v : SVec) : Bool := v.any fun r => r.any (·.2)

/-- A value for each component of each variable. -/
def eachComp (p : Problem) (f : Nat → Nat → Int × Bool) : SVec :=
  (List.range p.vars.length).map fun v => (List.range (p.dim v)).map fun i => f v i

/-- Row i of variable v of Ĥ times a vector, exactly; only columns of free components count. -/
def rowDot (p : Problem) (free : List (List Nat)) (y : List (List Int)) (v i : Nat) : Int :=
  ((p.rows.getD v []).map fun x => ((free.getD x.1 []).map fun j => at2 x.2 i j * at2 y x.1 j).sum).sum

/-- r = b̂ − Ĥ x̂ over the free components; active components, fixed at their bounds, count with their values. -/
def residual (p : Problem) (free : List (List Nat)) (active : List (List (Option Int))) (x : List (List Int)) : SVec :=
  let cols := (List.range p.vars.length).map fun v => (free.getD v []) ++ (List.range (p.dim v)).filter fun i => ((active.getD v []).getD i none).isSome
  eachComp p fun v i =>
    if (free.getD v []).contains i then
      let f : Int := 94 - p.m v
      toFormat f (p.fr v) 64 (at2 p.b v i * (2 ^ (f - p.fr v).toNat : Nat) - rowDot p cols x v i)
    else (0, false)

/-- z = M⁻¹ r. -/
def applyPrec (p : Problem) (prec : List SPrec) (r : List (List Int)) : SVec :=
  eachComp p fun v i =>
    let c := prec.getD v {}
    match c.comps.idxOf? i with
    | none => (0, false)
    | some k =>
      let s := (c.comps.mapIdx fun j col => at2 c.rows k j * at2 r v col).sum
      toFormat (31 - (c.j : Int) + p.fr v) 28 32 s

/-- Row i of variable v of Ĥ times a vector of int32 values, in an 80-bit accumulator of the array (R202, R333): the sum and
whether it saturated. -/
def rowMac (p : Problem) (free : List (List Nat)) (y : List (List Int)) (v i : Nat) : Int × Bool :=
  macSat 80 0 ((p.rows.getD v []).flatMap fun x => (free.getD x.1 []).map fun j => (at2 x.2 i j, at2 y x.1 j))

/-- q = Ĥ p. -/
def applyH (p : Problem) (free : List (List Nat)) (y : List (List Int)) : SVec :=
  eachComp p fun v i =>
    if (free.getD v []).contains i then
      let s := rowMac p free y v i
      let q := toFormat (59 - (p.m v : Int)) (p.fr v) 64 s.1
      (q.1, s.2 || q.2)
    else (0, false)

/-- A partition's part of an energy: exact, rounded once into the energy format (R333). -/
def energyPart (p : Problem) (vars : List Nat) (a b : List (List Int)) : Int × Bool :=
  let s := (vars.map fun v => ((List.range (p.dim v)).map fun i =>
    at2 a v i * at2 b v i * (2 ^ (p.m v + p.g v) : Nat)).sum).sum
  toFormat 88 (79 - (p.e : Int)) 80 s

/-- α or β: an exact quotient rounded into Q7.24. -/
def ratio (a b : Int) : Int × Bool :=
  if b = 0 then (2 ^ 31 - 1, true) else
  let n := if b < 0 then -a else a
  let y := roundDiv (n * (2 ^ 24 : Nat)) b.natAbs
  (sSat 32 y, sSat 32 y != y)

/-- x̂ + α p over the free components. -/
def stepX (p : Problem) (free : List (List Nat)) (alpha : Int) (x y : List (List Int)) : SVec :=
  eachComp p fun v i =>
    if (free.getD v []).contains i then
      let s := at2 x v i + alpha * at2 y v i * (2 ^ 11 : Nat)
      (sSat 64 s, sSat 64 s != s)
    else (at2 x v i, false)

/-- r − α q. -/
def stepR (p : Problem) (free : List (List Nat)) (alpha : Int) (r q : List (List Int)) : SVec :=
  eachComp p fun v i =>
    if (free.getD v []).contains i then toFormat (24 + p.fr v) (p.fr v) 64 (at2 r v i * (2 ^ 24 : Nat) - alpha * at2 q v i) else (0, false)

/-- z + β p. -/
def stepP (p : Problem) (beta : Int) (z y : List (List Int)) : SVec :=
  eachComp p fun v i => toFormat 52 28 32 (at2 z v i * (2 ^ 24 : Nat) + beta * at2 y v i)

/-- The integer square root of n, by bisection on its bits. -/
def isqrt (n : Nat) : Nat :=
  (List.range (Nat.log2 n / 2 + 1)).reverse.foldl (fun (r : Nat) (k : Nat) => if (r + 2 ^ k) * (r + 2 ^ k) ≤ n then r + 2 ^ k else r) 0

/-- √(ρ / ρ_b) in Q0.31, rounded to nearest and saturating (R345). -/
def resRatio (rho rhoB : Int) : Nat :=
  if rhoB ≤ 0 || rho ≤ 0 then 0 else
  -- the nearest integer to sqrt(v) is the floor of sqrt(4 v) plus 1, halved
  let v := rho.toNat * 2 ^ 64 / rhoB.toNat
  min 0x7FFFFFFF ((isqrt v + 1) / 2)

end Sys2Proof.Machine
end

