-- ==== Sys2Proof/Machine/Solver.lean ====
section
/-! DEFINITION. The solver: problem slots, loads, solves run by the sequencers, reports and opcodes (spec/11). -/

namespace Sys2Proof.Machine

def Dev.ps (d : Dev) (n : Nat) : PSlot := d.solver.getD n {}
def Dev.setPs (d : Dev) (n : Nat) (f : PSlot → PSlot) : Dev := { d with solver := upd d.solver n f }

/-- Code of a slot state (*Problem slot states*). -/
def PsSt.code : PsSt → Nat
  | .empty => 0x0701 | .loading => 0x0702 | .ready => 0x0703 | .solving => 0x0704

/-- EV_SOLVER_SLOT. -/
def evSolver (s cause : Nat) (d : Dev) : Dev :=
  evFrom 9 0 0x0920 (if cause = 2 then 1 else 0)
    (det [(16, [BitVec.ofNat 8 s, BitVec.ofNat 8 (d.ps s).st.code, BitVec.ofNat 8 cause])]) d

/-! ### Reports (R356) -/

/-- The result flags that a problem's load gives (*Result flags*). -/
def Problem.loadFlags (p : Problem) : Nat := bit (!p.lifted.isEmpty) + 2 * bit (decide (0 < p.inputSat))

/-- The report of a problem: the slot's state, the solve's fields where there is one, the flags, an infeasibility. -/
def solverReport (p : Problem) (st : PsSt) (z : Option Solving) (flags : Nat) (inf : Option Infeasible) : Bytes :=
  let num (f : Solving → Nat) : Nat := (z.map f).getD 0
  let i : Infeasible := inf.getD { reason := 0, group := 0 }
  let sat := (z.bind (·.satVar)).getD (0xFFFFFFFF, 0)
  padTo 256 (leBytes 8 p.sig ++ [BitVec.ofNat 8 p.cls, BitVec.ofNat 8 st.code] ++ leBytes 2 flags
    ++ leBytes 4 (num (·.it)) ++ leBytes 4 (num fun z => resRatio z.rho z.rhoB)
    ++ leBytes 4 (num (·.matched)) ++ leBytes 4 (num (·.unmatched)) ++ leBytes 4 p.lifted.length
    ++ (List.range 8).flatMap (fun k => leBytes 4 (p.lifted.getD k 0xFFFFFFFF))
    ++ leBytes 2 (num (·.rangeRestarts)) ++ leBytes 2 (min 65535 (num (·.boundRestarts)))
    ++ leBytes 4 sat.1 ++ [BitVec.ofNat 8 sat.2, BitVec.ofNat 8 i.reason] ++ leBytes 2 i.group ++ leBytes 4 i.var
    ++ [BitVec.ofNat 8 i.comp, BitVec.ofNat 8 (num (·.scalar)), 0, 0] ++ leBytes 4 i.a ++ leBytes 4 i.b ++ leBytes 4 (p.inputSat + num (·.inputSat))
    ++ (List.range 16).flatMap (fun k => [BitVec.ofNat 8 (p.mm.getD k 0), BitVec.ofNat 8 (p.gk.getD k 0)])
    ++ [BitVec.ofNat 8 p.e, BitVec.ofNat 8 p.gg, BitVec.ofNat 8 (num fun z => z.parts.length), BitVec.ofNat 8 (num (·.placement))]
    ++ leBytes 4 ((p.fixed.map fun l => (l.filter (·.isNone)).length).sum) ++ leBytes 8 p.ipmBytes)

/-- The report where no problem could be read from the buffer: the slot's state, with no variable or entry named. -/
def emptyReport (st : PsSt) : Bytes :=
  putAt (putAt (putAt (putAt (putAt (List.replicate 256 0) 9 [BitVec.ofNat 8 st.code]) 32 (List.replicate 32 255)) 68 (leBytes 4 0xFFFFFFFF))
    76 (leBytes 4 0xFFFFFFFF ++ [255])) 84 (leBytes 8 0xFFFFFFFFFFFFFFFF)

/-- The report of a SOLVER_LOAD that was refused or taken before it read a problem: the slot's state, and no field of any problem or
solve (R356). -/
def solverRefused (s : Nat) (d : Dev) : Bytes := emptyReport (d.ps s).st

/-- One solution record per variable (*Solution record*). -/
def solutionRecords (p : Problem) (z : Solving) : Bytes :=
  (p.vars.mapIdx fun v (x : SVar) =>
    leBytes 8 x.id ++ leBytes 2 (z.varFlags.getD v 0) ++ [BitVec.ofNat 8 (p.dim v), BitVec.ofNat 8 x.kind, 0, 0, 0, 0]
      ++ (List.range (p.dim v)).flatMap (fun i => leBytes 8 (sNat 64 (at2 z.x v i)))).flatten

/-- Bytes of a full result (R360). -/
def Problem.resultLen (p : Problem) : Nat := 256 + ((List.range p.vars.length).map fun v => 16 + 8 * p.dim v).sum

/-! ### Loading (R323-R340, R358) -/

/-- Lifts are counted by the sequencer that factored (CLUn_SEQ_CNT). -/
def countLifts (c n : Nat) (d : Dev) : Dev := d.setClus c fun q => { q with seqLifts := satAdd q.seqLifts n }

/-- What a problem buffer gives: the loaded problem, a faulty field's offset, or an infeasibility with the problem
as far as it was converted. -/
def readProblem (b : Bytes) (mask free : Nat) : Except Nat (Problem × Option Infeasible) :=
  match sFault b b.length free with
  | some o => .error o
  | none =>
    let p := withCons (convert b mask)
    match (if p.cls = 1 then sInfeasible p else none) with
    | some i => .ok (p, some i)
    | none => match withPrec p with
      | .inr i => .ok (p, some i)
      | .inl p => .ok (p, none)

/-- The completion of a load (R358). -/
def loadCpl (p : Problem) (inf : Option Infeasible) : Cpl :=
  let flags := p.loadFlags
  match inf with
  | some i => { status := stInfeasible, stateCode := BitVec.ofNat 16 i.group, flags := BitVec.ofNat 16 flags
                result0 := BitVec.ofNat 64 p.ipmBytes, result1 := BitVec.ofNat 32 p.lifted.length }
  | none => if flags = 0 then .ok p.ipmBytes 0 else .flagged flags p.ipmBytes p.lifted.length

/-- A load's work is done by an engine of the first cluster of its mask. -/
def firstCluster (mask : Nat) : Nat := (clustersOf mask).head?.getD 0

/-- SOLVER_LOAD (R323-R329, R358-R360). -/
def opSolverLoad : OpFn := fun c d =>
  let s := c.d.u8 24
  let m := c.d.u8 25
  let mask := if m = 0 then d.clusterEn else m
  let x := d.ps s
  let rep (b : Bytes) (k : Cpl) (d : Dev) : Dev × OpResult :=
    opDone (d.setPs s fun x => { x with report := b }) (c.optOutput 48 b k)
  if 31 < s || 63 < m then rep (solverRefused s d) .bad d
  else if mask &&& d.clusterEn != mask then rep (solverRefused s d) (.conflict notEnabled) d
  else match x.st with
  | .loading => rep (solverRefused s d) (.conflict x.st.code) d
  | .solving => rep (solverRefused s d) (.conflict x.st.code) d
  | st =>
    match readProblem (c.input d 32 (c.d.f 40 4)) mask d.freeVal with
    | .error o => rep (emptyReport st) { Cpl.bad with result0 := BitVec.ofNat 64 o } d.useFree
    | .ok (p, some i) => rep (solverReport p st none p.loadFlags (some i)) (loadCpl p (some i)) d
    | .ok (p, none) =>
      let need := p.ipmBytes / 65536
      if d.ipmAvail < need then
        rep (solverReport p st none p.loadFlags none)
          { status := stResourceShort, stateCode := 1, result0 := BitVec.ofNat 64 ((need - d.ipmAvail) * 65536) } d
      else
        let own := ((d.tier.allocs.find? fun a => a.1 == 0x1000 + s).map (·.2)).getD 0
        let d := (makeRoom need 0xFFFFFFFF d).setAlloc (0x1000 + s) (own + need)
        let r := solverReport p .ready none p.loadFlags none
        let d := countLifts (firstCluster mask) p.lifted.length d
        let d := d.setPs s fun x => { x with st := .loading, prior := st, next := some (p, c.optOutput 48 r (loadCpl p none), c.tok, 0) }
        (addWork (.load s) (firstCluster mask) 1 (fun _ => none) [{ cycles := d.freeVal % 550000 + 1 }] d.useFree, .later)

/-- The load's task has committed: the slot is READY with the new problem. -/
def solverLoaded (s : Nat) (d : Dev) : Dev :=
  let x := d.ps s
  match x.st, x.next with
  | .loading, some (p, k, t, _) =>
    finish t k ((d.setAlloc (0x1000 + s) (p.ipmBytes / 65536)).setPs s fun x =>
      { x with st := .ready, prob := some p, next := none, bad := false, report := solverReport p .ready none p.loadFlags none })
  | _, _ => d

/-- Works of a slot's load or solve leave the array. -/
def dropSolver (s : Nat) (d : Dev) : Dev :=
  ((d.comp.works.filter fun w => match w.kind with
    | .load n => n == s
    | .solve n _ => n == s
    | _ => false).map (·.id)).foldl (fun d w => dropWork w d) d

/-! ### Solves: starting values (R341, R348-R350) -/

/-- A source record: variable ID, s of its format, values. -/
abbrev Warm := Nat × Nat × List Int

/-- The records of a WARM_HOST buffer, or none where it ends inside one (R350). The kind byte names the problem's own kinds. -/
def warmRecords (p : Problem) : Nat → Bytes → Option (List Warm)
  | 0, b => if b.isEmpty then some [] else none
  | n + 1, b =>
    if b.isEmpty then some [] else
    let dim := fld b 10 1
    if b.length < 16 + 8 * dim then none else
    let r : Warm := (fld b 0 8, (p.kinds.getD (fld b 11 1) (0, 0, 0)).2.1, (List.range dim).map fun i => sInt 64 (fld b (16 + 8 * i) 8))
    (warmRecords p n (b.drop (16 + 8 * dim))).map (r :: ·)

/-- A list has no number twice. -/
def noRepeat (l : List Nat) : Bool := l.eraseDups.length == l.length

/-- What a warm start gives: x̂, matched variables, and whether a value was clipped (R348). -/
def warmStart (p : Problem) (src : List Warm) : List (List Int) × List Nat × Bool :=
  let vs := List.range p.vars.length
  let hit (v : Nat) : Option (List (Int × Bool)) :=
    (src.find? fun r => r.1 == ((p.vars.getD v { id := 0, kind := 0 }).id) && r.2.2.length == p.dim v).map fun r =>
      r.2.2.map fun y => toFormat (63 - (r.2.1 : Int)) (63 - (p.s v : Int)) 64 y
  let vals := vs.map fun v => match hit v with
    | some l => if l.any (·.2) then none else some (l.map (·.1))
    | none => none
  (vs.map fun v => (vals.getD v none).getD (List.replicate (p.dim v) 0), vs.filter fun v => (vals.getD v none).isSome,
   vs.any fun v => match hit v with
     | some l => l.any (·.2)
     | none => false)

/-- Anchored components at their anchors, free ones within their bounds (R341, R348). -/
def startValues (p : Problem) (x : List (List Int)) : List (List Int) :=
  (List.range p.vars.length).map fun v => (List.range (p.dim v)).map fun i =>
    match (p.fixed.getD v []).getD i none, (p.bounds.getD v []).getD i none with
    | some a, _ => a
    | none, some b => max b.1 (min (at2 x v i) b.2)
    | none, none => at2 x v i

/-- Adds a flag bit to each listed variable. -/
def markVars (l : List Nat) (b : Nat) (f : List Nat) : List Nat := f.mapIdx fun v x => if l.contains v then x ||| b else x

/-- A solve's start: values, flags and the counts of the warm start (R348, R349). `src` is none with no warm source;
else the records with whether their signature differs. -/
def beginSolve (p : Problem) (t : Tok) (dest : Option Nat) (cls tol maxIter : Nat) (src : Option (List Warm × Bool)) : Solving :=
  let vs := List.range p.vars.length
  let cold := vs.map fun v => List.replicate (p.dim v) (0 : Int)
  let none2 := vs.map fun v => List.replicate (p.dim v) (none : Option Int)
  let base : Solving :=
    { tok := t, dest := dest, cls := cls, tolExp := tol, maxIter := maxIter, active := none2, prec := p.prec, varFlags := p.flags,
      flags := p.loadFlags, x := startValues p cold }
  match src with
  | none => base
  | some (l, differs) =>
    let (x, hits, clipped) := warmStart p l
    let drop := differs && decide (hits.length * 4 < p.vars.length)
    { base with
      x := startValues p (if drop then cold else x)
      matched := hits.length, unmatched := p.vars.length - hits.length
      flags := base.flags + 8 * bit drop + 16 * bit clipped
      varFlags := if drop then base.varFlags else markVars hits 4 base.varFlags }

/-! ### Partitions and roles (R351, R352) -/

/-- Engines of a cluster that a SOLVER_BLOCK role may take (R267, R351). -/
def Dev.solveRoom (d : Dev) (c : Nat) : Nat := d.roleRoom 3 c

/-- A variable's share of A: its diagonal block and the blocks given in its row. -/
def Problem.share (p : Problem) (v : Nat) : Nat :=
  8 * ((p.rows.getD v []).map fun x => if v ≤ x.1 then p.dim v * p.dim x.1 else 0).sum

/-- Variables with a free component, split into n contiguous partitions of about equal shares. -/
def Problem.split (p : Problem) (n : Nat) : List (List Nat) :=
  let vs := (List.range p.vars.length).filter fun v => !(freeComps p [] v).isEmpty
  let total := max 1 ((vs.map p.share).sum)
  let tagged := (vs.foldl (fun (s : List (Nat × Nat) × Nat) v => ((v, min (n - 1) (s.2 * n / total)) :: s.1, s.2 + p.share v)) ([], 0)).1.reverse
  (List.range n).map fun k => (tagged.filter fun x => x.2 == k).map (·.1)

/-- Role object of a slot's partition. -/
def blockObj (s j : Nat) : Nat := 0x100 * s + j

/-- Roles taken from the lowest-numbered cluster of the mask on: where each stands. -/
def takeRoles (s mask : Nat) (n : Nat) (d : Dev) : Dev × List (Nat × Nat) :=
  (List.range n).foldl (fun (x : Dev × List (Nat × Nat)) j =>
    match (clustersOf mask).findSome? fun c => (x.1.roleEngine 3 c).map fun e => (c, e) with
    | some (c, e) => (placeRole 3 (blockObj s j) c e none x.1, x.2 ++ [(c, e)])
    | none => x) (d, [])

/-- Model-area units of a partition's vectors, at 72 bytes a component (R329, R351). -/
def areaOf (p : Problem) (part : List Nat) : Nat := (72 * (part.map p.dim).sum + 65535) / 65536

/-- Units that the partitions' vectors take in each cluster's model area, in partition order, and whether some partition's find no
room there and lie in the IPM (R351). -/
def placeVectors (p : Problem) (parts : List (List Nat)) (roles : List (Nat × Nat)) (d : Dev) : List Nat × Bool :=
  (List.zip parts roles).foldl (fun (s : List Nat × Bool) x =>
    let n := s.1.getD x.2.1 0 + areaOf p x.1
    if n ≤ d.areaFree x.2.1 then (s.1.set x.2.1 n, s.2) else (s.1, true)) (List.replicate 6 0, false)

/-! ### Running a solve (R341-R347, R353) -/

/-- The partition's contribution to the round of a phase. -/
def Solving.contrib (p : Problem) (z : Solving) (j : Nat) : List (Int × Bool) :=
  let vars := z.parts.getD j []
  match z.phase with
  | .setup => [energyPart p vars p.b z.q, energyPart p vars z.r z.z]
  | .sigma => [energyPart p vars z.p z.q]
  | _ => [energyPart p vars z.r z.z]

/-- Number of a phase in its work. -/
def SPhase.code : SPhase → Nat
  | .waiting => 0 | .setup => 1 | .replace => 2 | .sigma => 3 | .update => 4 | .restart => 5

/-- The free components in force. -/
def Solving.free (p : Problem) (z : Solving) : List (List Nat) := (List.range p.vars.length).map fun v => freeComps p z.active v

/-- Variables of a vector that saturated carry RANGE (R347). -/
def Solving.mark (z : Solving) (v : SVec) : Solving :=
  if v.sat then { z with
    satNow := true, varFlags := z.varFlags.mapIdx fun i f => if (v.getD i []).any (·.2) then f ||| 1 else f } else z

/-- r, z and p recomputed from x̂. -/
def Solving.recompute (p : Problem) (z : Solving) : Solving :=
  let r := residual p (z.free p) z.active z.x
  let y := applyPrec p z.prec r.vals
  { ((z.mark r).mark y) with r := r.vals, z := y.vals }

/-- Where a partition's role stands, now that it may have moved (R354). -/
def Dev.rolePlace (d : Dev) (s j : Nat) (was : Nat × Nat) : Nat × Nat :=
  match d.roleAt 3 (blockObj s j) with
  | some r => if r.cluster < 6 then (r.cluster, r.engine) else was
  | none => was

/-- Where a variable's segment of p lies: in the store that holds its partition's vectors (R351). -/
def Solving.segmentAt (z : Solving) (s v : Nat) : Nat :=
  let j := (z.parts.findIdx? fun l => l.contains v).getD 0
  let at_ := Config.segmentFrom s v
  if z.placement / 2 % 2 = 1 then 0x0040_0000_0000 + at_ % (14 * 1073741824 - 64)
  else 0x0010_0000_0000 + 0x0100_0000 * (z.roles.getD j (0, 0)).1 + at_ % (12 * 1048576 - 64)

/-- The copies that the q task of a partition takes in before it starts: the p segments of the variables its blocks reach (R353). -/
def Solving.segments (s : Nat) (p : Problem) (z : Solving) (j : Nat) : List PlanCopy :=
  let e := z.roles.getD j (0, 0)
  let vs := ((z.parts.getD j []).flatMap fun v => (p.rows.getD v []).map (·.1)).eraseDups
  vs.map fun v => { ce := j % 2, src := z.segmentAt s v, len := 4 * p.dim v
                    dst := 0x0800_0000 * e.1 + 0x0008_0000 * e.2 + Config.segmentTo s v % (0x0008_0000 - 64) }

/-- A phase's tasks start: one per partition, in the cluster of its role. The block products are PINNED and take in their segments of p, the
updates have affinity CLUSTER (R353). -/
def startPhase (s : Nat) (p : Problem) (ph : SPhase) (z : Solving) (d : Dev) : Dev :=
  let id := d.comp.nextId
  let z := { z with phase := ph, round := id, roles := z.roles.mapIdx (d.rolePlace s) }
  let d := { d with comp := { d.comp with nextId := id + 1 } }
  let d := d.setPs s fun x => { x with solving := some z }
  let aff := if ph == .update then 2 else 0
  ((z.roles.map (·.1)).eraseDups).foldl (fun d c =>
    let mine := (List.range z.roles.length).filter fun j => (z.roles.getD j (0, 0)).1 == c
    addWork (.solve s ph.code) c z.cls (fun j => some (3, blockObj s j))
      (mine.map fun j => { affinity := aff, engine := j, cycles := Config.freeValue (d.free + j) % 550000 + 1
                           copies := if ph == .sigma then z.segments s p j else [] })
      { d with free := d.free + z.roles.length }) d

/-- The vectors of the set-up: r, z and M⁻¹ b. -/
def startSetup (s : Nat) (p : Problem) (z : Solving) (d : Dev) : Dev :=
  let z := z.recompute p
  let y := applyPrec p z.prec (eachComp p fun v i => if (freeComps p z.active v).contains i then (at2 p.b v i, false) else (0, false)).vals
  let z := z.mark y
  startPhase s p .setup { z with p := z.z, q := y.vals } d

/-- A residual replacement, and a restart. -/
def startReplace (s : Nat) (p : Problem) (z : Solving) (d : Dev) : Dev := startPhase s p .replace (z.recompute p) d
def startRestart (s : Nat) (p : Problem) (z : Solving) (d : Dev) : Dev :=
  let z := { z with satNow := false }.recompute p
  startPhase s p .restart { z with p := z.z } (d.setClus z.lead fun q => { q with seqRestarts := satInc q.seqRestarts })

/-- A solve's works, its round and its roles are given up. -/
def solveLeaves (s : Nat) (z : Solving) (d : Dev) : Dev :=
  let d := dropSolver s d
  let d := { d with comp := { d.comp with rounds := d.comp.rounds.filter fun x => x.id != z.round } }
  (List.range z.parts.length).foldl (fun d j => freeRole 3 (blockObj s j) d) d

/-- A solve that an abort took is over: it writes nothing, keeps the retained solution, and its slot returns to READY (R355). -/
def solveDropped (s : Nat) (z : Solving) (d : Dev) : Dev :=
  (solveLeaves s z d).setPs s fun x => { x with st := .ready, solving := none }

/-- The solve of a slot ends: its report and records, its slot's state, its roles given up (R327, R328, R344-R347, R357). -/
def solveEnd (s : Nat) (status : Byte) (extra : Nat) (write : Bool) (inf : Option Infeasible) (next : PsSt) (d : Dev) : Dev :=
  match (d.ps s).solving, (d.ps s).prob with
  | some z, some p =>
    let flags := z.flags ||| extra
    let z := { z with flags := flags }
    let st := if status == stOk && flags != 0 then stOkFlagged else status
    let r := solverReport p next (some z) flags inf
    let told := status != stDataError
    let k : Cpl :=
      { status := st, stateCode := BitVec.ofNat 16 ((inf.map (·.group)).getD 0), flags := BitVec.ofNat 16 flags
        result0 := BitVec.ofNat 64 (z.it + atBit 32 (resRatio z.rho z.rhoB)), result1 := BitVec.ofNat 32 z.matched
        dest := if told then z.dest else none, payload := if !told then [] else if write then r ++ solutionRecords p z else r }
    let d := solveLeaves s z d
    let kept : Retained := { sig := p.sig, vals := p.vars.mapIdx fun v (y : SVar) => (y.id, p.s v, z.x.getD v []) }
    let d := d.setPs s fun x => { x with
      st := next, solving := none, report := if told then r else x.report, retained := if write then some kept else x.retained
      prob := if next == .ready then x.prob else none, bad := false }
    let d := if next == .ready then d else d.setAlloc (0x1000 + s) 0
    finish z.tok k d
  | _, _ => d

/-- The top of the loop, with ρ at hand. -/
def loopTop (s : Nat) (p : Problem) (z : Solving) (d : Dev) : Dev :=
  let d := d.setPs s fun x => { x with solving := some z }
  if z.rho * (2 ^ (2 * z.tolExp) : Nat) ≤ z.rhoB then startReplace s p z d
  else if z.maxIter ≤ z.it then solveEnd s stNotConverged 0 true none .ready d
  else
    let q := applyH p (z.free p) z.p
    startPhase s p .sigma { (z.mark q) with q := q.vals } d

/-- Bounds that x̂ has crossed, each with the bound crossed (R341). -/
def crossed (p : Problem) (z : Solving) : List (Nat × Nat × Int) :=
  ((List.range p.vars.length).map fun v => (freeComps p z.active v).filterMap fun i =>
    match (p.bounds.getD v []).getD i none with
    | some b => if at2 z.x v i < b.1 then some (v, i, b.1) else if b.2 < at2 z.x v i then some (v, i, b.2) else none
    | none => none).flatten

/-- Crossed bounds become active, and their variables' blocks are factored again: the solve, or the variable of a low
pivot (R337, R341). -/
def activate (p : Problem) (l : List (Nat × Nat × Int)) (z : Solving) : Solving × Option Nat :=
  let put (m : List (List (Option Int))) : List (List (Option Int)) := l.foldl (fun m y => upd m y.1 fun r => r.set y.2.1 (some y.2.2)) m
  let x := l.foldl (fun m y => upd m y.1 fun r => r.set y.2.1 y.2.2) z.x
  let z := { z with x := x, active := put z.active, flags := z.flags ||| 32, boundRestarts := z.boundRestarts + 1
                    varFlags := markVars (l.map (·.1)) 16 z.varFlags }
  let vs := (l.map (·.1)).eraseDups
  let fac (v : Nat) : SPrec × Bool × Nat := precOf p v (freeComps p z.active v)
  match vs.find? fun v => (fac v).2.1 with
  | some v => (z, some v)
  | none =>
    ({ z with
       prec := z.prec.mapIdx fun v y => if vs.contains v then (fac v).1 else y
       inputSat := z.inputSat + (vs.map fun v => (fac v).2.2).sum
       varFlags := markVars (vs.filter fun v => decide (0 < (fac v).2.2)) 1 z.varFlags
       flags := if vs.any fun v => decide (0 < (fac v).2.2) then z.flags ||| 2 else z.flags }, none)

/-- An update of x̂ that saturates marks its variables; the lowest-indexed component is the one reported (R346). -/
def Solving.saturates (z : Solving) (x : SVec) : Solving :=
  if !x.sat then z else
  let v := ((List.range x.length).find? fun v => (x.getD v []).any (·.2)).getD 0
  { z with
    satVar := some (v, ((x.getD v []).findIdx? (·.2)).getD 0)
    varFlags := z.varFlags.mapIdx fun u f => if (x.getD u []).any (·.2) then f ||| 1 else f }

/-- An iteration ends in which x̂ saturated: the solve ends with ST_RANGE (R346). -/
def rangeEnd (s : Nat) (z : Solving) (d : Dev) : Dev :=
  solveEnd s stRange 0 false none .ready (d.setPs s fun x => { x with solving := some z })

/-- σ is at hand: α, the update of x̂, and what follows it (R341, R342, R344, R346). -/
def afterSigma (s : Nat) (p : Problem) (sigma : Int) (z : Solving) (d : Dev) : Dev :=
  if sigma ≤ 0 then solveEnd s stNotConverged 64 true none .ready (d.setPs s fun x => { x with solving := some z }) else
  let (al, alSat) := ratio z.rho sigma
  let z := if alSat then { z with scalar := z.scalar ||| 1, satNow := true } else z
  let x := stepX p (z.free p) al z.x z.p
  let z := z.saturates x
  let z := { z with x := x.vals, it := z.it + 1 }
  let d := d.setClus z.lead fun q => { q with seqIterations := q.seqIterations + 1 }
  match crossed p z with
  | [] =>
    let r := stepR p (z.free p) al z.r z.q
    let y := applyPrec p z.prec r.vals
    startPhase s p .update { ((z.mark r).mark y) with r := r.vals, z := y.vals } d
  | l =>
    match activate p l z with
    | (z, some v) =>
      solveEnd s stInfeasible 0 false (some { reason := 5, group := pivotGroup p v, var := v }) .ready
        (d.setPs s fun x => { x with solving := some z })
    | (z, none) => startRestart s p z d

/-- The new ρ is at hand: β and the next direction; a range restart where something saturated (R342, R344, R347). -/
def afterUpdate (s : Nat) (p : Problem) (rho : Int) (z : Solving) (d : Dev) : Dev :=
  let (be, beSat) := ratio rho z.rho
  let z := if beSat then { z with scalar := z.scalar ||| 2, satNow := true } else z
  let y := stepP p be z.z z.p
  let z := { (z.mark y) with p := y.vals, rho := rho }
  if z.satVar.isSome then rangeEnd s z d
  else if z.satNow then
    if z.rangeRestarts < 4 then startRestart s p { z with rangeRestarts := z.rangeRestarts + 1, flags := z.flags ||| 4 } d
    else solveEnd s stNotConverged 4 true none .ready (d.setPs s fun x => { x with solving := some z })
  else loopTop s p z d

/-- A round of a slot's solve is delivered to its lead sequencer (R220, R221, R342-R347). -/
def solverRound (s : Nat) (r : Round) (d : Dev) : Dev :=
  let d := { d with comp := { d.comp with rounds := d.comp.rounds.filter fun x => x.id != r.id } }
  match (d.ps s).solving, (d.ps s).prob with
  | some z, some p =>
    let (v, range) := r.value
    let z := if range then { z with satNow := true, scalar := z.scalar ||| (if z.phase == .sigma then 4 else 8) } else z
    let a := v.getD 0 0
    if z.aborted && z.phase != .sigma then finish z.tok (.of stAborted) (solveDropped s z d) else
    match z.phase with
    | .waiting => d
    | .setup =>
      let z := { z with rhoB := a, rho := v.getD 1 0 }
      if a = 0 then
        let x := (List.range p.vars.length).map fun u => (List.range (p.dim u)).map fun i =>
          if (freeComps p z.active u).contains i then 0 else at2 z.x u i
        solveEnd s stOk 0 true none .ready (d.setPs s fun y => { y with solving := some { z with x := x } })
      else loopTop s p z d
    | .replace =>
      let z := { z with rho := a, p := z.z }
      let d := d.setPs s fun x => { x with solving := some z }
      if a * (2 ^ (2 * z.tolExp) : Nat) ≤ z.rhoB then solveEnd s stOk 0 true none .ready d
      else if z.maxIter ≤ z.it then solveEnd s stNotConverged 0 true none .ready d
      else
        let q := applyH p (z.free p) z.p
        startPhase s p .sigma { (z.mark q) with q := q.vals } d
    | .sigma => afterSigma s p a z d
    | .update => afterUpdate s p a z d
    | .restart =>
      let z := { z with rho := a }
      if z.satVar.isSome then rangeEnd s z d else loopTop s p z d
  | _, _ => d

/-- A task of a solve's phase has committed: its partition's contribution enters the round (R220, R353). -/
def solverTask (s : Nat) (w : Work) (k : Task) (d : Dev) : Dev :=
  match (d.ps s).solving, (d.ps s).prob with
  | some z, some p =>
    let mine := (List.range z.roles.length).filter fun j => (z.roles.getD j (0, 0)).1 == w.cluster
    let j := mine.getD k.idx 0
    let v := z.contrib p j
    let z' := if v.any (·.2) then { z with satNow := true, scalar := z.scalar ||| (if z.phase == .sigma then 4 else 8) } else z
    contribute w.cluster
      { round := z.round, part := j, elem := 2, op := 0, parts := z.parts.length
        cross := decide (1 < ((z.roles.map (·.1)).eraseDups).length), target := 1, vals := v.map (·.1) }
      (d.setPs s fun x => { x with solving := some z' })
  | _, _ => d

/-- No engine of a mask could ever take a partition: no solve's role holds one there (R352). -/
def Dev.neverRoom (d : Dev) (mask : Nat) : Bool :=
  decide (((clustersOf mask).map d.solveRoom).sum = 0) && (clustersOf mask).all fun k => (d.clus k).eng.all fun e => e.kind != 3 || e.st != .live

/-- The completion of a solve that no engine could ever take (R352). -/
def solveNoRoom (p : Problem) : Cpl :=
  { status := stResourceShort, stateCode := 8, flags := BitVec.ofNat 16 p.loadFlags, payload := solverReport p .ready none p.loadFlags none }

/-- A waiting solve is admitted once an engine is free for it, and ends where none could be any more (R351, R352). -/
def solveAdmit (s : Nat) (d : Dev) : Dev :=
  match (d.ps s).solving, (d.ps s).prob with
  | some z, some p =>
    if z.phase != .waiting then d else
    let avail := ((clustersOf p.mask).map d.solveRoom).sum
    if d.neverRoom p.mask then
      finish z.tok { (solveNoRoom p) with dest := z.dest } (d.setPs s fun x => { x with st := .ready, solving := none, report := (solveNoRoom p).payload })
    else if avail = 0 then d else
    let n := min ((p.blockBytes + 393215) / 393216) avail
    let (d, roles) := takeRoles s p.mask n d
    let parts := p.split roles.length
    let area := placeVectors p parts roles d
    let lead := ((roles.map (·.1)).foldl min 5)
    startSetup s p { z with
      lead := lead, parts := parts, roles := roles, area := area.1
      placement := bit (parts.any fun l => decide (393216 < (l.map p.share).sum)) + 2 * bit area.2 } d
  | _, _ => d

/-! ### Opcodes (R355, R357, R359, R360) -/

/-- SOLVE (R341-R353, R357, R360). -/
def opSolve : OpFn := fun c d =>
  let s := c.d.u8 24
  let fl := c.d.u8 25
  let tol := c.d.u8 27
  let maxIter := c.d.f 28 2
  let ws := fl / 2 % 2 == 1
  let wh := fl / 4 % 2 == 1
  let x := d.ps s
  if 31 < s || 7 < fl || (ws && wh) || (!ws && c.d.u8 26 != 0) || (ws && 31 < c.d.u8 26)
      || (!wh && (c.d.f 48 8 != 0 || c.d.f 56 4 != 0)) || tol < 1 || 30 < tol || maxIter = 0 then opDone d .bad
  else match x.st, x.prob with
  | .ready, some p =>
    if c.d.f 40 4 < p.resultLen then opDone d .bad
    else if x.bad then
      let d := (d.setAlloc (0x1000 + s) 0).setPs s fun x => { x with st := .empty, prob := none, bad := false }
      opDone (evSolver s 2 d) (.of stDataError)
    else
      let src : Option (Option (List Warm × Bool)) :=
        if ws then match (d.ps (c.d.u8 26)).retained with
          | some r => some (some (r.vals, r.sig != p.sig))
          | none => some (some ([], false))
        else if wh then match warmRecords p (c.d.f 56 4 / 16 + 1) (c.input d 48 (c.d.f 56 4)) with
          | some l => if noRepeat (l.map (·.1)) then some (some (l, true)) else none
          | none => none
        else some none
      match src with
      | none => opDone d .bad
      | some src =>
        if d.neverRoom p.mask then opDone (d.setPs s fun x => { x with report := (solveNoRoom p).payload }) (c.output 32 (solveNoRoom p).payload (solveNoRoom p))
        else
          let dest := match c.ch with
            | .sq _ => some (c.d.f 32 8)
            | _ => none
          let z := beginSolve p c.tok dest (if fl % 2 = 1 then 2 else 1) tol maxIter src
          (solveAdmit s (d.setPs s fun x => { x with st := .solving, solving := some z }), .later)
  | st, _ => opDone d (.conflict st.code)

/-- SOLVER_FREE (*Problem slot states*). -/
def opSolverFree : OpFn := fun c d =>
  let s := c.d.u8 24
  if 31 < s then opDone d .bad else
  match (d.ps s).st with
  | .empty => opDone (d.setPs s fun x => { x with retained := none }) .ok
  | .ready =>
    opDone ((d.setAlloc (0x1000 + s) 0).setPs s fun x => { x with st := .empty, prob := none, retained := none, bad := false }) .ok
  | st => opDone d (.conflict st.code)

/-- SOLVER_QUERY (*Solver opcodes*). -/
def opSolverQuery : OpFn := fun c d =>
  let s := c.d.u8 24
  let x := d.ps s
  if 31 < s then opDone d .bad else
  let cls := (x.prob.map (·.cls)).getD 0
  let n := (x.prob.map fun p => p.vars.length).getD 0
  let sig := (x.prob.map (·.sig)).getD 0
  opDone d (c.optOutput 32 (padTo 256 x.report) (.ok (x.st.code % 256 + atBit 8 cls + atBit 32 n) (sig % 2 ^ 32)))

/-- ABORT_SQ has taken a running SOLVE: it goes on to the next iteration boundary, and ends there (R355). -/
def solveTaken (t : Tok) (d : Dev) : Option Dev :=
  ((List.range 32).find? fun s => match (d.ps s).solving with
    | some z => z.tok == t && z.phase != .waiting
    | none => false).map fun s =>
      d.setPs s fun x => { x with solving := x.solving.map fun z => { z with aborted := true } }

/-- A SOLVE or a SOLVER_LOAD is taken at once: nothing is written, and the slot returns to its state before (R327, R355). -/
def solveAborted (t : Tok) (d : Dev) : Dev :=
  (List.range 32).foldl (fun d s =>
    let x := d.ps s
    let d := match x.solving with
      | some z => if z.tok = t then solveDropped s z d else d
      | none => d
    match x.next with
    | some (_, _, u, _) => if u = t then
        ((dropSolver s d).setAlloc (0x1000 + s) ((x.prob.map fun q => q.ipmBytes / 65536).getD 0)).setPs s fun x =>
          { x with st := x.prior, next := none }
      else d
    | none => d) d

/-- The slot's problem data was found uncorrectable (*Problem slot states*, R354). -/
def problemLost (s : Nat) (d : Dev) : Dev :=
  let x := d.ps s
  match x.st with
  | .empty => d
  | .loading =>
    match x.next with
    | some (_, k, t, _) =>
      let d := ((dropSolver s d).setAlloc (0x1000 + s) ((x.prob.map fun q => q.ipmBytes / 65536).getD 0)).setPs s fun x =>
        { x with st := x.prior, next := none }
      evSolver s 2 (finish t { (Cpl.of stDataError) with dest := k.dest, payload := putAt k.payload 9 [BitVec.ofNat 8 x.prior.code] } d)
    | none => d
  | .ready => d.setPs s fun x => { x with bad := true }
  | .solving => evSolver s 2 (solveEnd s stDataError 0 false none .empty d)

/-- A profile is applied: READY slots become EMPTY and retained solutions are discarded (R327). -/
def solverApply (d : Dev) : Dev :=
  (List.range 32).foldl (fun d s =>
    let was := (d.ps s).st
    let d := (d.setAlloc (0x1000 + s) 0).setPs s fun x => { x with st := .empty, prob := none, retained := none, bad := false }
    if was == .ready then evSolver s 1 d else d) d

/-- CLUn_SEQ_STATE: a host problem that the cluster's sequencer leads comes before one of the estimator's, and that before one of another lead
(R322, R360; DESIGN CHOICE, notes/assumptions/73.md). -/
def seqState (c : Nat) (d : Dev) : Nat :=
  let roles := ((d.clus c).eng.filter fun e => e.kind == 3).length
  let lead := (List.range 32).find? fun s => match (d.ps s).solving with
    | some z => z.phase != .waiting && z.lead == c
    | none => false
  let other := (List.range 32).find? fun s => match (d.ps s).solving with
    | some z => z.roles.any fun r => r.1 == c
    | none => false
  let own := d.comp.works.any fun w => w.cluster == c && match w.kind with
    | .est n => decide (n < 3)
    | _ => false
  match lead, other with
  | some s, _ => 1 + atBit 8 s + atBit 16 roles
  | none, some s => if own then 1 + atBit 8 0xFF + atBit 16 roles else 2 + atBit 8 s + atBit 16 roles
  | none, none => bit own + atBit 8 0xFF + atBit 16 roles

end Sys2Proof.Machine
end

