-- ==== Sys2Proof/Machine/Place.lean ====
section
/-! DEFINITION. The Place Walker: indices, the walk, inserts, deletes, merges, query contexts and walkers (spec/13). -/

namespace Sys2Proof.Machine

def Dev.setPlace (d : Dev) (f : Place → Place) : Dev := { d with place := f d.place }
def Dev.ix (d : Dev) (n : Nat) : PIndex := d.place.ix.getD n {}
def Dev.setIx (d : Dev) (n : Nat) (f : PIndex → PIndex) : Dev := d.setPlace fun p => { p with ix := upd p.ix n f }
def Dev.wk (d : Dev) (n : Nat) : Walker := d.place.wk.getD n {}
def Dev.setWk (d : Dev) (n : Nat) (f : Walker → Walker) : Dev := d.setPlace fun p => { p with wk := upd p.wk n f }

/-- Codes of the states (*Walker states*, *Index states*). -/
def WkSt.code : WkSt → Nat
  | .gated => 0 | .online => 1 | .off => 2 | .fenced => 3
def IxSt.code : IxSt → Nat
  | .empty => 0x0801 | .loading => 0x0802 | .ready => 0x0803 | .merging => 0x0804 | .lost => 0x0805

/-- Bytes of a vector. -/
def PIndex.vecBytes (x : PIndex) : Nat := if x.format = 0 then x.dim else x.dim / 8

/-- The next free ID, and the side entries. -/
def PIndex.idEnd (x : PIndex) : Nat := x.vecs.length
def PIndex.side (x : PIndex) : Nat := x.idEnd - x.cur.gEnd

/-- Tombstones that no merge has dropped (WLK_IDXn_SIDE.TOMBS). -/
def PIndex.pending (x : PIndex) : List (Nat × Nat) := x.tombs.filter fun t => !x.cur.holes.contains t.1

/-- An index changes state; changes to or from LOST and EMPTY post EV_INDEX_STATE (R415). -/
def ixState (n : Nat) (st : IxSt) (cause : Nat) (d : Dev) : Dev :=
  let old := (d.ix n).st
  let d := d.setIx n fun x => { x with st := st }
  if old == st then d
  else if old == .empty || old == .lost || st == .empty || st == .lost then
    evFrom 10 0 0x0A02 (if st == .lost then 1 else 0) (det [(16, [BitVec.ofNat 8 n, BitVec.ofNat 8 st.code, BitVec.ofNat 8 cause])]) d
  else d

/-! ### Codes and distances (R396, R397) -/

/-- Differing bits of two byte strings. -/
def hamming (a b : Bytes) : Nat := (List.zipWith (fun x y => ((List.range 8).filter fun i => (x ^^^ y).getLsbD i).length) a b).sum

/-- The exact distance (R396). -/
def PIndex.exact (x : PIndex) (a b : Bytes) : Int :=
  match x.metric with
  | 0 => (List.zipWith (fun p q => (p.toInt - q.toInt) * (p.toInt - q.toInt)) a b).sum
  | 1 => -(List.zipWith (fun p q => p.toInt * q.toInt) a b).sum
  | _ => (hamming a b : Int)

/-- The code of a vector (R397). -/
def PIndex.codeOf (x : PIndex) (v : Bytes) : Bytes :=
  if x.format = 1 then v.take x.codeBytes else
  (List.range x.codeBytes).map fun k => BitVec.ofNat 8 (((List.range 8).map fun i =>
    let row := (x.proj.drop ((8 * k + i) * x.dim)).take x.dim
    if 0 ≤ (List.zipWith (fun p q => p.toInt * q.toInt) v row).sum then 2 ^ i else 0).sum)

/-- The code of a node. -/
def PIndex.code (x : PIndex) (n : Nat) : Bytes := x.codes.getD n []

/-! ### The walk (R403-R406, R414) -/

/-- A queue entry. -/
structure WEnt where
  id : Nat
  cd : Nat
  expanded : Bool
  deriving DecidableEq, Repr

/-- The walk's progress: the queue in order, the visited filter's set bits, the counters and the nodes expanded. -/
structure Walk where
  queue : List WEnt := []
  seen : List Nat := []
  expansions : Nat := 0
  dangling : Nat := 0
  limit : Bool := false
  order : List Nat := []
  /-- nodes whose codes were read -/
  met : List Nat := []
  deriving DecidableEq, Repr

/-- a ranks before b: code distance, then the lower ID. -/
def WEnt.before (a b : WEnt) : Bool := decide (a.cd < b.cd) || (a.cd == b.cd && decide (a.id < b.id))

/-- An entry joins the queue of at most L, in order (R403). -/
def insertEnt (len : Nat) (e : WEnt) (q : List WEnt) : List WEnt :=
  ((q.takeWhile fun x => x.before e) ++ e :: (q.dropWhile fun x => x.before e)).take len

/-- The visited filter of 64 × L bits (R404). -/
def Walk.visited (w : Walk) (len n : Nat) : Bool :=
  let h := Config.visitHash (64 * len) n
  w.seen.contains (h.1 % (64 * len)) && w.seen.contains (h.2 % (64 * len))
def Walk.visit (w : Walk) (len n : Nat) : Walk :=
  let h := Config.visitHash (64 * len) n
  { w with seen := h.1 % (64 * len) :: h.2 % (64 * len) :: w.seen }

/-- One slot of the expanded node's list. -/
def walkSlot (code : Nat → Bytes) (qc : Bytes) (gEnd len : Nat) (w : Walk) (t : Nat) : Walk :=
  if t = 0xFFFFFFFF then w
  else if gEnd ≤ t then { w with dangling := w.dangling + 1 }
  else if w.visited len t then w
  else
    let w := w.visit len t
    { w with queue := insertEnt len { id := t, cd := hamming qc (code t), expanded := false } w.queue, met := w.met ++ [t] }

/-- The loop of the walk (R403). -/
def walkLoop (code : Nat → Bytes) (qc : Bytes) (g : GraphV) (len maxExp : Nat) : Nat → Walk → Walk
  | 0, w => w
  | n + 1, w =>
    match w.queue.find? fun e => !e.expanded with
    | none => w
    | some c =>
      if w.expansions = maxExp then { w with limit := true } else
      let w := { w with
        queue := w.queue.map fun e => if e.id = c.id then { e with expanded := true } else e
        expansions := w.expansions + 1, order := w.order ++ [c.id] }
      walkLoop code qc g len maxExp n ((g.lists.getD c.id []).foldl (walkSlot code qc g.gEnd len) w)

/-- The walk of a graph version from its entry points, all of which are queued and marked visited, with the side entries given (R403). -/
def walk (code : Nat → Bytes) (qc : Bytes) (g : GraphV) (side : List Nat) (len maxExp : Nat) : Walk :=
  let m := if maxExp = 0 then 4 * len else maxExp
  let w := g.entry.eraseDups.foldl (fun w t =>
    let w := w.visit len t
    { w with queue := insertEnt len { id := t, cd := hamming qc (code t), expanded := false } w.queue, met := w.met ++ [t] }) ({} : Walk)
  let w := side.foldl (fun w t => { w with queue := insertEnt len { id := t, cd := hamming qc (code t), expanded := true } w.queue }) w
  walkLoop code qc g len m (m + 1) w

/-- The graph version of a snapshot. -/
def PIndex.version (x : PIndex) (n : Nat) : GraphV := (x.old.find? fun g => g.num == n).getD x.cur

/-- A node is deleted for a snapshot (R414). -/
def PIndex.deadAt (x : PIndex) (te n : Nat) : Bool := x.tombs.any fun t => t.1 == n && decide (t.2 ≤ te)

/-- A result: node ID, exact distance where it was reranked, code distance. -/
abbrev Hit := Nat × Option Int × Nat

/-- Hits by exact distance, ties to the lower ID (R396). -/
def sortHits (l : List (Nat × Int × Nat)) : List (Nat × Int × Nat) :=
  inOrder l fun a b => decide (a.2.1 < b.2.1) || (a.2.1 == b.2.1 && decide (a.1 ≤ b.1))

/-- A query's answer for its snapshot: hits, expansions, dangling edges, side entries scanned, entries left out, flags. -/
structure Answer where
  hits : List Hit
  expansions : Nat := 0
  dangling : Nat := 0
  side : Nat := 0
  skipped : Nat := 0
  flags : Nat := 0
  deriving DecidableEq, Repr

/-- The walk of a query and its rerank (R403-R406). -/
def PIndex.answer (x : PIndex) (j : PlaceJob) (s : Snap) (v : Bytes) : Answer :=
  let g := x.version s.version
  let ok (n : Nat) : Bool := decide (n < s.wm) && !g.holes.contains n && !x.deadAt s.te n
  if j.exhaustive then
    let all := ((List.range s.wm).filter ok).map fun n => (n, x.exact (x.vecs.getD n []) v, hamming (x.codeOf v) (x.code n))
    let l := (sortHits all).take j.k
    { hits := l.map fun h => (h.1, some h.2.1, h.2.2), flags := 4 * bit (decide (l.length < j.k)) }
  else
    let qc := x.codeOf v
    let side := (List.range s.wm).drop s.gEnd
    let w := walk x.code qc { g with gEnd := s.gEnd } side j.len j.maxExp
    let cand := w.queue.filter fun e => ok e.id
    let top := sortHits ((cand.take j.rerank).map fun e => (e.id, x.exact (x.vecs.getD e.id []) v, e.cd))
    let l := (top.map (fun h => ((h.1, some h.2.1, h.2.2) : Hit)) ++ (cand.drop j.rerank).map fun e => ((e.id, none, e.cd) : Hit)).take j.k
    { hits := l, expansions := w.expansions, dangling := w.dangling, side := side.length
      skipped := w.queue.length - cand.length
      flags := bit (decide (0 < w.dangling)) + 2 * bit w.limit + 4 * bit (decide (l.length < j.k)) }

/-- The nodes of which a query reads the code, the list and the vector (R397, R403, R406). -/
def PIndex.reads (x : PIndex) (j : PlaceJob) (s : Snap) (v : Bytes) : List Nat × List Nat × List Nat :=
  let g := x.version s.version
  if j.exhaustive then ([], [], List.range s.wm) else
  let side := (List.range s.wm).drop s.gEnd
  let w := walk x.code (x.codeOf v) { g with gEnd := s.gEnd } side j.len j.maxExp
  let cand := w.queue.filter fun e => decide (e.id < s.wm) && !g.holes.contains e.id && !x.deadAt s.te e.id
  (side ++ w.met, w.order, (cand.take j.rerank).map (·.id))

/-- The result bytes of one query (*Query result header*, *Query result entry*). -/
def Answer.bytes (a : Answer) (j : PlaceJob) (s : Snap) (q : Nat) : Bytes :=
  padTo (64 + 16 * j.k) (padTo 64 (leBytes 4 q ++ leBytes 2 a.hits.length ++ leBytes 2 a.flags ++ leBytes 4 a.expansions
    ++ leBytes 4 a.dangling ++ leBytes 4 a.side ++ leBytes 4 a.skipped ++ leBytes 4 s.gEnd ++ leBytes 4 s.wm
    ++ leBytes 8 s.te ++ leBytes 8 s.at64)
    ++ a.hits.flatMap fun h => leBytes 4 h.1 ++ leBytes 4 (sNat 32 (h.2.1.getD h.2.2)) ++ leBytes 2 h.2.2
      ++ leBytes 2 (bit h.2.1.isSome) ++ [0, 0, 0, 0])

/-! ### Storage (R398, R399, R422) -/

/-- Index objects: codes, neighbour lists, vectors. -/
def ixObj (i kind : Nat) : Nat := 0x40000000 + kind + 0x100 * i
/-- The tier manager's holder of an index. -/
def ixHolder (i : Nat) : Nat := 0x20 + i

/-- Bytes of an index object at id_cap. -/
def PIndex.objBytes (x : PIndex) (kind : Nat) : Nat :=
  x.idCap * (if kind = 3 then x.codeBytes else if kind = 4 then 4 * x.deg else x.vecBytes)

/-- Kinds that a residency pins (*Residency*). -/
def pinned (res : Nat) : List Nat := if res = 0 then [3] else if res = 1 then [3, 4] else [3, 4, 5]

/-- Bytes of IPM and of the slow tier that an index reserves (R399). -/
def PIndex.ipmBytes (x : PIndex) : Nat := ((pinned x.residency).map fun k => units (x.objBytes k) * 65536).sum
def PIndex.slowBytes (x : PIndex) : Nat := ([3, 4, 5].map fun k => (x.objBytes k + 4095) / 4096 * 4096).sum

/-- What is short for an index: the state_code bit and the amount (R422). -/
def Dev.ixShort (d : Dev) (x : PIndex) : Option (Nat × Nat) :=
  let ipm := x.ipmBytes / 65536
  let others := d.place.ix.filter fun y => y.st != .empty
  let proj := (others.map fun y => y.proj.length).sum + x.proj.length
  let side := (others.map (·.sideCap)).sum + x.sideCap
  if d.ipmAvail < ipm then some (1, (ipm - d.ipmAvail) * 65536)
  else if d.slowOn && decide (d.homeFree 16 true < x.slowBytes) then some (2, x.slowBytes - d.homeFree 16 true)
  else if !d.slowOn && x.residency != 2 then some (2, x.slowBytes)
  else if 1572864 < proj then some (16, proj - 1572864)
  else if 16777216 < side then some (64, side - 16777216)
  else none

/-- The completion of a shortfall. -/
def shortCpl (s : Nat × Nat) : Cpl := { status := stResourceShort, stateCode := BitVec.ofNat 16 s.1, result0 := BitVec.ofNat 64 s.2 }

/-- Node IDs of all indices stay within *Index limits*. -/
def Dev.ixIdsFit (d : Dev) (x : PIndex) : Bool :=
  let others := d.place.ix.filter fun y => y.st != .empty
  decide ((others.map (·.idCap)).sum + x.idCap ≤ 1200000000) &&
    (x.residency == 0 || decide (((others.filter fun y => y.residency != 0).map (·.idCap)).sum + x.idCap ≤ 67108864))

/-- An index's objects leave the tiers. -/
def dropIndexObjs (i : Nat) (d : Dev) : Dev := dropObjs (fun o => ([3, 4, 5].map (ixObj i)).contains o.id) d

/-- The index's objects are made, those of its residency pinned in the IPM. -/
def makeObjects (i cls : Nat) (x : PIndex) (d : Dev) : Dev :=
  let d := makeRoom (x.ipmBytes / 65536) 0xFFFFFFFF (dropIndexObjs i d)
  let mk (k : Nat) : TierObj :=
    let o : TierObj := { id := ixObj i k, kind := k, size := x.objBytes k, slow := d.slowOn, mirrored := false }
    if (pinned x.residency).contains k then ({ o with st := .resident }).pin (ixHolder i) cls d.now else o
  addObjs ([3, 4, 5].map mk) d

/-- Objects of an index are written: in the IPM where their copies lie, and at home with a Write and a Flush (R248, R400). -/
def storeIndex (i : Nat) (kinds : List Nat) (d : Dev) : Dev :=
  kinds.foldl (fun d k => match d.obj (ixObj i k) with
    | none => d
    | some o =>
      let d := if o.inIpm then putUnits o.units ((d.ix i).stored k) d else d
      if o.slow && d.slowOn then nvmeSend (classQueue o.lastCls) [.write o.id false o.ext, .flush] d else d) d

/-- The index's objects, reservations and projection are given up (R416). -/
def freeIndex (i : Nat) (d : Dev) : Dev :=
  dropIndexObjs i (d.setAlloc (0x3000 + i) 0)

/-- The index becomes EMPTY. -/
def emptyIndex (i cause : Nat) (d : Dev) : Dev :=
  let d := ixState i .empty cause (freeIndex i d)
  d.setIx i fun _ => {}

/-! ### Requests and contexts (R394, R395, R413) -/

/-- Context pool bytes of a query. -/
def Dev.footprint (d : Dev) (j : PlaceJob) : Nat := (256 + (d.ix j.index).vecBytes + 16 * j.len + 255) / 256 * 256

def Dev.jobOf (d : Dev) (n : Nat) : Option PlaceJob := d.place.jobs.find? fun j => j.id == n
def Dev.setJob (d : Dev) (n : Nat) (f : PlaceJob → PlaceJob) : Dev :=
  d.setPlace fun p => { p with jobs := p.jobs.map fun j => if j.id = n then f j else j }

/-- Pool bytes in use, and by fleet-service queries. -/
def Dev.poolUsed (d : Dev) (low : Bool) : Nat :=
  (d.place.ctx.map fun c => match d.jobOf c.job with
    | some j => if low && !j.low then 0 else d.footprint j
    | none => 0).sum

/-- Contexts of a walker, and its fleet-service ones. -/
def Dev.ctxOf (d : Dev) (w : Nat) : List PlaceCtx := d.place.ctx.filter fun c => c.walker == w
def Dev.ctxLow (d : Dev) (w : Nat) : Nat :=
  ((d.ctxOf w).filter fun c => match d.jobOf c.job with
    | some j => j.low
    | none => false).length

/-- A query has a slot and pool space on a walker (R394). -/
def Dev.fits (d : Dev) (w : Nat) (j : PlaceJob) : Bool :=
  let f := d.footprint j
  decide ((d.ctxOf w).length < 512) && decide (d.poolUsed false + f ≤ 6291456) &&
    (!j.low || (decide (d.ctxLow w < 448) && decide (d.poolUsed true + f ≤ 5242880)))

/-- The lowest free context slot of a walker. -/
def Dev.freeCtx (d : Dev) (w : Nat) : Nat := ((List.range 512).find? fun i => (d.ctxOf w).all fun c => c.slot != i).getD 0

/-- A request joins the queries that wait for a context. -/
def addJob (j : PlaceJob) (d : Dev) : Dev :=
  d.setPlace fun p => { p with jobs := p.jobs ++ [{ j with id := p.nextJob, waiting := List.range j.vecs.length }], nextJob := p.nextJob + 1 }

/-- Waiting requests, perception before fleet service, each in order of fetch (R395). -/
def Dev.waitingJobs (d : Dev) : List PlaceJob :=
  let l := inOrder (d.place.jobs.filter fun j => !j.waiting.isEmpty) fun a b => decide (a.seq ≤ b.seq)
  (l.filter fun j => !j.low) ++ l.filter (·.low)

/-- The snapshot at an admission (R413). -/
def Dev.snapOf (d : Dev) (i : Nat) : Snap :=
  let x := d.ix i
  { version := x.cur.num, gEnd := x.cur.gEnd, wm := x.idEnd, te := x.te, at64 := d.tb64 }

/-- The snapshot at the admission of a request: a commit of the same instant belongs to the next one, unless the request was fetched after
it (R50, R413). -/
def Dev.snapFor (d : Dev) (j : PlaceJob) : Snap :=
  match (d.ix j.index).commits.find? fun c => c.1 == d.now && decide (j.seq < c.2.1) with
  | some c => { c.2.2 with at64 := d.tb64 }
  | none => d.snapOf j.index

/-- A commit of an index is about to be made: the snapshot before it is kept for this instant (R413). -/
def beforeCommit (i : Nat) (d : Dev) : Dev :=
  d.setIx i fun x => { x with commits := (x.commits.filter fun c => c.1 == d.now) ++ [(d.now, d.hif.fetches, d.snapOf i)] }

/-- A walker admits the next waiting query (R395, R413). -/
def placeAdmit (w : Nat) (d : Dev) : Dev :=
  if (d.wk w).st != .online then d else
  match d.waitingJobs with
  | [] => d
  | j :: _ =>
    if !d.fits w j then d else
    let q := j.waiting.headD 0
    let d := d.setJob j.id fun j => { j with snap := some (j.snap.getD (d.snapFor j)), waiting := j.waiting.drop 1 }
    d.setPlace fun p => { p with ctx := p.ctx ++ [{ walker := w, slot := d.freeCtx w, job := j.id, query := q }] }

/-- The completion of a request whose every query has ended (*Search opcodes*, PLACE_QUERY). -/
def PlaceJob.cpl (j : PlaceJob) : Cpl :=
  let l := inOrder j.done fun a b => decide (a.1 ≤ b.1)
  let flags := l.foldl (fun a x => a ||| x.2.1) 0
  let r0 := (j.snap.map (·.at64)).getD 0
  let r1 := (l.filter fun x => x.2.1 != 0).length
  { (if flags = 0 then Cpl.ok r0 r1 else Cpl.flagged flags r0 r1) with dest := some j.dest, payload := l.flatMap fun x => x.2.2 }

/-- Graph versions that no snapshot names are no longer kept (R411, R413). -/
def dropVersions (i : Nat) (d : Dev) : Dev :=
  let used := (d.place.jobs.filterMap fun j => if j.index = i then j.snap.map (·.version) else none)
    ++ ((d.ix i).commits.filter fun c => c.1 == d.now).map fun c => c.2.2.version
  d.setIx i fun x => { x with old := x.old.filter fun g => used.contains g.num }

/-- A request ends, with its results or failed. -/
def endJob (j : PlaceJob) (failed : Option Cpl) (d : Dev) : Dev :=
  let d := d.setPlace fun p => { p with jobs := p.jobs.filter (fun x => x.id != j.id), ctx := p.ctx.filter fun c => c.job != j.id }
  let d := dropVersions j.index d
  match j.owner with
  | .desc t => finish t (failed.getD j.cpl) d
  | _ => d.setPlace fun p => { p with ended := (j, failed.isNone) :: p.ended }

/-- A query reads a 64 KiB unit of an index object that is being rewritten from home: it waits (R417). -/
def Dev.readsRewrite (d : Dev) (j : PlaceJob) (s : Snap) (v : Bytes) : Bool :=
  let x := d.ix j.index
  let r := x.reads j s v
  let meets (k n : Nat) (l : List Nat) : Bool := match d.obj (ixObj j.index k) with
    | none => false
    | some o => o.rewrite.any fun u => match o.unitPos u with
      | none => false
      | some a => l.any fun t => decide (t * n < a + 65536) && decide (a < t * n + n)
  meets 3 x.codeBytes r.1 || meets 4 (4 * x.deg) r.2.1 || meets 5 x.vecBytes r.2.2

/-- A context's query ends (R403-R406, R414). -/
def placeDone (w slot : Nat) (d : Dev) : Dev :=
  match d.place.ctx.find? fun c => c.walker == w && c.slot == slot with
  | none => d
  | some c =>
    match d.jobOf c.job with
    | none => d
    | some j =>
      match j.snap with
      | none => d
      | some s =>
        let x := d.ix j.index
        if d.readsRewrite j s (j.vecs.getD c.query []) then d else
        let a := x.answer j s (j.vecs.getD c.query [])
        let j' := { j with done := j.done ++ [(c.query, a.flags, a.bytes j s c.query)] }
        let d := d.setPlace fun p => { p with
          ctx := p.ctx.filter (fun y => y != c)
          jobs := p.jobs.map (fun y => if y.id = j.id then j' else y)
          queries := p.queries + 1
          exhaustive := if j.exhaustive then p.exhaustive + 1 else p.exhaustive
          expansions := p.expansions + BitVec.ofNat 64 a.expansions
          dangling := satAdd p.dangling a.dangling }
        let d := d.setWk w fun k => { k with queries := k.queries + 1 }
        if j'.done.length = j'.vecs.length then endJob j' none d else d

/-- Every request of an index fails. -/
def failJobs (i : Nat) (k : Cpl) (d : Dev) : Dev :=
  (inOrder (d.place.jobs.filter fun j => j.index == i) fun a b => decide (a.seq ≤ b.seq)).foldl (fun d j => endJob j (some k) d) d

/-! ### Inserts and deletes (R400, R407, R408) -/

/-- EV_SIDE_HIGH each time the side list passes 75 % of its capacity. -/
def sideHigh (i : Nat) (d : Dev) : Dev :=
  let x := d.ix i
  let excess := decide (3 * x.sideCap < 4 * x.side)
  let d := d.setIx i fun x => { x with high := excess }
  if excess && !x.high then evFrom 10 0 0x0A04 0 (det [(16, [BitVec.ofNat 8 i]), (20, leBytes 4 x.side)]) d else d

/-- Vectors appended to the side list, written in the IPM and at home: the first ID, or the entries that are too many (R400, R407). -/
def appendVecs (i : Nat) (l : List Bytes) (d : Dev) : Dev × (Nat ⊕ Nat) :=
  let x := d.ix i
  let excess := max (x.side + l.length - x.sideCap) (x.idEnd + l.length - x.idCap)
  if 0 < excess then (d, .inr excess) else
  let d := (beforeCommit i d).setIx i fun x => { x with vecs := x.vecs ++ l, codes := x.codes ++ l.map x.codeOf }
  (sideHigh i (storeIndex i [3, 5] d), .inl x.idEnd)

/-- Consecutive pieces of n bytes. -/
def pieces (n count : Nat) (b : Bytes) : List Bytes := (List.range count).map fun i => padTo n ((b.drop (i * n)).take n)

/-- The completion an index gives that does not hold data (*Index states*). -/
def ixRefusal (st : IxSt) : Cpl := if st == .lost then .of stDataError else .conflict st.code

/-- PLACE_INSERT (R407, R422). -/
def opPlaceInsert : OpFn := fun c d =>
  let i := c.d.u8 24
  let n := c.d.f 28 4
  let x := d.ix i
  if i = 0 || 15 < i || n = 0 || 4096 < n then opDone d .bad
  else if x.st != .ready && x.st != .merging then opDone d (ixRefusal x.st)
  else match appendVecs i (pieces x.vecBytes n (c.input d 32 (n * x.vecBytes))) d with
  | (d, .inr k) => opDone d (shortCpl (64, k))
  | (d, .inl id) => opDone d (.ok id)

/-- PLACE_DELETE (R400, R408). Its tombstones are written with the codes (DESIGN CHOICE, notes/assumptions/95.md). -/
def opPlaceDelete : OpFn := fun c d =>
  let i := c.d.u8 24
  let n := c.d.f 28 4
  let x := d.ix i
  if i = 0 || 15 < i || n = 0 || 4096 < n then opDone d .bad
  else if x.st != .ready && x.st != .merging then opDone d (ixRefusal x.st)
  else
    let b := c.input d 32 (4 * n)
    let ids := (List.range n).map fun k => fld b (4 * k) 4
    let hits := ids.foldl (fun l k =>
      if decide (k < x.idEnd) && !l.contains k && x.tombs.all (fun t => t.1 != k) && !x.cur.holes.contains k then l ++ [k] else l) []
    let te := if hits.isEmpty then x.te else x.te + 1
    let d := if hits.isEmpty then d else
      storeIndex i [3] ((beforeCommit i d).setIx i fun x => { x with te := te, tombs := x.tombs ++ hits.map fun k => (k, te) })
    let skipped := n - hits.length
    if skipped = 0 then opDone d (.ok te hits.length)
    else opDone d { (Cpl.flagged 1 te hits.length) with stateCode := BitVec.ofNat 16 (min skipped 65535) }

/-! ### Merges (R409-R412) -/

/-- The pruning rule: candidates for node p with their code distances (R410). -/
def prune (x : PIndex) (deg p : Nat) (l : List Nat) : List Nat :=
  let cd (a b : Nat) : Nat := hamming (x.code a) (x.code b)
  let s := inOrder l.eraseDups fun a b => decide (cd p a < cd p b) || (cd p a == cd p b && decide (a ≤ b))
  s.foldl (fun k c => if k.length < deg && !(k.any fun n => decide (6 * cd n c ≤ 5 * cd p c)) then k ++ [c] else k) []

/-- One side entry joins the version being built, whose graph ends at it: edges beyond are dangling, and a list that is pruned keeps none of
those, as they have no code distance (R409, step 1; step 4 for an empty graph). -/
def mergeEntry (x : PIndex) (g : GraphV) (e : Nat) : GraphV :=
  if g.entry.isEmpty then { g with entry := [e] } else
  let w := walk x.code (x.code e) { g with gEnd := e } [] (2 * x.deg) 0
  let near := prune x x.deg e (w.order.filter (· != e))
  let lists := g.lists.set e near
  { g with lists := near.foldl (fun ls n =>
      let l := ls.getD n [] ++ [e]
      ls.set n (if x.deg < l.length then prune x x.deg n (l.filter fun t => decide (t ≤ e)) else l)) lists }

/-- A list's tombstoned nodes leave it together, and it is refilled by the pruning rule from its remaining nodes and from their own neighbours,
until it names no tombstoned node (R409, step 2). -/
def refill (x : PIndex) (dead : List Nat) (lists : List (List Nat)) (p : Nat) : Nat → List Nat → List Nat → List Nat
  | 0, gone, l => l.filter fun n => !gone.contains n
  | k + 1, gone, l =>
    let out := l.filter fun n => dead.contains n
    if out.isEmpty then l else
    let gone := out ++ gone
    let more := (out.flatMap fun t => lists.getD t []).filter fun n => n != p && !gone.contains n && decide (n < x.idEnd)
    refill x dead lists p k gone (prune x x.deg p ((l.filter fun n => !dead.contains n && decide (n < x.idEnd)) ++ more))

/-- The new graph version of a merge, with the entries merged and the tombstones dropped (R409). Unused slots are no edges; edges that dangle in
the version cut stay until step 3. -/
def mergeGraph (x : PIndex) (m : MergeRun) : GraphV × Nat × Nat :=
  let dead := (x.pending.filter fun t => decide (t.2 ≤ m.te)).map (·.1)
  let g := x.cur
  let lists := (List.range m.idEnd).map fun n => (g.lists.getD n []).filter fun t => t != 0xFFFFFFFF
  let entries := ((List.range m.idEnd).drop g.gEnd).filter fun e => !dead.contains e
  let g1 := entries.foldl (mergeEntry x) { g with num := g.num + 1, gEnd := m.idEnd, lists := lists }
  let l2 := g1.lists.mapIdx fun p l =>
    if dead.contains p then [] else if l.any fun n => dead.contains n then refill x dead g1.lists p dead.length [] l else l
  let l3 := l2.map fun l => l.filter fun t => decide (t < m.idEnd)
  let entry := g1.entry.filterMap fun e =>
    if dead.contains e then (g.lists.getD e []).find? fun n => decide (n < g.gEnd) && !dead.contains n else some e
  ({ g1 with lists := l3, entry := entry, holes := g.holes ++ dead.filter fun n => decide (n < m.idEnd) }, entries.length, dead.length)

/-- A merge begins from its cut, the next free ID and the tombstone epoch at its fetch (R409, R412): what it takes beside the lists in use,
or the shortfall as R254 reports it. -/
def mergeCut (i : Nat) (t : Option Tok) (cut : Nat × Nat) (d : Dev) : Dev × Option Cpl :=
  let x := d.ix i
  let need := units (x.objBytes 4)
  let blocks := (x.objBytes 4 + 4095) / 4096
  let free := d.homeFree 16 true / 4096
  if x.residency != 0 && decide (d.ipmAvail < need) then (d, some (shortCpl (1, (need - d.ipmAvail) * 65536)))
  else if x.residency == 0 && decide (free < blocks) then
    (d, some { status := stResourceShort, stateCode := 2, result1 := BitVec.ofNat 32 (blocks - free) })
  else
    let d := if x.residency = 0 then d else (makeRoom need 0xFFFFFFFF d).setAlloc (0x3000 + i) need
    (ixState i .merging 0 (d.setIx i fun x => { x with merge := some { tok := t, idEnd := max cut.1 x.cur.gEnd, te := cut.2 } }), none)

/-- INDEX_MERGE (*Index states*, R409, R412). -/
def opIndexMerge : OpFn := fun c d =>
  let i := c.d.u8 24
  let x := d.ix i
  if 15 < i then opDone d .bad else
  match x.st with
  | .ready =>
    match mergeCut i (some c.tok) (((d.pendOf c.tok).map (·.cut)).getD (x.idEnd, x.te)) d with
    | (d, some k) => opDone d k
    | (d, none) => (d, .later)
  | .merging => opDone d (.of stObjectBusy)
  | st => opDone d (ixRefusal st)

/-- A merge commits as one change, written in the IPM and at home (R248, R409, R411). -/
def mergeCommit (i : Nat) (d : Dev) : Dev :=
  let x := d.ix i
  match x.st, x.merge with
  | .merging, some m =>
    let (g, merged, dropped) := mergeGraph x m
    let d := storeIndex i [4] ((beforeCommit i d).setIx i fun x => { x with cur := g, old := x.cur :: x.old, merge := none })
    let d := dropVersions i (ixState i .ready 0 (d.setAlloc (0x3000 + i) 0))
    let d := sideHigh i (d.setPlace fun p => { p with merges := p.merges + 1 })
    let d := evFrom 10 0 0x0A03 0 (det [(16, [BitVec.ofNat 8 i]), (20, leBytes 4 merged), (24, leBytes 4 dropped)]) d
    match m.tok with
    | some t => finish t (.ok merged dropped) d
    | none => d
  | _, _ => d

/-- A merge is given up: the index is as before its cut (R415). -/
def mergeAbandon (i : Nat) (k : Cpl) (d : Dev) : Dev :=
  match (d.ix i).merge with
  | none => d
  | some m =>
    let d := (ixState i .ready 0 (d.setIx i fun x => { x with merge := none })).setAlloc (0x3000 + i) 0
    match m.tok with
    | some t => finish t k d
    | none => d

/-! ### Creating, loading, dropping (R398, R399, R415, R416, R423) -/

/-- Format fields within *Index limits*, as (offset, check) with the offsets given. -/
def ixChecks (oF oM oDim oD oC : Nat) (x : PIndex) : List (Nat × Bool) :=
  [(oF, decide (x.format ≤ 1)), (oM, if x.format = 0 then decide (x.metric ≤ 1) else x.metric == 2),
   (oDim, if x.format = 0 then decide (32 ≤ x.dim ∧ x.dim ≤ 1024) && x.dim % 32 == 0 else decide (64 ≤ x.dim ∧ x.dim ≤ 4096) && x.dim % 64 == 0),
   (oD, decide (8 ≤ x.deg ∧ x.deg ≤ 64)),
   (oC, decide (4 ≤ x.codeBytes ∧ x.codeBytes ≤ 64) && x.codeBytes % 4 == 0 && (x.format == 0 || decide (x.codeBytes ≤ x.vecBytes)))]

/-- Capacities within *Index limits*. -/
def capsOk (x : PIndex) : Bool := decide (1024 ≤ x.sideCap ∧ x.sideCap ≤ 16777216) && decide (1 ≤ x.idCap ∧ x.idCap ≤ 1200000000)

/-- INDEX_CREATE (R398, R399, R420-R422). -/
def opIndexCreate : OpFn := fun c d =>
  let i := c.d.u8 24
  let fl := c.d.u8 31
  let x : PIndex := { format := c.d.u8 25, metric := c.d.u8 26, deg := c.d.u8 27, dim := c.d.f 28 2, codeBytes := c.d.u8 30
                      fleet := fl % 2 == 1, residency := fl / 2, sideCap := c.d.f 40 4, idCap := c.d.f 44 4 }
  let x := { x with proj := if x.format = 0 then c.input d 32 (8 * x.codeBytes * x.dim) else [] }
  if i = 0 || 15 < i || 2 < x.residency || (ixChecks 25 26 28 27 30 x).any (fun p => !p.2) || !capsOk x || !d.ixIdsFit x
      || (x.format == 1 && c.d.f 32 8 != 0) then opDone d .bad
  else if (d.ix i).st != .empty then opDone d (.conflict (d.ix i).st.code)
  else match d.ixShort x with
  | some s => opDone d (shortCpl s)
  | none =>
    let d := makeObjects i (if x.fleet then 2 else 1) x d
    let slow := if d.slowOn then x.slowBytes else 0
    opDone (ixState i .ready 0 (d.setIx i fun _ => x)) (.ok x.ipmBytes slow)

/-- Sections of an index image: offsets of projection, codes, lists and vectors, and the end. -/
def imageSections (x : PIndex) (n : Nat) : List Nat :=
  let p := if x.format = 0 then 8 * x.codeBytes * x.dim else 0
  [256, 256 + p, 256 + p + n * x.codeBytes, 256 + p + n * x.codeBytes + n * 4 * x.deg,
   256 + p + n * x.codeBytes + n * 4 * x.deg + n * x.vecBytes]

/-- The index that an image's header describes. -/
def imageIndex (b : Bytes) : PIndex :=
  { format := fld b 6 1, metric := fld b 7 1, dim := fld b 8 2, deg := fld b 10 1, codeBytes := fld b 11 1, idCap := fld b 16 4
    sideCap := fld b 20 4, fleet := fld b 24 1 % 2 == 1, residency := fld b 24 1 / 2 % 4 }

/-- The first header field at fault (R423). -/
def imageHeadFault (d : Dev) (b : Bytes) : Option Nat :=
  let x := imageIndex b
  let n := fld b 12 4
  firstFault ([(0, fld b 0 4 == 0x58444950), (4, fld b 4 2 == 1)] ++ ixChecks 6 7 8 10 11 x ++
    [(12, decide (n ≤ x.idCap)), (16, decide (1 ≤ x.idCap ∧ x.idCap ≤ 1200000000) && d.ixIdsFit x),
     (20, decide (1024 ≤ x.sideCap ∧ x.sideCap ≤ 16777216)), (24, decide (fld b 24 1 < 8) && decide (x.residency ≤ 2)),
     (25, decide (1 ≤ fld b 25 1 ∧ fld b 25 1 ≤ 16)), (26, fld b 26 2 == 0)] ++
    (List.range 16).map (fun k => (28 + 4 * k, if k < fld b 25 1 then decide (fld b (28 + 4 * k) 4 < n) else fld b (28 + 4 * k) 4 == 0xFFFFFFFF)) ++
    zeroChecks b 108 148)

/-- The first field or section at fault: the header, the section lengths, the CRCs. A section is at fault that ends past the image or past its
total length, and the last one where the image or its total length goes on (R423). -/
def imageFault (d : Dev) (b : Bytes) (total : Nat) : Option Nat :=
  let s := imageSections (imageIndex b) (fld b 12 4)
  let sec (k : Nat) : Bytes := (b.drop (s.getD k 0)).take (s.getD (k + 1) 0 - s.getD k 0)
  let last := s.getD 4 0
  match imageHeadFault d b with
  | some o => some o
  | none =>
    firstFault (((List.range 4).map fun k => (s.getD k 0, decide (s.getD (k + 1) 0 ≤ min b.length total))) ++
      [(s.getD 3 0, last == b.length && last == total)] ++
      (List.range 4).map fun k => (s.getD k 0, crcOf 0 (sec k) == fld b (92 + 4 * k) 4))

/-- An index built from its image. -/
def imageBuild (b : Bytes) : PIndex :=
  let x := imageIndex b
  let n := fld b 12 4
  let s := imageSections x n
  let sec (k : Nat) : Bytes := (b.drop (s.getD k 0)).take (s.getD (k + 1) 0 - s.getD k 0)
  { x with
    proj := sec 0, codes := pieces x.codeBytes n (sec 1), vecs := pieces x.vecBytes n (sec 3)
    cur := { gEnd := n, lists := (pieces (4 * x.deg) n (sec 2)).map fun l => (List.range x.deg).map fun k => fld l (4 * k) 4
             entry := (List.range (fld b 25 1)).map fun k => fld b (28 + 4 * k) 4 } }

/-- A load reserves its index's space as soon as its header has come in whole and well; what is short, if anything (R399, R422). -/
def loadReserve (i : Nat) (d : Dev) : Except (Nat × Nat) Dev :=
  let x := d.ix i
  let y := imageIndex x.image
  let without := d.setIx i fun _ => {}
  if (d.obj (ixObj i 3)).isSome || x.image.length < 256 || (imageHeadFault without x.image).isSome then .ok d else
  let y := { y with proj := if y.format = 0 then List.replicate (8 * y.codeBytes * y.dim) 0 else [] }
  match without.ixShort y with
  | some s => .error s
  | none => .ok ((makeObjects i (if y.fleet then 2 else 1) y d).setIx i fun _ => { y with st := x.st, image := x.image, total := x.total })

/-- INDEX_LOAD (*Index states*, R399, R423): chunks follow in offset order. A first chunk opens a load, and discards one under way. -/
def opIndexLoad : OpFn := fun c d =>
  let i := c.d.u8 24
  let fl := c.d.u8 25
  let n := c.d.f 28 4
  let off := c.d.f 40 8
  let first := fl % 2 == 1
  let final := fl / 2 % 2 == 1
  let x := d.ix i
  if i = 0 || 15 < i || 3 < fl || n = 0 || 67108864 < n || (!first && c.d.f 48 8 != 0) || (first && off != 0) then opDone d .bad
  else if x.st != .loading && !(first && x.st == .empty) then opDone d (.conflict x.st.code)
  else
    let have0 := if first then [] else x.image
    let total := if first then c.d.f 48 8 else x.total
    if off != have0.length || (!final && decide (total < off + n)) then opDone d .bad else
    let img := have0 ++ c.input d 32 n
    let began := if first then ixState i .loading 0 ((freeIndex i d).setIx i fun _ => { st := x.st }) else d
    let began := began.setIx i fun y => { y with image := img, total := total }
    match (if final then imageFault (began.setIx i fun _ => {}) img total else none) with
    | some o => opDone (emptyIndex i 0 began) { Cpl.bad with result0 := BitVec.ofNat 64 o }
    | none =>
      match loadReserve i began with
      | .error s => opDone d (shortCpl s)
      | .ok d =>
        if !final then opDone d .ok else
        let y := imageBuild img
        let d := storeIndex i [3, 4, 5] (d.setIx i fun z => { y with st := z.st })
        opDone (ixState i .ready 0 d) (.ok y.idEnd)

/-- A waiting INDEX_DROP takes effect once every earlier query has completed, and a merge that began meanwhile (R415, R416). -/
def dropCheck (i : Nat) (d : Dev) : Dev :=
  match (d.ix i).drop with
  | none => d
  | some (seq, t) =>
    if (d.ix i).st == .merging || (d.place.jobs.any fun j => j.index == i && decide (j.seq < seq)) || d.startsYet .placeQuery i seq then d else
    finish t .ok (emptyIndex i 0 (failJobs i (.conflict 0x0801) d))

/-- INDEX_DROP (*Index states*, R416). -/
def opIndexDrop : OpFn := fun c d =>
  let i := c.d.u8 24
  if i = 0 || 15 < i then opDone d .bad else
  match (d.ix i).st with
  | .empty => opDone d .ok
  | .merging => opDone d (.conflict 0x0804)
  | .ready => if (d.ix i).drop.isSome then opDone d (.conflict 0x0803) else
      (dropCheck i (d.setIx i fun x => { x with drop := some (d.seqOf c.tok, c.tok) }), .later)
  | _ => opDone (emptyIndex i 0 d) .ok

/-- INDEX_QUERY. -/
def opIndexQuery : OpFn := fun c d =>
  let i := c.d.u8 24
  let x := d.ix i
  if 15 < i then opDone d .bad else
  opDone d (.ok (x.st.code % 256 + atBit 8 x.residency + atBit 32 x.idEnd) (x.side + atBit 32 x.pending.length))

/-- PLACE_QUERY (R403, R413, R420, R421). -/
def opPlaceQuery : OpFn := fun c d =>
  let i := c.d.u8 24
  let fl := c.d.u8 25
  let k := c.d.u8 26
  let rr := c.d.u8 27
  let len := c.d.f 28 2
  let mx := c.d.f 30 2
  let n := c.d.f 48 2
  let ex := fl / 2 % 2 == 1
  let x := d.ix i
  if 15 < i || 3 < fl || k = 0 || 64 < k || n = 0 || 256 < n
      || (!ex && (64 < rr || len < 16 || 256 < len || (mx != 0 && decide (mx < len)) || decide (len < rr))) then opDone d .bad
  else if x.st != .ready && x.st != .merging then opDone d (ixRefusal x.st)
  else
    (addJob { id := 0, owner := .desc c.tok, seq := d.seqOf c.tok, index := i, low := fl % 2 == 1 || x.fleet, exhaustive := ex, k := k
              rerank := rr, len := if ex then 16 else len, maxExp := mx, vecs := pieces x.vecBytes n (c.input d 32 (n * x.vecBytes)), dest := c.d.f 40 8 } d, .later)

/-- ABORT_SQ takes the queries and the merge of a descriptor. -/
def placeAborted (t : Tok) (d : Dev) : Dev :=
  let d := (d.place.jobs.filter fun j => j.owner == .desc t).foldl (fun d j =>
    dropVersions j.index (d.setPlace fun p => { p with jobs := p.jobs.filter (fun x => x.id != j.id), ctx := p.ctx.filter fun c => c.job != j.id })) d
  (List.range 16).foldl (fun d i =>
    let d := if (d.ix i).drop.map (·.2) == some t then d.setIx i fun x => { x with drop := none } else d
    match (d.ix i).merge with
    | some m => if m.tok = some t then (ixState i .ready 0 (d.setIx i fun x => { x with merge := none })).setAlloc (0x3000 + i) 0 else d
    | none => d) d

/-! ### Walkers (R419) -/

/-- A walker changes state, with EV_WALKER. -/
def wkState (w : Nat) (st : WkSt) (cause : Nat) (d : Dev) : Dev :=
  let old := (d.wk w).st
  if old == st then d else
  evFrom 10 0 0x0A01 (if old == .online then 1 else 0) (det [(16, [BitVec.ofNat 8 w, BitVec.ofNat 8 st.code, BitVec.ofNat 8 cause])])
    (d.setWk w fun k => { k with st := st })

/-- Walkers online. -/
def Dev.onlineWalkers (d : Dev) : List Nat := (List.range 8).filter fun w => (d.wk w).st == .online

/-- A query goes back to wait for a context, ahead of its request's later queries; its snapshot stays. -/
def requeueQuery (c : PlaceCtx) (d : Dev) : Dev :=
  (d.setJob c.job fun j => { j with waiting := inOrder (c.query :: j.waiting) fun a b => decide (a ≤ b) }).setPlace fun p =>
    { p with ctx := p.ctx.filter fun y => y != c }

/-- A walker's contexts go on elsewhere, from the step reached, or wait where no walker has a slot (R419). -/
def moveContexts (w : Nat) (d : Dev) : Dev :=
  (d.ctxOf w).foldl (fun d c =>
    let low := match d.jobOf c.job with
      | some j => j.low
      | none => false
    match d.onlineWalkers.find? fun v => decide ((d.ctxOf v).length < 512) && (!low || decide (d.ctxLow v < 448)) with
    | some v => d.setPlace fun p => { p with ctx := p.ctx.map fun y => if y = c then { y with walker := v, slot := d.freeCtx v } else y }
    | none => requeueQuery c d) d

/-- A walker is fenced: its queries start again from admission with their snapshots, and are counted (R419). -/
def walkerFence (w : Nat) (d : Dev) : Dev :=
  if (d.wk w).st == .gated || (d.wk w).st == .fenced then d else
  let l := d.ctxOf w
  let d := wkState w .fenced 1 d
  let d := l.foldl (fun d c => requeueQuery c d) d
  d.setPlace fun p => { p with restarted := satAdd p.restarted l.length }

/-- WALKER_SET (*Walker states*, R419). -/
def opWalkerSet : OpFn := fun c d =>
  let w := c.d.u8 24
  let back := c.d.u8 25
  if 7 < w || 1 < back then opDone d .bad else
  if !(d.pf 22 1).testBit w then opDone d (.conflict notEnabled) else
  match (d.wk w).st, back with
  | .gated, _ => opDone d (.conflict notEnabled)
  | .online, 0 => if d.onlineWalkers.length = 1 then opDone d (.of stObjectBusy)
      else opDone (moveContexts w (wkState w .off 0 d)) .ok
  | .online, _ => opDone d .ok
  | .off, 0 => opDone d .ok
  | .off, _ => opDone (wkState w .online 0 d) .ok
  | .fenced, 0 => opDone d .ok
  | .fenced, _ =>
    if d.flt.assays.any fun a => a.kind == 1 && a.unit == w then opDone d (.of stObjectBusy)
    else (beginAssay 1 w (.chapter c.tok) false d, .later)

/-! ### Lost data (R415, R417) -/

/-- An index's object is LOST; an INDEX_DROP that waits still takes effect (R415, R416). -/
def indexLost (i : Nat) (d : Dev) : Dev :=
  let x := d.ix i
  match x.st with
  | .empty => d
  | .lost => d
  | .loading => emptyIndex i 1 d
  | _ =>
    let d := match x.merge with
      | some m => match m.tok with
        | some t => finish t (.of stDataError) d
        | none => d
      | none => d
    failJobs i (.of stDataError) (ixState i .lost 1 ((d.setAlloc (0x3000 + i) 0).setIx i fun x => { x with merge := none }))

/-- An uncorrectable IPM read of an index object: its unit is rewritten from home, and the queries that read it wait; with no slow tier the
index is LOST (R417). -/
def indexRepair (obj off : Nat) (d : Dev) : Dev :=
  match d.obj obj with
  | none => d
  | some o =>
    if !o.slow || !d.slowOn then loseObject obj d else
    let u := off / 65536 * 65536
    d.setObj obj fun o => { o with rewrite := if o.rewrite.contains u then o.rewrite else o.rewrite ++ [u], bad := [], readAt := d.now }

/-- An index whose objects are gone, because the slow tier was formatted, is LOST. -/
def indexCheck (i : Nat) (d : Dev) : Dev :=
  let x := d.ix i
  if (x.st == .ready || x.st == .merging) && (d.obj (ixObj i 3)).isNone then indexLost i d else dropCheck i d

/-- A profile is applied: walkers as walker_en says, each change posted, and merges abandoned. A fence stays: only Assay ends it (R415, R419;
DESIGN CHOICE, notes/assumptions/95.md). -/
def placeApply (d : Dev) : Dev :=
  let d := (List.range 16).foldl (fun d i => mergeAbandon i (.conflict 0x0302) d) d
  (List.range 8).foldl (fun d w =>
    if (d.wk w).st == .fenced then d
    else if (d.pf 22 1).testBit w then (if (d.wk w).st == .gated then wkState w .online 0 d else d)
    else moveContexts w (wkState w .gated 0 d)) d

/-- The lists of WLK_ registers: WLK_STATE and WLK_CTX. -/
def wlkState (d : Dev) : Nat :=
  let m (st : WkSt) : Nat := ((List.range 8).map fun w => if (d.wk w).st == st then 2 ^ w else 0).sum
  m .online + atBit 8 (m .fenced) + atBit 16 (m .off)
def wlkCtx (d : Dev) : Nat := d.place.ctx.length + atBit 16 (d.poolUsed false / 256)

end Sys2Proof.Machine
end

