-- ==== Sys2Proof/Machine/Est.lean ====
section
/-! DEFINITION. The estimator: configuration, states, propagation and pose records, updates, keyframes, loop closure and
map epochs (spec/12). -/

namespace Sys2Proof.Machine

def Dev.setEst (d : Dev) (f : Est → Est) : Dev := { d with est := f d.est }

/-- A field of the configuration in force. -/
def Dev.ec (d : Dev) (lo n : Nat) : Nat := fld d.est.cfg lo n

/-- Code of a state (*Estimator states*). -/
def EstSt.code : EstSt → Nat
  | .off => 0 | .deadReckoning => 1 | .initialising => 2 | .tracking => 3 | .lost => 4 | .baseMetal => 5

/-! ### Configuration (R361-R363) -/

/-- A host sensor counts as the kind it stands for. -/
def Dev.isImu (d : Dev) (i : Nat) : Bool := decide (i < 32) && d.layout i == 2

/-- The defaults of *Estimator configuration* for the profile in force. -/
def Dev.estDefaults (d : Dev) : Bytes :=
  let imus := (List.range 32).filter fun i => d.isImu i && (d.sensor i).enabled
  let wheel := ((List.range 32).find? fun i => d.kind i != 0 && d.declares i 3).getD 0xFF
  let kw := match d.prof.activeId with
    | 0 => 16 | 1 => 32 | _ => 64
  padTo 256 (leBytes 2 d.trust.bankFmt ++ [BitVec.ofNat 8 (imus.getD 0 0xFF), BitVec.ofNat 8 (imus.getD 1 0xFF), BitVec.ofNat 8 wheel, 0xFF, 0xFF, 8,
    BitVec.ofNat 8 kw, 8] ++ leBytes 2 50 ++ leBytes 2 175 ++ leBytes 2 1000 ++ [60, 8] ++ leBytes 2 40 ++ leBytes 2 32 ++ leBytes 2 1000
    ++ List.replicate 24 0 ++ leBytes 2 0x0200 ++ leBytes 2 30 ++ [12, 16] ++ leBytes 2 200 ++ leBytes 2 64)

/-- The first field of a configuration that is at fault (R362). -/
def Dev.estFault (d : Dev) (b : Bytes) : Option Nat :=
  let f := fld b
  let within (o n lo hi : Nat) : Nat × Bool := (o, decide (lo ≤ f o n ∧ f o n ≤ hi))
  let sensor (o : Nat) (ok : Nat → Bool) : Nat × Bool := (o, f o 1 == 0xFF || (decide (f o 1 < 32) && ok (f o 1)))
  let signed (o n lim : Nat) : Nat × Bool := (o, decide ((sInt (8 * n) (f o n)).natAbs ≤ lim))
  firstFault ([(0, f 0 2 == d.trust.bankFmt), sensor 2 d.isImu, sensor 3 d.isImu, sensor 4 fun i => d.kind i != 0 && d.declares i 3,
    sensor 5 fun i => d.kind i == 4 || d.layout i == 4, (6, decide (f 6 1 ≤ 15) || f 6 1 == 0xFF), within 7 1 2 16, within 8 1 4 64, within 9 1 0 32,
    within 10 2 1 10000, within 12 2 1 3142, within 14 2 10 60000, within 16 1 10 90, within 17 1 0 31, within 18 2 10 1000,
    within 20 2 8 65535, within 22 2 100 10000, signed 24 8 (90 * 2 ^ 55), signed 32 8 (180 * 2 ^ 55),
    (44, (List.range 32).all fun i => !(f 44 4).testBit i || d.ownsRing i), within 50 2 1 65535, within 52 1 1 30, within 53 1 1 30,
    within 54 2 1 65535, within 56 2 16 256] ++ zeroChecks b 58 198)

/-- EST_CONFIG (R361-R363). -/
def opEstConfig : OpFn := fun c d =>
  let b := c.input d 32 256
  let save := c.d.u8 24
  if 1 < save then opDone d .bad else
  match d.estFault b with
  | some o => opDone d { Cpl.bad with result0 := BitVec.ofNat 64 o }
  | none =>
    match (if save = 1 then d.settingsLocked else none) with
    | some k => opDone d (.conflict k)
    | none =>
      opDone (d.setEst fun e => { e with
        pendingCfg := some b
        saved := if save = 1 then (d.prof.activeId, b) :: e.saved.filter (fun x => x.1 != d.prof.activeId) else e.saved }) .ok

/-! ### States (R364) -/

/-- The estimator changes state, with EV_EST_STATE. -/
def estState (s : EstSt) (d : Dev) : Dev :=
  let old := d.est.st
  if old == s then d else
  evFrom 6 0 0x0610 (if s == .lost || s == .baseMetal then 1 else 0) (det [(16, [BitVec.ofNat 8 s.code, BitVec.ofNat 8 old.code])])
    (d.setEst fun e => { e with st := s })

/-- Works of the estimator's problems leave the array. -/
def dropEstWork (p : Option Nat) (d : Dev) : Dev :=
  ((d.comp.works.filter fun w => match w.kind with
    | .est n => p.isNone || p == some n
    | _ => false).map (·.id)).foldl (fun d w => dropWork w d) d

/-- Vision work stops: no problem is under way, and the estimator's bindings end as MODEL_UNBIND ends one (R364). -/
def estQuiet (d : Dev) : Dev :=
  let d := dropEstWork none d
  let d := d.setEst fun e => { e with
    upd := none, gnssWait := [], ba := false, baAgain := false, pg := [], pgQueue := [], commit := none, nextCommit := [], ran := [], bands := [], spoilt := []
    sets := [], window := [], fresh := [], reloc := false, toBind := [], depths := [], drawn := [], baDrawn := [] }
  (d.neural.binds.filter (·.est)).foldl (fun d b =>
    bindEndCheck b.id (d.setBind b.id fun x => { x with ending := some none })) d

/-- To DEAD_RECKONING or OFF, as the configuration says (R364). -/
def estRest (d : Dev) : Dev :=
  let d := estQuiet d
  if d.ec 2 1 = 0xFF then estState .off d else estState .deadReckoning d

/-! ### Pose records (R367-R373, R386, R387) -/

/-- The IMU in use. -/
def Dev.imuInUse (d : Dev) : Nat := if d.est.secondary then d.ec 3 1 else d.ec 2 1

/-- Accepted samples of an IMU since its enable, latest first, as (instant, tov). -/
def Dev.imuLog (d : Dev) (i : Nat) : List (Nat × Nat) := (((d.est.imu.find? fun x => x.1 == i).map (·.2)).getD []).filter fun y => decide ((d.sensor i).enabledAt ≤ y.1)

/-- period_us of an IMU, or its measured period (R370). -/
def Dev.imuPeriodUs (d : Dev) (i : Nat) : Nat :=
  let p := d.se i 8 4
  if p != 0 then p else
  let l := d.imuLog i
  if l.length < 16 then 2500 else ((l.headD (0, 0)).2 - (l.getD 15 (0, 0)).2 + 7500) / 15000

/-- A sensor is masked at the last fusion tick (R304, R371). -/
def Dev.maskedAt (d : Dev) (i : Nat) : Bool := decide (i < 32) && d.fusion.lastTick.isSome && d.fusion.masked.getLsbD i

/-- A pose record (*Pose record*). -/
def poseRecord (x : Sample) (src : Nat) (d : Dev) : Bytes :=
  let e := d.est
  let n := if src = 0 then e.nav else e.sNav
  let flags := bit (src == 0 && e.newCorr) + 2 * bit (src == 0 && e.jump) + 4 * bit (d.maskedAt x.sensor) + 8 * bit e.secondary
    + 16 * bit e.gap + 32 * bit (d.fusion.lastTick.isSome && d.fusion.masked != 0) + 64 * bit (e.st != .tracking) + 128 * bit (d.time.st == .holdover)
    + 256 * bit (d.time.st == .freeRun) + 512 * bit d.inBase
  let age := match e.updTov with
    | some u => min 0xFFFFFFFF ((x.tov.toNat - u) / 1000)
    | none => 0xFFFFFFFF
  let b := padTo 124 (leBytes 8 x.tov.toNat ++ leBytes 4 e.poseSeq.toNat ++ leBytes 2 flags ++ [BitVec.ofNat 8 src, BitVec.ofNat 8 e.st.code]
    ++ padTo 82 n ++ [0, 0] ++ leBytes 8 e.epoch ++ leBytes 4 e.corrSeq.toNat ++ leBytes 4 ((d.time.tb - x.stamp) / 65536) ++ leBytes 4 age)
  b ++ leBytes 4 (crcOf 0 b)

/-! ### Starting (R364, R365, R393, R401) -/

/-- The local index of a new map (R401); the projection of an int8 index is not stated. -/
def localIndex (d : Dev) : Dev :=
  let s := d.ec 6 1
  if d.ec 9 1 = 0 || s = 0xFF then d else
  let p := d.pkg s
  let o := 512 + 32 * (fld p 27 1 + fld p 28 1 - 1)
  let fm := fld p (o + 1) 1
  let n := fld p (o + 24) 4
  let x : PIndex := { format := if fm = 1 then 0 else 1, metric := if fm = 1 then 0 else 2, deg := 32, codeBytes := 8, dim := if fm = 1 then n else 8 * n
                      residency := 2, sideCap := 65536, idCap := 1048576 }
  let x := { x with proj := if fm = 1 then d.freeBytes (64 * n) else [] }
  if (fm != 1 && fm != 2) || (ixChecks 0 0 0 0 0 x).any (fun q => !q.2) || (d.ixShort x).isSome then
    evFrom 10 0 0x0A02 0 (det [(16, [0, 1, 3])]) d
  else
    let d := { d with free := d.free + (if fm = 1 then 64 * n else 0) }
    ixState 0 .ready 0 ((makeObjects 0 1 x d).setIx 0 fun y => { x with st := y.st })

/-- A new map. -/
def newMap (d : Dev) : Dev :=
  if d.est.mapMade then d else localIndex (d.setEst fun e => { e with mapMade := true, kfs := [], nextKf := 0, epoch := 0, inserted := [], asked := [], kfDescrs := [], retained := none })

/-- Cameras whose bands the estimator binds. -/
def Dev.estCams (d : Dev) : List Nat := (List.range 32).filter fun i => (d.ec 44 4).testBit i

/-- The bindings that EST_START needs do not fit (R393). -/
def Dev.bindsShort (d : Dev) : Bool :=
  let s := d.ec 6 1
  s != 0xFF && (decide (16 < (d.neural.binds.filter fun b => !b.est).length + d.estCams.length) ||
    decide (d.areaFree (firstCluster (d.slot s).mask) * 65536 < d.estCams.length * 2 * d.bindStride s))

/-- The estimator binds cameras with the highest free bind_ids; one whose earlier binding is still ending follows once it has ended
(R285, R393). -/
def estBindCams (cams : List Nat) (d : Dev) : Dev :=
  let s := d.ec 6 1
  if s = 0xFF || (d.slot s).st != .loaded then d else
  let d := d.setEst fun e => { e with toBind := cams.filter fun i => d.neural.binds.any fun b => b.sensor == i && b.est }
  cams.foldl (fun d i =>
    if d.neural.binds.any fun b => b.sensor == i then d else
    match ((List.range 16).reverse).find? fun k => d.neural.binds.all fun b => b.id != k with
    | none => d
    | some k =>
      let b : Binding := { id := k, slot := s, sensor := i, outFlag := 0xF00 + 2 * k, outSlots := 2, outBase := 0, est := true, pos := (d.ring i).bandCount }
      { d with neural := { d.neural with binds := d.neural.binds ++ [b] } }) d

/-- The estimator binds its cameras (R393). -/
def estBind (d : Dev) : Dev := estBindCams d.estCams d

/-- A camera whose earlier binding has ended is bound (R393). -/
def estRebind (d : Dev) : Dev := if d.est.toBind.isEmpty then d else estBindCams d.est.toBind d

/-! ### The orientation at a start (R365) -/

/-- Sine and cosine of an angle with 128 fraction bits in rad, from their series. -/
def sinCos (x : Int) : Int × Int :=
  let one : Int := (2 ^ 128 : Nat)
  let r := (List.range 60).foldl (fun (s : (Int × Int) × Int) k =>
    let t := s.2
    let acc := match k % 4 with
      | 0 => (s.1.1, s.1.2 + t)
      | 1 => (s.1.1 + t, s.1.2)
      | 2 => (s.1.1, s.1.2 - t)
      | _ => (s.1.1 - t, s.1.2)
    (acc, roundShift (t * x) 128 / (k + 1 : Nat))) ((0, 0), one)
  r.1

/-- The square root of a rational number, to 128 fraction bits. -/
def rootOf (r : Rat) : Rat := mkRat (Nat.sqrt (r.num.toNat * 2 ^ 256 / r.den)) (2 ^ 128)

/-- A quaternion's component in Q1.30. -/
def quatPart (r : Rat) : Bytes := leBytes 4 (sNat 32 (roundDiv (r.num * (2 ^ 30 : Nat)) r.den))

/-- The orientation of a start before gravity is known: level, with a yaw in Q2.29 rad. -/
def levelWith (yaw : Int) : Bytes :=
  let h := sinCos (yaw * (2 ^ 98 : Nat))
  quatPart (mkRat h.2 (2 ^ 128)) ++ leBytes 8 0 ++ quatPart (mkRat h.1 (2 ^ 128))

/-- Sine and cosine of half an angle, from its own. -/
def halfAngle (sn cs : Rat) : Rat × Rat :=
  let h := rootOf ((1 - cs) / 2)
  (if sn < 0 then -h else h, rootOf ((1 + cs) / 2))

/-- An orientation with its yaw kept and with the roll and pitch at which the direction `g` of B points up (R365). -/
def levelled (q : Bytes) (g : Int × Int × Int) : Bytes :=
  let part (k : Nat) : Rat := (sInt 32 (fld q (4 * k) 4) : Int)
  let n := rootOf ((g.2.1 * g.2.1 + g.2.2 * g.2.2 : Int) : Rat)
  let m := rootOf ((g.1 * g.1 + g.2.1 * g.2.1 + g.2.2 * g.2.2 : Int) : Rat)
  let roll := if n = 0 then (0, 1) else halfAngle (g.2.1 / n) (g.2.2 / n)
  let pitch := if m = 0 then (0, 1) else halfAngle (-(g.1 : Rat) / m) (n / m)
  let l := rootOf (part 0 * part 0 + part 3 * part 3)
  let yaw : Rat × Rat := if l = 0 then (0, 1) else (part 3 / l, part 0 / l)
  let w := pitch.2 * roll.2
  let x := pitch.2 * roll.1
  let y := pitch.1 * roll.2
  let z := -(pitch.1 * roll.1)
  quatPart (yaw.2 * w - yaw.1 * z) ++ quatPart (yaw.2 * x - yaw.1 * y) ++ quatPart (yaw.2 * y + yaw.1 * x) ++ quatPart (yaw.2 * z + yaw.1 * w)

/-- A sample of the primary IMU in the first 200 ms of a start is kept; the first one after them ends the levelling: roll and pitch follow
gravity (R365). -/
def estLevel (x : Sample) (d : Dev) : Dev :=
  match d.est.level with
  | none => d
  | some (at_, l) =>
    if x.sensor != d.ec 2 1 then d
    else if d.now < at_ + 200 * msNs then d.setEst fun e => { e with level := some (at_, l ++ [x.record]) }
    else
      let g := Config.gravity l
      let turn (n : Bytes) : Bytes := putAt n 24 (levelled (sliceAt n 24 16) g)
      d.setEst fun e => { e with level := none, nav := turn e.nav, sNav := turn e.sNav }

/-- Pose records are sent now (R387). -/
def Dev.posing (d : Dev) : Bool := d.pf 36 2 != 0 && d.est.st != .off

/-- The estimator starts from a position and a yaw in M (R364, R365, R379). -/
def estBegin (x : EstStart) (d : Dev) : Dev :=
  let d := estQuiet (d.setEst fun e => { e with cfg := e.pendingCfg.getD e.cfg, pendingCfg := none })
  if d.ec 2 1 = 0xFF then estState .off d else
  let nav := padTo 106 (x.pos ++ levelWith x.yaw)
  estBind (newMap (estState .initialising (d.setEst fun e => { e with
    nav := nav, sNav := nav, reloc := x.reloc, raises := ({} : Est).raises, lastOk := d.now, updTov := none, level := some (d.now, []), imuBuf := [] })))

/-- EST_START (R364, R365, R393): its effects are staged until the record with which it completes (R69; DEDUCED,
notes/assumptions/50.md). -/
def opEstStart : OpFn := fun c d =>
  let fl := c.d.u8 24
  let yaw := sInt 32 (c.d.f 56 4)
  if 3 < fl || 1686629713 < yaw.natAbs then opDone d .bad else
  match d.est.st with
  | .off => opDone d (.conflict d.part.code)
  | .baseMetal => opDone d (.conflict 0x0004)
  | _ =>
    let d1 := estQuiet (d.setEst fun e => { e with cfg := e.pendingCfg.getD e.cfg, pendingCfg := none })
    let x : EstStart := { tok := c.tok, reloc := fl / 2 == 1, yaw := if fl % 2 = 1 then yaw else 0,
                          pos := if fl % 2 = 1 then c.d.bytes 32 24 else List.replicate 24 0 }
    if d1.ec 2 1 = 0xFF then opDone (estBegin x d) .ok
    else if d1.bindsShort then opDone d { status := stResourceShort, stateCode := 4 }
    else if d.posing then (d.setEst fun e => { e with startToks := e.startToks ++ [x] }, .later)
    else
      let d := estBegin x d
      opDone d.useFree (.ok d.freeVal)

/-- A record is written: on stream 0x0510 and for SAFE_SPI; the safety island is seeded from the control complex's
(R368, R372). EST_STARTs that wait for it take effect and complete. -/
def writePose (x : Sample) (src : Nat) (d : Dev) : Dev :=
  let starts := d.est.startToks
  let d := starts.foldl (fun d y => estBegin y d) (d.setEst fun e => { e with startToks := [] })
  let r := poseRecord x src d
  let d := streamRecord 0x0510 x.tov.toNat false r d
  let d := d.setEst fun e => { e with
    last := r, lastTov := some x.tov.toNat, poseSeq := e.poseSeq + 1, due := none, wroteAt := d.now, heldTov := none
    newCorr := e.newCorr && src != 0, jump := e.jump && src != 0, sNav := if src = 0 then e.nav else e.sNav }
  starts.foldl (fun d y => finish y.tok (.ok x.tov.toNat) d) d

/-- The records' source changes, with EV_POSE_SOURCE; before any record there is no source to change (R372). -/
def poseSource (s : Nat) (d : Dev) : Dev :=
  if d.est.source = s then d
  else if d.est.last.isEmpty then d.setEst fun e => { e with source := s, timely := 0 }
  else
  let d := if s = 1 then { d with spi := { d.spi with takeovers := satInc d.spi.takeovers } } else d
  evFrom 6 0 0x0613 s (det [(16, [BitVec.ofNat 8 s]), (20, leBytes 4 d.est.poseSeq.toNat)])
    (d.setEst fun e => { e with source := s, timely := 0 })

/-- A record is due for a sample of the IMU in use (R367). -/
def Dev.poseDue (d : Dev) (x : Sample) : Bool :=
  d.posing && match d.est.lastTov with
    | none => true
    | some l => decide (l < x.tov.toNat) &&
        decide (sNs ≤ (x.tov.toNat - l + d.imuPeriodUs x.sensor * 500) * d.pf 36 2)

/-- A record of a stream is held back: it takes its record_seq and is counted in the stream's dropped field (R53, R114). -/
def streamHeld (id : Nat) (d : Dev) : Dev :=
  match routeOf d.prof.active id with
  | none => d
  | some n =>
    let s := d.stream id
    if (d.cq n).st != .stream then d else d.setStream { s with seq := s.seq + 1, dropped := s.dropped + 1 }

/-- After a backward step a record whose tov would not exceed that of the last one sent is held back, on the stream and for
SAFE_SPI: one at once and then one per period of the grid (R114, R367; DESIGN CHOICE, notes/assumptions/50.md). -/
def poseHeld (x : Sample) (d : Dev) : Dev :=
  let back := d.posing && (match d.est.lastTov with
    | some l => decide (x.tov.toNat ≤ l)
    | none => false)
  let due := match d.est.heldTov with
    | none => true
    | some h => decide (x.tov.toNat ≤ h) || decide (sNs ≤ (x.tov.toNat - h + d.imuPeriodUs x.sensor * 500) * d.pf 36 2)
  if back && due then streamHeld 0x0510 (d.setEst fun e => { e with heldTov := some x.tov.toNat }) else d

/-- The factor on the propagation noise of an IMU (R371). -/
def Dev.noise (d : Dev) (i : Nat) : Nat := if d.maskedAt i then 4 else 1

/-- Measurement updates run. -/
def Dev.estLive (d : Dev) : Bool := d.est.st == .initialising || d.est.st == .tracking || d.est.st == .lost

/-- A sample of the IMU in use: both propagations, and the record that it calls for (R367, R372, R373). -/
def estPropagate (x : Sample) (d : Dev) : Dev :=
  let m := d.noise x.sensor
  let d := d.setEst fun e => { e with
    imuBuf := if d.estLive then e.imuBuf ++ [x] else []
    nav := padTo 106 (Config.propagate e.nav x.record m), sNav := padTo 106 (Config.propagate e.sNav x.record m)
    timely := if e.ccReady && e.st != .baseMetal then e.timely + 1 else 0 }
  if !d.poseDue x then poseHeld x d else
  let d := if d.est.source = 1 && 16 ≤ d.est.timely && (d.part == .ready || d.part == .running) then poseSource 0 d else d
  if d.est.source = 1 || d.part != .ready && d.part != .running then writePose x 1 (poseSource 1 d)
  else if d.est.ccReady then writePose x 0 d
  else d.setEst fun e => { e with due := some x }

/-- An accepted IMU sample (R367, R369, R370). -/
def estImu (x : Sample) (d : Dev) : Dev :=
  let i := x.sensor
  let was := (d.imuLog i).head?
  let d := d.setEst fun e => { e with imu := (i, ((d.now, x.tov.toNat) :: d.imuLog i).take 16) :: e.imu.filter fun y => y.1 != i }
  let per := d.imuPeriodUs i * 1000
  let near (k : Nat) : Bool := match was with
    | some w => decide (x.tov.toNat - w.2 ≤ k * per)
    | none => false
  let d :=
    if i = d.ec 2 1 && d.est.secondary then
      let n := if near 1 then d.est.okRun + 1 else 1
      if 16 ≤ n then d.setEst fun e => { e with secondary := false, okRun := 0, gap := false } else d.setEst fun e => { e with okRun := n }
    else d
  let d := estLevel x d
  if i != d.imuInUse || d.est.st == .off then d else
  estPropagate x (if near 2 then d.setEst fun e => { e with gap := false } else d)

/-- The control complex has no record ready 120 µs after the stamp: the safety island writes it, and the control complex
propagates again on a live core (R372, R465). -/
def poseTakeover (d : Dev) : Dev :=
  match d.est.due with
  | none => d
  | some x =>
    if d.time.tb < x.stamp + 120 * usNs * 65536 then d else
    (writePose x 1 (poseSource 1 d)).setEst fun e => { e with ccReady := decide (0 < d.liveCores) }

/-- ns since the last accepted sample of an IMU, from its enable on. -/
def Dev.imuQuiet (d : Dev) (i : Nat) : Nat :=
  d.now - (((d.imuLog i).head?.map (·.1)).getD (d.sensor i).enabledAt)

/-- The last rate and acceleration of an IMU are propagated (R369). -/
def estExtrapolate (i : Nat) (d : Dev) : Dev :=
  match (d.sensor i).slot with
  | none => d
  | some x => d.setEst fun e => { e with
      nav := padTo 106 (Config.propagate e.nav x.record (d.noise i)), sNav := padTo 106 (Config.propagate e.sNav x.record (d.noise i)) }

/-- Two periods without a sample of the primary set IMU_GAP, and its last rate and acceleration are propagated (R369). -/
def imuGap (d : Dev) : Dev :=
  let p := d.ec 2 1
  if d.est.st == .off || d.est.secondary || d.imuQuiet p < 2 * d.imuPeriodUs p * 1000 then d else
  (estExtrapolate p d).setEst fun e => { e with gap := true }

/-- Four periods without a sample switch to the secondary, where it has a recent one (R369). -/
def imuSwitch (d : Dev) : Dev :=
  let p := d.ec 2 1
  let s := d.ec 3 1
  if d.est.st == .off || d.est.secondary || s = 0xFF || d.imuQuiet p < 4 * d.imuPeriodUs p * 1000
      || (d.imuLog s).isEmpty || 2 * d.imuPeriodUs s * 1000 < d.imuQuiet s then d
  else d.setEst fun e => { e with secondary := true, gap := false, okRun := 0 }

/-! ### The measurement queue (R374-R376) -/

/-- tov of the oldest frame set, and of the oldest keyframe of the window. -/
def Dev.oldestKf (d : Dev) : Option Nat := d.est.window.head?.bind fun k => (d.est.fresh.find? fun x => x.1 == k).map (·.2.1)

/-- A sample may still be used (R376). -/
def Dev.usable (d : Dev) (x : Sample) : Bool :=
  match d.est.sets.head?, d.oldestKf with
  | some f, some k => decide (min f k ≤ x.tov.toNat)
  | some f, none => decide (f ≤ x.tov.toNat)
  | none, _ => true

/-- A GNSS sample passes the gate of *Frame update inputs*. -/
def Dev.gnssGate (d : Dev) (x : Sample) : Bool :=
  x.sensor == d.ec 5 1 && decide (1 ≤ fld x.payload 20 1 ∧ fld x.payload 20 1 ≤ 5) && decide (fld x.payload 22 2 ≤ d.ec 48 2) && !d.maskedAt x.sensor

/-! The exact transform of R366 is carried out with 128 fraction bits for angles, sines, cosines and roots (DESIGN CHOICE,
notes/assumptions/94.md). -/

/-- WGS 84: the semi-major axis in metres, and the first eccentricity squared of the flattening 1/298.257223563. -/
def wgsA : Rat := 6378137
def wgsE2 : Rat := (1000000000 / 298257223563) * (2 - 1000000000 / 298257223563)

/-- π with 128 fraction bits. -/
def piBits : Nat := 1069028584064966747859680373161870783300

/-- Sine and cosine of an angle in Q8.55 degrees. -/
def sinCosDeg (q : Int) : Rat × Rat :=
  let r := sinCos (q * piBits / (180 * 2 ^ 55 : Nat))
  (mkRat r.1 (2 ^ 128), mkRat r.2 (2 ^ 128))

/-- Earth-centred coordinates in metres of a latitude and longitude in Q8.55 degrees and a height in Q15.16 m. -/
def geocentric (lat lon h : Int) : Rat × Rat × Rat :=
  let s := sinCosDeg lat
  let l := sinCosDeg lon
  let n := wgsA / rootOf (1 - wgsE2 * s.1 * s.1)
  let r : Rat := (h : Rat) / 65536
  ((n + r) * s.2 * l.2, (n + r) * s.2 * l.1, (n * (1 - wgsE2) + r) * s.1)

/-- East, north and up in metres of a place as seen from an origin (R366). -/
def eastNorthUp (lat0 lon0 h0 lat lon h : Int) : Rat × Rat × Rat :=
  let o := geocentric lat0 lon0 h0
  let p := geocentric lat lon h
  let x := p.1 - o.1
  let y := p.2.1 - o.2.1
  let z := p.2.2 - o.2.2
  let (sp, cp) := sinCosDeg lat0
  let (sl, cl) := sinCosDeg lon0
  (cl * y - sl * x, cp * z - sp * (cl * x + sl * y), cp * (cl * x + sl * y) + sp * z)

/-- The position factor of a GNSS sample: its place in M, the frame at the configuration's origin (R366, R374). -/
def Dev.gnssFactor (d : Dev) (x : Sample) : Nat × Rat × Rat × Rat :=
  (x.tov.toNat, eastNorthUp (sInt 64 (d.ec 24 8)) (sInt 64 (d.ec 32 8)) (sInt 32 (d.ec 40 4))
    (sInt 64 (fld x.payload 0 8)) (sInt 64 (fld x.payload 8 8)) (sInt 32 (fld x.payload 16 4)))

/-- A piece of the estimator's work starts, led by the sequencer of its cluster (R322). -/
def estWork (p c cls : Nat) (plan : List PlanTask) (d : Dev) : Dev :=
  addWork (.est p) c cls (fun _ => none) plan (d.setEst fun e => { e with ran := e.ran.filter (· != p), leads := e.leads.set p c })

/-- The samples that an update draws on: those of the window, less those of masked sensors (R306, R374, R376). -/
def Dev.draws (d : Dev) (t : Nat) : List Sample := d.est.queue.filter fun x => decide (t ≤ x.tov.toNat) && !d.maskedAt x.sensor

/-- The next GNSS sample that waits makes its update in the pose-critical class, once a cluster has room for it (R223, R375). -/
def gnssStart (d : Dev) : Dev :=
  if !d.estLive || d.est.upd.isSome then d else
  let n := d.freeVal % 550000 + 1
  match d.est.gnssWait, d.poseCluster n (clustersOf d.clusterEn) with
  | t :: r, some c =>
    estWork 0 c 0 [{ cycles := n }] (d.useFree.setEst fun e => { e with upd := some (true, t), gnssWait := r, drawn := d.draws t })
  | _, _ => d

/-- A sample joins the measurement queue or comes too late for it (R376); one of a masked sensor does not join it (R306). It may make a
GNSS update (R375). -/
def estQueue (x : Sample) (d : Dev) : Dev :=
  if d.est.st == .off || d.maskedAt x.sensor then d
  else if !d.usable x then d.setEst fun e => { e with lateDrop := satInc e.lateDrop }
  else
    let d := d.setEst fun e => { e with
      queue := inOrder (e.queue ++ [x]) fun a b => decide (a.tov.toNat ≤ b.tov.toNat), unused := e.unused ++ [x]
      factors := if d.gnssGate x then e.factors ++ [d.gnssFactor x] else e.factors }
    if d.estLive && d.ec 6 1 == 0xFF && d.gnssGate x then d.setEst fun e => { e with gnssWait := e.gnssWait ++ [x.tov.toNat] } else d

/-- Samples that the sensors have passed on reach the estimator: the wheel's moves the control complex's state in DEAD_RECKONING and
the safety island's always (R157, R364, R367, R372). -/
def estIntake (d : Dev) : Dev :=
  let l := d.sens.meas
  gnssStart <| l.foldl (fun d x =>
    let ok := (d.sensor x.sensor).slot == some x
    let d := if ok && d.isImu x.sensor then estImu x d else d
    let d := if ok && x.sensor == d.ec 4 1 && d.est.st != .off then
        d.setEst fun e => { e with
          nav := if e.st == .deadReckoning && !d.maskedAt x.sensor then padTo 106 (Config.propagate e.nav x.record 1) else e.nav
          sNav := padTo 106 (Config.propagate e.sNav x.record 1) }
      else d
    estQueue x d) { d with sens := { d.sens with meas := [] } }

/-- EST_STOP (*Estimator states*). -/
def opEstStop : OpFn := fun _ d =>
  match d.est.st with
  | .off | .deadReckoning => opDone d .ok
  | .baseMetal => opDone d (.conflict 0x0004)
  | _ => opDone (estState .deadReckoning (estQuiet d)) .ok

/-- EST_STATUS. -/
def opEstStatus : OpFn := fun _ d =>
  let e := d.est
  opDone d (.ok e.epoch (e.st.code + atBit 3 e.source + atBit 8 e.window.length + atBit 16 e.failed.toNat))

/-- A keyframe record (*Keyframe record*). -/
def Keyframe.record (k : Keyframe) : Bytes := leBytes 8 k.id ++ leBytes 8 k.tov ++ padTo 40 k.pose ++ leBytes 8 k.epoch

/-- KEYFRAME_READ. -/
def opKeyframeRead : OpFn := fun c d =>
  let n := c.d.f 24 4
  if n = 0 || 4096 < n then opDone d .bad else
  let l := (inOrder (d.est.kfs.filter fun k => decide (c.d.f 40 8 ≤ k.id)) fun a b => decide (a.id ≤ b.id)).take n
  opDone d (c.output 32 (l.flatMap Keyframe.record) (.ok d.est.epoch l.length))

/-! ### Solve outcomes (R379, R380) -/

/-- EV_EST_SOLVE, at most once a second for each problem. -/
def estSolveEvent (p : Nat) (o : EstOutcome) (d : Dev) : Dev :=
  if o.status ≤ 1 then d else
  let due := match d.est.solveEvAt.getD p none with
    | none => true
    | some a => decide (a + sNs ≤ d.now)
  if !due then d else
  evFrom 6 0 0x0612 1 (det [(16, [BitVec.ofNat 8 p, BitVec.ofNat 8 o.status])])
    (d.setEst fun e => { e with solveEvAt := e.solveEvAt.set p (some d.now) })

/-- h + 2 s of the estimator's kinds (*Estimator kinds*). -/
def estHat (k : Nat) : Nat := [26, 24, 24, 28, 26, 24].getD k 26

/-- h is raised for the kinds with RANGE, while the formats can be built (R379). -/
def estRaise (p : Nat) (o : EstOutcome) (d : Dev) : Dev :=
  if !(o.flags.testBit 1 || o.status = 0x31) then d else
  let kinds := if p = 0 then 4 else if p = 1 then 6 else 2
  (List.range kinds).foldl (fun d k =>
    let r := (d.est.raises.getD p []).getD k 0
    if o.ranged.testBit k && estHat k + r < 31 then
      d.setEst fun e => { e with raises := upd e.raises p fun l => l.set k (r + 1), raised := satInc e.raised }
    else d) d

/-- The sequencer that led a problem counts its iterations, restarts and lifted variables (R322, R360). -/
def estCount (p : Nat) (o : EstOutcome) (d : Dev) : Dev :=
  d.setClus (d.est.leads.getD p 0) fun q => { q with
    seqIterations := q.seqIterations + BitVec.ofNat 32 o.iterations, seqRestarts := satAdd q.seqRestarts o.restarts, seqLifts := satAdd q.seqLifts o.lifts }

/-- The outcome's counts, event and raises. -/
def estOutcome (p : Nat) (o : EstOutcome) (d : Dev) : Dev := estRaise p o (estSolveEvent p o (estCount p o d))

/-- A correction is applied to the state: the state at `tov`, propagated through the samples of the IMU in use since (R375). -/
def estCorrect (o : EstOutcome) (tov : Nat) (jump : Bool) (d : Dev) : Dev :=
  let after := d.est.imuBuf.filter fun x => decide (tov < x.tov.toNat)
  d.setEst fun e => { e with
    nav := after.foldl (fun n x => padTo 106 (Config.propagate n x.record (d.noise x.sensor))) (padTo 106 o.nav)
    imuBuf := after, newCorr := true, jump := e.jump || jump, corrSeq := e.corrSeq + 1 }

/-- A window BA or a pose-graph solve is not committed. -/
def estNotCommitted (d : Dev) : Dev := d.setEst fun e => { e with baFail := satInc e.baFail }

/-- A piece of the estimator's work starts as one task of the perception class in the first enabled cluster. -/
def estTask (p : Nat) (d : Dev) : Dev :=
  estWork p (firstCluster d.clusterEn) 1 [{ cycles := d.freeVal % 550000 + 1 }] d.useFree

/-! ### Updates and keyframes (R374, R375, R377, R378) -/

/-- A camera has a frame under way, in its pipe or in the feature network, whose tov may lie at `t` or before. -/
def Dev.frameDue (d : Dev) (i t : Nat) : Bool :=
  let r := d.ring i
  let fs := r.waitL.toList ++ r.paired ++ r.cur ++ r.closing
  let done (j : BandJob) : Bool := fs.all fun f => f.seq.toNat % 2 != j.tag % 2
  let recordAt (j : BandJob) : Nat :=
    exchBase + d.se i 88 4 + max (d.se i 75 1) 1 * slotStride (d.isPair i) (d.vW i) (d.se i 76 2) + j.tag % 2 * 64
  (fs.any fun f => decide ((if f.left.ended then f.left.tov else d.tovOf i f.first) ≤ t)) ||
    (d.neural.binds.any fun b => b.est && b.sensor == i && b.jobs.any fun j => done j && decide (fld (d.dget (recordAt j) 8) 0 8 ≤ t))

/-- The oldest frame set whose bands have all committed: the frames of the cameras within 1 ms of the earliest of them, with the frames
left. A camera that has no such frame takes no part in it (R374). -/
def Dev.frameSet (d : Dev) : Option (Nat × List (Nat × Nat)) :=
  let cams := (d.neural.binds.filter (·.est)).map (·.sensor)
  if d.est.bands.isEmpty then none else
  let t := (d.est.bands.map (·.2)).foldl min ((d.est.bands.headD (0, 0)).2)
  if cams.any fun i => !(d.est.bands.any fun b => b.1 == i && decide (b.2 ≤ t + msNs)) && d.frameDue i (t + msNs) then none else
  some (t, d.est.bands.filter fun b => decide (t + msNs < b.2))

/-- An update of an estimator's state is discarded and counts as failed. -/
def estUpdateFails (d : Dev) : Dev := d.setEst fun e => { e with updFail := satInc e.updFail, failed := satInc e.failed }

/-- A frame of the set at `t` has a failed band: its update ends as with ST_DATA_ERROR (R286, R380). -/
def Dev.spoiltSet (d : Dev) (t : Nat) : Bool := d.est.spoilt.any fun b => decide (b.2 ≤ t + msNs)

def spoiltUpdate (rest : List (Nat × Nat)) (d : Dev) : Dev :=
  estUpdateFails (estOutcome 0 { status := 0x41 } (d.setEst fun e => { e with bands := rest, spoilt := e.spoilt.filter rest.contains }))

/-- A frame update draws on the samples of its window. A sample that the window leaves behind with no use made of it is dropped and counted
(R376). -/
def windowDraws (d : Dev) : Dev :=
  let l := d.draws (d.est.sets.headD 0)
  let left := d.est.unused.filter fun x => !l.contains x
  d.setEst fun e => { e with
    drawn := l, unused := left.filter d.usable, lateDrop := satAdd e.lateDrop (left.filter fun x => !d.usable x).length
    queue := e.queue.filter d.usable, factors := e.factors.filter fun f => e.queue.any fun x => x.tov.toNat == f.1 && d.usable x
    depths := e.depths.filter fun z => z.2.1 == 0 || decide (e.sets.headD 0 ≤ z.2.1) }

/-- A frame update is posed for a frame set, once a cluster has room for it under its CEILING (R223, R374, R376). -/
def frameUpdateStart (plan : List PlanTask) (d : Dev) : Dev :=
  if !d.estLive || d.est.upd.isSome then d else
  match d.frameSet, d.poseCluster ((plan.map (·.cycles)).sum) (clustersOf d.clusterEn) with
  | none, _ | _, none => d
  | some (t, rest), some c =>
    if d.spoiltSet t then spoiltUpdate rest d else
    let d := windowDraws (d.setEst fun e => { e with
      bands := rest, upd := some (false, t), ran := e.ran.filter (· != 0)
      sets := (e.sets ++ [t]).drop ((e.sets.length + 1) - d.ec 7 1)
      descr := ((e.descrs.filter fun x => decide (t ≤ x.1 ∧ x.1 ≤ t + msNs)).getLast?.map (·.2)).getD e.descr
      descrs := e.descrs.filter fun x => decide (t + msNs < x.1) })
    if plan.isEmpty then d.setEst fun e => { e with ran := 0 :: e.ran, leads := e.leads.set 0 c } else
    estWork 0 c 0 plan d

/-- The window BA starts over the newest keyframes, from the solution retained by the last one, with the samples that came too late for
frame updates and lie in its window (R348, R376, R378). -/
def startBa (d : Dev) : Dev :=
  let from_ := d.oldestKf.getD 0
  let take (x : Sample) : Bool := (match d.est.sets.head? with
    | some f => decide (x.tov.toNat < f)
    | none => true) && decide (from_ ≤ x.tov.toNat) && !d.maskedAt x.sensor
  estTask 1 (d.setEst fun e => { e with
    ba := true, baAgain := false, baFrom := e.commits.getD 1 0, baWindow := e.window, warm := e.retained
    baDrawn := e.unused.filter take, unused := e.unused.filter fun x => !take x })

/-- The newest frame set becomes a keyframe (R377): since the last keyframe it has moved, turned, taken too long or lost
features. -/
def Dev.kfDue (d : Dev) (o : EstOutcome) (tov : Nat) : Bool :=
  match d.est.window.getLast?.bind fun k => d.est.fresh.find? fun x => x.1 == k with
  | none => true
  | some (_, t, pose) =>
    let p (b : Bytes) (k : Nat) : Int := sInt 64 (fld b (8 * k) 8)
    let sq := ((List.range 3).map fun k => (p (padTo 106 o.nav) k - p pose k) * (p (padTo 106 o.nav) k - p pose k)).sum
    decide (((d.ec 10 2 * d.ec 10 2 : Nat) : Int) * (2 ^ 64 : Nat) < 10000 * sq) || decide (d.ec 12 2 < o.turned)
      || decide (d.ec 14 2 * msNs < tov - t) || decide (o.tracked < d.ec 16 1)

/-- With no GNSS sensor, M has its origin at the body position of the first keyframe of a map: both states are expressed in it from
there on (R366). -/
def mapOrigin (d : Dev) : Dev :=
  if d.ec 5 1 != 0xFF || d.est.nextKf != 0 then d else
  let at_ (k : Nat) : Int := sInt 64 (fld d.est.nav (8 * k) 8)
  let shift (n : Bytes) : Bytes :=
    putAt n 0 ((List.range 3).flatMap fun k => leBytes 8 (sNat 64 (sInt 64 (fld n (8 * k) 8) - at_ k)))
  d.setEst fun e => { e with nav := shift e.nav, sNav := shift e.sNav }

/-- A keyframe is taken: it enters the window, starts a window BA, and poses its loop query (R377, R378, R381). -/
def takeKeyframe (tov : Nat) (d : Dev) : Dev :=
  let d := mapOrigin d
  let id := d.est.nextKf
  let pose := d.est.nav.take 40
  let w := d.est.window ++ [id]
  let d := d.setEst fun e => { e with
    nextKf := id + 1, keyframes := e.keyframes + 1, window := w.drop (w.length - d.ec 8 1), fresh := e.fresh ++ [(id, tov, pose)] }
  let d := if d.est.ba then d.setEst fun e => { e with baAgain := true } else startBa d
  let d := d.setEst fun e => { e with kfDescrs := e.kfDescrs ++ [(id, e.descr)] }
  let x := d.ix 0
  if d.ec 9 1 = 0 || (x.st != .ready && x.st != .merging) then d.setEst fun e => { e with reloc := false } else
  let v := padTo x.vecBytes d.est.descr
  let d := d.setEst fun e => { e with asked := e.asked ++ [(id, v)] }
  addJob { id := 0, owner := .loop id, seq := d.hif.fetches, index := 0, k := d.ec 9 1, len := d.ec 56 2, vecs := [v] } d

/-- A measurement update succeeds (*Estimator states*). -/
def estSuccess (tov : Nat) (d : Dev) : Dev :=
  let d := d.setEst fun e => { e with updTov := some tov, lastOk := d.now, failed := 0, updates := e.updates + 1 }
  if d.est.st == .initialising || d.est.st == .lost then estState .tracking d else d

/-- A frame or GNSS update ends (*Solve outcomes in the estimator*, R377, R380). -/
def frameUpdateDone (o : EstOutcome) (d : Dev) : Dev :=
  match d.est.upd with
  | none => d
  | some (gnss, tov) =>
    if !d.est.ran.contains 0 then d else
    let d := d.setEst fun e => { e with upd := none, ran := e.ran.filter (· != 0), drawn := [] }
    let d := estOutcome 0 o d
    let ok := o.status ≤ 1 || (o.status = 0x32 && o.ratio ≤ 2 ^ 25)
    let d :=
      if ok then
        let d := estSuccess tov (estCorrect o tov false d)
        if !gnss && d.kfDue o tov then takeKeyframe tov d else d
      else estUpdateFails d
    gnssStart d

/-- No success for lost_ms (*Estimator states*). -/
def estLost (d : Dev) : Dev :=
  if d.est.st == .tracking && decide (d.est.lastOk + d.ec 22 2 * msNs ≤ d.now) then estState .lost d else d

/-! ### Window BA, loop closure and epochs (R378, R380-R385) -/

/-- An epoch follows the one under way, if any (R383). -/
def toCommit (p : EpochPend) (d : Dev) : Dev :=
  d.setEst fun e => if e.commit.isSome then { e with nextCommit := e.nextCommit ++ [p] } else { e with commit := some p }

/-- An epoch of a cause waits for its tiles. -/
def Dev.epochWaits (d : Dev) (cause : Nat) : Bool := (d.est.commit.toList ++ d.est.nextCommit).any fun c => c.cause == cause

/-- A window BA ends: its poses of the keyframes it began with enter the next epoch. Where a pose graph finished before it, it is solved
again from the committed poses. A solution written is the one from which the next BA starts (R378, R380, R382). -/
def windowBaDone (o : EstOutcome) (d : Dev) : Dev :=
  if !d.est.ba || !d.est.ran.contains 1 then d else
  let d := estOutcome 1 o (d.setEst fun e => { e with
    ba := false, ran := e.ran.filter (· != 1), baDrawn := []
    retained := if o.status ≤ 1 || o.status = 0x32 then some (o.poses.filter fun x => e.baWindow.contains x.1) else e.retained })
  if o.status ≤ 1 then
    if d.epochWaits 1 then d.setEst fun e => { e with baAgain := true }
    else if d.est.commits.getD 1 0 != d.est.baFrom then startBa d
    else
      let d := toCommit { cause := 0, poses := o.poses.filter fun x => d.est.baWindow.contains x.1 } d
      if d.est.baAgain then startBa d else d
  else
    let d := estNotCommitted d
    if d.est.baAgain then startBa d else d

/-- The pose graph is posed over the constraints that wait: its span goes from the oldest candidate, which is anchored, to the newest query
(R382). -/
def startPg (d : Dev) : Dev :=
  if !d.est.pg.isEmpty || d.est.pgQueue.isEmpty then d else
  let l := d.est.pgQueue
  let lo := (l.map (·.1)).foldl min ((l.headD (0, 0, 0)).1)
  estTask 2 (d.setEst fun e => { e with
    pg := l, pgQueue := [], pgFrom := e.commits.getD 0 0, pgSpan := (lo, (l.map (·.2.1)).foldl max lo) })

/-- A pose-graph solve ends: the poses of its span enter the next epoch, less its anchored keyframe's. Where a window BA finished before
it, it is solved again from the committed poses (R380, R382). -/
def poseGraphDone (o : EstOutcome) (d : Dev) : Dev :=
  if d.est.pg.isEmpty || !d.est.ran.contains 2 then d else
  let cs := d.est.pg
  let span := d.est.pgSpan
  let again (d : Dev) : Dev := d.setEst fun e => { e with pgQueue := cs ++ e.pgQueue }
  let d := estOutcome 2 o (d.setEst fun e => { e with pg := [], ran := e.ran.filter (· != 2) })
  if o.status ≤ 1 then
    if d.epochWaits 0 then again d
    else if d.est.commits.getD 0 0 != d.est.pgFrom then startPg (again d)
    else
      let moved := o.poses.filter fun x => decide (span.1 < x.1 ∧ x.1 ≤ span.2)
      startPg (estCorrect o (2 ^ 64) true (toCommit { cause := 1, poses := moved, loops := cs } d))
  else
    let d := estNotCommitted d
    startPg (if o.status = 0x32 then again d else d)

/-- Nodes that a finished loop query returned, nearest first. -/
def PlaceJob.nodes (j : PlaceJob) : List Nat :=
  match j.done.head? with
  | some x => (List.range (fld x.2.2 4 2)).map fun i => fld x.2.2 (64 + 16 * i) 4
  | none => []

/-- A keyframe's loop query has returned; `inliers` gives each verified candidate's, by keyframe. One that failed has no candidates. The keyframe is
inserted in the local index, whose state must allow it (R365, R381, R382, R402). -/
def loopQueryDone (inliers : List (Nat × Nat)) (d : Dev) : Dev :=
  match d.place.ended.reverse.find? fun x => match x.1.owner with
    | .loop _ => true
    | _ => false with
  | none => d
  | some (j, ok) =>
    let d := d.setPlace fun p => { p with ended := p.ended.filter fun x => x != (j, ok) }
    let kf := match j.owner with
      | .loop k => k
      | _ => 0
    match d.est.asked.find? fun a => a.1 == kf with
    | none => d
    | some a =>
      let d := d.setEst fun e => { e with asked := e.asked.filter fun b => b.1 != kf }
      let cand := if !ok || !d.estLive then [] else (j.nodes.map fun n => d.est.inserted.getD n 0xFFFFFFFF).filter fun k => decide (k + d.ec 20 2 ≤ kf)
      let hit := cand.findSome? fun k => (inliers.find? fun x => x.1 == k && decide (d.ec 18 2 ≤ x.2)).map fun x => (k, kf, x.2)
      let d :=
        match hit with
        | none => d
        | some (k, q, n) =>
          if d.est.reloc then
            match d.est.kfs.find? fun (y : Keyframe) => y.id == k with
            | some y =>
              toCommit { cause := 2 } (d.setEst fun e => { e with
                nav := putAt e.nav 0 y.pose, jump := true, newCorr := true, corrSeq := e.corrSeq + 1 })
            | none => d
          else startPg (d.setEst fun e => { e with pgQueue := e.pgQueue ++ [(k, q, n)] })
      let d := d.setEst fun e => { e with reloc := false }
      if (d.ix 0).st != .ready && (d.ix 0).st != .merging then d else
      match appendVecs 0 [a.2] d with
      | (d, .inl _) =>
        let d := d.setEst fun e => { e with inserted := e.inserted ++ [kf] }
        if 4096 ≤ (d.ix 0).side && (d.ix 0).st == .ready then (mergeCut 0 none ((d.ix 0).idEnd, (d.ix 0).te) d).1 else d
      | (d, .inr _) => d

/-- A map tile is written in the IPM and, with a slow tier attached, written back to both copies and flushed (R247, R384). Without
one it stays in the IPM under its map's pin. -/
def putTile (d : Dev) (x : Nat × Bytes) : Dev :=
  let o : TierObj := ((d.obj x.1).filter (·.st != .lost)).getD
    { id := x.1, kind := 6, size := 0, slow := d.slowOn, mirrored := true, lastPin := d.now, pins := if d.slowOn then [] else [(0x80, 1)] }
  let o := { o with
    data := x.2, size := max o.size x.2.length, units := [], changed := !d.slowOn, st := if o.st == .home then .resident else o.st }
  let d := { d with tier := { d.tier with objs := d.tier.objs.filter fun y => y.id != x.1 } }
  addObjs [o] (makeRoom (units o.size) 0xFFFFFFFF d)

/-- The epoch record (*Epoch record*). -/
def epochRecord (epoch at64 newest added moved loops cause tiles : Nat) : Bytes :=
  padTo 64 (leBytes 8 epoch ++ leBytes 8 at64 ++ leBytes 8 newest ++ leBytes 4 added ++ leBytes 4 moved ++ leBytes 2 loops
    ++ [BitVec.ofNat 8 cause, 0] ++ leBytes 4 tiles)

/-- An epoch's tiles stand written and flushed: it commits. A window BA moves no keyframe that has left the window (R70, R378,
R382-R385). -/
def mapEpochCommit (tiles : List (Nat × Bytes)) (d : Dev) : Dev :=
  match d.est.commit with
  | none => d
  | some c =>
    let d := tiles.foldl putTile d
    let n := d.est.epoch + 1
    let old := d.est.kfs
    let new := d.est.fresh.filter fun f => old.all fun k => k.id != f.1
    let poses := c.poses.filter fun x => c.cause != 0 || d.est.window.contains x.1
    let poseOf (id : Nat) (p : Bytes) : Bytes := ((poses.find? fun x => x.1 == id).map (·.2)).getD p
    let added : List Keyframe := new.map fun f => { id := f.1, tov := f.2.1, pose := padTo 40 (poseOf f.1 f.2.2), epoch := n }
    let hit (k : Keyframe) : Bool := poses.any fun x => x.1 == k.id && padTo 40 x.2 != k.pose
    let moved := (old.filter hit).length
    let kfs := (old.map fun k => if hit k then { k with pose := padTo 40 (poseOf k.id k.pose), epoch := n } else k) ++ added
    let d := d.setEst fun e => { e with
      epoch := n, kfs := kfs, commits := upd e.commits c.cause (· + 1), commit := e.nextCommit.head?, nextCommit := e.nextCommit.drop 1, loops := satAdd e.loops c.loops.length
      fresh := (e.fresh.map fun f => (f.1, f.2.1, poseOf f.1 f.2.2)).filter fun f => e.window.contains f.1 }
    let newest := (kfs.map (·.id)).foldl max 0
    let d := streamRecord 0x0511 d.tb64 false (epochRecord n d.tb64 newest added.length moved c.loops.length c.cause tiles.length) d
    let d := c.loops.foldl (fun d l => evFrom 6 0 0x0611 0 (det [(20, leBytes 8 l.2.1), (28, leBytes 2 l.2.2)]) d) d
    let d := if d.est.baAgain && !d.est.ba then startBa d else d
    startPg d

/-! ### Base-metal mode, profiles, aborts -/

/-- Base-metal mode is entered: only the safety island writes records (R364, R373). -/
def estBase (d : Dev) : Dev := poseSource 1 (estState .baseMetal (estQuiet d))

/-- A profile is applied: its configuration comes into force, and the estimator rests, seeded from the safety island and
propagated on the control complex at once (R362-R364, R387; notes/assumptions/50.md). -/
def estApply (d : Dev) : Dev :=
  let toks := d.est.startToks
  let cfg := ((d.est.saved.find? fun x => x.1 == d.prof.activeId).map (·.2)).getD d.estDefaults
  let d := toks.foldl (fun d y => finish y.tok (.conflict 0x0302) d) d
  let d := d.setEst fun e => { e with
    cfg := cfg, pendingCfg := none, startToks := [], poseSeq := 0, corrSeq := 0, nav := e.sNav, secondary := false, gap := false, okRun := 0
    due := none, queue := [], factors := [], newCorr := false, jump := false, timely := 16, retained := none, unused := [], imuBuf := [], level := none }
  streamStart 0x0511 (streamStart 0x0510 (estRest d))

/-- A task of the estimator's ended for good with its data at fault: its problem ends as with ST_DATA_ERROR (R462). -/
def estFails (p : Nat) (d : Dev) : Dev :=
  let o : EstOutcome := { status := 0x41 }
  let d := d.setEst fun e => { e with ran := p :: e.ran.filter (· != p) }
  match p with
  | 0 => frameUpdateDone o d
  | 1 => windowBaDone o d
  | _ => poseGraphDone o d

/-- An EST_START that waits for its record is taken: none of its effects has happened (R69). -/
def estAborted (t : Tok) (d : Dev) : Dev := d.setEst fun e => { e with startToks := e.startToks.filter (·.tok != t) }

end Sys2Proof.Machine
end

