-- ==== Sys2Proof/Machine/Sxp.lean ====
section
/-! DEFINITION. The shard exchange protocol: addresses, sessions, requests and replies (spec/14 R424-R436, R450). -/

namespace Sys2Proof.Machine

def Dev.setFleet (d : Dev) (f : Fleet → Fleet) : Dev := { d with fleet := f d.fleet }

/-- State codes (*Membership states*, *Shard states*). -/
def FleetSt.code : FleetSt → Nat
  | .off => 0x0911 | .configured => 0x0912 | .enrolled => 0x0913 | .joined => 0x0914
def ShSt.code : ShSt → Nat
  | .absent => 0x0901 | .syncing => 0x0902 | .replica => 0x0903 | .primary => 0x0904 | .handingOver => 0x0905
  | .claiming => 0x0906

/-! ### Configuration and addresses (R425-R427) -/

/-- A field of FLEET_CONFIG in force, by its descriptor offset. -/
def Dev.fcf (d : Dev) (lo n : Nat) : Nat := fld d.fleet.cfg (lo - 24) n
def Dev.devId (d : Dev) : Nat := d.fcf 24 2

/-- The fleet address of a DEV_ID, in network byte order (R426). -/
def Dev.address (d : Dev) (dev : Nat) : Bytes :=
  if d.fcf 26 1 = 6 then sliceAt d.fleet.cfg 8 14 ++ [BitVec.ofNat 8 (dev / 256), BitVec.ofNat 8 dev]
  else (leBytes 4 (beNat (sliceAt d.fleet.cfg 8 4) + dev)).reverse

/-- The Ethernet port that SXP uses now (R428). -/
def Dev.sxpPort (d : Dev) : Nat := if d.fleet.alt then bitsOf 3 2 (d.fcf 27 1) else bitsOf 1 0 (d.fcf 27 1)

/-- The part sends and accepts datagrams on port 47811 (R424, R441). -/
def Dev.fleetOn (d : Dev) : Bool := d.fleet.st == .joined && !d.inBase && d.start == .done

/-- The VLAN tag of the part's frames, PCP and VID, where tagging is set (R427). -/
def Dev.sxpTag (d : Dev) : Option Nat :=
  if (d.fcf 28 2).testBit 15 then some (8192 * (d.fcf 30 1 % 8) + d.fcf 28 2 % 4096) else none

/-- Where a datagram to a peer is sent: the gateway where FLEET_CONFIG names one, else the peer's address (R427). -/
def Dev.nextHop (d : Dev) (peer : Nat) : Bytes :=
  let gw := sliceAt d.fleet.cfg 24 (if d.fcf 26 1 = 6 then 16 else 4)
  if leNat gw != 0 then gw else if peer = 0xFFFF then [] else d.address peer

/-- The membership state changes, with EV_FLEET_STATE. -/
def fleetState (st : FleetSt) (d : Dev) : Dev :=
  let old := d.fleet.st
  if old == st then d else
  evFrom 16 0 0x1001 (bit (old == .joined)) (det [(16, [BitVec.ofNat 8 st.code])]) (d.setFleet fun f => { f with st := st })

/-- The part's own fleet certificate. -/
def Dev.ownCert (d : Dev) : Bytes := (d.fleet.enrolment.map (·.2)).getD []

/-- SXP's requests to its address outside the two UDP ports: kind 0 ARP, 1 Neighbor Discovery, 2 ICMP echo, 3 ICMPv6 echo
(R427, R432). -/
def ipControl (port kind : Nat) (target body : Bytes) (d : Dev) : Dev :=
  let v6 := d.fcf 26 1 == 6
  let fits := if v6 then kind == 1 || kind == 3 else kind == 0 || kind == 2
  if d.fleet.st == .off || !fits || target != d.address d.devId then d else emit (.ipReply port kind d.sxpTag body) d

/-- The network announces the part's address on the port now in use (R428): a gratuitous ARP, kind 4, or an unsolicited
Neighbor Advertisement, kind 5. -/
def announce (d : Dev) : Dev := emit (.ipReply d.sxpPort (if d.fcf 26 1 = 6 then 5 else 4) d.sxpTag (d.address d.devId)) d

/-- A port carries traffic. -/
def Dev.portUp (d : Dev) (n : Nat) : Bool := (d.eth.getD n {}).enable && (d.eth.getD n {}).link

/-- SXP moves to the alternate port (R428). -/
def portFailover (d : Dev) : Dev :=
  let b := d.fcf 27 1
  if d.fleet.st == .off || d.fleet.alt || !b.testBit 4 || d.portUp (bitsOf 1 0 b) then d else
  let d := announce (d.setFleet fun f => { f with alt := true })
  evFrom 16 0 0x1005 1 (det [(16, [BitVec.ofNat 8 d.sxpPort])]) d

/-- SXP returns 10 s after the primary port's link came back (R428). -/
def portReturn (d : Dev) : Dev :=
  let p := bitsOf 1 0 (d.fcf 27 1)
  if !d.fleet.alt || !d.portUp p || decide (d.now < (d.eth.getD p {}).linkAt + 10 * sNs) then d else
  let d := announce (d.setFleet fun f => { f with alt := false })
  evFrom 16 0 0x1005 0 (det [(16, [BitVec.ofNat 8 d.sxpPort])]) d

/-! ### Keys and seals (R431-R434) -/

/-- The fields of a set-up message before its signature, in the order of *Session set-up* (notes/assumptions/31.md). -/
def setupFields (h : SxpHello) : Bytes :=
  BitVec.ofNat 8 h.cred :: h.credential ++ h.kem ++ h.nonce ++ leBytes 8 h.time ++ leBytes 4 h.session

/-- A whole set-up message. -/
def setupBytes (h : SxpHello) : Bytes := setupFields h ++ h.sig

/-- What a REPLY's signature covers: the hash of the INIT, then its own fields (*Session set-up*). -/
def replySigned (init r : SxpHello) : Bytes := Config.sha3 (setupBytes init) ++ setupFields r

/-- The 72 bytes of a session's keys, from the shared secret, the INIT and the REPLY (R433). -/
def sessionKeys (secret : Bytes) (init r : SxpHello) : Bytes :=
  padTo 72 (Config.hkdf secret (init.nonce ++ r.nonce) ([0x53, 0x58, 0x50, 0x31] ++ Config.sha3 (setupBytes init ++ setupBytes r)) 72)

/-- The AES-256 key and the nonce salt of one direction of a session: bytes 0-31 and 64-67 from the initiator (R433). -/
def Session.keyOf (s : Session) (sent : Bool) : Bytes × Bytes :=
  if s.initiator == sent then (sliceAt s.keys 0 32, sliceAt s.keys 64 4) else (sliceAt s.keys 32 32, sliceAt s.keys 68 4)

/-- What the datagram of a sequence is sealed with: `len` bytes from its byte 16 to its end, for the receiver's session ID `dst` (R434). -/
def Session.seal (s : Session) (sent : Bool) (dst seq len : Nat) : SxpSeal :=
  { key := (s.keyOf sent).1, nonce := (s.keyOf sent).2 ++ leBytes 8 seq
    aad := [1, 1] ++ leBytes 2 len ++ leBytes 4 dst ++ leBytes 8 seq }

/-- A datagram received opens under the session's keys (R434). -/
def Session.opens (s : Session) (seq len : Nat) (b : Bytes) : Bool :=
  let x := s.seal false s.id seq len
  Config.gcmOpens x.key x.nonce x.aad b

/-! ### Sending (R428, R434, R436) -/

/-- Bytes of a message's body, each listed field at its natural width (notes/assumptions/31.md). -/
def itemsSize (l : List PubItem) : Nat := (l.map fun i => if i.kind = 0 then 56 + i.descr.length else if i.kind = 1 then 48 else 8).sum
def sxpSize : SxpBody → Nat
  | .empty => 0
  | .setup h => (setupBytes h).length
  | .publish _ _ items => 16 + itemsSize items
  | .revision r => 24 + itemsSize r.items
  | .query _ _ _ v => 8 + (v.map List.length).sum
  | .queryResult l => (l.map fun x => 64 + 64 * x.2.length).sum
  | .notice _ => 64
  | .syncData c revs _ _ => 16 + (revs.map fun r => 24 + itemsSize r.items).sum + (c.map fun c =>
      (c.vecs.map List.length).sum + (c.codes.map List.length).sum + (c.lists.map fun l => 4 * l.length).sum + 4 * c.entry.length
        + 4 * c.holes.length + 8 * c.tombs.length + 64 * c.nodes.length + 10 * c.marks.length).getD 0
  | .handoverAck _ => 64
  | .bounce _ _ => 72
  | .adminDesc d p => d.length + p.length
  | .adminCpl b => b.length
  | _ => 16

/-- The body bytes of one message: 4 MiB less its 40-byte header (R436). -/
def partBytes : Nat := 4194304 - 40

/-- Messages that a body goes in. -/
def partCount (b : SxpBody) : Nat := max 1 ((sxpSize b + partBytes - 1) / partBytes)

/-- Bytes of a message: its header and its part of the body. -/
def msgBytes (m : SxpMsg) : Nat := 40 + min partBytes (sxpSize m.body - partBytes * m.part)

/-- A message as bytes: its header (*Message header*), then its part of the body. -/
def msgImage (m : SxpMsg) : Bytes :=
  leBytes 2 m.kind ++ leBytes 2 m.flags ++ leBytes 2 m.src ++ leBytes 2 m.dst ++ leBytes 4 m.shard ++ leBytes 4 m.epoch ++ leBytes 2 m.primary
    ++ [0, 0] ++ leBytes 4 m.msgId ++ leBytes 4 m.replyTo ++ leBytes 8 m.time ++ [0, 0, 0, 0]
    ++ padTo (msgBytes m - 40) ((Config.sxpBody m.body).drop (partBytes * m.part))

/-- The messages of a body: one, or several with PART set and LAST_PART on the last, numbered on from the first (R443). -/
def outParts (m : SxpMsg) : List SxpMsg :=
  let n := partCount m.body
  if n = 1 then [m] else (List.range n).map fun i => { m with msgId := m.msgId + i, flags := m.flags + 1 + 2 * bit (i + 1 == n), part := i }

/-- Message bytes that a datagram carries: UDP payloads of at most 1,452 or 1,472 bytes, of which 40 are header and tag (R428). -/
def Dev.fragBytes (d : Dev) : Nat := if d.fcf 26 1 = 6 then 1412 else 1432

/-- Datagrams of a message. -/
def Dev.frags (d : Dev) (m : SxpMsg) : Nat := (msgBytes m + d.fragBytes - 1) / d.fragBytes

/-- A message leaves for a peer: a set-up message in clear, any other in datagrams sealed under the open session's keys, each with the next
sequence (R434). Only the admin session's leave a part that is not JOINED or is in base-metal mode (R424, R441). -/
def txMsg (peer : Nat) (m : SxpMsg) (d : Dev) : Dev :=
  if peer != 0xFFFF && !d.fleetOn then d else
  let n := d.frags m
  let live (s : Session) : Bool := 3 ≤ m.kind && s.peer == peer && s.st == .opened && s.expire.isNone
  let seals := ((d.fleet.sessions.find? live).map fun s => (List.range n).map fun i =>
    s.seal true s.peerId (s.tx + i) (24 + min d.fragBytes (msgBytes m - d.fragBytes * i))).getD []
  let d := d.setFleet fun f => { f with
    tx := f.tx + BitVec.ofNat 32 n
    sessions := f.sessions.map fun s => if live s then { s with tx := s.tx + n, usedAt := d.now } else s }
  emit (.sxp d.sxpPort peer (d.nextHop peer) d.sxpTag m seals) d

/-- The open session with a peer. -/
def Dev.openWith (d : Dev) (peer : Nat) : Option Session :=
  d.fleet.sessions.find? fun s => s.peer == peer && s.st == .opened && s.expire.isNone && !s.admin

/-- The Hallmark identity block. -/
def Dev.identityBlock (d : Dev) : Bytes :=
  leBytes 8 d.serial.toNat ++ [0xB0, BitVec.ofNat 8 d.grade] ++ List.replicate 6 0 ++ padTo 2592 (Config.identityKey d.serial.toNat)
    ++ padTo 1568 (Config.updateKey d.serial.toNat) ++ padTo 16 ((d.trust.fleetKey.map (·.1)).getD []) ++ List.replicate 64 0
    ++ padTo 4627 (Config.deviceCert d.serial.toNat)

/-- A set-up message with this part's own credential, to be signed: its fleet certificate, or its identity block where it has none (*Session
set-up*, R432). -/
def Dev.hello (d : Dev) (udp toSid mySid : Nat) (kem : Bytes) : SxpHello :=
  let cert := d.fleet.st == .enrolled || d.fleet.st == .joined
  { udp := udp, srcDev := d.devId, sid := toSid, cred := if cert then 0 else 2
    credential := if cert then d.ownCert else d.identityBlock
    kem := padTo 1568 kem, nonce := d.freeBytes 32, time := d.tb64, session := mySid }

/-- Bytes signed with the identity key (R432, R487). -/
def Dev.signed (d : Dev) (h : SxpHello) (b : Bytes) : SxpHello := { h with sig := padTo 4627 (Config.identitySign d.serial.toNat b) }

/-- Random bytes for a key, after those of a nonce. -/
def Dev.coins (d : Dev) : Bytes := ({ d with free := d.free + 32 }).freeBytes 64

/-- A session is closed; an admin session's descriptors run on, but their completions are discarded (R436). -/
def sessionClose (id : Nat) (d : Dev) : Dev :=
  match d.fleet.sessions.find? fun s => s.id == id with
  | none => d
  | some s =>
    let d := d.setFleet fun f => { f with sessions := f.sessions.filter (fun x => x.id != id), reasm := f.reasm.filter fun r => r.session != id }
    if !s.admin || s.expire.isSome then d else
    let counts := d.hif.net.pend.map (·.count)
    let d := { d with hif := { d.hif with net := { d.hif.net with replies := [] } } }
    d.setFleet fun f => { f with orphans := f.orphans ++ counts.filter (fun n => !(f.orphans.contains n)), adminMsgs := [], inbox := f.inbox.filter (fun m => m.kind != 0x50), kept := f.kept.filter fun k => k.src != 0xFFFF }

/-- Room for a new session: the one idle longest is closed where 16,384 are held (R435). -/
def sessionRoom (d : Dev) : Dev :=
  if d.fleet.sessions.length < 16384 then d else
  match inOrder d.fleet.sessions fun a b => decide (a.usedAt ≤ b.usedAt) with
  | s :: _ => sessionClose s.id d
  | [] => d

/-- A set-up message as it leaves. -/
def Dev.setupMsg (d : Dev) (kind peer : Nat) (h : SxpHello) : SxpMsg :=
  { kind := kind, src := d.devId, dst := peer, msgId := 0, time := h.time, body := .setup h }

/-- A session is begun with a peer: its INIT leaves, with a new ephemeral key (R431, R433). -/
def startSession (peer : Nat) (d : Dev) : Dev :=
  let d := sessionRoom d
  let id := d.fleet.nextSession
  let eph := d.coins
  let h := d.hello 47811 0 id (Config.kemKey eph)
  let h := d.signed h (setupFields h)
  let d := { d with free := d.free + 96 }
  let s : Session := { id := id, peer := peer, initiator := true, init := some h, eph := eph, madeAt := d.now, usedAt := d.now }
  let d := d.setFleet fun f => { f with nextSession := id + 1, sessions := f.sessions ++ [s] }
  txMsg peer (d.setupMsg 1 peer h) d

/-- The INIT of a session that waits for its REPLY leaves again as it was, while its time is within SKEW_MS; else set-up begins anew (DESIGN
CHOICE, notes/assumptions/31.md). -/
def pushInit (peer : Nat) (d : Dev) : Dev :=
  match d.fleet.sessions.find? fun s => s.peer == peer && !s.admin && s.st != .opened with
  | some s =>
    match s.st, s.init with
    | .inited, some h =>
      if d.now ≤ s.madeAt + d.fleet.skewMs.toNat * msNs then txMsg peer (d.setupMsg 1 peer h) d else startSession peer (sessionClose s.id d)
    | _, _ => d
  | none => startSession peer d

/-- A message waits for its command: a part of a set until the set is whole (R444; DESIGN CHOICE, notes/assumptions/31.md). -/
def takeIn (m : SxpMsg) (d : Dev) : Dev :=
  if !m.flags.testBit 0 then d.setFleet fun f => { f with inbox := f.inbox ++ [m] } else
  let same (x : SxpMsg) : Bool := x.src == m.src && x.kind == m.kind && x.shard == m.shard && x.replyTo == m.replyTo && x.body == m.body
  let set := m :: d.fleet.parts.filter fun x => same x && x.part != m.part
  let rest := d.fleet.parts.filter fun x => !same x
  let last := set.find? fun x => x.flags.testBit 1
  let whole := last.any fun l => (List.range (l.part + 1)).all fun i => set.any fun x => x.part == i
  if whole then
    let set := inOrder set fun a b => decide (a.part ≤ b.part)
    match set with
    | a :: l => d.setFleet fun f => { f with parts := rest, inbox := f.inbox ++ [{ a with flags := a.flags / 4 * 4, also := l.map (·.msgId) }] }
    | [] => d
  else d.setFleet fun f => { f with parts := rest ++ set }

/-- The message numbers of a message and of its set. -/
def msgKeys (m : SxpMsg) : List (Nat × Nat) := (m.msgId :: m.also).map fun n => (m.src, n)

/-- Requests that were taken are given up: a repeat of one is judged afresh. -/
def release (l : List SxpMsg) (d : Dev) : Dev :=
  let gone := l.flatMap msgKeys
  d.setFleet fun f => { f with taken := f.taken.filter fun x => !gone.contains x }

/-- The part may publish now (R442). -/
def Dev.publishes (d : Dev) : Bool := d.fleetOn && d.fcf 31 1 % 2 == 1 && decide (d.pf 39 1 ≤ 1) && decide (0 < d.est.epoch)

/-- One send of a waiting request (R436): over the open session, or set-up is begun; one to this part itself is taken at
once. -/
def pumpReq (msgId : Nat) (d : Dev) : Dev :=
  match d.fleet.reqs.find? fun r => r.msg.msgId == msgId with
  | none => d
  | some r =>
    if !d.fleetOn || (r.msg.kind == 0x10 && !d.publishes) then d else
    let wait := if r.sends = 0 then d.fleet.rtoMs.toNat * msNs else 2 * r.wait
    let m := { r.msg with time := d.tb64 }
    let d := d.setFleet fun f => { f with reqs := f.reqs.map fun x => if x.msg.msgId = msgId then
      { x with msg := m, sends := x.sends + 1, wait := wait, nextAt := d.now + wait, firstAt := if x.sends = 0 then d.now else x.firstAt } else x }
    if r.peer = d.devId then
      if d.fleet.taken.contains (m.src, m.msgId) then d
      else takeIn m (d.setFleet fun f => { f with taken := f.taken ++ [(m.src, m.msgId)] })
    else match d.openWith r.peer with
    | some _ => txMsg r.peer m d
    | none => pushInit r.peer d

/-- The header of a new message about a shard. -/
def Dev.header (d : Dev) (kind peer shard : Nat) (entry : Option Bytes) (flags : Nat) (body : SxpBody) : SxpMsg :=
  { kind := kind, flags := flags, src := d.devId, dst := peer, shard := shard
    epoch := (entry.map fun e => fld e 4 4).getD 0, primary := (entry.map fun e => fld e 8 2).getD 0xFFFF
    msgId := d.fleet.nextMsg, time := d.tb64, body := body }

/-- A shard's entry in the table held. -/
def Dev.shardEntry (d : Dev) (shard : Nat) : Option Bytes := d.fleet.table.find? fun e => fld e 0 4 == shard

/-- A request goes to a peer (R436). -/
def sendReq (kind peer shard flags : Nat) (body : SxpBody) (d : Dev) : Dev :=
  let l := outParts (d.header kind peer shard (d.shardEntry shard) flags body)
  let d := d.setFleet fun f => { f with nextMsg := f.nextMsg + l.length, reqs := f.reqs ++ l.map fun m => { msg := m, peer := peer } }
  l.foldl (fun d m => pumpReq m.msgId d) d

/-- A request's wait is over. -/
def dropReq (msgId : Nat) (d : Dev) : Dev := d.setFleet fun f => { f with reqs := f.reqs.filter fun r => r.msg.msgId != msgId }

/-- A message of a reply leaves, kept for 2 s where its request may be repeated. -/
def replyOut (src msgId : Nat) (keep : Bool) (d : Dev) (r : SxpMsg) : Dev :=
  if src = d.devId then takeIn r d
  else
    let d := if keep then d.setFleet fun f => { f with kept := f.kept ++ [{ src := src, msgId := msgId, msg := r, until_ := d.now + 2 * sNs }] } else d
    txMsg src r d

/-- A reply to a request, or to each message of a set of parts, kept for 2 s (R436). -/
def sendReply (m : SxpMsg) (kind flags : Nat) (body : SxpBody) (keep : Bool) (d : Dev) : Dev :=
  (m.msgId :: m.also).foldl (fun d id =>
    let l := outParts { d.header kind m.src m.shard (d.shardEntry m.shard) flags body with replyTo := id }
    let d := d.setFleet fun f => { f with nextMsg := f.nextMsg + l.length, taken := f.taken.filter fun x => x != (m.src, id) }
    l.foldl (replyOut m.src id keep) d) d

/-- A BOUNCE: the request does nothing else (R450). -/
def sendBounce (m : SxpMsg) (d : Dev) : Dev :=
  match d.shardEntry m.shard with
  | none => release [m] d
  | some e => sendReply m 0x40 0 (.bounce e m.msgId) false (d.setFleet fun f => { f with bounceSent := satInc f.bounceSent })

/-- The oldest message of a kind leaves the ones that wait. -/
def takeMsg (kind : Nat) (d : Dev) : Option (SxpMsg × Dev) :=
  match d.fleet.inbox.find? fun m => m.kind == kind with
  | none => none
  | some m => some (m, d.setFleet fun f => { f with inbox := f.inbox.erase m })

/-- A kept reply is dropped after 2 s (R436). -/
def replyExpire (src msgId : Nat) (d : Dev) : Dev :=
  d.setFleet fun f => { f with kept := f.kept.filter fun k => !(k.src == src && k.msgId == msgId && decide (k.until_ ≤ d.now)) }

/-- An incomplete message is discarded 500 ms after its first fragment (R436). -/
def reasmExpire (session msgId : Nat) (d : Dev) : Dev :=
  d.setFleet fun f => { f with reasm := f.reasm.filter fun r =>
    !(r.session == session && r.msgId == msgId && decide (r.firstAt + 500 * msNs ≤ d.now)) }

/-! ### Sessions (R80, R431-R435) -/

/-- Fleet certificate fields (*Fleet certificate*). -/
def certDev (c : Bytes) : Nat := fld c 6 2 + 65536 * bit (decide (c.length < 7283))
def certFleet (c : Bytes) : Bytes := sliceAt c 24 16

/-- |time − time base| in ns exceeds SKEW_MS, and the time base is not FREE_RUN. -/
def Dev.skewed (d : Dev) (time : Nat) : Bool :=
  d.time.st != .freeRun && decide (d.fleet.skewMs.toNat * msNs < max (time - d.tb64) (d.tb64 - time))

/-- The open admin session. -/
def Dev.adminSession (d : Dev) : Option Session := d.fleet.sessions.find? fun s => s.admin && s.st == .opened

/-- A hash of a raw administrator key is an entry of the profile in force (R80). -/
def Dev.adminKey (d : Dev) (key : Bytes) : Bool :=
  let h := padTo 64 (Config.sha3 key)
  h != List.replicate 64 0 && (List.range 4).any fun i => sliceAt d.prof.active (256 + 64 * i) 64 == h

/-- A session's set-up is to be run again (R435). -/
def Session.due (s : Session) (now : Nat) : Bool := decide (2 ^ 32 ≤ s.tx) || decide (2 ^ 32 ≤ s.rx) || decide (s.madeAt + 86400 * sNs ≤ now)

/-- A certificate verifies under the installed authority key, and a signature of `b` under the key it certifies (R431). -/
def Dev.certSigned (d : Dev) (c b sig : Bytes) : Bool :=
  Config.dsaVerify ((d.fleet.enrolment.map (·.1)).getD []) (c.take 2656) (c.drop 2656) && Config.dsaVerify (sliceAt c 64 2592) b sig

/-- The first check of R431 that a set-up message fails; `b` is what its signature covers. An admin session due for a new set-up is no
obstacle to it (R435). -/
def Dev.helloFault (d : Dev) (h : SxpHello) (b : Bytes) : Option Nat :=
  if h.udp = 47810 then
    if h.cred != 1 || !d.adminKey h.credential || !Config.dsaVerify h.credential b h.sig then some 5
    else if d.skewed h.time then some 6
    else if d.fleet.sessions.any (fun s => s.admin && s.st == .opened && s.expire.isNone && !s.due d.now) then some 7
    else none
  else
    let c := h.credential
    if h.cred != 0 then some 5
    else if c.length != 7283 || !d.certSigned c b h.sig then some 1
    else if certFleet c != certFleet d.ownCert then some 2
    else if d.time.st != .freeRun && !decide (fld c 8 8 ≤ d.tb64 ∧ d.tb64 ≤ fld c 16 8) then some 3
    else if certDev c != h.srcDev then some 4
    else if d.skewed h.time then some 6
    else none

/-- A refused set-up message: dropped, counted, and EV_SESSION_REFUSED at most once a second (R431). -/
def helloRefused (h : SxpHello) (reason : Nat) (d : Dev) : Dev :=
  let d := d.setFleet fun f => { f with hsFail := satInc f.hsFail }
  let due := match d.fleet.refusedAt with
    | none => true
    | some a => decide (a + sNs ≤ d.now)
  if !due then d else
  let dev := if h.cred = 0 && h.credential.length = 7283 then fld h.credential 6 2 else 0xFFFF
  evFrom 16 0 0x1002 0 (det [(16, [BitVec.ofNat 8 reason]), (20, leBytes 2 dev)]) (d.setFleet fun f => { f with refusedAt := some d.now })

/-- The part answers set-up on this UDP port (R424, R432). -/
def Dev.answers (d : Dev) (udp : Nat) : Bool := if udp = 47810 then d.fleet.st != .off else udp == 47811 && d.fleetOn

/-- An INIT is checked and answered with a REPLY (R431-R433). -/
def sxpInit (h : SxpHello) (d : Dev) : Dev :=
  if !d.answers h.udp then d else
  match d.helloFault h (setupFields h) with
  | some r => helloRefused h r d
  | none =>
    let d := sessionRoom d
    let admin := h.udp == 47810
    let peer := if admin then 0xFFFF else h.srcDev
    let id := d.fleet.nextSession
    let kem := Config.kemEncaps h.kem d.coins
    let r := d.hello h.udp h.session id kem.2
    let r := d.signed r (replySigned h r)
    let d := { d with free := d.free + 96 }
    let s : Session := { id := id, peerId := h.session, peer := peer, admin := admin, st := .replied, madeAt := d.now
                         usedAt := d.now, keys := sessionKeys kem.1 h r }
    let d := d.setFleet fun f => { f with
      nextSession := id + 1, rx := f.rx + 1
      sessions := f.sessions.filter (fun x => !(x.peer == peer && x.st == .replied)) ++ [s] }
    txMsg peer (d.setupMsg 2 peer r) d

/-- A session is open, and the peer's earlier one keeps its keys for 2 s (R435). The administrator's numbering begins with a session that takes
the place of none. -/
def sessionLive (s : Session) (d : Dev) : Dev :=
  let prev (x : Session) : Bool := x.id != s.id && x.peer == s.peer && x.admin == s.admin && x.st == .opened && x.expire.isNone
  let again := d.fleet.sessions.any prev
  let next (x : Session) : Session :=
    if x.id = s.id then { x with st := .opened, usedAt := d.now }
    else if prev x then { x with expire := some (d.now + 2 * sNs) } else x
  let d := d.setFleet fun f => { f with sessions := f.sessions.map next }
  if s.admin && !again then d.setChan .net fun r => { r with base := r.nextCount.toNat } else d

/-- The requests that wait for a session with a peer leave. -/
def sessionReqs (peer : Nat) (d : Dev) : Dev :=
  let l := (d.fleet.reqs.filter fun r => r.peer == peer).map (·.msg.msgId)
  l.foldl (fun d m => pumpReq m (d.setFleet fun f => { f with reqs := f.reqs.map fun r => if r.msg.msgId = m then { r with sends := 0 } else r })) d

/-- A REPLY is checked, the keys derived and the CONFIRM sent (R431, R433). -/
def sxpReply (h : SxpHello) (d : Dev) : Dev :=
  if !d.fleetOn || h.udp != 47811 then d else
  match d.fleet.sessions.find? fun s => s.id == h.sid && s.st == .inited && s.peer == h.srcDev with
  | none => d
  | some s =>
    let init := s.init.getD {}
    match d.helloFault h (replySigned init h) with
    | some r => helloRefused h r d
    | none =>
      let keys := sessionKeys (Config.kemDecaps s.eph h.kem) init h
      let d := d.setFleet fun f => { f with rx := f.rx + 1, sessions := f.sessions.map fun x =>
        if x.id = s.id then { x with peerId := h.session, keys := keys, init := none, eph := [] } else x }
      let d := sessionLive s d
      let d := txMsg s.peer { kind := 3, src := d.devId, dst := s.peer, msgId := 0, time := d.tb64 } d
      sessionReqs s.peer d

/-- A CONFIRM, the datagram of sequence 0 with an empty message, completes set-up (R433, R434). -/
def sxpConfirm (sid : Nat) (sealedBytes : Bytes) (d : Dev) : Dev :=
  match d.fleet.sessions.find? fun s => s.id == sid && s.st == .replied with
  | none => d
  | some s =>
    if !s.admin && !d.fleetOn then d
    else if !s.opens 0 64 sealedBytes then d.setFleet fun f => { f with authFail := satInc f.authFail }
    else sessionReqs s.peer (sessionLive s (d.setFleet fun f => { f with rx := f.rx + 1, sessions := f.sessions.map fun x =>
      if x.id = sid then { x with rx := x.rx + 1, high := some 0, seen := [0] } else x }))

/-- A session re-runs set-up after 2^32 datagrams in either direction or 24 h (R435). -/
def sessionRekey (id : Nat) (d : Dev) : Dev :=
  match d.fleet.sessions.find? fun s => s.id == id && s.st == .opened && s.expire.isNone && !s.admin with
  | none => d
  | some s =>
    if d.fleetOn && s.due d.now then pushInit s.peer d else d

/-- The old keys stop being valid 2 s after the new session's CONFIRM (R435). -/
def oldKeyExpire (id : Nat) (d : Dev) : Dev :=
  match d.fleet.sessions.find? fun s => s.id == id with
  | none => d
  | some s => match s.expire with
    | some e => if e ≤ d.now then sessionClose id d else d
    | none => d

/-- A session idle for 120 s is closed (R435). -/
def sessionIdle (id : Nat) (d : Dev) : Dev :=
  match d.fleet.sessions.find? fun s => s.id == id with
  | none => d
  | some s => if s.usedAt + 120 * sNs ≤ d.now then sessionClose id d else d

/-- A protected datagram of an open session: authenticated, or dropped and counted; the sequence window of 1,024 (R434). -/
def sessionRx (s : Session) (seq : Nat) (tagOk : Bool) (d : Dev) : Dev × Bool :=
  let stale := s.seen.contains seq || (match s.high with
    | some h => decide (seq + 1024 ≤ h)
    | none => false)
  if !tagOk || stale then (d.setFleet fun f => { f with authFail := satInc f.authFail }, false) else
  let high := max seq (s.high.getD 0)
  (d.setFleet fun f => { f with rx := f.rx + 1, sessions := f.sessions.map fun x =>
    if x.id = s.id then { x with rx := x.rx + 1, high := some high, usedAt := d.now
                                 seen := (seq :: x.seen).filter fun q => decide (high < q + 1024) } else x }, true)

end Sys2Proof.Machine
end

