-- ==== Sys2Proof/Machine/Fleet.lean ====
section
/-! DEFINITION. Shards, publishing, fleet queries and the fleet opcodes (spec/14 R424, R430, R437-R457). -/

namespace Sys2Proof.Machine

/-! ### The shard table (R437, R438) -/

def eEpoch (e : Bytes) : Nat := fld e 4 4
def ePrimary (e : Bytes) : Nat := fld e 8 2
/-- The primary, then the used replicas. -/
def eHolders (e : Bytes) : List Nat :=
  (ePrimary e :: ((List.range 7).map fun i => fld e (10 + 2 * i) 2).filter (· != 0xFFFF)).eraseDups

/-- An entry with a new epoch and primary; the new primary's place among the replicas goes to the old one. -/
def eMoved (e : Bytes) (epoch primary : Nat) : Bytes :=
  let reps := (List.range 7).flatMap fun i => leBytes 2 (if fld e (10 + 2 * i) 2 = primary then ePrimary e else fld e (10 + 2 * i) 2)
  putAt (putAt (putAt e 4 (leBytes 4 epoch)) 8 (leBytes 2 primary)) 10 reps

/-- An entry with a message header's epoch and primary, its replicas kept (R438). -/
def eHeader (e : Bytes) (epoch primary : Nat) : Bytes := putAt (putAt e 4 (leBytes 4 epoch)) 8 (leBytes 2 primary)

/-- The tile: x_min, y_min, x_max, y_max in metres. -/
def eTile (e : Bytes) : List Int := (List.range 4).map fun i => sInt 32 (fld e (32 + 4 * i) 4)

/-- A holding of a shard. -/
def Dev.host (d : Dev) (k : Nat) : Option Hosted := d.fleet.hosted.find? fun h => h.shard == k
def Dev.setHost (d : Dev) (k : Nat) (f : Hosted → Hosted) : Dev :=
  d.setFleet fun x => { x with hosted := x.hosted.map fun h => if h.shard = k then f h else h }

/-- A shard's state here. -/
def Dev.shardSt (d : Dev) (k : Nat) : ShSt := ((d.host k).map (·.st)).getD .absent

/-- An entry replaced in the table held. -/
def setEntry (k : Nat) (e : Bytes) (d : Dev) : Dev :=
  d.setFleet fun f => { f with table := f.table.map fun x => if fld x 0 4 = k then e else x }

/-- EV_SHARD_STATE. -/
def evShard (k : Nat) (st : ShSt) (cause : Nat) (d : Dev) : Dev :=
  let sev := bit ((st == .absent && cause == 2) || cause == 3)
  evFrom 16 0 0x1003 sev (det [(16, [BitVec.ofNat 8 st.code, BitVec.ofNat 8 cause]), (20, leBytes 4 k),
    (24, leBytes 4 (((d.shardEntry k).map eEpoch).getD 0))]) d

/-- A hosted shard changes state (R439). -/
def shardState (k : Nat) (st : ShSt) (cause : Nat) (d : Dev) : Dev :=
  if d.shardSt k == st then d else evShard k st cause (d.setHost k fun h => { h with st := st })

/-- The requests about a shard that were taken and wait here: publications, those not acknowledged yet, a handover's, and parts of sets. -/
def Dev.heldMsgs (d : Dev) (h : Hosted) : List SxpMsg :=
  h.pubs.flatMap (·.msgs) ++ h.acks.flatMap (·.msgs) ++ (h.taking.map (·.1)).toList ++ d.fleet.parts.filter fun m => m.shard == h.shard && m.replyTo == 0

/-- They are given up, so that their resends are judged afresh (R436, R445). -/
def releaseHeld (k : Nat) (d : Dev) : Dev :=
  match d.host k with
  | none => d
  | some h =>
    let d := release (d.heldMsgs h) d
    (d.setHost k fun h => { h with pubs := [], acks := [], taking := none }).setFleet fun f => { f with parts := f.parts.filter fun m => m.shard != k }

/-- A hosted shard becomes ABSENT, and its index slot EMPTY (R439). -/
def dropShard (k cause : Nat) (d : Dev) : Dev :=
  match d.host k with
  | none => d
  | some h =>
    let d := match h.handing with
      | some x => finish x.1 (.conflict 0x0901) d
      | none => d
    let d := match h.promote with
      | some t => finish t (.conflict 0x0901) d
      | none => d
    let d := emptyIndex h.slot (if cause = 2 then 1 else 0) (mergeAbandon h.slot (.of stAborted) (releaseHeld k d))
    let d := d.setFleet fun f => { f with
      hosted := f.hosted.filter fun x => x.shard != k
      reqs := f.reqs.filter fun r => !(r.msg.shard == k && (r.msg.kind == 0x12 || r.msg.kind == 0x30 || r.msg.kind == 0x32 || r.msg.kind == 0x34)) }
    evShard k .absent cause d

/-- A SYNCING holder asks the primary for the next revision it lacks (R440). -/
def syncStart (k : Nat) (d : Dev) : Dev :=
  match d.host k, d.shardEntry k with
  | some h, some e =>
    let d := d.setFleet fun f => { f with reqs := f.reqs.filter fun r => !(r.msg.shard == k && r.msg.kind == 0x32) }
    sendReq 0x32 (ePrimary e) k 0 (.syncReq (if h.fullSync then 0 else h.rev + 1) h.st.code) d
  | _, _ => d

/-! ### Revisions (R444, R445) -/

/-- A revision is applied to the shard's index, nodes and watermarks; none where the index has no room for it. -/
def applyRevision (k : Nat) (r : Revision) (d : Dev) : Option Dev :=
  match d.host k with
  | none => none
  | some h =>
    let x := d.ix h.slot
    let adds := r.items.filter fun i => i.kind = 0
    match appendVecs h.slot (adds.map fun i => padTo x.vecBytes i.descr) d with
    | (_, .inr _) => none
    | (d, .inl id0) =>
      let gone := (r.items.filter fun i => i.kind = 2).map (·.kf)
      let dead (n : ShardNode) : Bool := n.live && n.pub == r.pub && gone.contains n.kf
      let hits := (h.nodes.filter dead).map (·.id)
      let te := if hits.isEmpty then x.te else x.te + 1
      let d := d.setIx h.slot fun y => { y with te := te, tombs := y.tombs ++ hits.map fun n => (n, te) }
      let move (n : ShardNode) : ShardNode :=
        if dead n then { n with live := false } else
        match (r.items.find? fun i => i.kind == 1 && i.kf == n.kf) with
        | some i => if n.live && n.pub == r.pub then { n with pose := i.pose } else n
        | none => n
      let new := adds.mapIdx fun i a => ({ id := id0 + i, pub := r.pub, kf := a.kf, tov := a.tov, pose := a.pose } : ShardNode)
      let d := d.setHost k fun h => { h with
        rev := r.num, revs := (r :: h.revs).take 4096, nodes := h.nodes.map move ++ new
        marks := (r.pub, r.mapEpoch) :: h.marks.filter fun m => m.1 != r.pub }
      let d := d.setFleet fun f => { f with revisions := f.revisions + 1 }
      let y := d.ix h.slot
      some (if y.sideCap < 2 * y.side && y.st == .ready then (mergeCut h.slot none ((d.ix h.slot).idEnd, (d.ix h.slot).te) d).1 else d)

/-- The last map epoch applied from a publisher (R444). -/
def Hosted.mark (h : Hosted) (pub : Nat) : Nat := ((h.marks.find? fun m => m.1 == pub).map (·.2)).getD 0

/-- Holders in state REPLICA, as far as this part knows. -/
def Hosted.replicas (h : Hosted) : List Nat := (h.peers.filter fun p => p.2 == 0x0903).map (·.1)

/-- PUBLISH_ACK leaves for every revision that enough replicas have acknowledged (R445). -/
def ackCheck (k : Nat) (d : Dev) : Dev :=
  match d.host k with
  | none => d
  | some h =>
    let need := min d.fleet.replAck.toNat h.replicas.length
    let ready := h.acks.filter fun a => decide (need ≤ a.got.length)
    let d := d.setHost k fun h => { h with acks := h.acks.filter fun a => !decide (need ≤ a.got.length) }
    ready.foldl (fun d a => a.msgs.foldl (fun d m => sendReply m 0x11 0 (.publishAck a.mapEpoch) true d) d) d

/-- One publication that a primary holds is handled (R444), if one can be; none while the part answers nothing (R424, R441). -/
def pubStep (k : Nat) (d : Dev) : Dev :=
  match d.host k with
  | none => d
  | some h =>
    if h.st != .primary || !d.fleetOn then d else
    match h.pubs.find? fun p => decide (p.mapEpoch ≤ h.mark p.src) || p.prev == h.mark p.src with
    | none => d
    | some p =>
      let drop (d : Dev) : Dev := d.setHost k fun h => { h with pubs := h.pubs.erase p }
      if p.mapEpoch ≤ h.mark p.src then
        let d := (drop d).setFleet fun f => { f with publishDup := satInc f.publishDup }
        p.msgs.foldl (fun d m => sendReply m 0x11 0 (.publishAck p.mapEpoch) true d) d
      else
        let r : Revision := { num := h.rev + 1, pub := p.src, mapEpoch := p.mapEpoch, items := p.items }
        match applyRevision k r d with
        | none => d
        | some d =>
          let d := (drop d).setHost k fun h => { h with acks := h.acks ++ [{ num := r.num, mapEpoch := p.mapEpoch, msgs := p.msgs }] }
          let holders := (h.peers.filter fun q => q.2 == 0x0902 || q.2 == 0x0903).map (·.1)
          ackCheck k (holders.foldl (fun d q => sendReq 0x12 q k 0 (.revision r) d) d)

/-- Every publication that can be handled, in turn. -/
def pubsRun (k : Nat) (d : Dev) : Dev :=
  (List.range (((d.host k).map (·.pubs.length)).getD 0)).foldl (fun d _ => pubStep k d) d

/-! ### Moving roles (R450-R455) -/

/-- A holder becomes PRIMARY; `notify` sends ROLE_NOTICE to the other holders of the entry but those named. -/
def becomePrimary (k cause : Nat) (notify : Bool) (but : List Nat) (d : Dev) : Dev :=
  match d.host k, d.shardEntry k with
  | some h, some e =>
    let d := shardState k .primary cause d
    let d := d.setFleet fun f => { f with reqs := f.reqs.filter fun r => !(r.msg.shard == k && r.msg.kind == 0x32) }
    let d := if h.st == .claiming && !h.unheard.isEmpty then
        evFrom 16 0 0x1006 1 (det [(16, [BitVec.ofNat 8 h.unheard.length]), (20, leBytes 4 k)]) d
      else d
    let d := match h.promote with
      | some t => finish t (.ok (eEpoch e)) d
      | none => d
    let d := d.setHost k fun h => { h with promote := none, unheard := [], taking := none }
    let d := if notify then
        ((eHolders e).filter fun q => q != d.devId && !but.contains q).foldl (fun d q => sendReq 0x30 q k 0 (.notice e) d) d
      else d
    pubsRun k d
  | _, _ => d

/-- A holder enters CLAIMING and asks every other holder for its latest revision (R453). -/
def startClaim (k cause : Nat) (t : Option Tok) (d : Dev) : Dev :=
  match d.host k, d.shardEntry k with
  | some h, some e =>
    let others := (eHolders e).filter fun q => q != d.devId
    let d := shardState k .claiming cause (d.setHost k fun h => { h with claimEnd := d.now + 200 * msNs, unheard := others, promote := t })
    let d := others.foldl (fun d q => sendReq 0x32 q k 0 (.syncReq (h.rev + 1) ShSt.claiming.code) d) d
    if others.isEmpty then becomePrimary k cause false [] d else d
  | _, _ => d

/-- A primary or claimant loses the role to another (R439, R455): it syncs afresh. -/
def demote (k cause : Nat) (d : Dev) : Dev :=
  match d.host k with
  | none => d
  | some h =>
    let epoch := ((d.shardEntry k).map eEpoch).getD 0
    let d := match h.handing with
      | some x => finish x.1 (.conflict (((h.peers.find? fun p => p.1 == x.2.1).map (·.2)).getD 0x0901)) d
      | none => d
    let d := match h.promote with
      | some t => finish t { (Cpl.of stRoleStale) with result0 := BitVec.ofNat 64 epoch } d
      | none => d
    let d := releaseHeld k ((h.pubs.flatMap (·.msgs)).foldl (fun d m => sendBounce m d) d)
    let d := d.setHost k fun h => { h with handing := none, promote := none, peers := [], fullSync := true, unheard := [] }
    let d := d.setFleet fun f => { f with reqs := f.reqs.filter fun r => !(r.msg.shard == k && (r.msg.kind == 0x12 || r.msg.kind == 0x30 || r.msg.kind == 0x34)) }
    syncStart k (shardState k .syncing cause d)

/-- Entry `e` is newer than `old`: a higher epoch, or the same with a lower primary (R438). -/
def newerEntry (old e : Bytes) : Bool :=
  decide (eEpoch old < eEpoch e) || (eEpoch old == eEpoch e && decide (ePrimary e < ePrimary old))

/-- An entry is taken; a hosted shard moves as *Shard states* states. -/
def takeEntry (k : Nat) (e : Bytes) (cause : Nat) (d : Dev) : Dev :=
  match d.shardEntry k with
  | none => d
  | some old =>
    let d := setEntry k e d
    if eEpoch old = eEpoch e && ePrimary old = ePrimary e then d else
    match d.host k with
    | none => d
    | some h =>
      if ePrimary e = d.devId then
        match h.st with
        | .syncing => startClaim k cause none d
        | .replica => becomePrimary k cause false [] d
        | _ => d
      else match h.st with
        | .syncing => syncStart k d
        | .replica => d
        | .absent => d
        | _ => demote k (if eEpoch old = eEpoch e then 3 else cause) d

/-- A hosted shard restarts: after a full reset, on a join and on leaving base-metal mode (R441). -/
def restartShard (k : Nat) (d : Dev) : Dev :=
  match d.host k, d.shardEntry k with
  | some _, some e =>
    let d := (releaseHeld k d).setHost k fun h => { h with handing := none, promote := none, peers := [], unheard := [] }
    if ePrimary e = d.devId then startClaim k 0 none d else syncStart k (shardState k .syncing 0 d)
  | _, _ => d
def restartShards (d : Dev) : Dev := (d.fleet.hosted.map (·.shard)).foldl (fun d k => restartShard k d) d

/-! ### Messages received (R434, R436, R438, R450) -/

/-- The roles in which a holder acts on a request (R450). -/
def roleFits (kind : Nat) (st : ShSt) : Bool :=
  match kind with
  | 0x10 => st == .primary || st == .handingOver
  | 0x20 => st == .primary || st == .replica
  | 0x12 => st == .replica || st == .syncing
  | 0x34 => st == .replica
  | _ => st != .absent

/-- A request names a shard whose role it needs. -/
def needsRole (kind : Nat) : Bool := kind == 0x10 || kind == 0x12 || kind == 0x20 || kind == 0x32 || kind == 0x34

/-- The part acts on a request for a shard: it is at the epoch held, and this part has the role that it needs (R450). -/
def Dev.actsOn (d : Dev) (m : SxpMsg) : Bool :=
  ((d.shardEntry m.shard).map eEpoch) == some m.epoch && roleFits m.kind (d.shardSt m.shard)

/-- A whole message: its header brings the entry up to date, a repeat is answered from the kept reply, a request at
another epoch or without its role is bounced, and what remains waits for its command. -/
def deliver (m : SxpMsg) (d : Dev) : Dev :=
  let d := match d.shardEntry m.shard with
    | some e =>
      let e' := eHeader e m.epoch m.primary
      if m.shard != 0 && m.primary != 0xFFFF && m.kind != 0x35 && newerEntry e e' then takeEntry m.shard e' 1 d else d
    | none => d
  if m.replyTo != 0 then takeIn m d
  else if d.skewed m.time then d.setFleet fun f => { f with skew := satInc f.skew }
  else match d.fleet.kept.filter fun r => r.src == m.src && r.msgId == m.msgId && decide (d.now < r.until_) with
  | [] =>
    if d.fleet.taken.contains (m.src, m.msgId) then d
    else if needsRole m.kind && !d.actsOn m then sendBounce m d
    else takeIn m (d.setFleet fun f => { f with taken := f.taken ++ [(m.src, m.msgId)] })
  | l => l.foldl (fun d r => txMsg m.src r.msg d) d

/-- A whole message on the SXP receive stream (*Touchstone taps*, tap 13; R473). -/
def sxpTap (m : SxpMsg) (d : Dev) : Dev :=
  let sel (v : Nat) : Bool := v % 65536 == 0xFFFF || v % 65536 == m.src
  tsEnd 13 sel (tsFeed 13 sel (msgImage m) (tsBegin 13 sel d))

/-- A protected datagram (R424, R434, R436). A message whose fragments hold more than 4 MiB is discarded (DESIGN CHOICE,
notes/assumptions/31.md). -/
def sxpDatagram (g : SxpDgram) (d : Dev) : Dev :=
  match d.fleet.sessions.find? fun s => s.id == g.session && s.st == .opened with
  | none => d
  | some s =>
    if (!s.admin && !d.fleetOn) || decide (8952 < g.len) then d else
    match sessionRx s g.seq (s.opens g.seq (g.len - 16) g.sealedBytes) d with
    | (d, false) => d
    | (d, true) =>
      if g.count = 0 || 4096 < g.count || g.count ≤ g.frag then d else
      let m := { g.msg with src := if s.admin then 0xFFFF else g.msg.src }
      let id := m.msgId
      let r : Reasm := (d.fleet.reasm.find? fun r => r.session == s.id && r.msgId == id && r.count == g.count).getD
        { session := s.id, msgId := id, count := g.count, firstAt := d.now, msg := m }
      let r : Reasm := if r.got.contains g.frag then r else { r with got := g.frag :: r.got, bytes := r.bytes + (g.len - 40) }
      let rest := d.fleet.reasm.filter fun x => !(x.session == s.id && x.msgId == id)
      if 4194304 < r.bytes then d.setFleet fun f => { f with reasm := rest }
      else if r.got.length < r.count then d.setFleet fun f => { f with reasm := rest ++ [r] }
      else deliver r.msg (sxpTap r.msg (d.setFleet fun f => { f with reasm := rest }))

/-! ### Messages acted on -/

/-- PUBLISH at a primary (R444, R450, R452). -/
def onPublish (d : Dev) : Dev :=
  match takeMsg 0x10 d with
  | none => d
  | some (m, d) =>
    match m.body, d.host m.shard with
    | .publish me prev items, some _ =>
      if !d.actsOn m then sendBounce m d else
      pubsRun m.shard (d.setHost m.shard fun h => { h with pubs := h.pubs ++ [{
        src := m.src, mapEpoch := me, prev := prev, items := items, msgs := [m] }] })
    | _, _ => sendBounce m d

/-- PUBLISH_ACK at a publisher (R443, R445). -/
def onPublishAck (d : Dev) : Dev :=
  match takeMsg 0x11 d with
  | none => d
  | some (m, d) =>
    let acked (p : PubOut) : PubOut :=
      if !(p.msgIds.contains m.replyTo) then p else
      let ids := p.msgIds.filter (· != m.replyTo)
      if ids.isEmpty then { p with out := none, msgIds := [], late := false } else { p with msgIds := ids }
    dropReq m.replyTo (d.setFleet fun f => { f with pubs := f.pubs.map acked })

/-- REVISION at a holder: applied in revision order only (R445). -/
def onRevision (d : Dev) : Dev :=
  match takeMsg 0x12 d with
  | none => d
  | some (m, d) =>
    match m.body, d.host m.shard with
    | .revision r, some h =>
      if !d.actsOn m then sendBounce m d
      else if r.num ≤ h.rev && !h.fullSync then sendReply m 0x13 0 (.revisionAck h.rev h.st.code) true d
      else if r.num = h.rev + 1 && !h.fullSync then
        match applyRevision m.shard r d with
        | some d => sendReply m 0x13 0 (.revisionAck r.num h.st.code) true d
        | none => release [m] d
      else syncStart m.shard (release [m] d)
    | _, _ => sendBounce m d

/-- A holder's state becomes known. -/
def notePeer (k dev state : Nat) (d : Dev) : Dev :=
  d.setHost k fun h => { h with peers := (dev, state) :: h.peers.filter fun p => p.1 != dev }

/-- REVISION_ACK at the primary (R445). -/
def onRevisionAck (d : Dev) : Dev :=
  match takeMsg 0x13 d with
  | none => d
  | some (m, d) =>
    let d := dropReq m.replyTo d
    match m.body with
    | .revisionAck n st =>
      let d := notePeer m.shard m.src st d
      if st != 0x0903 then ackCheck m.shard d else
      let got (a : AckWait) : AckWait := if a.num ≤ n && !(a.got.contains m.src) then { a with got := m.src :: a.got } else a
      ackCheck m.shard (d.setHost m.shard fun h => { h with acks := h.acks.map got })
    | _ => d

/-- QUERY at a holder: it runs as a PLACE_QUERY of the fleet-service class (R447). -/
def onQuery (d : Dev) : Dev :=
  match takeMsg 0x20 d with
  | none => d
  | some (m, d) =>
    match m.body, d.host m.shard with
    | .query k len rr vecs, some h =>
      let x := d.ix h.slot
      if !d.actsOn m || (x.st != .ready && x.st != .merging) then sendBounce m d else
      let n := d.fleet.nextServe
      let d := d.setFleet fun f => { f with nextServe := n + 1, serving := f.serving ++ [(n, m)] }
      addJob { id := 0, owner := .fleet n, seq := d.hif.fetches, index := h.slot, low := true, k := k, rerank := rr, len := len
               vecs := vecs.map (padTo x.vecBytes) } d
    | _, _ => sendBounce m d

/-- One query's answer with its nodes' publishers and poses. -/
def fleetAnswer (h : Hosted) (b : Bytes) : List FleetEnt :=
  (List.range (fld b 4 2)).map fun i =>
    let id := fld b (64 + 16 * i) 4
    let e : FleetEnt := { id := id, dist := sInt 32 (fld b (68 + 16 * i) 4) }
    match h.nodes.find? fun n => n.id == id with
    | some n => { e with pub := n.pub, kf := n.kf, pose := n.pose }
    | none => e

/-- Fleet-service queries that have ended are answered (R447); one whose index was lost is bounced. -/
def serveEnded (d : Dev) : Dev :=
  (d.place.ended.reverse).foldl (fun d x =>
    match x.1.owner with
    | .fleet n =>
      let d := d.setPlace fun p => { p with ended := p.ended.filter fun y => y != x }
      match d.fleet.serving.find? fun s => s.1 == n with
      | none => d
      | some s =>
        let d := d.setFleet fun f => { f with serving := f.serving.filter fun y => y.1 != n }
        match x.2, d.host s.2.shard with
        | true, some h =>
          let l := inOrder x.1.done fun a b => decide (a.1 ≤ b.1)
          sendReply s.2 0x21 0 (.queryResult (l.map fun y => (y.2.1, fleetAnswer h y.2.2))) true
            (d.setFleet fun f => { f with served := f.served + 1 })
        | _, _ => sendBounce s.2 d
    | _ => d) d

/-- ROLE_NOTICE: the entry is taken whole (R438). -/
def onRoleNotice (d : Dev) : Dev :=
  match takeMsg 0x30 d with
  | none => d
  | some (m, d) =>
    let d := match m.body, d.shardEntry m.shard with
      | .notice e, some old => if newerEntry e old then d else takeEntry m.shard e 1 d
      | _, _ => d
    let h := d.host m.shard
    sendReply m 0x31 0 (.revisionAck ((h.map (·.rev)).getD 0) (d.shardSt m.shard).code) true d

/-- NOTICE_ACK: the new primary learns the holder's state, and sends a REPLICA the revisions it lacks (R445, R452). -/
def onNoticeAck (d : Dev) : Dev :=
  match takeMsg 0x31 d with
  | none => d
  | some (m, d) =>
    let d := dropReq m.replyTo d
    match m.body, d.host m.shard with
    | .revisionAck n st, some h =>
      let d := notePeer m.shard m.src st d
      if st != 0x0903 then d else
      (h.revs.reverse.filter fun r => decide (n < r.num)).foldl (fun d r => sendReq 0x12 m.src m.shard 0 (.revision r) d) d
    | _, _ => d

/-- A full copy of a shard as it stands (R440). -/
def Dev.copyOf (d : Dev) (h : Hosted) : ShardCopy :=
  let x := d.ix h.slot
  { rev := h.rev, vecs := x.vecs, codes := x.codes, lists := x.cur.lists, gEnd := x.cur.gEnd, entry := x.cur.entry, holes := x.cur.holes
    tombs := x.tombs, nodes := h.nodes, marks := h.marks }

/-- SYNC_REQ: revisions from the one asked for, where they are held, else a full copy (R440, R453). -/
def onSyncReq (d : Dev) : Dev :=
  match takeMsg 0x32 d with
  | none => d
  | some (m, d) =>
    match m.body, d.host m.shard with
    | .syncReq next st, some h =>
      if !d.actsOn m then sendBounce m d else
      let have_ := next != 0 && (decide (h.rev < next) || h.revs.any fun r => r.num == next)
      let revs := if have_ then (h.revs.filter fun r => decide (next ≤ r.num)).reverse else []
      let copy := if have_ then none else some (d.copyOf h)
      let d := if h.st == .primary && st != 0x0906 then notePeer m.shard m.src 0x0903 d else d
      sendReply m 0x33 0 (.syncData copy revs h.rev h.st.code) true d
    | _, _ => sendBounce m d

/-- A full copy replaces the shard's index, nodes and watermarks. -/
def takeCopy (k : Nat) (c : ShardCopy) (d : Dev) : Dev :=
  match d.host k with
  | none => d
  | some h =>
    let d := mergeAbandon h.slot (.of stAborted) d
    let d := d.setIx h.slot fun x => { x with
      vecs := c.vecs, codes := c.codes, old := x.cur :: x.old, tombs := c.tombs, te := max x.te ((c.tombs.map (·.2)).foldl max 0)
      cur := { num := x.cur.num + 1, gEnd := c.gEnd, lists := c.lists, entry := c.entry, holes := c.holes } }
    dropVersions h.slot (d.setHost k fun h => { h with rev := c.rev, revs := [], nodes := c.nodes, marks := c.marks, fullSync := false })

/-- SYNC_DATA at a syncing holder or a claimant (R440, R453). -/
def onSyncData (d : Dev) : Dev :=
  match takeMsg 0x33 d with
  | none => d
  | some (m, d) =>
    let asked := d.fleet.reqs.any fun r => r.msg.msgId == m.replyTo
    let d := dropReq m.replyTo d
    match m.body, d.host m.shard with
    | .syncData copy revs latest st, some h =>
      if !asked || (h.st != .syncing && h.st != .claiming) then d else
      let d := match copy with
        | some c => if h.fullSync || decide (h.rev < c.rev) then takeCopy m.shard c d else d
        | none => d
      let d := revs.foldl (fun d r =>
        if ((d.host m.shard).map (·.rev)) = some (r.num - 1) && 0 < r.num then (applyRevision m.shard r d).getD d else d) d
      let d := if st = 0x0903 || st = 0x0902 then notePeer m.shard m.src st d else d
      match d.host m.shard with
      | none => d
      | some h =>
        if h.st == .claiming then
          let left := h.unheard.filter (· != m.src)
          let d := d.setHost m.shard fun h => { h with unheard := left }
          if left.isEmpty then becomePrimary m.shard 0 true [] d else d
        else if latest ≤ h.rev && !h.fullSync then shardState m.shard .replica 0 d
        else syncStart m.shard d
    | _, _ => d

/-- CLAIMING's 200 ms end (R453). -/
def claimTimeout (k : Nat) (d : Dev) : Dev :=
  match d.host k with
  | some h => if h.st == .claiming && decide (h.claimEnd ≤ d.now) then becomePrimary k 0 true [] d else d
  | none => d

/-- HANDOVER_REQ at the successor: it takes the role once it has the latest revision (R452). -/
def handoverCheck (k : Nat) (d : Dev) : Dev :=
  match d.host k, d.shardEntry k with
  | some h, some e =>
    match h.taking with
    | some (m, latest) =>
      if h.st != .replica || h.rev < latest then d else
      let e' := eMoved e (eEpoch e + 1) d.devId
      let d := setEntry k e' (d.setHost k fun h => { h with taking := none })
      let d := sendReply m 0x35 0 (.handoverAck e') true d
      becomePrimary k 1 true [m.src] (notePeer k m.src 0x0903 d)
    | none => d
  | _, _ => d
def onHandoverReq (d : Dev) : Dev :=
  match takeMsg 0x34 d with
  | none => d
  | some (m, d) =>
    match m.body, d.shardSt m.shard with
    | .handoverReq latest, .replica => if !d.actsOn m then sendBounce m d else handoverCheck m.shard (d.setHost m.shard fun h => { h with taking := some (m, latest) })
    | _, _ => sendBounce m d

/-- HANDOVER_ACK: the old primary becomes REPLICA, and the publications it held are bounced (R452). -/
def onHandoverAck (d : Dev) : Dev :=
  match takeMsg 0x35 d with
  | none => d
  | some (m, d) =>
    let d := dropReq m.replyTo d
    match m.body, d.host m.shard, d.shardEntry m.shard with
    | .handoverAck e, some h, some old =>
      match h.handing with
      | some (t, succ, _) =>
        if succ != m.src then d else
        let d := finish t (.ok (eEpoch e)) (setEntry m.shard e d)
        let d := releaseHeld m.shard ((h.pubs.flatMap (·.msgs)).foldl (fun d q => sendBounce q d) d)
        shardState m.shard .replica 0 (d.setHost m.shard fun h => { h with handing := none, peers := [] })
      | none => if newerEntry old e then takeEntry m.shard e 1 d else d
    | _, _, _ => d

/-- A handover that does not finish in time leaves the old primary (R452). -/
def handoverTimeout (k : Nat) (d : Dev) : Dev :=
  match d.host k with
  | none => d
  | some h =>
    match h.handing with
    | some (t, succ, end_) =>
      if d.now < end_ then d else
      let code := ((h.peers.find? fun p => p.1 == succ).map (·.2)).getD 0x0901
      let d := d.setFleet fun f => { f with reqs := f.reqs.filter fun r => !(r.msg.shard == k && r.msg.kind == 0x34) }
      pubsRun k (shardState k .primary 0 (finish t (.conflict code) (d.setHost k fun h => { h with handing := none })))
    | none => d

/-- BOUNCE: the entry is taken, and the bounced message goes to the holder that the new entry names (R451). -/
def onBounce (d : Dev) : Dev :=
  match takeMsg 0x40 d with
  | none => d
  | some (m, d) =>
    let d := d.setFleet fun f => { f with bounceRecv := satInc f.bounceRecv }
    match m.body, d.shardEntry m.shard with
    | .bounce e id, some old =>
      let d := if newerEntry e old then d else takeEntry m.shard e 1 d
      let e := (d.shardEntry m.shard).getD old
      match d.fleet.reqs.find? fun r => r.msg.msgId == id with
      | none => d
      | some r =>
        let k := r.msg.kind
        if k != 0x10 && k != 0x20 && k != 0x32 then dropReq id d else
        let again (q : FleetQ) : FleetQ :=
          let mine (s : QShard) : Bool := s.msgIds.contains id
          if q.shards.any mine then
            { q with rerouted := true, shards := q.shards.map fun s => if mine s then { s with deadline := d.now + q.timeoutMs * msNs } else s }
          else q
        let d := d.setFleet fun f => { f with queries := f.queries.map again }
        if eEpoch e = r.msg.epoch && ePrimary e = r.msg.primary then d else
        pumpReq id (d.setFleet fun f => { f with
          taken := f.taken.filter fun x => x != (d.devId, id)
          reqs := f.reqs.map fun r => if r.msg.msgId = id then
            { r with peer := ePrimary e, sends := 0, msg := { r.msg with dst := ePrimary e, epoch := eEpoch e, primary := ePrimary e } } else r })
    | _, _ => d

/-! ### Publishing (R442, R443) -/

/-- A keyframe's pose carried into F (spec/14, "Shards and the shard table"). -/
def Dev.inF (d : Dev) (pose : Bytes) : Bytes :=
  let t (k : Nat) : Int := sInt 64 (fld d.fleet.frame (8 * k) 8)
  let q (k : Nat) : Int := sInt 32 (fld d.fleet.frame (24 + 4 * k) 4)
  let p (k : Nat) : Int := sInt 64 (fld pose (8 * k) 8)
  let o (k : Nat) : Int := sInt 32 (fld pose (24 + 4 * k) 4)
  let norm := (q 0 * q 0 + q 1 * q 1 + q 2 * q 2 + q 3 * q 3).toNat
  let pos := (List.range 3).flatMap fun i =>
    let r := rotRow (q 0) (q 1) (q 2) (q 3) i
    leBytes 8 (sNat 64 (sSat 64 (t i + roundDiv (r.1 * p 0 + r.2.1 * p 1 + r.2.2 * p 2) norm)))
  let rot := [q 0 * o 0 - q 1 * o 1 - q 2 * o 2 - q 3 * o 3, q 0 * o 1 + q 1 * o 0 + q 2 * o 3 - q 3 * o 2,
    q 0 * o 2 - q 1 * o 3 + q 2 * o 0 + q 3 * o 1, q 0 * o 3 + q 1 * o 2 - q 2 * o 1 + q 3 * o 0]
  pos ++ rot.flatMap fun v => leBytes 4 (sNat 32 (sSat 32 (roundDiv v (2 ^ 30))))

/-- A pose in F lies in an entry's tile (R437). -/
def inTile (e pose : Bytes) : Bool :=
  let t := eTile e
  let p (k : Nat) : Int := sInt 64 (fld pose (8 * k) 8)
  let m (k : Nat) : Int := t.getD k 0 * (2 ^ 32 : Nat)
  decide (m 0 ≤ p 0 ∧ p 0 < m 2 ∧ m 1 ≤ p 1 ∧ p 1 < m 3)

/-- A keyframe's place descriptor (R443). -/
def Dev.kfDescr (d : Dev) (kf : Nat) : Bytes := ((d.est.kfDescrs.find? fun a => a.1 == kf).map (·.2)).getD []

/-- What a publication to a shard carries: keyframes that later epochs added or moved, and those that left its tile. -/
def Dev.pubItems (d : Dev) (e : Bytes) (p : PubOut) : List PubItem :=
  d.est.kfs.filterMap fun k =>
    if k.epoch ≤ p.last then none else
    let pose := d.inF k.pose
    let here := inTile e pose
    let known := p.known.contains k.id
    if here && !known then some { kind := 0, kf := k.id, tov := k.tov, pose := pose, descr := d.kfDescr k.id }
    else if here then some { kind := 1, kf := k.id, pose := pose }
    else if known then some { kind := 2, kf := k.id }
    else none

/-- A publication to one shard, unless one is unacknowledged (R443); its epoch is from then on the last one sent there (R442). -/
def publishTo (e : Bytes) (d : Dev) : Dev :=
  let k := fld e 0 4
  let p := (d.fleet.pubs.find? fun p => p.shard == k).getD { shard := k }
  if p.out.isSome || decide (d.est.epoch ≤ p.last) then d else
  let items := d.pubItems e p
  if items.isEmpty then d else
  let body := SxpBody.publish d.est.epoch p.last items
  let known := (p.known.filter fun k => !(items.any fun i => i.kind == 2 && i.kf == k)) ++ (items.filter fun i => i.kind = 0).map (·.kf)
  let p := { p with last := d.est.epoch, known := known, out := some d.est.epoch, firstAt := d.now, late := false
                    msgIds := (List.range (partCount body)).map fun i => d.fleet.nextMsg + i }
  sendReq 0x10 (ePrimary e) k 0 body (d.setFleet fun f => { f with pubs := f.pubs.filter (fun q => q.shard != k) ++ [p] })

/-- Every publication that is due (R442, R443). -/
def publish (d : Dev) : Dev := if d.publishes then d.fleet.table.foldl (fun d e => publishTo e d) d else d

/-- EV_PUBLISH_LATE, once for a publication (R445). -/
def publishLate (k : Nat) (d : Dev) : Dev :=
  match d.fleet.pubs.find? fun p => p.shard == k with
  | none => d
  | some p =>
    match p.out with
    | some e =>
      if p.late || decide (d.now < p.firstAt + d.fleet.publishTmoS.toNat * sNs) then d else
      evFrom 16 0 0x1004 1 (det [(16, leBytes 4 k), (20, leBytes 8 e)])
        (d.setFleet fun f => { f with pubs := f.pubs.map fun q => if q.shard = k then { q with late := true } else q })
    | none => d

/-! ### Fleet queries (R446-R449, R457) -/

/-- Squared distance from a position (Q23.8 m) to a tile, in 2^-16 m². -/
def tileDist (e : Bytes) (x y : Int) : Nat :=
  let t := eTile e
  let gap (lo hi p : Int) : Int := max 0 (max (256 * lo - p) (p - 256 * hi))
  let a := gap (t.getD 0 0) (t.getD 2 0) x
  let b := gap (t.getD 1 0) (t.getD 3 0) y
  (a * a + b * b).toNat

/-- The shards picked: by distance, then shard ID (R446). Within a negative radius no tile lies. -/
def Dev.pickShards (d : Dev) (x y radius : Int) (most : Nat) : List Bytes :=
  let l := d.fleet.table.filter fun e => decide (0 ≤ radius ∧ (tileDist e x y * 65536 : Nat) ≤ radius * radius)
  (inOrder l fun a b => decide (tileDist a x y < tileDist b x y) || (tileDist a x y == tileDist b x y && decide (fld a 0 4 ≤ fld b 0 4))).take most

/-- The holder of a shard that a query asks next (R447, R448). -/
def askShard (qid k : Nat) (d : Dev) : Dev :=
  match d.fleet.queries.find? fun q => q.id == qid with
  | none => d
  | some q =>
    match q.shards.find? fun s => s.shard == k with
    | none => d
    | some s =>
      let id := d.fleet.nextMsg
      let d := d.setFleet fun f => { f with queries := f.queries.map fun y => if y.id = qid then
        { y with shards := y.shards.map fun z => if z.shard = k then
          { z with asked := z.asked + 1, msgIds := z.msgIds ++ [id], deadline := d.now + y.timeoutMs * msNs } else z } else y }
      sendReq 0x20 (s.holders.getD s.asked 0) k 0 (.query q.k q.len q.rerank q.vecs) d

/-- The merged entries of one vector: distance, then shard ID, then node ID (R448). -/
def mergeAnswers (q : FleetQ) (v : Nat) : List (Nat × FleetEnt) :=
  let l := q.shards.flatMap fun s => match s.answer with
    | some a => ((a.getD v (0, [])).2).map fun e => (s.shard, e)
    | none => []
  (inOrder l fun a b => decide (a.2.dist < b.2.dist) || (a.2.dist == b.2.dist &&
    (decide (a.1 < b.1) || (a.1 == b.1 && decide (a.2.id ≤ b.2.id))))).take q.k

/-- A vector's header and entries (*Fleet result header*, *Fleet result entry*). -/
def fleetBytes (q : FleetQ) (now v : Nat) : Nat × Bytes :=
  let l := mergeAnswers q v
  let ans := q.shards.filter fun s => s.answer.isSome
  let f := ans.foldl (fun f s => f ||| (((s.answer.getD []).getD v (0, [])).1 % 8)) 0
  let flags := f + 8 * bit (q.shards.any (·.missing)) + 16 * bit q.formatBad + 32 * bit q.rerouted
  let head := padTo 64 (leBytes 4 v ++ leBytes 2 l.length ++ leBytes 2 flags ++ leBytes 2 q.shards.length ++ leBytes 2 ans.length
    ++ leBytes 4 0 ++ leBytes 8 q.scattered ++ leBytes 8 now)
  let ent (x : Nat × FleetEnt) : Bytes := leBytes 4 x.1 ++ leBytes 4 x.2.id ++ leBytes 4 (sNat 32 x.2.dist) ++ leBytes 2 x.2.pub ++ [0, 0]
    ++ leBytes 8 x.2.kf ++ padTo 40 x.2.pose
  (flags, padTo (64 + 64 * q.k) (head ++ l.flatMap ent))

/-- A query whose every shard has answered or is missing completes (R448). -/
def queryCheck (qid : Nat) (d : Dev) : Dev :=
  match d.fleet.queries.find? fun q => q.id == qid with
  | none => d
  | some q =>
    if !(q.shards.all fun s => s.answer.isSome || s.missing) then d else
    let l := (List.range q.n).map (fleetBytes q d.tb64)
    let flags := l.foldl (fun f x => f ||| x.1) 0
    let r1 := q.n * (q.shards.filter (·.missing)).length
    let d := d.setFleet fun f => { f with queries := f.queries.filter fun y => y.id != qid }
    let c := if flags = 0 then Cpl.ok q.scattered r1 else Cpl.flagged flags q.scattered r1
    finish q.tok { c with dest := some q.dest, payload := l.flatMap (·.2) } d

/-- The requests of one shard's query end. -/
def dropAsked (s : QShard) (d : Dev) : Dev := s.msgIds.foldl (fun d m => dropReq m d) d

/-- QUERY_RESULT: the first answer of a shard is used (R448, R449). -/
def onQueryResult (d : Dev) : Dev :=
  match takeMsg 0x21 d with
  | none => d
  | some (m, d) =>
    match m.body, d.fleet.queries.find? (fun q => q.shards.any fun s => s.msgIds.contains m.replyTo) with
    | .queryResult l, some q =>
      match q.shards.find? fun s => s.msgIds.contains m.replyTo with
      | none => d
      | some s =>
        if s.answer.isSome || s.missing then dropReq m.replyTo d else
        let d := (dropAsked s d).setFleet fun f => { f with queries := f.queries.map fun y => if y.id = q.id then
          { y with shards := y.shards.map fun z => if z.shard = s.shard then { z with answer := some l } else z } else y }
        queryCheck q.id d
    | _, _ => dropReq m.replyTo d

/-- A shard gave no answer in time: the next holder is asked once, or the shard is missing (R448, R449). -/
def queryTimeout (qid k : Nat) (d : Dev) : Dev :=
  match d.fleet.queries.find? fun q => q.id == qid with
  | none => d
  | some q =>
    match q.shards.find? fun s => s.shard == k with
    | none => d
    | some s =>
      if s.answer.isSome || s.missing || decide (d.now < s.deadline) then d else
      let d := dropAsked s d
      if s.asked < 2 && s.asked < s.holders.length then askShard qid k d else
      let d := d.setFleet fun f => { f with
        shardMissing := satInc f.shardMissing
        queries := f.queries.map fun y => if y.id = qid then
          { y with shards := y.shards.map fun z => if z.shard = k then { z with missing := true } else z } else y }
      queryCheck qid d

/-- A request without a reply is sent again, up to five sends (R436, R445, R449). -/
def resendTimeout (msgId : Nat) (d : Dev) : Dev :=
  match d.fleet.reqs.find? fun r => r.msg.msgId == msgId with
  | none => d
  | some r =>
    if r.sends = 0 || d.now < r.nextAt || !d.fleetOn || (r.msg.kind == 0x10 && !d.publishes) then d else
    let again (d : Dev) : Dev := pumpReq msgId (d.setFleet fun f => { f with resend := satInc f.resend })
    let restart (d : Dev) : Dev := d.setFleet fun f => { f with reqs := f.reqs.map fun x => if x.msg.msgId = msgId then { x with sends := 0 } else x }
    if r.msg.kind = 0x20 then
      match (d.fleet.queries.flatMap (·.shards)).find? fun s => s.msgIds.contains msgId with
      | some s => if d.now < s.deadline && r.sends < 5 then again d else dropReq msgId d
      | none => dropReq msgId d
    else if r.sends < 5 then again d
    else match r.msg.kind with
      | 0x10 => again (restart d)
      | 0x12 => ackCheck r.msg.shard (notePeer r.msg.shard r.peer 0x0901 (dropReq msgId d))
      | 0x32 => if d.shardSt r.msg.shard == .syncing then again (restart d) else dropReq msgId d
      | _ => dropReq msgId d

/-! ### Opcodes (R456, R457) -/

/-- A descriptor that would write settings during an update completes with the update state (R505). -/
def Dev.lockedCpl (d : Dev) : Option Cpl := d.settingsLocked.map Cpl.conflict

/-- FLEET_CONFIG (*Membership states*, R425, R426). -/
def opFleetConfig : OpFn := fun c d =>
  let b := c.d.bytes 24 40
  let v4 := c.d.u8 26 = 4
  if 16383 < c.d.f 24 2 || (c.d.u8 26 != 4 && c.d.u8 26 != 6) || 31 < c.d.u8 27 || bitsOf 14 12 (c.d.f 28 2) != 0 || 7 < c.d.u8 30
      || 1 < c.d.u8 31 || (v4 && (beNat (c.d.bytes 32 4) % 16384 != 0 || leNat (c.d.bytes 36 12) != 0 || leNat (c.d.bytes 52 12) != 0)) then opDone d .bad
  else match d.lockedCpl with
  | some k => opDone d k
  | none =>
    if d.fleet.st == .joined then opDone d (.conflict 0x0914) else
    let was := d.devId
    let wasAddr := d.address was
    let d := d.setFleet fun f => { f with cfg := b, alt := false }
    let d := if d.address d.devId == wasAddr then d else
      match d.fleet.sessions.find? (·.admin) with
      | some s => sessionClose s.id d
      | none => d
    match d.fleet.st with
    | .off => opDone (fleetState .configured d) .ok
    | .enrolled => if d.devId = was then opDone d .ok else
        opDone (fleetState .configured (d.setFleet fun f => { f with enrolment := none })) .ok
    | _ => opDone d .ok

/-- The first check of R430 that the certificate received fails, numbered 1-4. -/
def Dev.certFault (d : Dev) (c : Bytes) : Option Nat :=
  if fld c 0 4 != 0x54434C46 || fld c 4 2 != 1 || leNat (sliceAt c 40 24) != 0 then some 1
  else if fld c 6 2 != d.devId then some 2
  else if sliceAt c 64 2592 != padTo 2592 (Config.identityKey d.serial.toNat) then some 3
  else if !Config.dsaVerify d.fleet.auth (c.take 2656) (c.drop 2656) then some 4
  else none

/-- FLEET_ENROL (R430): chunks in offset order; the final chunk of the authority key replaces the one received before, the final chunk of the
certificate is checked. -/
def opFleetEnrol : OpFn := fun c d =>
  let item := c.d.u8 24
  let fl := c.d.u8 25
  let n := c.d.f 28 4
  let off := c.d.f 40 4
  let total := if item = 0 then 2592 else 7283
  let first := fl % 2 == 1
  let final := fl.testBit 1
  if 1 < item || 3 < fl || n = 0 || 4096 < n || (first && off != 0) then opDone d .bad
  else match d.lockedCpl with
  | some k => opDone d k
  | none =>
    let have0 := if first then [] else if item = 0 then d.fleet.authIn else d.fleet.certIn
    if off != have0.length || total < off + n || (final && off + n != total) then opDone d .bad else
    let b := have0 ++ c.input d 32 n
    let kept := d.setFleet fun f =>
      if item = 0 then (if final then { f with auth := b, authIn := [] } else { f with authIn := b }) else { f with certIn := b }
    if item = 0 || !final then opDone kept .ok else
    match d.certFault b with
    | some k => opDone d { Cpl.bad with result1 := BitVec.ofNat 32 k }
    | none =>
      match d.fleet.st with
      | .off => opDone d (.conflict 0x0911)
      | .joined => opDone d (.conflict 0x0914)
      | _ => opDone (fleetState .enrolled (kept.setFleet fun f => { f with enrolment := some (f.auth, b) })) .ok

/-- Leaving closes what port 47811 had under way: sessions, messages, queries served for other parts and their walks (R424). Unacknowledged
publications stay. -/
def fleetLeave (d : Dev) : Dev :=
  let mine (j : PlaceJob) : Bool := match j.owner with
    | .fleet _ => true
    | _ => false
  let d := (d.place.jobs.filter mine).foldl (fun d j =>
    dropVersions j.index (d.setPlace fun p => { p with jobs := p.jobs.filter (fun x => x.id != j.id), ctx := p.ctx.filter fun c => c.job != j.id })) d
  let admin := (d.fleet.sessions.filter (·.admin)).map (·.id)
  (d.setPlace fun p => { p with ended := p.ended.filter fun x => !mine x.1 }).setFleet fun f => { f with
    sessions := f.sessions.filter (·.admin), reasm := f.reasm.filter fun r => admin.contains r.session, parts := [], serving := []
    inbox := f.inbox.filter fun m => m.kind == 0x50, taken := f.taken.filter fun x => x.1 == 0xFFFF
    reqs := f.reqs.filter fun r => r.msg.kind == 0x10, hosted := f.hosted.map fun h => { h with pubs := [], acks := [], taking := none } }

/-- FLEET_JOIN (*Membership states*, R424, R441). Publications that wait for their acknowledgement go on being sent after the next join (R442, R445). -/
def opFleetJoin : OpFn := fun c d =>
  match c.d.u8 24, d.fleet.st with
  | 1, .enrolled => opDone (restartShards (fleetState .joined d)) .ok
  | 1, .joined => opDone d .ok
  | 1, st => opDone d (.conflict st.code)
  | 0, .joined =>
    if d.fleet.hosted.any fun h => h.st == .primary || h.st == .handingOver || h.st == .claiming then opDone d (.of stObjectBusy) else
    opDone (fleetLeave (fleetState .enrolled d)) .ok
  | 0, _ => opDone d .ok
  | _, _ => opDone d .bad

/-- FLEET_FRAME: the rotation is checked as R141 checks q_b_s. -/
def opFleetFrame : OpFn := fun c d =>
  let q (k : Nat) : Int := sInt 32 (c.d.f (48 + 4 * k) 4)
  let n := q 0 * q 0 + q 1 * q 1 + q 2 * q 2 + q 3 * q 3
  if 2 ^ 44 < (n - (2 ^ 60 : Nat)).natAbs then opDone d .bad
  else match d.lockedCpl with
  | some k => opDone d k
  | none => opDone (d.setFleet fun f => { f with frame := c.d.bytes 24 40 }) .ok

/-- An entry as the index it describes, without residency and side capacity. -/
def entryIndex (e : Bytes) : PIndex :=
  { format := fld e 24 1, metric := fld e 25 1, dim := fld e 26 2, deg := fld e 28 1, codeBytes := fld e 29 1, idCap := fld e 56 4, fleet := true }

/-- Two tiles overlap. -/
def tilesMeet (a b : Bytes) : Bool :=
  let t := eTile a
  let u := eTile b
  let g (l : List Int) (k : Nat) : Int := l.getD k 0
  decide (max (g t 0) (g u 0) < min (g t 2) (g u 2) ∧ max (g t 1) (g u 1) < min (g t 3) (g u 3))

/-- The checks of an entry at offset `o`, after the entries `before` it, as (offset, check) in the order of the fields (*Shard entry*,
R437). -/
def entryChecks (o : Nat) (before : List Bytes) (e : Bytes) : List (Nat × Bool) :=
  [(o, decide (1 ≤ fld e 0 4 ∧ fld e 0 4 ≤ 0xFFFFFFFE) && before.all fun y => fld y 0 4 != fld e 0 4), (o + 4, decide (1 ≤ eEpoch e)), (o + 8, decide (ePrimary e ≤ 16383))]
    ++ (List.range 7).map (fun i => let r := fld e (10 + 2 * i) 2
         (o + 10 + 2 * i, r == 0xFFFF || (decide (r ≤ 16383) && r != ePrimary e)))
    ++ ixChecks (o + 24) (o + 25) (o + 26) (o + 28) (o + 29) (entryIndex e)
    ++ [(o + 30, fld e 30 2 == 0), (o + 32, before.all fun y => !tilesMeet y e), (o + 56, decide (1 ≤ fld e 56 4 ∧ fld e 56 4 ≤ 1200000000)), (o + 60, fld e 60 4 == 0)]

/-- The byte offset of the first field at fault in a table (R437). -/
def shardFault (l : List Bytes) : Option Nat :=
  (l.zipIdx).findSome? fun x => firstFault (entryChecks (64 * x.2) (l.take x.2) x.1)

/-- SHARD_TABLE (R437-R439). -/
def opShardTable : OpFn := fun c d =>
  let fl := c.d.u8 24
  let n := c.d.f 28 4
  let at0 := c.d.f 40 4
  let first := fl % 2 == 1
  if 3 < fl || n = 0 || 65536 < n || (first && at0 != 0) then opDone d .bad
  else match d.lockedCpl with
  | some k => opDone d k
  | none =>
    if d.fleet.st != .joined then opDone d (.conflict d.fleet.st.code) else
    let have0 := if first then [] else d.fleet.tableIn
    if at0 != have0.length || 65536 < at0 + n then opDone d .bad else
    let l := have0 ++ pieces 64 n (c.input d 32 (64 * n))
    if !fl.testBit 1 then opDone (d.setFleet fun f => { f with tableIn := l }) .ok else
    match shardFault l with
    | some o => opDone d { Cpl.bad with result0 := BitVec.ofNat 64 o }
    | none =>
      let old := d.fleet.table
      let pick (e : Bytes) : Bytes := match old.find? fun x => fld x 0 4 == fld e 0 4 with
        | some x => if eEpoch e < eEpoch x then eHeader e (eEpoch x) (ePrimary x) else e
        | none => e
      let new := l.map pick
      let known := new.filter fun e => old.any fun x => fld x 0 4 == fld e 0 4
      let d := d.setFleet fun f => { f with tableIn := [], table := old.filter fun x => known.any fun e => fld e 0 4 == fld x 0 4 }
      let d := known.foldl (fun d e => takeEntry (fld e 0 4) e 0 d) d
      opDone (d.setFleet fun f => { f with table := new }) (.ok new.length)

/-- What every shard opcode but SHARD_STATUS asks: the part is JOINED and the shard is in the table (R439, R457). -/
def shardGuard (k : Nat) (d : Dev) (f : Bytes → Dev × OpResult) : Dev × OpResult :=
  match d.shardEntry k with
  | none => opDone d .bad
  | some e => if d.fleet.st != .joined then opDone d (.conflict d.fleet.st.code) else f e

/-- SHARD_HOST (*Shard states*, R457, R422). -/
def opShardHost : OpFn := fun c d =>
  let k := c.d.f 24 4
  let i := c.d.u8 28
  let x := { entryIndex ((d.shardEntry k).getD []) with residency := c.d.u8 29, sideCap := c.d.f 32 4 }
  if i = 0 || 15 < i || 2 < x.residency || !(decide (1024 ≤ x.sideCap ∧ x.sideCap ≤ 16777216)) then opDone d .bad else
  shardGuard k d fun e =>
    if (d.host k).isSome then opDone d .ok
    else if !(eHolders e).contains d.devId then opDone d (.conflict 0x0901)
    else if (d.ix i).st != .empty then opDone d (.of stObjectBusy)
    else if !d.ixIdsFit x then opDone d .bad
    else
      let x := { x with proj := if x.format = 0 then Config.shake256 (sliceAt e 48 8) (8 * x.codeBytes * x.dim) else [] }
      match d.ixShort x with
      | some s => opDone d (shortCpl s)
      | none =>
        let d := ixState i .ready 0 ((makeObjects i 2 x d).setIx i fun _ => x)
        let mine := ePrimary e = d.devId
        let h : Hosted := { shard := k, slot := i, st := if mine then .primary else .syncing }
        let d := evShard k h.st 0 (d.setFleet fun f => { f with hosted := f.hosted ++ [h] })
        opDone (if mine then d else syncStart k d) (.ok x.ipmBytes (if d.slowOn then x.slowBytes else 0))

/-- SHARD_DROP (*Shard states*). -/
def opShardDrop : OpFn := fun c d =>
  let k := c.d.f 24 4
  shardGuard k d fun _ =>
    match d.shardSt k with
    | .absent => opDone d .ok
    | .primary => opDone d (.of stObjectBusy)
    | .syncing => opDone (dropShard k 0 d) .ok
    | .replica => opDone (dropShard k 0 d) .ok
    | st => opDone d (.conflict st.code)

/-- ST_ROLE_STALE with the epoch held (R454). -/
def staleCpl (e : Bytes) : Cpl := { (Cpl.of stRoleStale) with result0 := BitVec.ofNat 64 (eEpoch e) }

/-- SHARD_HANDOVER (*Shard states*, R452, R454): past its commit point once HANDOVER_REQ leaves. -/
def opShardHandover : OpFn := fun c d =>
  let k := c.d.f 24 4
  let succ := c.d.f 28 2
  let ms := if c.d.f 36 2 = 0 then 5000 else c.d.f 36 2
  if 16383 < succ then opDone d .bad else
  shardGuard k d fun e =>
    match d.host k with
    | none => opDone d (.conflict 0x0901)
    | some h =>
      if h.st != .primary then opDone d (.conflict h.st.code)
      else if eEpoch e != c.d.f 32 4 then opDone d (staleCpl e)
      else
        let code := ((h.peers.find? fun p => p.1 == succ).map (·.2)).getD 0x0901
        if code != 0x0903 || !(eHolders e).contains succ then opDone d (.conflict code) else
        let d := (commitPoint c.tok d).setHost k fun h => { h with handing := some (c.tok, succ, d.now + ms * msNs) }
        (sendReq 0x34 succ k 0 (.handoverReq h.rev) (shardState k .handingOver 0 d), .later)

/-- SHARD_PROMOTE (*Shard states*, R453, R454): past its commit point once the epoch is raised. -/
def opShardPromote : OpFn := fun c d =>
  let k := c.d.f 24 4
  shardGuard k d fun e =>
    match d.shardSt k with
    | .replica =>
      if eEpoch e != c.d.f 32 4 then opDone d (staleCpl e) else
      (startClaim k 0 (some c.tok) (setEntry k (eMoved e (eEpoch e + 1) d.devId) (commitPoint c.tok d)), .later)
    | .primary => if eEpoch e != c.d.f 32 4 then opDone d (staleCpl e) else opDone d (.ok (eEpoch e))
    | st => opDone d (.conflict st.code)

/-- SHARD_STATUS. -/
def opShardStatus : OpFn := fun c d =>
  let k := c.d.f 24 4
  match d.shardEntry k with
  | none => opDone d .bad
  | some e =>
    let h := d.host k
    opDone d (.ok ((d.shardSt k).code % 256 + atBit 8 ((h.map (·.slot)).getD 0) + atBit 16 (ePrimary e) + atBit 32 (eEpoch e)) ((h.map (·.rev)).getD 0))

/-- The shards that a FLEET_QUERY asks for. -/
def Dev.asked (d : Dev) (x : Desc) : List Bytes := d.pickShards (sInt 32 (x.f 56 4)) (sInt 32 (x.f 60 4)) (sInt 32 (x.f 52 4)) (x.u8 27)

/-- The bytes of a FLEET_QUERY's query buffer: its vectors, in the format of the first shard asked; none where no shard is. -/
def Dev.queryBytes (d : Dev) (x : Desc) : Nat :=
  match d.asked x with
  | e :: _ => x.f 48 2 * (entryIndex e).vecBytes
  | [] => 0

/-- FLEET_QUERY (R446, R447, R457). -/
def opFleetQuery : OpFn := fun c d =>
  let k := c.d.u8 25
  let rr := c.d.u8 26
  let most := c.d.u8 27
  let len := c.d.f 28 2
  let ms := c.d.f 30 2
  let n := c.d.f 48 2
  if 3 < c.d.u8 24 || k = 0 || 64 < k || 64 < rr || most = 0 || 64 < most || len < 16 || 256 < len || 1000 < ms || n = 0 || 256 < n then opDone d .bad else
  let picked := d.asked c.d
  let key (e : Bytes) : List Nat := [fld e 24 1, fld e 25 1, fld e 26 2]
  let first := (picked.headD [])
  let same := picked.filter fun e => key e == key first
  let vb := (entryIndex first).vecBytes
  let holders (e : Bytes) : List Nat :=
    let l := eHolders e
    let s := if c.d.u8 24 / 2 = 0 then 0 else c.tok.count.toNat % l.length
    l.drop s ++ l.take s
  let qid := d.fleet.nextQuery
  let q : FleetQ := { id := qid, tok := c.tok, dest := c.d.f 40 8, k := k, n := n, rerank := max rr k, len := len, timeoutMs := if ms = 0 then 20 else ms
                      vecs := if picked.isEmpty then [] else pieces vb n (c.input d 32 (d.queryBytes c.d)), scattered := d.tb64
                      formatBad := decide (same.length < picked.length)
                      shards := same.map fun e => { shard := fld e 0 4, holders := holders e } }
  let d := d.setFleet fun f => { f with queries := f.queries ++ [q], nextQuery := qid + 1 }
  let d := (same.map fun e => fld e 0 4).foldl (fun d s => askShard qid s d) d
  (queryCheck qid d, .later)

/-! ### Hooks -/

/-- What follows of itself: hosted indices that are lost, queries served; and, while the part takes part, handovers taken, requests that
could not leave before (R442), publications due. -/
def fleetSettle (d : Dev) : Dev :=
  let d := d.fleet.hosted.foldl (fun d h => if (d.ix h.slot).st == .lost || (d.ix h.slot).st == .empty then dropShard h.shard 2 d else d) d
  let d := serveEnded d
  if !d.fleetOn then d else
  let d := d.fleet.hosted.foldl (fun d h => pubsRun h.shard (handoverCheck h.shard d)) d
  let l := (d.fleet.reqs.filter fun r => r.sends == 0).map (·.msg.msgId)
  publish (l.foldl (fun d m => pumpReq m d) d)

/-- Completions on the admin session leave as ADMIN_COMPLETION (R436). -/
def adminFlush (d : Dev) : Dev :=
  let l := d.hif.net.replies
  let d := { d with hif := { d.hif with net := { d.hif.net with replies := [] } } }
  l.foldl (fun d b =>
    let n := BitVec.ofNat 32 (fld b 4 4)
    match d.fleet.adminMsgs.find? fun a => a.1 == n with
    | some a =>
      let d := emit (.adminReply b) (d.setFleet fun f => { f with adminMsgs := f.adminMsgs.filter fun x => x.1 != n })
      sendReply { kind := 0x50, src := 0xFFFF, dst := d.devId, msgId := a.2 } 0x51 0 (.adminCpl b) true d
    | none => emit (.adminReply b) d) d

/-- ABORT_SQ takes a FLEET_QUERY. -/
def fleetAborted (t : Tok) (d : Dev) : Dev :=
  let gone := d.fleet.queries.filter fun q => q.tok = t
  let d := (gone.flatMap (·.shards)).foldl (fun d s => dropAsked s d) d
  d.setFleet fun f => { f with queries := f.queries.filter fun q => q.tok != t }

/-- Base-metal entry: no peer is reached any more (R441), so a SHARD_HANDOVER fails as at its timeout, and the claim of a SHARD_PROMOTE ends
with the holders heard so far; the descriptors, past their commit points, complete with their own status (R478; DESIGN CHOICE,
notes/assumptions/96.md). -/
def fleetBase (d : Dev) : Dev :=
  d.fleet.hosted.foldl (fun d h =>
    let d := if h.promote.isSome then becomePrimary h.shard 0 false [] d else d
    match h.handing with
    | some (t, succ, _) =>
      let code := ((h.peers.find? fun p => p.1 == succ).map (·.2)).getD 0x0901
      shardState h.shard .primary 0 (finish t (.conflict code) (d.setHost h.shard fun h => { h with handing := none }))
    | none => d) d

/-- A full reset: what the settings area and the surviving indices hold stays (spec/14, first section). -/
def fleetReset (keep : Nat → Bool) (f : Fleet) : Fleet :=
  { ({} : Fleet) with
    st := f.st, cfg := f.cfg, auth := f.auth, enrolment := f.enrolment, frame := f.frame, table := f.table
    hosted := (f.hosted.filter fun h => keep h.slot).map fun h =>
      { shard := h.shard, slot := h.slot, rev := h.rev, revs := h.revs, nodes := h.nodes, marks := h.marks, fullSync := h.fullSync }
    pubs := f.pubs.map fun p => { shard := p.shard, last := p.last, known := p.known } }

end Sys2Proof.Machine
end

