-- ==== Sys2Proof/Machine/Work.lean ====
section
/-! DEFINITION. The commit of a task and of the work it belongs to, tasks that overrun or fail for good, copies, and
rounds delivered (spec/07 R207-R209, R220; spec/08 R256, R257; spec/15 R461, R462). -/

namespace Sys2Proof.Machine

/-! ### An engine that leaves between tasks (R463, R471, R486) -/

/-- An engine between tasks goes out of service: fenced by UNIT_FENCE, or taken for Assay (R461, R463). -/
def leaveEngine (c e : Nat) (why : Option Tok × Bool) (d : Dev) : Dev :=
  let d := d.setEng c e fun x => { x with st := if why.2 then .assay else .fenced, leaving := none }
  let d := mayRise c 0 (evacuate c e d)
  match why with
  | (some t, false) => finish t .ok { d with flt := { d.flt with fences := satInc d.flt.fences } }
  | (none, false) => { d with flt := { d.flt with fences := satInc d.flt.fences } }
  | (some t, true) => beginAssay 0 (engUnit c e) (.run t) true d
  | (none, true) => beginAssay 0 (engUnit c e) .rotation true d

/-! ### Commit (R207, R208) -/

/-- A range of the engine's own local memory (R203). -/
def localRange (c e a n : Nat) : Bool :=
  deviceRange a n && engineAt a == some (c, e) && engineAt (a + (n - 1)) == some (c, e)

/-- A task may write a range: its engine's own local memory, or within one of its output regions, which its copy lists fill; never
another engine's local memory (R203, R207). -/
def mayWrite (c e : Nat) (regions : List (Nat × Nat)) (a n : Nat) : Bool :=
  localRange c e a n || (deviceRange a n && (engineAt a).isNone && regions.any fun r => decide (r.1 ≤ a) && decide (a + n ≤ r.1 + r.2))

/-- One indirect copy list: its entries within the planned length are moved into the engine's local memory, each up to 256 bytes,
from stores other than engine-local memory (R228). -/
def gather (c e : Nat) (g : Gather) (d : Dev) : Dev :=
  (g.entries.take g.planned).foldl (fun d x =>
    let n := min 256 x.2.2
    if deviceRange x.1 n && (engineAt x.1).isNone && localRange c e x.2.1 n then d.dput x.2.1 (d.dget x.1 n) else d) d

/-- Copy lists longer than planned. -/
def longLists (r : TaskResult) : Nat := (r.gathers.filter fun g => decide (g.planned < g.entries.length)).length

/-- A task's gathers, its writes to its own memory and its output regions, and the results of its array runs: whether an accumulator saturated, and
whether a solver accumulator has RANGE. -/
def taskWrites (c e : Nat) (regions : List (Nat × Nat)) (r : TaskResult) (d : Dev) : Dev × Bool × Bool :=
  let put (d : Dev) (a : Nat) (b : Bytes) : Dev := if mayWrite c e regions a b.length then d.dput a b else d
  let d := r.gathers.foldl (fun d g => gather c e g d) d
  let d := r.writes.foldl (fun d x => put d x.1 x.2) d
  r.arr.foldl (fun (s : Dev × Bool × Bool) a =>
    let v := runArray a
    (put s.1 a.dest v.bytes, s.2.1 || v.accSat, s.2.2 || v.range)) (d, false, false)

/-- The last task to read a piece of work's inputs releases them in its commit queue (spec/09 R277, R284). -/
def workRelease (k : WorkKind) (d : Dev) : Dev :=
  match k with
  | .infer t s _ => inferRelease s t d
  | .band b n _ => bandRelease b n d
  | _ => d

/-- Every task of a piece of work has committed (R208). -/
def workDone (w : Work) (d : Dev) : Dev :=
  let d := dropWork w.id d
  match w.kind with
  | .infer t s _ => inferDone w t s d
  | .band b k _ => bandDone w b k d
  | .tick _ => tickDone w d
  | .load s => solverLoaded s d
  | .solve _ _ => d
  | .est p => d.setEst fun e => { e with ran := e.ran ++ [p] }

/-- A piece of work ends once no task of it is uncommitted. -/
def workCheck (id : Nat) (d : Dev) : Dev :=
  match d.work id with
  | none => d
  | some w => if d.comp.tasks.any fun k => k.work == id && k.st != .committed then d else workDone w d

/-- A task waits for a copy of its own that has not arrived, or for a streamed ingot that its wave's window does not hold (R204, R278). -/
def Dev.waitsCopy (d : Dev) (k : Task) : Bool :=
  d.comp.copyq.any (fun j => j.task == some k.id) || d.waitsIngot k

/-- The running task of an engine ends without a fault, all its copies arrived, and commits; new recurrent state comes from the task of
the state role alone (R287). Its results are in place, its commit queue issues in
order, and tasks that wait for it go on (R207, R208). -/
def taskCommit (c e : Nat) (r : TaskResult) (d : Dev) : Dev :=
  match (d.eng c e).running.bind d.task with
  | none => d
  | some k =>
    if d.waitsCopy k then d else
    match d.work k.work with
    | none => d
    | some w =>
      let (d, sat, range) := taskWrites c e k.regions r (faultCorrected r.corrected d)
      let d := r.flags.foldl (fun d f => d.setFlag f.1 f.2) d
      let d := r.msgs.foldl (fun d m => sendMsg c e m d) d
      let d := { d with comp := { d.comp with notes := d.comp.notes ++ r.notes.map fun b => (c, e, b) } }
      let d := r.contribs.foldl (fun d x => contribute c x d) d
      let d := if r.lastRead then workRelease w.kind d else d
      let cuts := r.cuts + longLists r
      let d := boundHits c cuts d
      let d := d.setWork k.work fun w => { w with
        accSat := w.accSat || sat, range := w.range || range, boundHit := w.boundHit || decide (0 < cuts), out := w.out ++ r.out
        state := if r.state.isEmpty || k.role.map (·.1) != some 1 then w.state else r.state }
      let d := d.setTask k.id fun k => { k with st := .committed }
      let go (x : Task) : Task := if x.preds.contains k.id then { x with preds := x.preds.filter (· != k.id) } else x
      let d := { d with comp := { d.comp with tasks := d.comp.tasks.map go } }
      let d := (d.setEng c e fun x => { x with running := none, tasks := x.tasks + 1, acted := [] }).setClus c fun q =>
        { q with tasks := q.tasks + 1 }
      let d := match w.kind with
        | .solve s _ => solverTask s w k d
        | _ => d
      workCheck k.work d

/-- The running task of an engine has exceeded its planned cycles by more than 25 %, or by more than 100 % on the
engine of a TENSOR_HOLDER (R209): its planned cycles. -/
def Dev.overrun (d : Dev) (c e : Nat) : Option Nat :=
  match (d.eng c e).running.bind d.task with
  | none => none
  | some k =>
    let spent := k.spent + (d.now - k.startAt) * stepMhz (d.clus c).step
    let holder := (d.eng c e).kind == 2 || (k.role.map (·.1)) == some 2
    if k.cycles * 1000 * (if holder then 200 else 125) < spent * 100 then some k.cycles else none

/-! ### Failure for good (R462) -/

/-- A piece of work ends with ST_DATA_ERROR and a state code, which a SOLVE does not carry (R462; spec/09 R286; spec/10 R311;
spec/11 R357; spec/12 R380). -/
def workFails (id code : Nat) (d : Dev) : Dev :=
  match d.work id with
  | none => d
  | some w =>
    let d := dropWork id d
    let k : Cpl := { (Cpl.of stDataError) with stateCode := BitVec.ofNat 16 code }
    match w.kind with
    | .infer t s _ => inferFails t s k d
    | .band b n _ => bandFails b n d
    | .tick _ => fusionCommit true (tickDone w d)
    | .load s =>
      let x := d.ps s
      match x.next with
      | some (_, c, t, _) =>
        let d := d.setAlloc (0x1000 + s) ((x.prob.map fun q => q.ipmBytes / 65536).getD 0)
        let d := d.setPs s fun x => { x with st := x.prior, next := none }
        finish t { k with dest := c.dest, payload := putAt c.payload 9 [BitVec.ofNat 8 x.prior.code] } d
      | none => d
    | .solve s _ =>
      match (d.ps s).solving with
      | some _ => solveEnd s stDataError 0 false none .ready d
      | none => d
    | .est p => estFails p d

/-- A task that failed is taken from its engine and runs again (R461). -/
def rerunTask (id : Nat) (d : Dev) : Dev :=
  match d.task id with
  | none => d
  | some k => requeueTask k (d.setClus k.cluster fun q => { q with reexec := satInc q.reexec })

/-- A reader of a word that cannot be corrected runs again once the committed task that wrote the word has run again
(R459). -/
def rerunAfter (reader producer : Nat) (d : Dev) : Dev :=
  let d := rerunTask producer d
  d.setTask reader fun k => { k with st := .waiting, preds := [producer] }

/-! ### Rounds (R220) -/

/-- A complete round is delivered: to the solver sequencer of the solve that waits for it, or where its plan says. -/
def roundDone (id : Nat) (d : Dev) : Dev :=
  match d.comp.rounds.find? fun r => r.id == id with
  | none => d
  | some r =>
    if !d.comp.complete r then d
    else if r.target = 1 then
      match (List.range 32).find? fun s => match (d.ps s).solving with
          | some z => z.round == r.id
          | none => false with
      | some s => solverRound s r d
      | none => { d with comp := { d.comp with rounds := d.comp.rounds.filter fun x => x.id != r.id } }
    else deliverRound r d

end Sys2Proof.Machine
end

