-- ==== Sys2Proof/Machine/Fault.lean ====
section
/-! DEFINITION. Faults, fencing, Assay, base-metal causes and the safety outputs (spec/15). -/

namespace Sys2Proof.Machine

/-! ### Base-metal causes (R464, R476) -/

/-- Engines of the enabled clusters. -/
def Dev.enabledEngines (d : Dev) : Nat := 24 * ((List.range 6).filter fun c => (d.clus c).on).length

/-- FLT_FENCE.MIN_LIVE as the active profile's clusters and ceiling give it, from "Profile read" on (R464, R538). -/
def setMinLive (d : Dev) : Dev :=
  let engines := 24 * ((List.range 6).filter fun c => (d.pf 20 1).testBit c).length
  { d with flt := { d.flt with minLive := BitVec.ofNat 8 ((engines * d.pf 47 1 + 99) / 100) } }

/-- A fault has brought live engines or control cores down: cause FENCED (R464, R465). -/
def fencedCause (d : Dev) : Dev :=
  if d.liveEngines < d.flt.minLive.toNat || d.liveCores = 0 then raiseCause 1 d else d

/-- Cause FENCED clears when live engines reach MIN_LIVE and a control core is live. -/
def fencedClear (d : Dev) : Dev :=
  if d.flt.minLive.toNat ≤ d.liveEngines && 0 < d.liveCores then clearCause 1 d else d

/-! ### Control cores (R465, R479, R480) -/

/-- The lowest-numbered live core. -/
def Dev.firstCore (d : Dev) : Nat := ((List.range 4).find? fun k => d.flt.core.getD k 1 == 0).getD 0

/-- A control core leaves service: propagation and, in base-metal mode, the service move to the next live core. -/
def coreGone (k : Nat) (st : Nat) (fault : Bool) (d : Dev) : Dev :=
  let d := { d with flt := { d.flt with core := upd d.flt.core k fun _ => st } }
  let d := if d.flt.service = k then { d with flt := { d.flt with service := d.firstCore } } else d
  if d.est.propCore = k then
    d.setEst fun e => { e with propCore := d.firstCore, ccReady := e.ccReady && !fault }
  else d

/-- A control core returns; with no other live, it takes propagation and the service (R480). -/
def coreBack (k : Nat) (d : Dev) : Dev :=
  let none_ := d.liveCores = 0
  let d := { d with flt := { d.flt with core := upd d.flt.core k fun _ => 0, service := if none_ then k else d.flt.service } }
  if none_ then d.setEst fun e => { e with propCore := k, ccReady := true } else d

/-! ### Unit designators (R485) -/

/-- The unit is within its kind's range. -/
def unitOk (kind unit : Nat) : Bool :=
  match kind with
  | 0 => decide (unit / 256 < 6) && decide (unit % 256 < 24)
  | 1 => decide (unit < 8)
  | 2 => decide (unit < 2)
  | 3 => decide (unit < 4)
  | 4 => decide (unit < 64)
  | 5 => decide (unit < 12)
  | 6 => decide (unit < 4)
  | 7 => decide (unit < 12)
  | _ => false

/-- The unit belongs to a resource that the active profile does not enable (R17). -/
def Dev.unitGated (d : Dev) (kind unit : Nat) : Bool :=
  match kind with
  | 0 => (d.eng (unit / 256) (unit % 256)).st == .gated || !(d.clus (unit / 256)).on
  | 1 => (d.wk unit).st == .gated
  | 2 => (d.vp unit).st == .gated
  | _ => false

/-- The unit is fenced, or failed. -/
def Dev.unitFencedNow (d : Dev) (kind unit : Nat) : Bool :=
  match kind with
  | 0 => (d.eng (unit / 256) (unit % 256)).st == .fenced
  | 1 => (d.wk unit).st == .fenced
  | 2 => (d.vp unit).st == .fenced
  | 3 => d.flt.core.getD unit 0 == 1
  | 4 => (d.ipmCh unit).st == .failed
  | 5 => (d.ts.getD unit {}).st == .fenced
  | _ => false

/-- An Assay of the unit is under way. -/
def Dev.assayOf (d : Dev) (kind unit : Nat) : Option AssayRun := d.flt.assays.find? fun a => a.kind == kind && a.unit == unit

def Dev.setTs (d : Dev) (n : Nat) (f : TsUnit → TsUnit) : Dev := { d with ts := upd d.ts n f }

/-! ### The end of an Assay (R469-R472, R486) -/

/-- The Assay leaves the list; its result is shown (*FLT_ASSAY*, *FLT_CNT1*). -/
def assayResult (a : AssayRun) (code : Nat) (d : Dev) : Dev :=
  { d with flt := { d.flt with
    assays := d.flt.assays.filter fun x => !(x.kind == a.kind && x.unit == a.unit)
    lastCode := BitVec.ofNat 8 code
    assayFail := if code = 0 then d.flt.assayFail else satInc d.flt.assayFail } }

/-- A unit that passed goes back to service; one that was not in service when it was taken, to where its chapter's states
say (*Pipe states*; notes/assumptions/45.md). A unit that was fenced posts EV_UNIT_RETURNED. -/
def unitBack (a : AssayRun) (d : Dev) : Dev :=
  let u := a.unit
  let d := match a.kind with
    | 0 => d.setEng (u / 256) (u % 256) fun x => { x with st := if x.st == .assay then .live else x.st }
    | 1 => if a.wasLive || (d.wk u).st == .fenced then wkState u .online 0 d else d
    | 2 => if (d.vp u).st == .fenced then
             let o := 1 - u
             let d := d.setVp u fun v => { v with st := .off }
             if (d.vp o).st == .home then
               evVp u 0x0701 1 (det [(16, [BitVec.ofNat 8 u, BitVec.ofNat 8 o, 0])])
                 ((d.setVp u fun v => { v with movedAt := some d.time.tb }).setVp o fun v => { v with st := .hosting })
             else d
           else if a.wasLive then
             let o := 1 - u
             let d := (admissionWindow o d).setVp u fun v => { v with st := .home, movedAt := some d.time.tb }
             let d := if (d.vp o).st == .hosting then d.setVp o fun v => { v with st := .home } else d
             evVp u 0x0702 0 (det [(16, [BitVec.ofNat 8 u])]) d
           else d
    | 3 => coreBack u d
    | 5 => d.setTs u fun x => { x with st := .idle }
    | 6 => if a.wasLive then ethPortOn u d else d
    | 7 => if a.wasLive then writeCsiCtrl u 1 d else d
    | _ => d
  fencedClear d

/-- A unit that failed stays out. One that was in service is fenced now, with cause 9 (R471, R486). -/
def unitStays (a : AssayRun) (d : Dev) : Dev :=
  let u := a.unit
  let d := match a.kind with
    | 0 => d.setEng (u / 256) (u % 256) fun x => { x with st := .fenced }
    | 1 => wkState u .fenced 1 d
    | 2 => d.setVp u fun v => { v with st := .fenced }
    | 3 => { d with flt := { d.flt with core := upd d.flt.core u fun _ => 1 } }
    | 4 => if (d.ipmCh u).st == .failed then d else chChange u .failed 1 d
    | _ => d
  if a.wasLive then fencedCause (unitFenced a.kind u 9 (logFault 3 a.kind u 9 2 0 d)) else d

/-- The double failure of a task is judged once both engines are tested (R462). -/
def taskVerdict (id : Nat) (d : Dev) : Dev :=
  if d.flt.assays.any fun a => a.why == .task id then d else
  match d.task id with
  | none => d
  | some k =>
    if k.assayBad then rerunTask id d
    else workFails k.work k.cause { d with flt := { d.flt with dataCause := satInc d.flt.dataCause } }

/-- BASE_EXITs under way complete. -/
def exitsEnd (k : Cpl) (d : Dev) : Dev :=
  d.flt.exits.foldl (fun d t => finish t k d) { d with flt := { d.flt with exits := [] } }

/-- The control cores are tested: with one that passed, bit 7 clears and the active profile is applied; else the
BASE_EXIT ends (R481). -/
def exitVerdict (d : Dev) : Dev :=
  let more := d.flt.assays.any fun a => match a.why with
    | .baseExit _ => true
    | _ => false
  if more then d else
  match d.flt.exits.head? with
  | none => d
  | some t =>
    if d.liveCores = 0 then exitsEnd { (Cpl.conflict 4) with result0 := 0x100 } d else
    let d := clearCause 7 d
    { d with prof := { d.prof with st := .applying, applying := some (d.prof.activeId, .baseExit t), applyEnd := d.now + 250 * msNs } }

/-- An Assay of a unit ends with a code of *Assay results*. -/
def assayEnd (kind unit code : Nat) (d : Dev) : Dev :=
  match d.assayOf kind unit with
  | none => d
  | some a =>
    let d := assayResult a code d
    let back (d : Dev) : Dev :=
      let was := match a.why with
        | .rotation => false
        | _ => !a.wasLive && (kind == 0 || kind == 3 || d.unitFencedNow kind unit)
      let d := unitBack a d
      if was then unitReturned kind unit code d else d
    let d1 := if code = 0 then back d else unitStays a d
    let cpl : Cpl := if code = 0 then .ok else { (Cpl.of stDataError) with result0 := BitVec.ofNat 64 code }
    match a.why with
    | .chapter t =>
      if kind = 4 then channelAssayed unit code t d else finish t cpl d1
    | .unitReturn t => finish t cpl d1
    | .run t => if kind = 4 && code = 0 && (a.wasLive || d.unitFencedNow 4 unit) then channelAssayed unit 0 t d else finish t cpl d1
    | .rotation => d1
    | .task id => taskVerdict id (if code = 0 then d1 else d1.setTask id fun k => { k with assayBad := true })
    | .baseExit _ => exitVerdict d1

/-- A fault in a unit under Assay counts as an Assay failure and nothing more (R472). -/
def assayFault (kind unit cause : Nat) (d : Dev) : Dev :=
  assayEnd kind unit (if cause = 1 then 1 else if cause = 7 then 3 else 2) d

/-! ### Engine faults (R461, R462) -/

/-- A fault in an engine: it is fenced, its running task fails, its deque and role go elsewhere (R461, R462). -/
def engineFault (c e cls cause detail : Nat) (d : Dev) : Dev :=
  let x := d.eng c e
  let u := engUnit c e
  match x.st with
  | .gated => d
  | .fenced => d
  | .assay => assayFault 0 u cause d
  | .live =>
    let d := unitFenced 0 u cause (logFault cls 0 u cause 2 detail d)
    let d := d.setEng c e fun x => { x with st := .fenced, running := none, leaving := none }
    let d := mayRise c 0 (evacuate c e d)
    let d := match x.leaving with
      | some (some t, false) => finish t .ok d
      | some (some t, true) => beginAssay 0 u (.run t) false (d.setEng c e fun x => { x with st := .assay })
      | _ => d
    let d := match x.running.bind d.task with
      | none => d
      | some k =>
        let fails := k.failedOn ++ [(c, e)]
        let d := d.setTask k.id fun k => { k with
          failedOn := fails, st := .stalled, cause := if fails.length = 2 then cause else k.cause }
        match fails.length with
        | 1 => rerunTask k.id d
        | 2 =>
          fails.foldl (fun d x =>
            if (d.eng x.1 x.2).st == .fenced then
              beginAssay 0 (engUnit x.1 x.2) (.task k.id) false (d.setEng x.1 x.2 fun y => { y with st := .assay })
            else d) d
        | _ => workFails k.work k.cause { d with flt := { d.flt with dataCause := satInc d.flt.dataCause } }
    fencedCause d

/-- A running task that overruns fails its engine (R209, R458). -/
def taskOverrun (c e : Nat) (d : Dev) : Dev :=
  match d.overrun c e with
  | none => d
  | some n => engineFault c e 4 5 n d

/-! ### The other units (R458, R465) -/

/-- A fault of a walker, caught by a stage check (R419). -/
def walkerFault (w : Nat) (d : Dev) : Dev :=
  if (d.assayOf 1 w).isSome then assayFault 1 w 8 d
  else if 8 ≤ w || (d.wk w).st == .gated || (d.wk w).st == .fenced then d
  else walkerFence w (unitFenced 1 w 8 (logFault 3 1 w 8 2 0 d))

/-- A fault of a vision pipe, caught by a stage check (R193, R194). -/
def pipeFault (p : Nat) (d : Dev) : Dev :=
  if (d.assayOf 2 p).isSome then assayFault 2 p 8 d
  else if 2 ≤ p || (d.vp p).st == .gated || (d.vp p).st == .fenced then d
  else vpFence p (unitFenced 2 p 8 (logFault 3 2 p 8 2 0 d))

/-- A fault of a control core (R465). -/
def coreFault (k cause : Nat) (d : Dev) : Dev :=
  if (d.assayOf 3 k).isSome then assayFault 3 k cause d
  else if 4 ≤ k || d.flt.core.getD k 0 != 0 then d
  else fencedCause (coreGone k 1 true (unitFenced 3 k cause (logFault 3 3 k cause 2 0 d)))

/-- A fabric route that retries cannot clear (class 5). -/
def fabricFault (detail : Nat) (d : Dev) : Dev := raiseCause 6 (logFault 5 0xFF 0 11 3 detail d)

/-- A class 6 fault (R468): `code` is its value of LAST_RESET. HEARTBEAT stops, SAFE_STOP is high, the fault is logged,
and a full reset follows after 100 ms. -/
def fatalFault (code : Nat) (d : Dev) : Dev :=
  if d.flt.fatal.isSome || code < 3 || 6 < code then d else
  let cause := if code = 3 then 13 else if code = 4 then 12 else if code = 5 then 14 else 15
  let d := logFault 6 0xFF 0 cause 4 0 d
  { d with flt := { d.flt with fatal := some (code, d.now + 100 * msNs), fatalEv := some (code, d.tb64) } }

/-! ### SAFE_STOP and HEARTBEAT (R483, R484) -/

/-- How far the start-up sequence has come, as a number. -/
def StartSt.rank : StartSt → Nat
  | .held => 0 | .refused => 0 | .released => 1 | .strapsSampled => 2 | .loaderMeasured => 3 | .profileRead => 4
  | .safetyRunning => 5 | .controlRunning => 6 | .ipmTrained => 7 | .done => 8

/-- The level that R483 gives now. -/
def Dev.stopLevel (d : Dev) : Bool :=
  let rate := d.pf 36 2
  d.part == .starting || d.flt.forceStop || (d.part == .baseMetal && d.flt.stopOnBm) || d.flt.fatal.isSome
    || (rate != 0 && decide (4 * sNs ≤ (d.now - d.est.wroteAt) * rate))

/-- The check every 100 µs: SAFE_STOP follows its level, driven as R105 allows (R483). -/
def safeStopCheck (d : Dev) : Dev :=
  let l := d.stopLevel
  let d := if d.flt.stop != l && d.driven 17 then emit (.safeStop l) d else d
  { d with flt := { d.flt with stop := l } }

/-- HEARTBEAT's toggle interval in ns. -/
def Dev.beatNs (d : Dev) : Nat := (if d.part == .baseMetal then d.flt.hbBmMs.toNat else d.flt.hbMs.toNat) * msNs

/-- An interval of HEARTBEAT ends: it toggles where the safety island's self-check of the interval passed (R484). -/
def heartbeatToggle (selfOk : Bool) (d : Dev) : Dev :=
  if d.now < d.flt.beatAt + d.beatNs || d.start.rank < 5 then d else
  let d := { d with flt := { d.flt with beatAt := d.now, selfFail := !selfOk } }
  if !selfOk || d.flt.fatal.isSome then d else
  let d := { d with flt := { d.flt with beat := !d.flt.beat } }
  if d.driven 18 then emit (.heartbeat d.flt.beat) d else d

/-! ### Assay rotation (R471) -/

/-- Every ROTATE_S seconds the next live engine, in cluster and engine order, is taken for Assay between tasks. -/
def assayRotation (d : Dev) : Dev :=
  let s := d.flt.rotateS.toNat
  if s = 0 || decide (d.now < d.flt.rotateAt + s * sNs) then d else
  let d := { d with flt := { d.flt with rotateAt := d.now } }
  if !(d.part == .ready || d.part == .running) || d.flt.assays.any (fun a => a.why == .rotation)
      || (List.range 6).any (fun c => (d.clus c).eng.any fun x => x.leaving == some (none, true)) then d else
  match ((List.range 144).map fun i => (d.flt.rotateNext + i) % 144).find? fun n =>
      (d.clus (n / 24)).on && (d.eng (n / 24) (n % 24)).st == .live with
  | none => d
  | some n =>
    let c := n / 24
    let e := n % 24
    if d.keptEngines - 1 < d.flt.minLive.toNat || d.overCeiling c 0 (d.keptIn c - 1) || (d.eng c e).leaving.isSome then d else
    let d := { d with flt := { d.flt with rotateNext := (n + 1) % 144 } }
    d.setEng c e fun x => { x with leaving := some (none, true) }

/-- Engines that are to leave and run nothing leave (R463, R471). -/
def leaveCheck (d : Dev) : Dev :=
  (List.range 6).foldl (fun d c => (List.range 24).foldl (fun d e =>
    let x := d.eng c e
    match x.leaving with
    | some why => if x.running.isNone && x.st == .live then leaveEngine c e why d else d
    | none => d) d) d

/-! ### Health opcodes (R485, R486) -/

/-- FLT_CNT1 as its counters stand. -/
def Dev.fltCnt1 (d : Dev) : Nat :=
  d.flt.fences.toNat + atBit 16 d.flt.returns.toNat + atBit 32 d.flt.dataCause.toNat + atBit 48 d.flt.assayFail.toNat

/-- FLT_CNT1 as it reads: frozen by a SNAP. -/
def Dev.fltCnt1Read (d : Dev) : Nat :=
  match d.flt.frozen with
  | some l => (l.getD 1 0).toNat
  | none => d.fltCnt1

/-- FLT_STATUS. -/
def opFltStatus : OpFn := fun _ d =>
  opDone d (.ok (atBit 8 d.flt.causes.toNat + atBit 16 (d.liveEngines % 256) + atBit 24 (d.fencedEngines % 256) + atBit 32 d.liveCores)
    (d.fltCnt1Read % 2 ^ 32))

/-- UNIT_FENCE (R463, R465). -/
def opUnitFence : OpFn := fun c d =>
  let k := c.d.u8 24
  let u := c.d.f 26 2
  if !(k == 0 || k == 3 || k == 5) || !unitOk k u then opDone d .bad
  else if d.unitGated k u then opDone d (.conflict notEnabled)
  else if d.unitFencedNow k u && (d.assayOf k u).isNone then opDone d .ok
  else if (d.assayOf k u).isSome then opDone d (.of stObjectBusy)
  else
    let count (d : Dev) : Dev := { d with flt := { d.flt with fences := satInc d.flt.fences } }
    match k with
    | 0 =>
      let ce := (u / 256, u % 256)
      if d.keptEngines - 1 < d.flt.minLive.toNat || (d.eng ce.1 ce.2).leaving.isSome then opDone d (.of stObjectBusy) else
      if (d.eng ce.1 ce.2).running.isNone then (leaveEngine ce.1 ce.2 (some c.tok, false) d, .later)
      else (d.setEng ce.1 ce.2 fun x => { x with leaving := some (some c.tok, false) }, .later)
    | 3 => if d.liveCores ≤ 1 then opDone d (.of stObjectBusy) else opDone (count (coreGone u 1 false d)) .ok
    | _ => opDone (count (d.setTs u fun x => { x with st := .fenced })) .ok

/-- UNIT_RETURN (R482, R486). -/
def opUnitReturn : OpFn := fun c d =>
  let k := c.d.u8 24
  let u := c.d.f 26 2
  if !(k == 0 || k == 3 || k == 5) || !unitOk k u then opDone d .bad
  else if d.unitGated k u then opDone d (.conflict notEnabled)
  else if (d.assayOf k u).isSome then opDone d { (Cpl.of stObjectBusy) with result0 := 5 }
  else if !d.unitFencedNow k u then opDone d .ok
  else
    let d := match k with
      | 0 => d.setEng (u / 256) (u % 256) fun x => { x with st := .assay }
      | 3 => { d with flt := { d.flt with core := upd d.flt.core u fun _ => 2 } }
      | _ => d
    (beginAssay k u (.unitReturn c.tok) false d, .later)

/-- ASSAY_RUN (R482, R486). -/
def opAssayRun : OpFn := fun c d =>
  let k := c.d.u8 24
  let u := c.d.f 26 2
  let busy : Dev × OpResult := opDone d { (Cpl.of stObjectBusy) with result0 := 5 }
  let go (wasLive : Bool) (d : Dev) : Dev × OpResult := (beginAssay k u (.run c.tok) wasLive d, .later)
  if !unitOk k u then opDone d .bad
  else if d.unitGated k u then opDone d (.conflict notEnabled)
  else if (d.assayOf k u).isSome then busy
  else match k with
    | 0 =>
      let ce := (u / 256, u % 256)
      if d.unitFencedNow 0 u then go false (d.setEng ce.1 ce.2 fun x => { x with st := .assay })
      else if d.keptEngines - 1 < d.flt.minLive.toNat || d.overCeiling ce.1 0 (d.keptIn ce.1 - 1)
          || (d.eng ce.1 ce.2).leaving.isSome then busy
      else if (d.eng ce.1 ce.2).running.isNone then (leaveEngine ce.1 ce.2 (some c.tok, true) d, .later)
      else (d.setEng ce.1 ce.2 fun x => { x with leaving := some (some c.tok, true) }, .later)
    | 1 =>
      if (d.wk u).st == .online then
        if d.onlineWalkers.length = 1 then busy else go true (moveContexts u (wkState u .off 0 d))
      else go false d
    | 2 =>
      let o := 1 - u
      match (d.vp u).st with
      | .home => if (d.vp o).st == .gated then opDone d (.conflict notEnabled)
          else if (d.vp u).moving.any (·.2) then busy
          else (moveCheck u (d.setVp u fun v => { v with moving := v.moving ++ [(c.tok, true)] }), .later)
      | .hosting => busy
      | _ => go false d
    | 3 =>
      if d.flt.core.getD u 0 == 1 then go false { d with flt := { d.flt with core := upd d.flt.core u fun _ => 2 } }
      else if d.liveCores ≤ 1 then busy
      else go true (coreGone u 2 false d)
    | 4 =>
      match (d.ipmCh u).st with
      | .online => if (d.groupOut (u % 8)).isEmpty then go true (chChange u .offline 0 d) else busy
      | .resync => busy
      | _ => go false d
    | 5 => go ((d.ts.getD u {}).st != .fenced) (d.setTs u fun x => { x with st := .fenced })
    | 6 => if (d.eth.getD u {}).enable then go true (ethPortOff u d) else go false d
    | _ => if (d.csi u).enable then go true (writeCsiCtrl u 0 d) else go false d

/-- BASE_ENTER: its completion is written at the entry (R476, R485). -/
def opBaseEnter : OpFn := fun c d =>
  if d.inBase then opDone d .ok else
  (raiseCause 7 { d with flt := { d.flt with entering := d.flt.entering ++ [c.tok] } }, .later)

/-- BASE_EXIT (R481, R486). -/
def opBaseExit : OpFn := fun c d =>
  let others := d.flt.causes.toNat % 128
  if !d.inBase then opDone d .ok
  else if d.trust.st == .fallingBack then opDone d (.conflict 0x0407)
  else if others ≠ 0 then opDone d { (Cpl.conflict 4) with result0 := BitVec.ofNat 64 others }
  else
    let first := d.flt.exits.isEmpty
    let d := { d with flt := { d.flt with exits := d.flt.exits ++ [c.tok] } }
    if !first then (d, .later) else
    let d := (List.range 4).foldl (fun d k =>
      if (d.assayOf 3 k).isSome then d else
      let was := d.flt.core.getD k 1 == 0
      beginAssay 3 k (.baseExit c.tok) was { d with flt := { d.flt with core := upd d.flt.core k fun _ => 2 } }) d
    (exitVerdict d, .later)

/-- FLT_LOG: the newest entries first (*Health opcodes*). -/
def opFltLog : OpFn := fun c d =>
  let n := c.d.f 24 2
  if n = 0 || 256 < n then opDone d .bad else
  let l := d.flt.log.take n
  if c.inline && 128 < l.length then opDone d .bad
  else opDone d (c.output 32 (l.flatMap (·.bytes)) (.ok l.length))

/-- ABORT_SQ takes a health descriptor: the unit stays where the part had taken it back to (R43, R69). -/
def fltAborted (t : Tok) (d : Dev) : Dev :=
  let mine (a : AssayRun) : Bool := match a.why with
    | .unitReturn u => u == t
    | .run u => u == t
    | .chapter u => u == t
    | _ => false
  let gone := d.flt.assays.filter mine
  let d := { d with flt := { d.flt with
    assays := d.flt.assays.filter fun a => !mine a, entering := d.flt.entering.filter (· != t), exits := d.flt.exits.filter (· != t) } }
  let keep (x : Engine) : Engine := match x.leaving with
    | some (some u, _) => if u = t then { x with leaving := none } else x
    | _ => x
  let d := { d with comp := { d.comp with cl := d.comp.cl.map fun q => { q with eng := q.eng.map keep } } }
  gone.foldl (fun d a =>
    if a.wasLive then unitBack a d else
    match a.kind with
    | 0 => d.setEng (a.unit / 256) (a.unit % 256) fun x => { x with st := .fenced }
    | 3 => { d with flt := { d.flt with core := upd d.flt.core a.unit fun _ => 1 } }
    | _ => d) d

/-! ### FLT_ registers written -/

/-- FLT_FENCE: MIN_LIVE from 1 to the engines enabled; other values are ignored. -/
def writeFltFence (v : Nat) (d : Dev) : Dev :=
  let m := bitsOf 7 0 v
  if 1 ≤ m && m ≤ d.enabledEngines then fencedClear { d with flt := { d.flt with minLive := BitVec.ofNat 8 m } } else d

/-- FLT_SAFE. -/
def writeFltSafe (v : Nat) (d : Dev) : Dev :=
  let a := bitsOf 15 8 v
  let b := bitsOf 23 16 v
  { d with flt := { d.flt with
    stopOnBm := bitsOf 0 0 v == 1, forceStop := bitsOf 1 1 v == 1
    hbMs := if 2 ≤ a ∧ a ≤ 250 then BitVec.ofNat 8 a else d.flt.hbMs
    hbBmMs := if 2 ≤ b ∧ b ≤ 250 then BitVec.ofNat 8 b else d.flt.hbBmMs } }

/-- FLT_ASSAY: ROTATE_S of 1-9 is ignored. -/
def writeFltAssay (v : Nat) (d : Dev) : Dev :=
  let s := bitsOf 15 0 v
  if 1 ≤ s && s ≤ 9 then d else { d with flt := { d.flt with rotateS := BitVec.ofNat 16 s, rotateAt := d.now } }

end Sys2Proof.Machine
end

