-- ==== Sys2Proof/Machine/Trust.lean ====
section
/-! DEFINITION. Hallmark, attestation and field update (spec/16). -/

namespace Sys2Proof.Machine

def Dev.setTrust (d : Dev) (f : Trust → Trust) : Dev := { d with trust := f d.trust }

/-! ### Packages (R494, R495) -/

/-- Header fields of a package. -/
def pkgVersion (p : Bytes) : Nat := fld p 16 8
def pkgSvn (p : Bytes) : Nat := fld p 24 1
def pkgFmt (p : Bytes) : Nat := fld p 28 2
def pkgReads (p : Bytes) : Nat := fld p 30 2
def pkgAbi (p : Bytes) : Nat := fld p 32 1

/-- Byte offset of manifest entry k, and the bytes of the entry. -/
def manAt (k : Nat) : Nat := 64 + 128 * k
def manEntry (p : Bytes) (k : Nat) : Bytes := sliceAt p (manAt k) 128

/-- Version and svn of the running image; the loader's own in RECOVERY. -/
def Dev.runVersion (d : Dev) : Nat := if d.trust.running.isEmpty then Config.loaderVersion else pkgVersion d.trust.running
def Dev.runSvn (d : Dev) : Nat := if d.trust.running.isEmpty then Config.loaderSvn else pkgSvn d.trust.running

/-- Bytes lo … lo+n-1 are zero. -/
def zeros (p : Bytes) (lo n : Nat) : Bool := ((p.drop lo).take n).all (· == 0)

/-- One manifest entry is within its ranges (*Manifest entry*). -/
def manOk (p : Bytes) (k : Nat) : Bool :=
  let a := manAt k
  let off := fld p (a + 8) 8
  let len := fld p (a + 16) 8
  zeros p (a + 1) 7 && zeros p (a + 44) 20 && off % 4096 == 0 && decide (4096 + 1632 * fld p 7 1 ≤ off)
    && decide (16 ≤ len) && decide (off + len + 4627 ≤ p.length) && fld p (a + 24) 8 == pkgVersion p

/-- Staging check 3: magic, fmt, every header and manifest field in its range, reserved bytes zero. -/
def headerOk (p : Bytes) : Bool :=
  let kinds := (List.range 7).map fun k => fld p (manAt k) 1
  fld p 0 4 == 0x58505653 && fld p 4 2 == 1 && fld p 6 1 == 7 && decide (1 ≤ fld p 7 1) && decide (fld p 7 1 ≤ 16)
    && fld p 8 8 == p.length && decide (fld p 25 1 ≤ 1) && decide (fld p 26 1 ≤ 3)
    && zeros p 33 31 && zeros p 1088 3008 && zeros p (manAt 7) 128
    && (List.range 7).all (fun k => kinds.contains (k + 1)) && (List.range 7).all (manOk p)

/-- Staging check 4: the signer is not revoked and the signature over the bytes before it verifies. -/
def signatureOk (revoked : BitVec 4) (p : Bytes) : Bool :=
  let n := p.length - 4627
  !revoked.getLsbD (fld p 26 1) && Config.dsaVerify (Config.firmwareKey (fld p 26 1)) (Config.sha3 (p.take n)) (p.drop n)

/-- The key_id of this part's device update key. -/
def Dev.updateKeyId (d : Dev) : Bytes := (Config.sha3 (Config.updateKey d.serial.toNat)).take 16

/-- Staging check 6: the content key, from the first capsule for the fleet update key, or else for the device's (R495). -/
def Dev.contentKey (d : Dev) (p : Bytes) : Option Bytes :=
  let caps := (List.range (fld p 7 1)).map fun k => sliceAt p (4096 + 1632 * k) 1632
  let fleet := d.trust.fleetKey.bind fun f => (caps.find? fun c => c.take 16 == f.1).map fun c => (Sum.inr f.2, c)
  let own := (caps.find? fun c => c.take 16 == d.updateKeyId).map fun c => (Sum.inl d.serial.toNat, c)
  (fleet.or own).bind fun x => Config.capsuleKey x.1 x.2

/-- Staging check 7: every component decrypts and has its digest. -/
def componentsOk (key p : Bytes) : Bool :=
  (List.range 7).all fun k =>
    let e := manEntry p k
    match Config.componentText key e (sliceAt p (fld e 8 8) (fld e 16 8)) with
    | some t => Config.sha3 t == sliceAt e 64 64
    | none => false

/-- Staging checks 2 to 7, in table order: the code and status of the first that fails (R498). -/
def Dev.stageFault (d : Dev) (readOk : Bool) (p : Bytes) : Option (Nat × Byte) :=
  if !readOk then some (2, stDataError)
  else if !headerOk p then some (3, stBadDescriptor)
  else if !signatureOk d.trust.revoked p then some (4, stBadDescriptor)
  else if pkgSvn p < d.trust.floor.toNat || fld p 27 1 != 0xB0 then some (5, stVersion)
  else match d.contentKey p with
    | none => some (6, stBadDescriptor)
    | some k => if componentsOk k p then none else some (7, stBadDescriptor)

/-! ### Update states (R497) -/

/-- The update state changes, with EV_UPDATE_STATE. -/
def updState (s : UpdSt) (cause : Nat) (d : Dev) : Dev :=
  ev 0x0F01 (if s == .fallingBack || s == .recovery then 1 else 0)
    (det [(16, [BitVec.ofNat 8 (s.code % 256), BitVec.ofNat 8 cause]), (20, leBytes 8 d.runVersion)])
    (d.setTrust fun t => { t with st := s })

/-- ST_STATE_CONFLICT with the update state code. -/
def Dev.updConflict (d : Dev) : Cpl := .conflict d.trust.st.code

/-- A file name's bytes are 0x21-0x7E and none is "/" (R513). -/
def nameOk (b : Bytes) : Bool := b.all fun c => decide (0x21 ≤ c.toNat ∧ c.toNat ≤ 0x7E) && c.toNat != 0x2F

/-- Bytes of the largest package. -/
def slotBytes : Nat := 100663296

/-- A staging ends without success: back to the state it began in, or to UNSTAGING where the active slot was written. -/
def stageEnds (cause : Nat) (d : Dev) : Dev :=
  match d.trust.staging with
  | none => d
  | some (_, _, n) =>
    let d := d.setTrust fun t => { t with staging := none }
    if n = 2 then updState .unstaging cause d
    else updState (if d.trust.fromRecovery then .recovery else .idle) cause d

/-- UPDATE_STAGE: check 1 at once, the others as the staging goes on (R498, R499, R513). -/
def opUpdateStage : OpFn := fun c d =>
  let n := c.d.u8 24
  let name := c.d.bytes 32 (min n 32)
  if n = 0 || 32 < n || !nameOk name then opDone d .bad
  else if d.trust.st != .idle && d.trust.st != .recovery then opDone d d.updConflict
  else if !d.card.usable then opDone d (.of stResourceShort)
  else
    let d := d.setTrust fun t => { t with fromRecovery := t.st == .recovery, stageName := name }
    match d.card.files.find? fun f => f.1 == name with
    | some f =>
      if f.2.length ≤ slotBytes then
        (updState .staging 0 (d.setTrust fun t => { t with staging := some (c.tok, f.2, 0) }), .later)
      else opDone d { Cpl.bad with result1 := 1 }
    | none => opDone d { Cpl.bad with result1 := 1 }

/-- A part of the staging's work ends: the package has been read and is checked, the running package has been copied to the
retained slot, or the new package is in the active slot; `ok` says that the card read, or the flash read back, well
(R498, R499). -/
def stagingDone (ok : Bool) (d : Dev) : Dev :=
  match d.trust.staging with
  | none => d
  | some (t, p, n) =>
    let fails (code : Nat) (st : Byte) (d : Dev) : Dev :=
      stageEnds 5 (finish t { (Cpl.of st) with result1 := BitVec.ofNat 32 code } d)
    match n with
    | 0 =>
      match d.stageFault ok p with
      | some (code, st) => fails code st d
      | none => d.setTrust fun x => { x with
          staging := some (t, p, if x.fromRecovery then 2 else 1), retainedValid := x.retainedValid && x.fromRecovery }
    | 1 =>
      if ok then d.setTrust fun x => { x with staging := some (t, p, 2), retained := x.active, retainedValid := true }
      else fails 8 stDataError d
    | _ =>
      if ok then
        let d := d.setTrust fun x => { x with staging := none, active := p }
        finish t (.ok (pkgVersion p)) (updState .staged 0 d)
      else fails 8 stDataError d

/-- UPDATE_CANCEL (*Update states*): past its commit point once the active slot is being written back. The cancelled UPDATE_STAGE completes
with ST_ABORTED (notes/assumptions/46.md). -/
def opUpdateCancel : OpFn := fun c d =>
  match d.trust.st with
  | .idle => opDone d .ok
  | .recovery => opDone d .ok
  | .unstaging => opDone d .ok
  | .staging =>
    let d := match d.trust.staging with
      | some (t, _, _) => finish t (.of stAborted) d
      | none => d
    let d := stageEnds 0 d
    if d.trust.st == .unstaging then ((commitPoint c.tok d).setTrust fun t => { t with cancels := t.cancels ++ [c.tok] }, .later) else opDone d .ok
  | .staged => (updState .unstaging 0 ((commitPoint c.tok d).setTrust fun t => { t with cancels := t.cancels ++ [c.tok] }), .later)
  | _ => opDone d d.updConflict

/-- The retained package stands in the active slot again (R497). A staging from RECOVERY has none to go back to. -/
def unstagingDone (d : Dev) : Dev :=
  if d.trust.st != .unstaging then d else
  let rec_ := d.trust.fromRecovery
  let l := d.trust.cancels
  let d := d.setTrust fun t => { t with active := if rec_ then t.active else t.retained, cancels := [] }
  l.foldl (fun d t => finish t .ok d) (updState (if rec_ then .recovery else .idle) 0 d)

/-! ### Activation (R500-R503) -/

/-- UPDATE_ACTIVATE: its conditions; the pause begins in the same command (R500, R501). A package staged from RECOVERY is
activated from base-metal mode with no cause but FALLBACK (R510; notes/assumptions/47.md). -/
def opUpdateActivate : OpFn := fun c d =>
  let s := c.d.f 26 2
  let inRecovery := d.trust.fromRecovery && d.part == .baseMetal && d.flt.causes == 0x20
  if 1 < c.d.u8 24 || !(s = 0 || (30 ≤ s && s ≤ 3600)) then opDone d .bad
  else if d.trust.st != .staged then opDone d d.updConflict
  else if d.part != .ready && !inRecovery then opDone d (.conflict d.part.code)
  else if !(pkgAbi d.trust.active).testBit c.major then opDone d (.of stVersion)
  else if d.own.safeLevel then opDone d (.conflict 4)
  else
    (updState .activating 0 ((commitPoint c.tok d).setTrust fun t => { t with
      actTok := some c.tok, ownerNeeded := c.d.u8 24 == 1, confirmS := if s = 0 then 120 else s, pauseAt := d.now }), .later)

/-- The fleet settings of a bank that holds none (R504). -/
def noFleet (f : Fleet) : Fleet :=
  { f with st := .off, cfg := List.replicate 40 0, auth := [], authIn := [], certIn := [], enrolment := none, frame := ({} : Fleet).frame
           table := [], tableIn := [], hosted := [], pubs := [], sessions := [], reasm := [], parts := [], inbox := [], reqs := [], kept := [] }

/-- The other bank becomes the bank in use, in a format: stored records, saved configurations and fleet settings of the
bank before stay in the other one (R502, R504). -/
def swapBanks (fmt : Nat) (records : List Bytes) (saved : List (Nat × Bytes)) (fleet : Fleet) (d : Dev) : Dev :=
  let stamp (r : Bytes) : Bytes := putAt r 0 (leBytes 2 fmt)
  let d := d.setTrust fun t => { t with otherFmt := some t.bankFmt, bankFmt := fmt, oldFleet := some d.fleet }
  { d with prof := { d.prof with previous := some d.prof.stored, stored := records.map stamp }
           est := { d.est with savedOld := d.est.saved, saved := saved }
           fleet := fleet }

/-- The bank before is in use again and the new one is discarded (R508). -/
def restoreBank (d : Dev) : Dev :=
  match d.trust.otherFmt with
  | none => d
  | some f =>
    let keep (o : Fleet) : Fleet := { d.fleet with st := o.st, cfg := o.cfg, auth := o.auth, enrolment := o.enrolment, frame := o.frame, table := o.table }
    let fleet := match d.trust.oldFleet with
      | some o => keep o
      | none => d.fleet
    let d := { d with prof := { d.prof with stored := d.prof.previous.getD d.prof.stored, previous := none }
                      est := { d.est with saved := d.est.savedOld, savedOld := [] }, fleet := fleet }
    d.setTrust fun t => { t with bankFmt := f, otherFmt := none, oldFleet := none, unreadable := false }

/-- The fallback begins: base-metal mode follows with no cause bit of its own (R507, R508). An UPDATE_ACTIVATE or ACCEPT_DEFAULTS under way
completes as base-metal entry completes descriptors (R68, R478; DEDUCED, notes/assumptions/83.md), a BASE_EXIT as in FALLING_BACK (R508). -/
def beginFallback (cause : Nat) (d : Dev) : Dev :=
  let l := d.trust.actTok.toList ++ d.trust.acceptTok.toList
  let d := exitsEnd (.conflict 0x0407) (l.foldl (fun d t => finish t (.conflict 4) d) d)
  let d := d.setTrust fun t => { t with
    cause := cause, timerEnd := none, ownerPending := false, actTok := none, acceptTok := none, fallbacks := satInc t.fallbacks }
  updState .fallingBack cause { d with prof := { d.prof with applying := none, st := if d.prof.st == .applying then .applied else d.prof.st } }

/-- The new image has loaded, or a measurement failed: TRIAL, with the settings migrated or unreadable (R501-R503). The
profile's application follows where they are readable. -/
def activationDone (ok : Bool) (d : Dev) : Dev :=
  if d.trust.st != .activating then d else
  if !ok then beginFallback 3 d else
  let new := d.trust.active
  let old := d.trust.running
  let phy (p : Bytes) : Option Bytes := ((List.range 7).find? fun k => fld p (manAt k) 1 == 6).map fun k => sliceAt p (manAt k + 64) 64
  let d := d.setTrust fun t => { t with running := new, activations := t.activations + 1, ownerPending := t.ownerNeeded }
  let d := if phy new == phy old then d else
    (List.range 4).foldl (fun d n =>
      if (d.eth.getD n {}).enable then
        tracksOfPortLost n (evLink n false { d with eth := upd d.eth n fun p => { p with link := false, rate := 0, linkAt := d.now } })
      else d) d
  let d := updState .trial 0 d
  let f := d.trust.bankFmt
  if pkgReads new ≤ f && f ≤ pkgFmt new then
    let d := swapBanks (pkgFmt new) d.prof.stored d.est.saved d.fleet d
    { d with prof := { d.prof with st := .applying, applying := some (d.prof.activeId, .activation), applyEnd := d.now } }
  else
    let d := ev 0x0F02 1 (det [(16, [0x60]), (18, leBytes 2 f), (20, leBytes 2 (pkgReads new)), (22, leBytes 2 (pkgFmt new))]) d
    let t := d.trust.actTok
    let d := d.setTrust fun t => { t with unreadable := true, actTok := none, timerEnd := some (d.now + t.confirmS * sNs) }
    match t with
    | some t => finish t (.flagged 1 (pkgVersion new) d.trust.confirmS) d
    | none => d

/-- The pause has ended with the part READY: the UPDATE_ACTIVATE completes, the confirmation timer runs, and leases go on; a lease that the
application of a profile has begun anew is not lengthened (R94, R501, R504, R507). -/
def pauseEnds (anew : Bool) (d : Dev) : Dev :=
  let p := d.now - d.trust.pauseAt
  let d := { d with own := { d.own with leaseEnd := d.own.leaseEnd + (if anew then 0 else p), handoverEnd := d.own.handoverEnd + p, windowEnd := d.own.windowEnd + p } }
  match d.trust.actTok with
  | some t =>
    let d := d.setTrust fun t => { t with actTok := none, timerEnd := some (d.now + t.confirmS * sNs) }
    finish t (.ok d.runVersion d.trust.confirmS) d
  | none => d

/-! ### Confirmation (R506, R511) -/

/-- The trial image confirms its health: `healthy` says that self-checks and the Assays of R506 have passed. -/
def healthConfirm (healthy : Bool) (d : Dev) : Dev :=
  if d.trust.st != .trial || !healthy || d.trust.unreadable || d.trust.ownerPending
      || !(d.part == .ready || d.part == .running) then d else
  let up := fld d.trust.running 25 1 % 2 == 1 && decide (d.trust.floor.toNat < d.runSvn)
  let d := { d with prof := { d.prof with previous := none }, est := { d.est with savedOld := [] } }
  let d := if d.trust.fromRecovery then clearCause 5 d else d
  let d := d.setTrust fun t => { t with
    otherFmt := none, oldFleet := none, timerEnd := none, fromRecovery := false
    floor := if up then BitVec.ofNat 8 d.runSvn else t.floor }
  updState .idle 1 d

/-- The confirmation timer expires (R507). -/
def confirmExpire (d : Dev) : Dev :=
  match d.trust.st, d.trust.timerEnd with
  | .trial, some e => if e ≤ d.now then beginFallback 2 d else d
  | _, _ => d

/-- UPDATE_CONFIRM. -/
def opUpdateConfirm : OpFn := fun _ d =>
  if d.trust.st != .trial then opDone d d.updConflict
  else opDone (d.setTrust fun t => { t with ownerPending := false }) .ok

/-- UPDATE_REVERT: it completes once the fallback ends. -/
def opUpdateRevert : OpFn := fun c d =>
  if d.trust.st != .trial then opDone d d.updConflict
  else (beginFallback 0 ((commitPoint c.tok d).setTrust fun t => { t with reverts := t.reverts ++ [c.tok] }), .later)

/-- ACCEPT_DEFAULTS (R504): the strapped profile is applied on defaults. -/
def opAcceptDefaults : OpFn := fun c d =>
  if d.trust.st != .trial then opDone d d.updConflict
  else if !d.trust.unreadable then opDone d .ok
  else
    let d := swapBanks (pkgFmt d.trust.running) defaultRecords [] (noFleet d.fleet) d
    let d := commitPoint c.tok (d.setTrust fun t => { t with unreadable := false, acceptTok := some c.tok })
    ({ d with prof := { d.prof with st := .applying, applying := some (d.prof.strap, .accept c.tok), applyEnd := d.now } }, .later)

/-- Seconds left on the confirmation timer. -/
def Dev.confirmLeft (d : Dev) : Nat :=
  match d.trust.timerEnd with
  | some e => (e - d.now + (sNs - 1)) / sNs
  | none => 0

/-- UPDATE_STATUS. -/
def opUpdateStatus : OpFn := fun _ d =>
  let v := if d.trust.st == .staged || d.trust.st == .trial then pkgVersion d.trust.active else d.runVersion
  opDone d (.ok v (d.trust.st.code % 256 + atBit 8 (bit d.trust.unreadable) + atBit 9 (bit d.trust.retainedValid) + atBit 16 d.confirmLeft))

/-! ### Identity, attestation, keys (R487-R489, R493) -/

/-- Offset and length of a read that lies within `total` bytes, at most 4,096 inline. -/
def OpCtx.rangeOk (c : OpCtx) (total : Nat) : Bool :=
  let n := c.d.f 44 2
  let most := match c.ch with
    | .sq _ => total
    | _ => 4096
  decide (1 ≤ n) && decide (n ≤ most) && decide (c.d.f 40 4 + n ≤ total)

/-- HM_IDENTITY. -/
def opHmIdentity : OpFn := fun c d =>
  if !c.rangeOk 8883 then opDone d .bad
  else opDone d (c.output 32 (sliceAt d.identityBlock (c.d.f 40 4) (c.d.f 44 2)) .ok)

/-- What the settings bank in use holds, as bytes. -/
def Dev.settingsBytes (d : Dev) : Bytes :=
  Config.settingsImage (leBytes 2 d.trust.bankFmt :: d.prof.stored ++ d.est.saved.map (·.2) ++ [d.fleet.cfg, d.fleet.frame]
    ++ d.fleet.auth :: (d.fleet.enrolment.toList.flatMap fun e => [e.1, e.2]) ++ d.fleet.table
    ++ d.fleet.pubs.map fun p => leBytes 4 p.shard ++ leBytes 8 p.last)

/-- The attestation report for a nonce (*Attestation report*). -/
def Dev.attestation (d : Dev) (nonce : Bytes) : Bytes :=
  let run := d.trust.running
  let comp (k : Nat) : Bytes :=
    let e := manEntry run k
    if k < 7 then sliceAt e 0 1 ++ List.replicate 7 0 ++ sliceAt e 24 8 ++ sliceAt e 64 64 else List.replicate 80 0
  let flags := bit d.trust.security + 2 * bit d.trust.unreadable + 4 * bit (d.trust.st == .recovery)
  let b := padTo 1024 (leBytes 4 0x54545341 ++ leBytes 2 1 ++ leBytes 2 5651 ++ padTo 64 nonce ++ leBytes 8 d.tb64 ++ leBytes 8 d.serial.toNat
    ++ leBytes 2 d.devId ++ [0xB0, BitVec.ofNat 8 d.grade, BitVec.ofNat 8 d.prof.activeId, BitVec.ofNat 8 d.part.code,
       BitVec.ofNat 8 (d.trust.st.code % 256), BitVec.ofNat 8 flags, BitVec.ofNat 8 d.runSvn, d.trust.floor] ++ List.replicate 6 0
    ++ leBytes 8 d.trust.bootCount.toNat ++ padTo 64 Config.loaderDigest ++ padTo 64 (Config.sha3 (Config.identityKey d.serial.toNat))
    ++ padTo 16 ((d.trust.fleetKey.map (·.1)).getD []) ++ padTo 64 (Config.sha3 d.settingsBytes)
    ++ padTo 64 (Config.sha3 (run.take 4096)) ++ (List.range 8).flatMap comp)
  b ++ padTo 4627 (Config.identitySign d.serial.toNat b)

/-- HM_ATTEST: a new nonce makes a new report (R493). -/
def opHmAttest : OpFn := fun c d =>
  if !c.rangeOk 5651 then opDone d .bad else
  let nonce := c.input d 24 64
  let held := match d.trust.report with
    | some r => r.1 == nonce
    | none => false
  let d := if held then d else
    d.setTrust fun t => { t with report := some (nonce, d.attestation nonce), attests := t.attests + 1 }
  let r := (d.trust.report.map (·.2)).getD []
  opDone d (c.output 32 (sliceAt r (c.d.f 40 4) (c.d.f 44 2)) (.ok (fld r 72 8)))

/-- UPDATE_KEY_INSTALL (R488, R505, R513). -/
def opUpdateKeyInstall : OpFn := fun c d =>
  let remove := c.d.u8 24 == 1
  if 1 < c.d.u8 24 || (remove && c.d.f 32 8 != 0) then opDone d .bad
  else if d.trust.st != .idle && d.trust.st != .recovery then opDone d d.updConflict
  else if remove then opDone (d.setTrust fun t => { t with fleetKey := none }) .ok
  else
    let p := c.input d 32 1676
    match Config.parcelSeed d.serial.toNat p with
    | none => opDone d { Cpl.bad with result1 := 1 }
    | some seed =>
      let id := (Config.sha3 (Config.fleetUpdateKey seed)).take 16
      if id != p.take 16 then opDone d { Cpl.bad with result1 := 2 }
      else opDone (d.setTrust fun t => { t with fleetKey := some (id, seed) }) .ok

/-- SETTINGS_EXPORT (R514). -/
def opSettingsExport : OpFn := fun c d =>
  let n := c.d.u8 24
  let name := c.d.bytes 32 (min n 32)
  if n = 0 || 32 < n || !nameOk name then opDone d .bad
  else if !d.card.usable then opDone d (.of stResourceShort)
  else
    let body := d.settingsBytes
    let b := leBytes 4 0x58544553 ++ leBytes 2 1 ++ leBytes 2 d.trust.bankFmt ++ leBytes 8 d.tb64 ++ leBytes 2 d.devId ++ List.replicate 6 0
      ++ leBytes 8 body.length ++ body
    let b := b ++ padTo 4627 (Config.identitySign d.serial.toNat b)
    opDone (emit (.cardFile name b) d) (.ok b.length)

/-! ### Violations and the card (R492, R496) -/

/-- A Hallmark violation: `what` 1 a measurement of a component kind, 2 an access to an address. -/
def hmViolation (what kind addr : Nat) (d : Dev) : Dev :=
  let d := logFault 8 0xFF 0 14 3 (if what = 2 then addr else 0) d
  let d := ev 0x0F03 2 (det [(16, [BitVec.ofNat 8 what, BitVec.ofNat 8 (if what = 1 then kind else 0)]),
    (20, leBytes 8 (if what = 2 then addr else 0))]) d
  raiseCause 4 (d.setTrust fun t => { t with
    violations := satInc t.violations, security := true })

/-- A card is inserted, usable or not, with its files of /SVAPEX, or removed. -/
def cardChange (present usable : Bool) (files : List (Bytes × Bytes)) (d : Dev) : Dev :=
  ev 0x0F04 0 (det [(16, [if present then 1 else 0])])
    { d with card := { present := present, usable := present && usable, files := if present then files else [] } }

/-- ABORT_SQ takes an UPDATE_STAGE (R43). -/
def trustAborted (t : Tok) (d : Dev) : Dev :=
  match d.trust.staging with
  | some (u, _, _) => if u = t then stageEnds 0 d else d
  | none => d

/-- A full reset: what flash, the key store and OTP hold stays; the boot is counted (R497). -/
def trustReset (t : Trust) : Trust :=
  { ({} : Trust) with
    st := t.st, active := t.active, retained := t.retained, retainedValid := t.retainedValid, cause := t.cause
    staging := t.staging, fromRecovery := t.fromRecovery, running := t.running, bankFmt := t.bankFmt
    otherFmt := t.otherFmt, oldFleet := t.oldFleet, floor := t.floor, revoked := t.revoked, fleetKey := t.fleetKey
    bootCount := t.bootCount + 1, loaderOk := t.loaderOk }

end Sys2Proof.Machine
end

