-- ==== Sys2Proof/Machine/Power.lean ====
section
/-! DEFINITION. The power envelope, the two clock loops and the environment limits (spec/17; spec/07 R225). -/

namespace Sys2Proof.Machine

def Dev.setPw (d : Dev) (f : Pw → Pw) : Dev := { d with pw := f d.pw }

/-- Bits set among the low n of a value. -/
def onesIn (n v : Nat) : Nat := ((List.range n).filter v.testBit).length

/-- The minimum envelope of a record's enables, in W (R520). -/
def minEnvelope (rec : Bytes) : Nat :=
  4 + onesIn 6 (fld rec 20 1) + onesIn 2 (fld rec 21 1) + (onesIn 8 (fld rec 22 1) + 3) / 4

/-- The DVFS step of a clock, where it is one (R521). -/
def stepOf (mhz : Nat) : Option Nat := if 600 ≤ mhz ∧ mhz ≤ 2200 ∧ mhz % 200 = 0 then some ((mhz - 600) / 200) else none

/-- PW_ENV written: below the minimum envelope of the active profile or above 85 W it is ignored (R520). -/
def writePwEnv (v : Nat) (d : Dev) : Dev :=
  let w := bitsOf 6 0 v
  if minEnvelope d.prof.active ≤ w && w ≤ 85 then d.setPw fun p => { p with envW := w } else d

/-- The throttle threshold in °C (R524). -/
def Dev.throttleAt (d : Dev) : Int := if d.grade = 0 then 90 else 100

/-- Enabled clusters that are not power-gated. -/
def Dev.clocked (d : Dev) : List Nat :=
  if d.part == .baseMetal && d.flt.gated then [] else (List.range 6).filter fun c => (d.clus c).on

/-- A cluster carries pose-critical work. -/
def Dev.carriesPose (d : Dev) (c : Nat) : Bool := d.comp.tasks.any fun k => k.cluster == c && k.cls == 0 && k.st != .committed

/-- Group of a cluster in the order of R225: no pose-critical work; U_pc within CEILING after a lowering step; any other. -/
def Dev.lowerGroup (d : Dev) (c : Nat) : Nat :=
  if !d.carriesPose c then 0
  else if (d.setClus c fun q => { q with step := q.step - 1 }).overCeiling c 0 (d.liveIn c) then 2 else 1

/-- One cluster is lowered before another (R225, R523). -/
def Dev.lowerBefore (d : Dev) (a b : Nat) : Bool :=
  let ga := d.lowerGroup a
  let gb := d.lowerGroup b
  let sa := (d.clus a).step
  let sb := (d.clus b).step
  decide (ga < gb) || (ga == gb && (decide (sb < sa) || (sa == sb && decide (b < a))))

/-- The first of a list in the order of lowering, and the last. -/
def Dev.firstLowered (d : Dev) : List Nat → Option Nat
  | [] => none
  | a :: r => match d.firstLowered r with
    | none => some a
    | some b => if d.lowerBefore a b then some a else some b
def Dev.lastLowered (d : Dev) : List Nat → Option Nat
  | [] => none
  | a :: r => match d.lastLowered r with
    | none => some a
    | some b => if d.lowerBefore a b then some b else some a

/-- A clock step of the cluster was made in this millisecond (R525). -/
def Dev.steppedNow (d : Dev) (c : Nat) : Bool :=
  match d.pw.clStepAt.getD c none with
  | some a => a / msNs == d.now / msNs
  | none => false

/-- EV_THROTTLE, at most once a second for each cluster (R525). -/
def throttleEvent (c : Nat) (below : Bool) (d : Dev) : Dev :=
  let due := match d.pw.evAt.getD c none with
    | some a => decide (a + sNs ≤ d.now)
    | none => true
  if !due then d else
  ev 0x0301 (bit below) (det [(16, [BitVec.ofNat 8 c, BitVec.ofNat 8 (d.clus c).step, BitVec.ofNat 8 (d.pw.why.getD c 0), BitVec.ofNat 8 (bit below)])])
    (d.setPw fun p => { p with evAt := upd p.evAt c fun _ => some d.now })

/-- A clock step moves one cluster by one step (R522, R525). -/
def clockStep (c : Nat) (up : Bool) (cause : Nat) (d : Dev) : Dev :=
  let was := (d.clus c).step
  let first := was == (d.clus c).top
  let d := setStep c (if up then was + 1 else was - 1) d
  let d := d.setPw fun p => { p with
    steps := p.steps + 1, stepAt := some d.now, clStepAt := upd p.clStepAt c fun _ => some d.now
    why := if up then p.why else upd p.why c fun _ => cause }
  if up then
    if d.clocked.all fun k => (d.clus k).step == (d.clus k).top then throttleEvent c false d else d
  else
    let d := mayRise c 1 d
    if first then throttleEvent c true d else d

/-- The cluster that a lowering step takes: none where the other loop has stepped that cluster in this millisecond (R525). -/
def Dev.lowering (d : Dev) : Option Nat :=
  (d.firstLowered (d.clocked.filter fun c => 0 < (d.clus c).step)).filter fun c => !d.steppedNow c

/-- A turn of the power loop, every 1 ms: the means over 1 ms and 100 ms, VIN and input current as measured (R523). -/
def powerTick (mean1 mean100 vinMv iinMa : Nat) (d : Dev) : Dev :=
  let due := match d.pw.powerAt with
    | some a => decide (a + msNs ≤ d.now)
    | none => true
  if !due then d else
  let d := d.setPw fun p => { p with powerAt := some d.now, mean1 := mean1, mean100 := mean100, vinMv := vinMv, iinMa := iinMa }
  let target := 96 * d.pw.envW
  let below := d.clocked.filter fun c => decide ((d.clus c).step < (d.clus c).top)
  let d := if below.isEmpty then d else
    d.setPw fun p => { p with
      limitedMs := (p.limitedMs + 1) % 1000, limitedS := if p.limitedMs = 999 then satInc p.limitedS else p.limitedS }
  if target < mean1 then
    match d.lowering with
    | some c => clockStep c false 0 d
    | none => d
  else
    match (d.lastLowered below).filter fun c => !d.steppedNow c with
    | none => d
    | some c =>
      let s := (d.clus c).step
      let cool := match d.pw.coolSince with
        | some a => decide (a + sNs ≤ d.now)
        | none => false
      let rest := match d.pw.stepAt with
        | some a => decide (a + 10 * msNs ≤ d.now)
        | none => true
      if mean100 + (stepPower (s + 1) - stepPower s) ≤ target && cool && rest then clockStep c true 0 d else d

/-- A turn of the thermal loop, every 10 ms: the highest reading and its sensor (R524). -/
def thermalTick (tj : Int) (sensor : Nat) (d : Dev) : Dev :=
  let due := match d.pw.thermAt with
    | some a => decide (a + 10 * msNs ≤ d.now)
    | none => true
  if !due then d else
  let d := d.setPw fun p => { p with
    thermAt := some d.now, tj := tj, sensor := sensor
    coolSince := if tj ≤ d.throttleAt - 3 then p.coolSince.or (some d.now) else none }
  if tj < d.throttleAt then d else
  match d.lowering with
  | some c => clockStep c false 1 d
  | none => d

/-- A condition of *Environment faults* has lasted its time: 0 VIN low, 1 VIN high, 2 temperature, 3 power, which needs
every enabled cluster at step 0 (R526). -/
def environmentFault (cond : Nat) (d : Dev) : Dev :=
  if d.start == .held || 3 < cond then d
  else if cond = 3 && !((d.clocked.all fun c => (d.clus c).step == 0) && decide (100 * d.pw.envW < d.pw.mean1)) then d
  else raiseCause 3 (logFault 7 0xFF 0 15 3 0 (d.setPw fun p => { p with env := true, envFaults := satInc p.envFaults }))

/-- The readings have been back within limits for their times (R527). -/
def environmentClear (d : Dev) : Dev := clearCause 3 (d.setPw fun p => { p with env := false })

/-- A profile is applied: clusters by its enables and clocks, its envelope, both loops anew (R525; spec/07 R17, R222). -/
def powerApply (d : Dev) : Dev :=
  let set (c : Nat) (q : Cluster) : Cluster :=
    let on := (d.pf 20 1).testBit c
    let s := (stepOf (d.pf (24 + 2 * c) 2)).getD 0
    let eng (x : Engine) : Engine := if on then (if x.st == .gated then { x with st := .live } else x)
      else ({ tasks := x.tasks, st := if x.st == .fenced || x.st == .assay then .fenced else .gated } : Engine)
    { q with on := on, step := if on then s else 0, top := if on then s else 0, ceiling := BitVec.ofNat 7 (d.pf 47 1), held := false
             withinAt := none, rise := none, pcUtil := 0, ready := [], eng := q.eng.map eng }
  let d := { d with comp := { d.comp with cl := d.comp.cl.mapIdx set } }
  d.setPw fun p => { p with
    envW := d.pf 38 1, stepAt := none, clStepAt := List.replicate 6 none, coolSince := none, evAt := List.replicate 6 none
    powerAt := none, thermAt := none }

/-- PW_STATE. -/
def pwState (d : Dev) : Nat :=
  let low (k : Nat) : Bool := d.clocked.any fun c => decide ((d.clus c).step < (d.clus c).top) && d.pw.why.getD c 0 == k
  bit (low 0) + 2 * bit (low 1) + 4 * bit d.pw.env
    + ((List.range 6).map fun c => if d.clocked.contains c then (d.clus c).step * 2 ^ (8 + 4 * c) else 0).sum

end Sys2Proof.Machine
end

