-- ==== Sys2Proof/Machine/Base.lean ====
section
/-! DEFINITION. What ends descriptors before their time - aborts, resets, base-metal mode, the update pause - readers of
words that cannot be corrected, and what follows of itself at the end of a command (spec/02 R43, R65; spec/15 R459, R476-R479;
spec/16 R501). -/

namespace Sys2Proof.Machine

/-! ### A descriptor is taken: its staged effects are discarded (R43, R69) -/

/-- A profile's application or write under way for the descriptor is given up (R97). -/
def profAborted (t : Tok) (d : Dev) : Dev :=
  let d := match d.prof.applying with
    | some (_, .command u) => if u = t then { d with prof := { d.prof with st := .applied, applying := none } } else d
    | _ => d
  match d.prof.writing with
  | some (_, _, u) => if u = t then { d with prof := { d.prof with st := .applied, writing := none } } else d
  | none => d

/-- The grabs of a sensor or a vision ring, a VP_MOVE that waits, a STEREO_STORED under way. -/
def ingressAborted (t : Tok) (d : Dev) : Dev :=
  let free (g : Option Tok) : Option Tok := if g = some t then none else g
  let ring (r : VpRing) : VpRing := { r with
    grab := free r.grab, cur := r.cur.map fun f => { f with grab := free f.grab }, closing := r.closing.map fun f => { f with grab := free f.grab } }
  let pipe (v : VpPipe) : VpPipe := { v with moving := v.moving.filter fun m => m.1 != t }
  { d with
    sens := { d.sens with s := d.sens.s.map fun x => { x with grab := free x.grab } }
    vision := { d.vision with
      ring := d.vision.ring.map ring, pipe := d.vision.pipe.map pipe, jobs := d.vision.jobs.filter fun j => j.tok != t } }

/-- A TIER_PROMOTE that waits gives up its pin; a TIER_EVICT that waits no longer does, and the tile whose eviction it began stays RESIDENT
where nothing else waits. IPM_CHANNEL returns likewise: a RESYNC that nothing else waits for is given up. -/
def tierAborted (t : Tok) (d : Dev) : Dev :=
  let drop (l : List (Nat × Nat)) : List (Nat × Nat) := (l.map fun p => if p.1 = 0xFF then (p.1, p.2 - 1) else p).filter fun p => decide (0 < p.2)
  let obj (o : TierObj) : TierObj :=
    let o := { o with evict := o.evict.filter (· != t) }
    if o.wants.contains (.host t) then { o with wants := o.wants.filter (· != .host t), pins := drop o.pins } else o
  let kept := (d.tier.objs.filter fun o => o.st == .evicting && o.evictor == some t && o.evict == [t] && o.wants.isEmpty)
  let back := (List.range 64).filter fun n => (d.ipmCh n).returning.contains t
  let d := { d with
    tier := { d.tier with objs := d.tier.objs.map obj }
    ipm := { d.ipm with ch := d.ipm.ch.map fun c => { c with returning := c.returning.filter (· != t), waiting := c.waiting.filter (· != t) } } }
  let d := kept.foldl (fun d o => tierLeave o.id (movementEnds o [] (d.setObj o.id fun o => { o with st := .resident, evictor := none }))) d
  back.foldl (fun d n => resyncDropped n d) d

/-- The model commands: an INFER's work is dropped, a load or an unload is undone, a reset or an unbinding no longer waits. -/
def neuralAborted (t : Tok) (d : Dev) : Dev :=
  let d := (List.range 16).foldl (fun d s =>
    let x := d.slot s
    let works := (x.reqs.filter fun r => r.tok = t).filterMap (·.work)
    let d := works.foldl (fun d w => dropWork w d) d
    let d := inferGone s t (d.setSlot s fun x => { x with resets := x.resets.filter fun z => z.2.1 != t })
    let d := if x.loadTok = some t then
        let d := d.setObj (setObjId s) fun o => { o with wants := o.wants.filter (· != .model s) }
        slotState s .installed 0 (freeSlot s (d.setSlot s fun x => { x with loadTok := none }))
      else d
    let waits := match x.unload with
      | some z => z.2 == t
      | none => false
    if waits then slotState s .loaded 0 (d.setSlot s fun x => { x with unload := none }) else d) d
  let stay (b : Binding) : Binding := if b.ending = some (some t) then { b with ending := none } else b
  { d with neural := { d.neural with binds := d.neural.binds.map stay } }

/-- FUSION_STOP and FUSION_RESET that wait for a tick. -/
def fusionAborted (t : Tok) (d : Dev) : Dev :=
  let tick (k : FusTick) : FusTick := { k with resetToks := k.resetToks.filter (· != t), final := if k.final = some t then none else k.final }
  d.setFus fun f => { f with asked := f.asked.filter (fun a => a.1 != t), running := f.running.map tick, waiting := f.waiting.map tick }

/-- A descriptor under way, before its commit point, is taken: nothing of it is left in any block. -/
def cancelTok (t : Tok) (d : Dev) : Dev :=
  let d := { d with own := { d.own with claims := d.own.claims.filter fun c => c.2 != t } }
  let d := neuralAborted t (tierAborted t (ingressAborted t (profAborted t d)))
  let d := placeAborted t (solveAborted t (fusionAborted t d))
  trustAborted t (fltAborted t (fleetAborted t (estAborted t d)))

/-- A descriptor is past its commit point: it said so, or its work has ended with a status that has effects (*Status codes*; 0x32 has those
that the solver's chapter states). One that a status without effects waits for has none to keep. -/
def Pend.isPast (p : Pend) : Bool :=
  match p.stage with
  | .committed => true
  | .finished k => p.past || k.status.toNat < 0x10 || k.status == stNotConverged
  | _ => false

/-- A pending descriptor is taken with a completion, unless it is past its commit point; a SOLVE that runs is aborted at its next
iteration boundary (R43, R355). -/
def takePend (ch : Chan) (k : Cpl) (p : Pend) (d : Dev) : Dev :=
  let t : Tok := { ch := ch, count := p.count }
  if p.isPast then d else
  match (if k.status == stAborted then solveTaken t d else none) with
  | some d => d
  | none =>
  let d := cancelTok t d
  let mark (q : Pend) : Pend := if q.count = p.count then { q with stage := .finished k } else q
  let d := d.setChan ch fun r => { r with pend := r.pend.map mark }
  { d with kick := ch :: d.kick }

/-- Every fetched descriptor that has not completed completes in its ring order with `k`, or with its own status past its
commit point (R478, R501). -/
def drainAll (k : Cpl) (d : Dev) : Dev :=
  channels.foldl (fun d ch => (d.chan ch).pend.foldl (fun d p => takePend ch k p d) d) d

/-! ### Readers of words that cannot be corrected (R237, R459) -/

/-- The reader of a word fails as its chapter states (R237, R459). -/
def failReader (addr : Nat) (r : Reader) (d : Dev) : Dev :=
  match r with
  | .engine c e =>
    match (d.eng c e).running.bind d.task with
    | none => d
    | some k =>
      let maker := d.comp.tasks.find? fun p =>
        p.work == k.work && p.st == .committed && p.regions.any fun x => decide (x.1 ≤ addr ∧ addr < x.1 + x.2)
      let d := d.setEng c e fun x => { x with running := none }
      match maker with
      | some p => rerunAfter k.id p.id d
      | none => workFails k.work 0 d
  | .walker w slot =>
    match (d.ctxOf w).find? fun c => c.slot == slot with
    | some c => (requeueQuery c d).setPlace fun p => { p with restarted := satInc p.restarted }
    | none => d
  | .desc ch n =>
    match d.pendOf { ch := ch, count := n } with
    | some p => takePend ch (.of stDataError) p d
    | none => d
  | .problem s => problemLost s d
  | .other => d

/-- An on-chip word is uncorrectable: engine-local memory fences its engine, a flag word is handled as R460 states, any other
word fails its reader (R459, R460). -/
def sramUncorr (addr : Nat) (r : Reader) (d : Dev) : Dev :=
  if addr < 0x30000000 && addr % 0x08000000 / 0x80000 < 24 then engineFault (addr / 0x08000000) (addr % 0x08000000 / 0x80000) 3 1 addr d
  else
    let d := logFault 2 0xFF 0 1 1 addr d
    if flagBase ≤ addr && addr < flagBase + 0x4000 then flagUncorr ((addr - flagBase) / 4) d else failReader addr r d

/-- A position of the IPM is read for a reader: repaired, or uncorrectable, and then the object's units are rewritten from
home or the reader fails (R236, R237, R291, R417). -/
def ipmRead (x : IpmRead) (obj : Option Nat) (r : Reader) (d : Dev) : Dev :=
  let bad := d.ipmBad x
  let d := ipmPosition x d
  if !bad && !d.rewriting (ipmBase + x.offset) 1 then d else
  match obj.bind d.obj with
  | some o =>
    if o.kind = 2 then
      let task := match r with
        | .engine c e => (d.eng c e).running
        | _ => none
      let d := match r with
        | .engine c e => d.setEng c e fun y => { y with running := none }
        | _ => d
      modelRepair ((o.id - 0x30000000) / 0x100) x.offset task d
    else if 3 ≤ o.kind && o.kind ≤ 5 then indexRepair o.id x.offset d
    else failReader (ipmBase + x.offset) r d
  | none => failReader (ipmBase + x.offset) r d

/-- A copy ends: with its bytes in place, or as a failure of its issuer where its source could not be read or a byte of it
lies in no store (R229, R256). One whose turn has not come stays in its queue. The cycles that its issuer's cluster waited and the
single-bit errors corrected in its source are counted (R204, R230). In base-metal mode only CE15 runs (R479). -/
def copyDone (ce src dst len stall corrected : Nat) (srcHost dstHost : Bool) (flag : Option (Nat × Nat)) (ok : Bool) (r : Reader) (d : Dev) : Dev :=
  if 16 ≤ ce || (d.inBase && ce != 15) || !d.copyTurn ce src dst len srcHost dstHost r then d else
  let job := d.queuedCopy ce src dst len r
  let d := match job with
    | some j => { d with comp := { d.comp with copyq := d.comp.copyq.erase j } }
    | none => d
  let d := faultCorrected corrected d
  let d := match r with
    | .engine c _ => d.setClus c fun q => { q with copyStall := q.copyStall + BitVec.ofNat 64 stall }
    | _ => d
  if ok && copyValid srcHost dstHost src dst len && !(srcHost && d.hostFails src len) then
    let b := if srcHost then memRead d.hif.mem src len else d.copyView r src len
    let d := copyBytes ce dstHost b dst flag d
    match job with
    | some j => ingotArrives j d
    | none => d
  else match if srcHost then none else d.setHolding src, job with
    | some s, some j => modelRepair s (src - ipmBase) none { d with comp := { d.comp with copyq := j :: d.comp.copyq } }
    | _, _ => failReader src r d

/-- The rewrite of an object's failed blocks, or of its units, has ended: the tasks that waited go on in their order (R252, R291, R417). -/
def repairDone (id : Nat) (ok : Bool) (d : Dev) : Dev :=
  let d := tierRepair id ok d
  match d.obj id with
  | none => d
  | some o =>
    if o.rewrite.isEmpty then d else
    let d := (rewriteUnits o d).setObj id fun o => { o with rewrite := [], stalled := [] }
    o.stalled.reverse.foldl (fun d n => match d.task n with
      | some k => requeueTask k d
      | none => d) d

/-- A role's state has been rebuilt on its new engine: the tensors of a holder, whose set must be in the IPM first, the state
role's and the fusion role's follow (R216, R255, R289, R314). -/
def rebuildDone (c e : Nat) (d : Dev) : Dev :=
  let x := d.eng c e
  let s := x.obj.toNat / 0x100
  if !x.rebuilding || (x.kind == 2 && !d.setReady s) then d else
  let d := roleRebuilt c e d
  if x.kind == 2 then holderRebuilt s (x.obj.toNat % 32) c e d
  else if x.movedFrom.isNone then d
  else if x.kind == 1 then stateRebuilt (x.obj.toNat / 0x100) (x.obj.toNat % 0x100) d
  else if x.kind == 4 then fusionRebuilt d else d

/-- Objects that have just become LOST take their users with them (R253, R292, R315, R417). -/
def lostUsers (d : Dev) : Dev :=
  let l := d.tier.lostNow
  l.foldl (fun d id =>
    if 0x30000000 ≤ id && id < 0x30001000 && id % 0x100 ≤ 1 then
      let s := (id - 0x30000000) / 0x100
      modelLost s (fusionLost s d)
    else if 0x40000000 ≤ id && id < 0x40001000 && 3 ≤ id % 0x100 && id % 0x100 ≤ 5 then indexLost ((id - 0x40000000) / 0x100) d
    else d) { d with tier := { d.tier with lostNow := [] } }

/-! ### READY and RUNNING (R65) -/

/-- The part gives its full service. -/
def Dev.full (d : Dev) : Bool := d.part == .ready || d.part == .running

/-- An enabled cluster is busy, or one of the states of R65 that keep the part RUNNING is in force. -/
def Dev.busy (d : Dev) : Bool :=
  d.comp.tasks.any (fun k => k.st != .committed) || d.comp.cl.any (fun q => q.on && q.eng.any fun e => e.kind != 0)
    || d.estLive || d.fusion.st == .running || !d.neural.binds.isEmpty

/-- READY becomes RUNNING with the first work placed; the instant at which the last ends is kept for the way back. -/
def runState (d : Dev) : Dev :=
  if !d.full then d
  else if d.busy then { d with part := .running, idleSince := none }
  else if d.part == .running && d.idleSince.isNone then { d with idleSince := some d.now }
  else d

/-- The part becomes READY again within 1 ms (R65). -/
def readyTimeout (d : Dev) : Dev :=
  if d.part == .running && !d.busy then { d with part := .ready, idleSince := none } else d

/-! ### Base-metal mode and the update pause (R476-R479, R501, R508) -/

/-- The causes that call for base-metal mode: a trial from RECOVERY, and its activation, run with cause FALLBACK set (R510). -/
def Dev.liveCauses (d : Dev) : Byte :=
  if d.trust.fromRecovery && (d.trust.st == .activating || d.trust.st == .trial) then d.flt.causes &&& 0xDF else d.flt.causes

/-- Work in the array and in the search ends; nothing is left that would go on (R478, R501). -/
def quiesce (d : Dev) : Dev :=
  let d := d.comp.works.foldl (fun d w => dropWork w.id d) d
  let d := dropTicks d
  let ring (r : VpRing) : VpRing := { r with waitL := none, waitR := none, paired := [], cur := [], closing := [], grab := none }
  let leave (x : Engine) : Engine := { x with leaving := none, running := none, deque := [] }
  let served (t : Nat × Nat) : Bool := d.fleet.serving.any fun q => q.2.src == t.1 && q.2.msgId == t.2
  { d with
    vision := { d.vision with ring := d.vision.ring.map ring }
    comp := { d.comp with tasks := [], rounds := [], net := [], copyq := d.comp.copyq.filter (fun j => j.load.isSome), cl := d.comp.cl.map fun q => { q with ready := [], eng := q.eng.map leave } }
    place := { d.place with jobs := [], ctx := [], ended := [] }
    fleet := { d.fleet with serving := [], taken := d.fleet.taken.filter fun t => !served t } }

/-- Base-metal entry abandons every Assay and leaves its unit fenced (R472). -/
def abandonAssays (d : Dev) : Dev :=
  let l := d.flt.assays
  l.foldl (fun d a =>
    let u := a.unit
    match a.kind with
    | 0 => d.setEng (u / 256) (u % 256) fun x => { x with st := .fenced }
    | 1 => d.setWk u fun w => { w with st := .fenced }
    | 2 => d.setVp u fun v => { v with st := .fenced }
    | 3 => { d with flt := { d.flt with core := upd d.flt.core u fun _ => 1 } }
    | 4 => if (d.ipmCh u).st == .failed then d else chChange u .failed 1 d
    | 5 => d.setTs u fun x => { x with st := .fenced }
    | _ => d) { d with flt := { d.flt with assays := [] } }

/-- In base-metal mode the application that an activation leaves waits for BASE_EXIT, and the UPDATE_ACTIVATE completes. -/
def dropActivation (d : Dev) : Dev :=
  match d.prof.applying with
  | some (_, .activation) =>
    if d.part == .baseMetal then pauseEnds false { d with prof := { d.prof with st := .applied, applying := none } } else d
  | _ => d

/-- Base-metal mode is entered (R477-R479, R507). -/
def enterBase (d : Dev) : Dev :=
  let fatal := d.trust.st == .trial && d.flt.causes &&& 0x56 != 0
  let d := if fatal then beginFallback 3 d else d
  let c := d.flt.causes
  let d := { d with part := .baseMetal, idleSince := none, flt := { d.flt with bmAt := d.now, gated := false, bmEntries := satInc d.flt.bmEntries } }
  let d := ev 0x0E04 2 (det [(16, [1, c])]) d
  let d := abandonAssays (estBase d)
  let l := d.flt.entering
  let d := l.foldl (fun d t => finish t .ok d) { d with flt := { d.flt with entering := [], exits := [] } }
  let d := quiesce (drainAll (.conflict 4) (fleetBase d))
  let d := dropActivation d
  let d := { d with prof := { d.prof with st := if d.prof.applying.isSome then .applied else d.prof.st, applying := none } }
  { d with flt := { d.flt with service := d.firstCore } }

/-- The part enters base-metal mode where a cause calls for it, or a fallback has begun; during start-up, once the safety
island runs (R90, R476, R508). -/
def baseCheck (d : Dev) : Dev :=
  let may := d.full || d.part == .updatePause || (d.part == .starting && (d.start == .safetyRunning || d.start == .controlRunning || d.start == .ipmTrained))
  if may && (d.liveCauses != 0 || d.trust.st == .fallingBack) then enterBase d else d

/-- The full-service pause begins once an UPDATE_ACTIVATE has been accepted (R501). -/
def pauseCheck (d : Dev) : Dev :=
  if d.trust.st == .activating && d.part != .updatePause && d.part != .starting && (d.part != .baseMetal || d.trust.fromRecovery && d.liveCauses == 0) then
    let d := { d with part := .updatePause, idleSince := none }
    quiesce (drainAll (.conflict 0x0405) (poseSource 1 (estQuiet d)))
  else d

/-! ### What follows of itself -/

/-- The chain of consequences within the part at the end of a command, before completions are written. -/
def settleParts (d : Dev) : Dev :=
  let d := ipmReturns (actMessages (estRebind (estIntake (storedStep (gnssDone d)))))
  let d := readyTasks d
  let d := (List.range 16).foldl (fun d s => streamCheck s (resetCheck s (unloadCheck s (loadCheck s (readyInfers s d))))) d
  let d := tickCheck (leaveCheck (placeWaitingRoles d))
  let d := (List.range 32).foldl (fun d s => solveAdmit s d) d
  let d := (List.range 16).foldl (fun d i => indexCheck i d) d
  let d := fleetSettle (lostUsers d)
  pauseCheck (baseCheck (runState d))

end Sys2Proof.Machine
end

