-- ==== Sys2Proof/Machine/Profile.lean ====
section
/-! DEFINITION. Stored profiles: the checks of PROFILE_WRITE, the profile opcodes, and the application of a profile
(spec/03 R91-R99, R538, R539; spec/05 R140, R141; spec/06 R164, R165; spec/08 R232; spec/10 R301; spec/17 R520). -/

namespace Sys2Proof.Machine

/-! ### The checks of a record (R96). Each gives the offsets of the fields at fault. -/

/-- The offset, where the check fails. -/
def failAt (o : Nat) (ok : Bool) : List Nat := if ok then [] else [o]

/-- Bytes lo … lo+n-1 that are not zero, each by its own offset (DESIGN CHOICE, notes/assumptions/97.md). -/
def notZero (b : Bytes) (lo n : Nat) : List Nat := (List.range n).flatMap fun i => failAt (lo + i) (fld b (lo + i) 1 == 0)

/-- The field is within a range. -/
def within (b : Bytes) (o n lo hi : Nat) : List Nat := failAt o (decide (lo ≤ fld b o n ∧ fld b o n ≤ hi))

/-- Printable ASCII, followed only by zeros (*Profile record*, name). -/
def nameField (b : Bytes) : Bool :=
  let n := (b.drop 4).take 16
  let text := n.takeWhile (· != 0)
  text.all (fun c => decide (0x20 ≤ c.toNat ∧ c.toNat ≤ 0x7E)) && (n.drop text.length).all (· == 0)

/-- *Profile record* but for the sensor map, for a record that is to stand for profile `p` in settings format `fmt`. A stream_route entry at
or above route_count has no range to keep (DESIGN CHOICE, notes/assumptions/97.md). -/
def headFaults (fmt p : Nat) (b : Bytes) : List Nat :=
  failAt 0 (fld b 0 2 == fmt) ++ failAt 2 (fld b 2 1 == p) ++ notZero b 3 1 ++ failAt 4 (nameField b)
    ++ failAt 20 (decide (fld b 20 1 < 64)) ++ failAt 21 (decide (fld b 21 1 < 4)) ++ within b 23 1 0 1
    ++ ((List.range 6).flatMap fun k =>
      let v := fld b (24 + 2 * k) 2
      failAt (24 + 2 * k) (if (fld b 20 1).testBit k then (stepOf v).isSome else v == 0))
    ++ failAt 36 (fld b 36 2 == 0 || (decide (50 ≤ fld b 36 2) && decide (fld b 36 2 ≤ 2000)))
    ++ within b 38 1 5 85 ++ failAt 38 (decide (minEnvelope b ≤ fld b 38 1)) ++ within b 39 1 0 2
    ++ failAt 40 (fld b 40 2 &&& 0x8888 == 0) ++ within b 42 2 100 10000 ++ within b 44 2 10 60000 ++ within b 46 1 0 4
    ++ within b 47 1 50 95 ++ failAt 48 (decide (fld b 48 4 < 2 ^ 27)) ++ within b 52 1 0 32 ++ within b 53 1 0 16
    ++ failAt 54 (decide (fld b 54 1 < 16)) ++ notZero b 55 1
    ++ ((List.range 16).flatMap fun k =>
      (if k < fld b 53 1 then within b (58 + 4 * k) 1 1 63 else []) ++ notZero b (59 + 4 * k) 1)
    ++ notZero b 120 136

/-- Byte offset of sensor map entry i, and a field of it. -/
def entryAt (i : Nat) : Nat := 512 + 112 * i
def sef (b : Bytes) (i o n : Nat) : Nat := fld b (entryAt i + o) n

/-- The fields of an entry that its kind has, as (offset, bytes, lowest, highest), and the bytes that it leaves reserved
as (first, count) (*Kind-specific fields*). -/
def kindFields : Nat → List (Nat × Nat × Nat × Nat) × List (Nat × Nat)
  | 1 => ([(56, 1, 0, 15), (60, 2, 64, 4096), (62, 2, 64, 4096), (64, 2, 80, 4500)], [(59, 1), (66, 6)])
  | 2 => ([(58, 2, 100, 24000), (60, 1, 2, 32), (72, 1, 0, 63), (73, 1, 0, 63)], [(74, 2), (80, 32)])
  | 3 => ([(56, 1, 0, 1), (57, 1, 1, 4)], [(98, 14)])
  | 4 => ([(56, 1, 0, 1)], [(57, 55)])
  | 5 => ([(57, 1, 0, 2), (76, 2, 1, 4096), (80, 2, 64, 2048)], [(82, 30)])
  | _ => ([], [(57, 55)])

/-- The stereo fields of a routed camera (*Stereo fields*); those of other roles than the entry's are reserved (DEDUCED,
notes/assumptions/48.md). -/
def stereoFaults (b : Bytes) (i : Nat) : List Nat :=
  let a := entryAt i
  let role := sef b i 72 1
  let left := role == 1
  let own := role != 2
  let p1 := sef b i 82 1
  within b (a + 72) 1 0 2
    ++ (if role = 0 then notZero b (a + 73) 1 else within b (a + 73) 1 0 31)
    ++ (if left then within b (a + 74) 1 0 4 else notZero b (a + 74) 1)
    ++ (if own then
        within b (a + 75) 1 2 16 ++ failAt (a + 76) ([8, 16, 32, 64].contains (sef b i 76 2))
          ++ failAt (a + 78) (decide (16 ≤ sef b i 78 2) && decide (sef b i 78 2 ≤ 256) && sef b i 78 2 % 16 == 0)
          ++ failAt (a + 80) (decide (sef b i 80 2 ≤ 4095)) ++ failAt (a + 88) (sef b i 88 4 % 4096 == 0)
      else notZero b (a + 75) 7 ++ notZero b (a + 88) 4)
    ++ (if left then
        within b (a + 82) 1 1 63 ++ failAt (a + 83) (decide (p1 ≤ sef b i 83 1)) ++ within b (a + 84) 1 0 50 ++ within b (a + 86) 1 0 7
          ++ within b (a + 92) 2 1 1000
      else notZero b (a + 82) 5 ++ notZero b (a + 92) 2)
    ++ notZero b (a + 87) 1 ++ notZero b (a + 94) 18

/-- One CAN entry's signal blocks: those in use are checked, the others are zero. -/
def signalFaults (b : Bytes) (i : Nat) : List Nat :=
  (List.range 4).flatMap fun k =>
    let o := entryAt i + 66 + 8 * k
    if k < sef b i 57 1 then within b (o + 1) 1 1 32 ++ within b (o + 2) 1 0 3 ++ within b (o + 3) 1 0 63 else notZero b o 8

/-- The observables that an entry's kind may supply, of bits 0-5 (*Observables*). -/
def obsAllowed (b : Bytes) (i : Nat) : Nat :=
  let k := if sef b i 0 1 = 6 then sef b i 56 1 else sef b i 0 1
  if k = 2 then 0x07 else if k = 3 then 0x3C else 0

/-- The squared norm of q_b_s is within 2⁻¹⁶ of 1 (R141). -/
def quatOk (b : Bytes) (i : Nat) : Bool :=
  let s := ((List.range 4).map fun k => let v := sInt 32 (sef b i (40 + 4 * k) 4); v * v).sum
  decide ((s - (2 ^ 60 : Nat)).natAbs ≤ 2 ^ 44)

/-- One sensor map entry by itself (R140, R141, R164, R301). -/
def entryFaults (b : Bytes) (i : Nat) : List Nat :=
  let a := entryAt i
  let k := sef b i 0 1
  if k = 0 then notZero b a 112 else if 6 < k then [a] else
  let port : Nat × Nat := [(0, 0), (0, 11), (0, 3), (0, 1), (0, 0), (0, 3), (1, 63)].getD k (0, 0)
  let obs := sef b i 12 4
  let (fields, res) := kindFields k
  within b (a + 1) 1 port.1 port.2 ++ within b (a + 2) 1 0 7 ++ within b (a + 3) 1 0 (if k = 1 then 2 else 0)
    ++ (if k = 4 || k = 6 then failAt (a + 4) (sef b i 4 4 == 0) else [])
    ++ failAt (a + 12) (obs &&& 0xFFC0 == 0 && (obs &&& 0x3F) &&& obsAllowed b i == obs &&& 0x3F)
    ++ failAt (a + 40) (quatOk b i)
    ++ (fields.flatMap fun f => within b (a + f.1) f.2.1 f.2.2.1 f.2.2.2) ++ (res.flatMap fun r => notZero b (a + r.1) r.2)
    ++ (match k with
      | 1 => failAt (a + 57) ([0x2A, 0x2B, 0x2C, 0x2D, 0x2E, 0x1E].contains (sef b i 57 1)) ++ failAt (a + 58) ([1, 2, 4].contains (sef b i 58 1))
          ++ (if sef b i 3 1 = 0 then notZero b (a + 72) 40 else stereoFaults b i)
      | 2 => failAt (a + 56) ([0, 3].contains (sef b i 56 1)) ++ failAt (a + 61) ([2, 4].contains (sef b i 61 1 % 8) && decide (sef b i 61 1 < 16))
          ++ (List.range 6).flatMap fun x => failAt (a + 62 + x) (sef b i (62 + x) 1 / 32 % 2 == 0)
      | 3 => signalFaults b i
      | 5 => failAt (a + 56) ([4, 6].contains (sef b i 56 1)) ++ failAt (a + 80) (sef b i 80 2 % 4 == 0)
      | 6 => failAt (a + 56) ([0, 2, 3].contains (sef b i 56 1))
      | _ => [])

/-- Entries of a kind before entry i. -/
def before (b : Bytes) (i k : Nat) : List Nat := (List.range i).filter fun j => sef b j 0 1 == k

/-- Entry i against the entries before it (R141). -/
def clashFaults (b : Bytes) (i : Nat) : List Nat :=
  let a := entryAt i
  match sef b i 0 1 with
  | 1 => failAt (a + 1) (!((before b i 1).any fun j => sef b j 1 1 == sef b i 1 1 && sef b j 56 1 == sef b i 56 1))
      ++ failAt a (decide ((before b i 1).length < 24))
  | 2 => failAt (a + 1) (!((before b i 2).any fun j => sef b j 1 1 == sef b i 1 1))
  | 5 => failAt (a + 58) (!((before b i 5).any fun j => sef b j 58 2 == sef b i 58 2 && sliceAt b (entryAt j + 60) 16 == sliceAt b (a + 60) 16))
  | _ => []

/-- The entry whose storage first brings the sum above 8 MiB (R141). -/
def storageFaults (b : Bytes) : List Nat :=
  let need (i : Nat) : Nat := if sef b i 0 1 = 1 && sef b i 3 1 == 0 then 3 * sef b i 60 2 * sef b i 62 2
    else if sef b i 0 1 = 5 then sef b i 80 2 * 1024 else 0
  let upTo (i : Nat) : Nat := ((List.range i).map need).sum
  match (List.range 32).find? fun i => decide (8388608 < upTo (i + 1)) with
  | some i => [entryAt i + (if sef b i 0 1 = 1 then 60 else 80)]
  | none => []

/-- A routed camera, and one that has a ring. -/
def routedIn (b : Bytes) (i : Nat) : Bool := sef b i 0 1 == 1 && sef b i 3 1 != 0
def ringIn (b : Bytes) (i : Nat) : Bool := routedIn b i && sef b i 72 1 != 2

/-- A pair's entries name each other and agree (R165); the fault is in the later entry. -/
def pairFaults (b : Bytes) (i : Nat) : List Nat :=
  let role := sef b i 72 1
  if !routedIn b i || role == 0 then [] else
  let j := sef b i 73 1
  let other := decide (j < 32) && routedIn b j && sef b j 72 1 != 0
  if !other then [entryAt i + 73]
  else
    let late := entryAt (max i j)
    if !(sef b j 73 1 == i && sef b j 72 1 + role == 3) then [late + 73] else
    failAt (late + 3) (sef b i 3 1 == sef b j 3 1) ++ failAt (late + 60) (sef b i 60 2 == sef b j 60 2)
      ++ failAt (late + 62) (sef b i 62 2 == sef b j 62 2)

/-- Flags and bytes of exchange memory that entry i's ring takes: (first, count) each. -/
def ringFlags (b : Bytes) (i : Nat) : Nat × Nat := (sef b i 80 2, sef b i 75 1 + 1)
def ringBytes (b : Bytes) (i : Nat) : Nat × Nat :=
  (sef b i 88 4, sef b i 75 1 * slotStride (sef b i 72 1 == 1) (sef b i 60 2) (sef b i 76 2) + 4096)

/-- A routed camera against R165 and R232, with the entries before it; for a sum over a pipe, the fault is in the entry whose
term first passes the limit (DEDUCED, notes/assumptions/48.md). -/
def visionFaults (b : Bytes) (i : Nat) : List Nat :=
  let a := entryAt i
  if !routedIn b i then [] else
  let r := sef b i 3 1
  let same := (before b i 1).filter fun j => routedIn b j && sef b j 3 1 == r
  let p := sef b i 74 1
  let term (j : Nat) : VpTerms := vpTerms (sef b j 72 1 == 1) (sef b j 60 2) (sef b j 62 2) (max (sef b j 8 4) 1) (sef b j 74 1) (sef b j 78 2)
  let sum (l : List Nat) : VpTerms := (l.filter (ringIn b)).foldl (fun t j => t.add (term j)) {}
  pairFaults b i ++ failAt (a + 8) (sef b i 8 4 != 0) ++ failAt (a + 3) ((fld b 21 1).testBit (r - 1))
    ++ failAt (a + 3) (decide (same.length < 12))
    ++ (if !ringIn b i then [] else
      let f := ringFlags b i
      let y := ringBytes b i
      let mine := (before b i 1).filter (ringIn b)
      (if sef b i 72 1 = 1 then failAt (a + 60) (decide (64 ≤ (sef b i 60 2 + 2 ^ p - 1) / 2 ^ p)) else [])
        ++ failAt (a + 80) (decide (f.1 + f.2 ≤ 0x400) && !(mine.any fun j => overlap f.1 f.2 (ringFlags b j).1 (ringFlags b j).2))
        ++ failAt (a + 88) (decide (0x800000 ≤ y.1) && decide (y.1 + y.2 ≤ 0x1000000)
          && !(mine.any fun j => overlap y.1 y.2 (ringBytes b j).1 (ringBytes b j).2))
        ++ failAt (a + 60) ((sum (same ++ [i])).fits || !(sum same).fits))

/-- The lowest offset among all the fields of a record at fault (R96). -/
def recordFault (fmt p : Nat) (b : Bytes) : Option Nat :=
  (headFaults fmt p b ++ storageFaults b ++ (List.range 32).flatMap fun i =>
    entryFaults b i ++ clashFaults b i ++ visionFaults b i).foldl (fun m o => some (match m with
      | none => o
      | some x => min x o)) none

/-! ### The profile opcodes (R93, R96-R98) -/

/-- ST_STATE_CONFLICT of a profile opcode in APPLYING or WRITING, or while settings are locked (R97, R98). -/
def Dev.profLocked (d : Dev) : Option Cpl :=
  match d.settingsLocked with
  | some c => some (.conflict c)
  | none => if d.prof.st == .applied then none else some (.conflict d.prof.st.code)

/-- PROFILE_SELECT (R89, R93, R97). -/
def opProfileSelect : OpFn := fun c d =>
  let p := c.d.u8 24
  if 3 < p then opDone d .bad
  else if d.own.safeLevel then opDone d (.conflict 4)
  else if d.part != .ready then opDone d (.conflict d.part.code)
  else if d.prof.st != .applied then opDone d (.conflict d.prof.st.code)
  else ({ d with prof := { d.prof with st := .applying, applying := some (p, .command c.tok), applyEnd := d.now + 250 * msNs } }, .later)

/-- PROFILE_READ (R97, R100). -/
def opProfileRead : OpFn := fun c d =>
  let p := c.d.u8 24
  let old := c.d.u8 25
  if 3 < p || 1 < old || !aligned4k (c.d.f 32 8) then opDone d .bad else
  if old = 0 then opDone d (c.output 32 (padTo 4096 (d.prof.stored.getD p [])) .ok) else
  match d.prof.previous with
  | none => opDone d (.conflict d.trust.st.code)
  | some l => opDone d (c.output 32 (padTo 4096 (l.getD p [])) .ok)

/-- A record goes to flash: within 200 ms (R96). -/
def startWrite (p : Nat) (b : Bytes) (c : OpCtx) (d : Dev) : Dev × OpResult :=
  ({ d with prof := { d.prof with st := .writing, writing := some (p, b, c.tok) } }, .later)

/-- PROFILE_WRITE. -/
def opProfileWrite : OpFn := fun c d =>
  let p := c.d.u8 24
  if 3 < p then opDone d .bad else
  match d.profLocked with
  | some k => opDone d k
  | none =>
    let b := c.input d 32 4096
    match recordFault d.trust.bankFmt p b with
    | some o => opDone d { Cpl.bad with result0 := BitVec.ofNat 64 o }
    | none => startWrite p b c d

/-- PROFILE_RESTORE: the default record, in the settings format of the bank in use. -/
def opProfileRestore : OpFn := fun c d =>
  let p := c.d.u8 24
  if 3 < p then opDone d .bad else
  match d.profLocked with
  | some k => opDone d k
  | none => startWrite p (putAt (padTo 4096 (defaultRecord p)) 0 (leBytes 2 d.trust.bankFmt)) c d

/-- The flash holds the record: the profile leaves WRITING (R97). -/
def profileWriteDone (d : Dev) : Dev :=
  match d.prof.writing with
  | none => d
  | some (p, b, t) =>
    finish t .ok { d with prof := { d.prof with st := .applied, writing := none, stored := upd d.prof.stored p fun _ => b } }

/-! ### The application of a profile (R17, R92-R95) -/

/-- The registers that an application loads: OWN_PRIO, OWN_CFG, OWN_OUTEN and what R538 names with them. -/
def loadProfileRegs (d : Dev) : Dev :=
  { d with own := { d.own with
      prio := BitVec.ofNat 32 (d.pf 40 2), leaseMs := BitVec.ofNat 16 (d.pf 42 2)
      handoverMs := BitVec.ofNat 16 (d.pf 44 2), outen := BitVec.ofNat 32 (d.pf 48 4) } }

/-- Every sensor of the map before stops; the enabled ones of the new map start (R159). Sample and capture streams start
anew (R536). -/
def sensorApply (old : Bytes) (d : Dev) : Dev :=
  let new := d.prof.active
  let back (b : Bytes) (d : Dev) : Dev := { d with prof := { d.prof with active := b } }
  let d := back new ((List.range 32).foldl (fun d i => disableSensor i d) (back old d))
  let fresh (x : Sensor) : Sensor := { x with nextBuf := 0, stored := [], wr := 0 }
  let d := { d with sens := { d.sens with s := d.sens.s.map fresh } }
  let d := (List.range 32).foldl (fun d i =>
    streamStart (0x0100 + i) (if d.kind i != 0 && bitsOf 0 0 (d.se i 2 1) == 1 then enableSensor i d else d)) d
  (List.range 16).foldl (fun d n => streamStart (0x0800 + n) d) d

/-- The Ethernet ports follow eth_en (R91). -/
def ethApply (d : Dev) : Dev :=
  (List.range 4).foldl (fun d n =>
    let on := (d.pf 54 1).testBit n
    let p := d.eth.getD n {}
    if on && !p.enable then ethPortOn n d else if !on && p.enable then ethPortOff n d else d) d

/-- A profile comes into force: its registers, its blocks, its streams; the lease runs anew (R94, R95). -/
def applyProfile (p cause : Nat) (d : Dev) : Dev :=
  let old := d.prof.active
  let d := estQuiet d
  let d := { d with prof := { d.prof with
    st := .applied, applying := none, active := padTo 4096 (d.prof.stored.getD p []), activeId := p } }
  let d := loadProfileRegs d
  let d := solverApply (fusionApply (neuralApply d))
  let d := setMinLive (powerApply d)
  let d := ethApply (visionApply (sensorApply old d))
  let d := estApply (placeApply d)
  let d := if d.own.st == .owned || d.own.st == .handover then renewLease d else d
  ev 0x0212 0 (det [(16, [BitVec.ofNat 8 p, BitVec.ofNat 8 cause])]) d

/-- The event's cause where the active profile is applied again, other than by PROFILE_SELECT: as it was chosen
(DESIGN CHOICE, notes/assumptions/49.md). -/
def Dev.keptCause (d : Dev) : Nat := bit d.prof.byCommand

/-- The master that boot_owner names becomes owner at the application that ends the start-up sequence (R539). -/
def bootOwner (d : Dev) : Dev :=
  let m := d.pf 46 1
  if d.own.st == .vacant && decide (1 ≤ m ∧ m ≤ 4) && d.own.prioOf m != 0 then renewLease (setOwner m 4 d) else d

/-- The part becomes READY, from start-up, from base-metal mode or from a pause (R101, R481, R501, R508). Hosted shards
restart after a full reset and on leaving base-metal mode (R441). -/
def becomeReady (d : Dev) : Dev :=
  let was := d.part
  let boot := d.start != .done && was == .starting
  let d := { d with part := .ready, start := .done, idleSince := none }
  let d := if boot then bootOwner d else d
  let d := if was == .baseMetal then ev 0x0E04 0 (det [(16, [0, d.flt.causes])]) d else d
  let d := if was == .baseMetal || boot then restartShards d else d
  match d.trust.acceptTok with
  | some t => finish t .ok (d.setTrust fun x => { x with acceptTok := none })
  | none => d

/-- An application ends (R94): what it was made for follows. -/
def profileApplyDone (d : Dev) : Dev :=
  match d.prof.applying with
  | none => d
  | some (p, cause) =>
    match cause with
    | .straps => d
    | .command t =>
      let d := applyProfile p 1 d
      finish t .ok { d with prof := { d.prof with byCommand := true } }
    | .baseExit _ =>
      if d.start.rank < 7 then d
      else if d.trust.unreadable then
        let d := { d with part := .updatePause, prof := { d.prof with st := .applied, applying := none } }
        exitsEnd .ok (ev 0x0E04 0 (det [(16, [0, d.flt.causes])]) d)
      else if d.liveCauses != 0 || d.trust.st == .fallingBack then
        let d := { d with prof := { d.prof with st := .applied, applying := none } }
        exitsEnd { (Cpl.conflict 4) with result0 := BitVec.ofNat 64 d.flt.causes.toNat } d
      else exitsEnd .ok (becomeReady (applyProfile p d.keptCause d))
    | .accept _ =>
      let d := applyProfile p 1 d
      pauseEnds true (becomeReady { d with prof := { d.prof with byCommand := false } })
    | .activation => pauseEnds true (becomeReady (applyProfile p d.keptCause d))
    | .fallback => d

/-- The new image has started or failed (R501). Where base-metal mode has been entered meanwhile, no profile is applied and
the UPDATE_ACTIVATE completes (notes/assumptions/50.md). -/
def activationEnds (ok : Bool) (d : Dev) : Dev := dropActivation (activationDone ok d)

/-- The retained image runs, or cannot: the part is READY with the update IDLE, or in RECOVERY (R508, R510). -/
def fallbackDone (ok : Bool) (d : Dev) : Dev :=
  if d.trust.st != .fallingBack || d.part != .baseMetal || !(d.start == .ipmTrained || d.start == .done) then d else
  let l := d.trust.reverts
  let cause := d.trust.cause
  let rest (d : Dev) : Dev := l.foldl (fun d t => finish t .ok d) (d.setTrust fun t => { t with reverts := [] })
  if !ok || !d.trust.retainedValid || d.trust.fromRecovery then
    rest (raiseCause 5 (updState .recovery 5 (d.setTrust fun t => { t with running := [], fromRecovery := true })))
  else
    let d := restoreBank (d.setTrust fun t => { t with active := t.retained, running := t.retained, unreadable := false })
    let starting := d.start != .done
    let d := applyProfile (if starting then d.prof.strap else d.prof.activeId) (if starting then 0 else d.keptCause) d
    let d := if starting && d.liveCauses = 0 then bootOwner d else d
    let d := updState .idle cause d
    let d := if d.liveCauses = 0 then becomeReady d else d
    rest d

end Sys2Proof.Machine
end

