-- ==== Sys2Proof/Machine/Startup.lean ====
section
/-! DEFINITION. Resets and the start-up sequence, the PCIe link, and SAFE_REQ_N (spec/03 R88-R92, R101-R105, R538, R539;
spec/02 R33; spec/16 R490, R509; spec/17 R517-R519, R528). -/

namespace Sys2Proof.Machine

/-! ### Reset of the host interface (R33) -/

/-- Descriptors that a channel has fetched and not completed are discarded without completion, their effects with them
(R33, R436). -/
def discardChan (ch : Chan) (d : Dev) : Dev :=
  let d := (d.chan ch).pend.foldl (fun d p => cancelTok { ch := ch, count := p.count } d) d
  d.setChan ch fun r => { r with pend := [], closers := [] }

/-- The event ring stops: later events are held (R103). -/
def eventRingOff (d : Dev) : Dev :=
  let r := d.hif.evr
  { d with hif := { d.hif with evr := { r with
    on := false, head := 0, tail := 0, phase := true, lost := if r.on then 0 else r.lost, lostOld := if r.on then r.lostOld + r.lost else r.lostOld } } }

/-- Every ring and the event ring become ABSENT; events that arise from now on are held (R33, R103). -/
def ringsAbsent (d : Dev) : Dev :=
  let d := eventRingOff ((List.range 64).foldl (fun d n => discardChan (.sq n) d) d)
  { d with hif := { d.hif with sq := List.replicate 64 ({} : SubRing), cq := List.replicate 64 ({} : CqRing) } }

/-- A PCIe function-level reset, or a conventional one: besides R33, PCI Express resets the MSI-X table and bus mastering
(PRESUMED, notes/assumptions/5.md). -/
def hostInterfaceReset (perst : Bool) (d : Dev) : Dev :=
  let d := ringsAbsent d
  { d with hif := { d.hif with
    msix := List.replicate 128 ({} : MsixEntry), busMaster := false, perst := d.hif.perst || perst
    linkUp := d.hif.linkUp && !perst } }

/-- The registers that R33 clears; the version in force stays (notes/assumptions/51.md). -/
def Iface.reset33 (i : Iface) : Iface := { i with admEnable := false, evrEnable := false }

/-! ### The full reset (R101) -/

/-- A model slot keeps its package (R266); loads are lost. -/
def slotAfterReset (x : Slot) : Slot :=
  { st := match x.st with
      | .empty => .empty
      | .installing => x.prior
      | .disabled => .disabled
      | _ => .installed
    slow := x.slow }

/-- An index whose objects are on the slow tier returns in the state of its last commit; no other survives (R400). -/
def indexAfterReset (d : Dev) (i : Nat) : PIndex :=
  let x := d.ix i
  let slow := match d.obj (0x40000003 + 0x100 * i) with
    | some o => o.slow && o.st != .lost
    | none => false
  if slow && (x.st == .ready || x.st == .merging) then
    { x with st := .ready, old := [], merge := none, drop := none, image := [], total := 0, high := false, commits := [] }
  else {}

/-- Objects of models and of surviving indices stay, in flash or on the SSD (notes/assumptions/50.md). -/
def tierAfterReset (d : Dev) (ix : List PIndex) : Tier :=
  let lives (o : TierObj) : Bool :=
    if 0x40000000 ≤ o.id && o.id < 0x40001000 then (ix.getD ((o.id - 0x40000000) / 0x100) {}).st == .ready
    else o.id < 0x40000000 || o.slow
  let back (o : TierObj) : TierObj :=
    let isIx := decide (0x40000000 ≤ o.id ∧ o.id < 0x40001000)
    { id := o.id, kind := o.kind, size := o.size, slow := o.slow, mirrored := o.mirrored, data := o.data
      ext := o.ext, mir := o.mir, crcs := o.crcs, units := if isIx then o.units else []
      st := if o.st == .lost then .lost else if isIx then o.st else .home
      pins := if isIx then o.pins.filter (fun p => decide (0x20 ≤ p.1 ∧ p.1 < 0x30)) else [] }
  { objs := (d.tier.objs.filter lives).map back }

/-- The estimator keeps its saved configurations, and its map where the slow tier holds it (R362, R384). -/
def estAfterReset (slow : Bool) (e : Est) : Est :=
  let kfs := e.kfs.filter fun k => k.epoch != 0
  let base : Est := { saved := e.saved, savedOld := e.savedOld }
  if slow && e.mapMade then
    { base with mapMade := true, kfs := kfs, epoch := e.epoch, inserted := e.inserted, nextKf := kfs.foldl (fun m k => max m (k.id + 1)) 0 }
  else base

/-- Whether the reset has ended: VIN up, RESET_N high and no trip; the start-up sequence then begins, and the level of SAFE_REQ_N at
this instant is kept for it (R90). -/
def releaseReset (d : Dev) : Dev :=
  if d.start == .held && d.vinUp && !d.resetLow && !d.tripped then { d with start := .released, resetEnd := d.now, own := { d.own with safeAtReset := d.own.safeLevel } } else d

/-- A full reset: everything but what flash, the SSD, OTP and the pins hold takes its reset value (R101). `code` is
LAST_RESET; the fault log survives all but the loss of VIN (R468). The part is then held until the reset ends. -/
def fullReset (code : Nat) (d : Dev) : Dev :=
  let ix := (List.range 16).map (indexAfterReset d)
  let r : Dev := { now := d.now, start := .held, vinUp := d.vinUp, resetLow := d.resetLow, tripped := d.tripped, resetEnd := d.now
                   grade := d.grade, serial := d.serial, out := d.out, free := d.free }
  let r : Dev := { r with
    hif := { ({} : Hif) with mem := d.hif.mem, unreadable := d.hif.unreadable, perst := d.hif.perst }
    own := { ({} : Own) with safeLevel := d.own.safeLevel }
    prof := { ({} : Prof) with stored := d.prof.stored, previous := d.prof.previous }
    flt := { ({} : Flt) with lastReset := BitVec.ofNat 8 code, log := if code = 1 then [] else d.flt.log }
    card := d.card
    trust := trustReset d.trust
    fleet := fleetReset (fun s => (ix.getD s {}).st == .ready) d.fleet
    neural := { ({} : Neural) with slot := d.neural.slot.map slotAfterReset }
    place := { ({} : Place) with ix := ix }
    tier := tierAfterReset d ix
    est := estAfterReset d.slowOn d.est }
  match d.flt.fatalEv with
  | some (c, at_) => if code = 1 then r else ev 0x0E06 2 (det [(16, [BitVec.ofNat 8 c]), (20, leBytes 8 at_)]) r
  | none => r

/-- VIN rises through 8.6 V. -/
def powerUp (d : Dev) : Dev := if d.vinUp then d else releaseReset { d with vinUp := true }

/-- VIN falls below 8.4 V (R517). -/
def vinLoss (d : Dev) : Dev := if !d.vinUp then d else fullReset 1 { d with vinUp := false }

/-- RESET_N has been low for 10 µs, and its release. -/
def resetLow (d : Dev) : Dev := if d.resetLow || !d.vinUp then { d with resetLow := true } else fullReset 2 { d with resetLow := true }
def resetHigh (d : Dev) : Dev := releaseReset { d with resetLow := false }

/-- The thermal trip: every rail but always-on goes, and the part is held in reset (R528). -/
def thermalTrip (tj : Int) (d : Dev) : Dev :=
  if !d.vinUp || d.tripped || decide (tj < if d.grade = 0 then 115 else 125) then d else
  let d := logFault 6 0xFF 0 15 4 0 d
  fullReset 6 { d with tripped := true, flt := { d.flt with fatalEv := some (6, d.tb64) } }

/-- The junction has cooled (R528). -/
def tripRelease (d : Dev) : Dev := releaseReset { d with tripped := false }

/-- 100 ms after a class 6 fault (R468). -/
def fatalReset (d : Dev) : Dev :=
  match d.flt.fatal with
  | some (code, due) => if due ≤ d.now then releaseReset (fullReset code d) else d
  | none => d

/-! ### The start-up sequence -/

/-- The profile that the levels of PROFILE_SEL[1:0] name: open, open is P2 (*Profile straps*). -/
def strapProfile (sel : Nat) : Nat := (sel + 3) % 4

/-- Always-on running: the straps are sampled and latched (R92, R519). -/
def strapSample (sel vsel : Nat) (d : Dev) : Dev :=
  if d.start != .released then d else
  { d with start := .strapsSampled, prof := { d.prof with strap := strapProfile sel }, pw := { d.pw with vsel := BitVec.ofNat 6 vsel } }

/-- Where the update state, or an image that fails verification, makes the loader fall back (R492, R497, R509, R510). -/
def loaderUpdate (imageOk : Bool) (d : Dev) : Dev :=
  let t := d.trust
  let falls (d : Dev) : Dev := beginFallback 4 (d.setTrust fun x => { x with staging := none })
  let pending := match t.st with
    | .staged | .unstaging | .activating | .trial | .fallingBack => true
    | .staging => (match t.staging with
      | some (_, _, n) => n == 2
      | none => false)
    | _ => false
  if t.st == .recovery then raiseCause 5 d
  else if pending then falls d
  else
    let d := if t.st == .staging then
        let d := d.setTrust fun x => { x with staging := none }
        updState (if t.fromRecovery then .recovery else .idle) 4 d
      else d
    if d.trust.st == .recovery then raiseCause 5 d
    else if imageOk then d.setTrust fun x => { x with running := x.active }
    else
      if t.retainedValid then falls d
      else raiseCause 5 (updState .recovery 5 (d.setTrust fun x => { x with running := [], fromRecovery := true }))

/-- Hallmark has measured the loader: it starts, or the part does not (R490). -/
def loaderMeasured (digestOk imageOk : Bool) (d : Dev) : Dev :=
  if d.start != .strapsSampled then d
  else if !digestOk || !d.trust.loaderOk then { d with start := .refused }
  else loaderUpdate imageOk { d with start := .loaderMeasured }

/-- Profile read: the registers of R538 take the strapped record's values. -/
def profileRead (d : Dev) : Dev :=
  if d.start != .loaderMeasured then d else
  let p := d.prof.strap
  let d := { d with start := .profileRead, prof := { d.prof with active := padTo 4096 (d.prof.stored.getD p []), activeId := p } }
  let d := loadProfileRegs d
  let eth (n : Nat) (x : EthPort) : EthPort := { x with enable := (d.pf 54 1).testBit n }
  let clus (x : Cluster) : Cluster := { x with ceiling := BitVec.ofNat 7 (d.pf 47 1) }
  setMinLive { d with
    eth := d.eth.mapIdx eth
    comp := { d.comp with cl := d.comp.cl.map clus }
    pw := { d.pw with envW := d.pf 38 1 } }

/-- The sensors that the safety island reads before READY: the IMUs and the wheel sensor. -/
def Dev.safetySensor (d : Dev) (i : Nat) : Bool :=
  d.kind i != 0 && bitsOf 0 0 (d.se i 2 1) == 1 && (d.isImu i || d.declares i 3)

/-- The safety island runs: the time base starts (R108), outputs are driven as R105 lets them, and base-metal pose records
begin from IMU and wheel data (R101; notes/assumptions/50.md). Where SAFE_REQ_N was asserted as the reset ended, base-metal mode is
entered, though it be high again by now (R90; DEDUCED, notes/assumptions/83.md). -/
def safetyRunning (d : Dev) : Dev :=
  if d.start != .profileRead then d else
  let d := { d with start := .safetyRunning, time := { d.time with running := true, tb := 0, st := .freeRun } }
  let d := { d with flt := { d.flt with beatAt := d.now, rotateAt := d.now }, est := { d.est with wroteAt := d.now } }
  let d := (List.range 32).foldl (fun d i => if d.safetySensor i then enableSensor i d else d) d
  let cfg : Bytes := ((d.est.saved.find? fun x => x.1 == d.prof.activeId).map (·.2)).getD d.estDefaults
  let d := d.setEst fun e => { e with cfg := cfg, source := 1 }
  let d := if d.ec 2 1 == 0xFF then d else estState .deadReckoning d
  let d := streamStart 0x0510 d
  if d.own.safeLevel then raiseCause 0 (ev 0x0213 0 (det [(16, [1])]) { d with own := { d.own with safeSeen := true } })
  else if d.own.safeAtReset then clearCause 0 (enterBase (raiseCause 0 d)) else d

/-- The control complex runs: CRS ends, and I3C private transfers are served (R79, R102). -/
def controlRunning (d : Dev) : Dev :=
  if d.start != .safetyRunning then d else
  { d with start := .controlRunning, hif := { d.hif with crs := false }, flt := { d.flt with service := d.firstCore } }

/-- All 64 channels are trained and checked. -/
def ipmTrained (d : Dev) : Dev := if d.start != .controlRunning then d else { d with start := .ipmTrained }

/-- READY: the strapped profile is applied (R92, R94, R101). -/
def startupReady (d : Dev) : Dev :=
  if d.start != .ipmTrained || d.part != .starting then d else
  let d := applyProfile d.prof.strap 0 d
  becomeReady { d with prof := { d.prof with byCommand := false } }

/-! ### The PCIe link (R102, R535) -/

/-- PCIE_PERST_N is high and the link trains; the endpoint needs the safety island running (R102). -/
def linkTrain (d : Dev) : Dev :=
  let d := { d with hif := { d.hif with perst := false } }
  if 5 ≤ d.start.rank then { d with hif := { d.hif with linkUp := true, clkreq := true } } else d

/-- The link goes down: posted writes are discarded from now on (R535). -/
def linkDown (d : Dev) : Dev := { d with hif := { d.hif with linkUp := false } }

/-- Bus mastering in the function's configuration space. -/
def busMastering (on : Bool) (d : Dev) : Dev := { d with hif := { d.hif with busMaster := on && !d.hif.crs } }

/-! ### SAFE_REQ_N (R88-R90, R476) -/

/-- SAFE_REQ_N has been low for 50 µs. Until the safety island runs, only its level is kept;
`safetyRunning` acts on it (R90). -/
def safeReqAssert (d : Dev) : Dev :=
  let d := { d with own := { d.own with safeLevel := true } }
  if d.start.rank < 5 then d else
  raiseCause 0 (ev 0x0213 0 (det [(16, [1])]) { d with own := { d.own with safeSeen := true } })

/-- SAFE_REQ_N is high again. -/
def safeReqDeassert (d : Dev) : Dev :=
  let d := { d with own := { d.own with safeLevel := false } }
  if d.start.rank < 5 then d else ev 0x0213 0 (det [(16, [0])]) (clearCause 0 d)

/-- The clusters, pipes, walkers and all cores but the service core are gated, 100 ms after the entry (R477). -/
def blocksGated (d : Dev) : Dev :=
  if d.part == .baseMetal then { d with flt := { d.flt with gated := true } } else d

/-- A common command code of the I3C bus, or its initialisation (R79). -/
def i3cCommon (code : Nat) (d : Dev) : Dev := if d.start.rank = 0 then d else emit (.i3cCcc code) d

end Sys2Proof.Machine
end

