-- ==== Sys2Proof/Machine/Regs.lean ====
section
/-! DEFINITION. The registers of BAR0 and the doorbells of BAR2: what each reads, and what a write of it does (spec/00 R9-R11;
spec/02 R25-R31, R55, R76; spec/03 R87, R100; the register tables of every chapter). -/

namespace Sys2Proof.Machine

/-- A register's value from its fields: (lowest bit, width, value). -/
def pack (l : List (Nat × Nat × Nat)) : Nat := (l.map fun f => atBit f.1 (f.2.2 % 2 ^ f.2.1)).sum

/-- What a register reads: its width in bytes and its value. -/
abbrev RegVal := Option (Nat × Nat)

def r32 (l : List (Nat × Nat × Nat)) : RegVal := some (4, pack l)
def r64 (l : List (Nat × Nat × Nat)) : RegVal := some (8, pack l)

/-- Entry `k` of a counter group: the value latched at the SNAP while it is frozen, else the running one (R10). -/
def shown (z : Option (List W64)) (k live : Nat) : Nat :=
  match z with
  | some l => (l.getD k 0).toNat
  | none => live

/-- A group frozen at its present values, or running again (R10). -/
def snapTo (v : Nat) (live : List Nat) (z : Option (List W64)) : Option (List W64) :=
  if bitsOf 0 0 v = 1 then some (live.map fun x => BitVec.ofNat 64 x)
  else if bitsOf 1 1 v = 1 then none else z

/-! ### HIF_ (spec/02, *Host interface registers*) -/

/-- Highest minor version under a supported major (*Bringing the interface up*). -/
def abiMinor (major : Nat) : Option Nat := if major = 3 then some 2 else if major = 2 then some 7 else none

/-- HIF_FMTVER under a major version: classes present and their formats (R34, R60). -/
def fmtVer (major : Nat) : Nat :=
  if major = 3 then 0x111111111111 + atBit 48 0xFFF
  else if major = 2 then atBit 48 0x17F else 0

/-- HIF_STATUS.ABI_LOCKED. -/
def Iface.locked (i : Iface) : Bool := i.admEnable || i.evrEnable

/-- HIF_ABI_ACT. -/
def Iface.abiAct (i : Iface) : Nat := pack [(0, 8, i.actMinor.toNat), (8, 8, i.actMajor.toNat), (16, 2, i.actResult.toNat), (24, 8, 3)]

/-- State code of a completion ring (*Ring states*). -/
def CqState.code : CqState → Nat
  | .absent => 0x0101 | .active => 0x0102 | .stream => 0x0105

/-- HIF_CNT0 and HIF_CNT1. -/
def Hif.counters (h : Hif) : List Nat :=
  [pack [(0, 32, h.dbInvalid.toNat), (32, 32, h.notOwner.toNat)], pack [(0, 32, h.evrLost.toNat), (32, 32, h.streamDrop.toNat)]]

def hifReg (i : Iface) (d : Dev) (o : Nat) : RegVal :=
  let h := d.hif
  let cnt (k : Nat) : RegVal := some (8, shown h.frozen k (h.counters.getD k 0))
  match o with
  | 0x0000 => r32 [(0, 16, 0x9600), (16, 8, 0xB0)]
  | 0x0008 => r32 [(0, 8, i.abiReq.toNat)]
  | 0x000C => some (4, i.abiAct)
  | 0x0010 => r64 [(0, 64, d.feat)]
  | 0x0018 => r64 [(0, 64, fmtVer i.actMajor.toNat)]
  | 0x0020 => r32 [(0, 8, d.part.code), (8, 1, bit i.locked), (9, 1, bit (d.own.isOwner 1))]
  | 0x1000 => r64 [(0, 64, i.admSqBase.toNat)]
  | 0x1008 => r64 [(0, 64, i.admCqBase.toNat)]
  | 0x1010 => r32 [(0, 5, i.admSqLog2.toNat), (5, 5, i.admCqLog2.toNat), (16, 1, bit i.admEnable)]
  | 0x1018 => r64 [(0, 64, i.evrBase.toNat)]
  | 0x1020 => r32 [(0, 5, i.evrLog2.toNat), (16, 1, bit i.evrEnable)]
  | 0x1028 => r32 [(0, 4, h.evtPend.toNat)]
  | 0x1030 => r32 []
  | 0x1100 => cnt 0
  | 0x1108 => cnt 1
  | _ =>
    if 0x2000 ≤ o && o < 0x2200 && o % 8 == 0 then
      let r := d.chan (.sq ((o - 0x2000) / 8))
      r64 [(0, 8, r.st.code), (8, 6, r.cq), (16, 16, r.head), (32, 16, r.tail), (48, 5, r.log2)]
    else if 0x2200 ≤ o && o < 0x2400 && o % 8 == 0 then
      let q := d.cq ((o - 0x2200) / 8)
      r64 [(0, 8, q.st.code), (8, 7, q.vector), (15, 1, bit q.phase), (16, 16, q.head), (32, 16, q.tail), (48, 5, q.log2)]
    else none

/-- The MSI-X table and pending-bit array (layout PRESUMED, notes/assumptions/5.md). -/
def msixReg (d : Dev) (o : Nat) : RegVal :=
  if o < 0x800 && o % 8 == 0 then
    let e := d.hif.msix.getD (o / 16) {}
    if o % 16 = 0 then r64 [(0, 64, e.addr.toNat)] else r64 [(0, 32, e.data.toNat), (32, 1, bit e.masked)]
  else if o = 0x8000 || o = 0x8008 then
    let b := (o - 0x8000) * 8
    r64 ((List.range 64).map fun k => (k, 1, bit (d.hif.msix.getD (b + k) {}).pendingBit))
  else none

/-! ### OWN_, PW_ -/

/-- OWN_CNT. -/
def Own.counters (o : Own) : List Nat := [pack ((List.range 4).map fun k => (16 * k, 16, (o.cnt.getD k 0).toNat))]

/-- OWN_STATE.LEASE_LEFT: whole ms left, saturating. -/
def Dev.leaseLeft (d : Dev) : Nat :=
  if d.own.st == .owned || d.own.st == .handover then min 0xFFFF ((d.own.leaseEnd - d.now) / msNs) else 0

def ownReg (d : Dev) (o : Nat) : RegVal :=
  let w := d.own
  match o with
  | 0x00 => r32 [(0, 8, w.st.code), (8, 3, w.owner), (16, 16, d.leaseLeft)]
  | 0x04 => r32 [(0, 16, w.leaseMs.toNat), (16, 16, w.handoverMs.toNat)]
  | 0x08 => r32 [(0, 32, w.prio.toNat)]
  | 0x10 => r32 [(0, 2, d.prof.activeId), (2, 2, d.prof.strap), (4, 1, bit d.prof.byCommand), (8, 8, d.prof.st.code)]
  | 0x18 => r32 [(0, 32, w.outen.toNat)]
  | 0x20 => r32 [(0, 1, bit w.safeLevel), (1, 1, bit w.safeSeen)]
  | 0x30 => r32 []
  | 0x38 => some (8, shown w.frozen 0 (w.counters.getD 0 0))
  | _ => none

/-- PW_CNT. -/
def Pw.counters (p : Pw) : List Nat := [pack [(0, 32, p.steps.toNat), (32, 16, p.limitedS.toNat), (48, 16, p.envFaults.toNat)]]

def pwReg (d : Dev) (o : Nat) : RegVal :=
  let p := d.pw
  match o with
  | 0x00 => r32 [(0, 32, pwState d)]
  | 0x04 => r32 [(0, 7, p.envW), (8, 7, if d.prof.active.isEmpty then 0 else minEnvelope d.prof.active)]
  | 0x08 => r32 [(0, 16, min 0xFFFF p.vinMv), (16, 16, min 0xFFFF p.iinMa)]
  | 0x0C => r32 [(0, 16, min 0xFFFF p.mean100), (16, 16, min 0xFFFF p.mean1)]
  | 0x10 => r32 [(0, 8, sNat 8 p.tj), (8, 5, p.sensor), (16, 8, sNat 8 d.throttleAt)]
  | 0x14 => r32 [(0, 2, (d.prof.strap + 1) % 4), (2, 6, p.vsel.toNat)]
  | 0x20 => r32 []
  | 0x28 => some (8, shown p.frozen 0 (p.counters.getD 0 0))
  | _ => none

/-! ### TIME_, ETH_ -/

/-- MISSED and OVERRUN of the sixteen pins, which TIME_SNAP freezes (R109). -/
def Time.counters (x : Time) : List Nat :=
  (List.range 16).map fun n => pack [(16, 8, (x.tmr.getD n {}).missed.toNat), (24, 8, (x.tmr.getD n {}).overrun.toNat)]

def tmrReg (d : Dev) (n o : Nat) : RegVal :=
  let p := d.pin n
  match o with
  | 0x00 => r32 [(0, 3, p.mode.toNat), (3, 1, bit p.polarity), (4, 1, bit p.arm)]
  | 0x04 => some (4, shown d.time.frozen n (d.time.counters.getD n 0) + bit p.late + 2 * bit p.badcfg)
  | 0x08 => r64 [(0, 64, p.start.toNat)]
  | 0x10 => r64 [(0, 64, p.period.toNat)]
  | 0x18 => r32 [(0, 32, p.width.toNat)]
  | 0x20 => r64 [(0, 64, p.cap / 65536)]
  | 0x28 => r32 [(0, 16, p.cap), (16, 1, bit p.capEdge), (17, 15, p.capSeq.toNat)]
  | _ => none

def timeReg (d : Dev) (o : Nat) : RegVal :=
  let x := d.time
  match o with
  | 0x00 => r32 [(0, 8, x.st.code), (8, 1, x.sel), (16, 16, x.holdErr.toNat)]
  | 0x08 => r64 [(0, 1, bit x.auto), (8, 20, x.slewPpb.toNat), (32, 16, x.stepLimitUs.toNat), (48, 16, x.holdMaxS.toNat)]
  | 0x10 => r32 [(0, 16, x.tolUs.toNat), (16, 16, x.late.toNat)]
  | 0x14 => r32 [(0, 16, x.cableNs.toNat), (16, 9, x.widthMs.toNat)]
  | 0x18 => r32 []
  | 0x20 => r64 [(0, 64, x.latch / 65536)]
  | 0x28 => r32 [(0, 16, x.latch)]
  | _ =>
    if o = 0x40 || o = 0x44 then r32 [(0, 32, (d.trk ((o - 0x40) / 4)).cfg.toNat)]
    else if o = 0x48 || o = 0x50 then
      let k := d.trk ((o - 0x48) / 8)
      r64 [(0, 8, k.st.code), (8, 8, k.gmClass.toNat), (32, 32, sNat 32 (sSat 32 (toNs k.offset)))]
    else if 0x100 ≤ o && o < 0x500 then tmrReg d ((o - 0x100) / 0x40) ((o - 0x100) % 0x40)
    else none

def ethReg (d : Dev) (o : Nat) : RegVal :=
  if 0x400 ≤ o then none else
  let p := d.eth.getD (o / 0x100) {}
  match o % 0x100 with
  | 0x0 => r32 [(0, 1, bit p.enable), (1, 3, p.mode.toNat), (4, 1, bit p.tc)]
  | 0x4 => r32 [(0, 1, bit p.link), (1, 3, if p.link then p.rate.toNat else 0), (4, 1, bit (p.modulePresent && o < 0x200))]
  | _ => none

/-! ### SF_ (spec/05, spec/10, spec/12) -/

/-- Every SF_ counter, which SF_SNAP freezes: ports, sensors, fusion, the estimator and SAFE_SPI, at fixed places. -/
def Dev.sfCounters (d : Dev) : List Nat :=
  let s := d.sens
  let f := d.fusion
  let e := d.est
  (s.csi.map fun c => pack [(0, 16, c.eccCorr.toNat), (16, 16, c.hdrDrop.toNat), (32, 16, c.crcErr.toNat), (48, 16, c.frames.toNat)])
    ++ (s.imu.map fun m => pack [(0, 32, m.reads.toNat), (32, 16, m.overrun.toNat)])
    ++ (s.can.map fun c => pack [(0, 32, c.frames.toNat), (32, 16, c.errFrames.toNat), (48, 16, c.noMatch.toNat)])
    ++ [pack [(0, 16, s.sentences.toNat), (16, 16, s.checksumErr.toNat), (32, 16, s.ppsUnlabelled.toNat)]]
    ++ (s.s.map fun x => pack [(0, 32, x.accepted.toNat), (32, 16, x.late.toNat), (48, 16, x.bad.toNat)])
    ++ [pack [(0, 32, f.ticks.toNat), (32, 16, f.skipped.toNat), (48, 16, f.discarded.toNat)],
        pack [(0, 32, f.conflictTicks.toNat), (32, 16, f.lateForTick.toNat), (48, 16, f.events.toNat)],
        pack [(0, 32, f.created.toNat), (32, 32, f.ended.toNat)],
        pack [(0, 32, e.updates.toNat), (32, 16, e.updFail.toNat), (48, 16, e.lateDrop.toNat)],
        pack [(0, 32, e.keyframes.toNat), (32, 16, e.loops.toNat), (48, 8, e.raised.toNat), (56, 8, e.baFail.toNat)],
        pack [(0, 32, d.spi.frames.toNat), (32, 16, d.spi.bad.toNat), (48, 16, d.spi.takeovers.toNat)]]

def sfReg (d : Dev) (o : Nat) : RegVal :=
  let s := d.sens
  let cnt (k : Nat) : RegVal := some (8, shown s.frozen k (d.sfCounters.getD k 0))
  match o with
  | 0x0000 => r32 []
  | 0x0008 => r32 [(0, 32, d.slotBits)]
  | 0x0200 => cnt 12
  | 0x0208 => cnt 13
  | 0x0400 => r32 [(0, 22, s.gnssBaud.toNat), (24, 8, s.leapS.toNat)]
  | 0x0408 => cnt 16
  | 0x2000 => r32 [(0, 2, d.fusion.st.code), (8, 8, d.fusion.slot), (16, 16, d.fusion.tracks.length)]
  | 0x2004 => r32 [(0, 32, d.fusion.masked.toNat)]
  | 0x2008 => cnt 49
  | 0x2010 => cnt 50
  | 0x2018 => cnt 51
  | 0x3000 => r32 [(0, 3, d.est.st.code), (3, 1, d.est.source), (4, 1, bit d.est.pendingCfg.isSome), (8, 8, d.est.window.length)]
  | 0x3008 => r64 [(0, 64, d.est.epoch)]
  | 0x3010 => cnt 52
  | 0x3018 => cnt 53
  | 0x3020 => cnt 54
  | _ =>
    if 0x100 ≤ o && o < 0x1C0 then
      let n := (o - 0x100) / 0x10
      let c := d.csi n
      match o % 0x10 with
      | 0x0 => r32 [(0, 1, bit c.enable), (4, 4, c.lanesUp.toNat), (8, 1, bit c.deskewed)]
      | 0x8 => cnt n
      | _ => none
    else if 0x300 ≤ o && o < 0x320 then
      let n := (o - 0x300) / 0x10
      let c := s.can.getD n {}
      match o % 0x10 with
      | 0x0 => r32 [(0, 32, c.cfg.toNat)]
      | 0x4 => r32 [(0, 8, min 255 c.recCount), (8, 9, min 511 c.tecCount), (17, 2, c.state), (19, 1, bit (d.canMonitor n))]
      | 0x8 => cnt (14 + n)
      | _ => none
    else if 0x1000 ≤ o && o < 0x1100 && o % 8 == 0 then cnt (17 + (o - 0x1000) / 8)
    else none

/-! ### VPn_, CLUn_ -/

/-- Terms of a list of rings. -/
def Dev.termsOf (d : Dev) (l : List Nat) : VpTerms := l.foldl (fun a i => a.add (d.ringTerms i)) {}

/-- VPn_CNT0 and VPn_CNT1. -/
def VpPipe.counters (v : VpPipe) : List Nat :=
  [pack [(0, 32, v.frames.toNat), (32, 16, v.skipped.toNat), (48, 16, v.unpaired.toNat)],
   pack [(0, 32, v.bandDrop.toNat), (32, 16, v.skew.toNat), (48, 16, v.abandoned.toNat)]]

def vpReg (d : Dev) (p o : Nat) : RegVal :=
  let v := d.vp p
  let l := d.served p
  let t := d.termsOf l
  match o with
  | 0x00 => r32 [(0, 3, v.st.code), (8, 4, (l.filter d.isPair).length), (12, 4, (l.filter fun i => !d.isPair i).length)]
  | 0x04 => r32 [(0, 11, min 2047 (perMille t.core)), (16, 11, min 2047 (perMille t.ingress))]
  | 0x08 => r32 [(0, 12, (d.termsOf ((List.range 32).filter fun i => d.ownsRing i && d.homePipe i == p)).lines / 4096),
                 (16, 12, ((d.termsNow p).lines + d.jobLines p) / 4096)]
  | 0x0C => r32 [(0, 22, d.vision.tableBytes)]
  | 0x10 => r32 []
  | 0x18 => some (8, shown v.frozen 0 (v.counters.getD 0 0))
  | 0x20 => some (8, shown v.frozen 1 (v.counters.getD 1 0))
  | _ => none

/-- CLUn_CNT0-CLUn_CNT3, then TASKS of each engine. -/
def Cluster.counters (q : Cluster) : List Nat :=
  [pack [(0, 32, q.tasks.toNat), (32, 32, q.reexec.toNat)], pack [(0, 32, q.stealLocal.toNat), (32, 32, q.stealRemote.toNat)],
   pack [(0, 32, q.bounces.toNat), (32, 16, q.boundHit.toNat), (48, 16, q.heldMs.toNat)], q.copyStall.toNat]
    ++ q.eng.map fun e => e.tasks.toNat

/-- CLUn_SEQ_CNT. -/
def Cluster.seqCounters (q : Cluster) : List Nat :=
  [pack [(0, 32, q.seqIterations.toNat), (32, 16, q.seqRestarts.toNat), (48, 16, q.seqLifts.toNat)]]

/-- The cluster has its power: it is enabled and base-metal mode has not gated it. -/
def Dev.powered (d : Dev) (c : Nat) : Bool := (d.clus c).on && !(d.part == .baseMetal && d.flt.gated)

def cluReg (d : Dev) (c o : Nat) : RegVal :=
  let q := d.clus c
  let cnt (k : Nat) : Nat := shown q.frozen k (q.counters.getD k 0)
  match o with
  | 0x000 => r32 [(0, 2, bit (d.powered c)), (8, 8, d.liveIn c), (16, 16, if d.powered c then stepMhz q.step else 0)]
  | 0x004 => r32 ((List.range 24).map fun e => (e, 1, bit ((d.eng c e).st == .fenced || (d.eng c e).st == .assay)))
  | 0x010 => r32 [(0, 7, q.ceiling.toNat), (8, 7, q.pcUtil.toNat), (15, 1, bit q.held)]
  | 0x014 => r32 [(0, 1, bit q.remoteOut), (1, 1, bit q.remoteIn), (8, 5, q.probes.toNat)]
  | 0x020 => r32 []
  | 0x028 => some (8, cnt 0)
  | 0x030 => some (8, cnt 1)
  | 0x038 => some (8, cnt 2)
  | 0x040 => some (8, cnt 3)
  | 0x300 => r32 [(0, 21, seqState c d)]
  | 0x310 => r32 []
  | 0x318 => some (8, shown q.seqFrozen 0 (q.seqCounters.getD 0 0))
  | _ =>
    if 0x100 ≤ o && o < 0x1C0 && o % 8 == 0 then
      let m := (o - 0x100) / 8
      let e := d.eng c m
      r64 [(0, 2, e.st.code), (8, 8, e.deque.length), (32, 32, cnt (4 + m))]
    else if 0x200 ≤ o && o < 0x2C0 && o % 8 == 0 then
      let e := d.eng c ((o - 0x200) / 8)
      r64 [(0, 4, e.kind.toNat), (16, 16, e.epoch.toNat), (32, 32, e.obj.toNat)]
    else none

/-! ### WLK_, IPM_, TIER_, NVME_ -/

/-- WLK_CNT0-WLK_CNT2, then QUERIES of each walker. -/
def Place.counters (p : Place) : List Nat :=
  [pack [(0, 32, p.queries.toNat), (32, 32, p.exhaustive.toNat)], p.expansions.toNat,
   pack [(0, 32, p.dangling.toNat), (32, 16, p.restarted.toNat), (48, 16, p.merges.toNat)]] ++ p.wk.map fun w => w.queries.toNat

def wlkReg (d : Dev) (o : Nat) : RegVal :=
  let cnt (k : Nat) : Nat := shown d.place.frozen k (d.place.counters.getD k 0)
  match o with
  | 0x00 => r32 [(0, 24, wlkState d)]
  | 0x04 => r32 [(0, 32, wlkCtx d)]
  | 0x08 => r32 []
  | 0x10 => some (8, cnt 0)
  | 0x18 => some (8, cnt 1)
  | 0x20 => some (8, cnt 2)
  | _ =>
    if 0x100 ≤ o && o < 0x140 && o % 8 == 0 then
      let w := (o - 0x100) / 8
      r64 [(0, 2, (d.wk w).st.code), (8, 10, (d.ctxOf w).length), (32, 32, cnt (3 + w))]
    else if 0x200 ≤ o && o < 0x300 && o % 8 == 0 then
      let x := d.ix ((o - 0x200) / 0x10)
      if o % 0x10 = 0 then r64 [(0, 8, x.st.code), (8, 2, x.residency), (32, 32, x.cur.gEnd)]
      else r64 [(0, 32, x.side), (32, 32, x.pending.length)]
    else none

/-- IPM_CNT0 and IPM_CNT1. -/
def Ipm.counters (m : Ipm) : List Nat := [pack [(0, 32, m.retry.toNat), (32, 32, m.rebuilt.toNat)], m.uncorr.toNat]

def ipmReg (d : Dev) (o : Nat) : RegVal :=
  let m := d.ipm
  match o with
  | 0x00 => r32 [(0, 8, ((List.range 8).map fun g => if (d.groupOut g).length = 1 then 2 ^ g else 0).sum), (8, 8, m.lost.toNat)]
  | 0x08 => r64 [(0, 64, d.ipmOos)]
  | 0x10 => r32 [(0, 8, m.periodH.toNat), (16, 16, m.passes.toNat)]
  | 0x18 => r32 []
  | 0x20 => some (8, shown m.frozen 0 (m.counters.getD 0 0))
  | 0x28 => some (8, shown m.frozen 1 (m.counters.getD 1 0))
  | _ =>
    if 0x100 ≤ o && o < 0x200 && o % 4 == 0 then
      let n := (o - 0x100) / 4
      r32 [(0, 2, (d.ipmCh n).st.code), (16, 10, d.resyncPm n)]
    else none

/-- TIER_CNT0-TIER_CNT2. -/
def Tier.counters (t : Tier) : List Nat :=
  [pack [(0, 32, t.promotions.toNat), (32, 32, t.evictions.toNat)],
   pack [(0, 16, t.retries.toNat), (16, 16, t.mirrorReads.toNat), (32, 16, t.repaired.toNat), (48, 16, t.lost.toNat)],
   pack [(0, 32, t.evictBusy.toNat), (32, 32, t.skipped.toNat)]]

def tierReg (d : Dev) (o : Nat) : RegVal :=
  let cnt (k : Nat) : Nat := shown d.tier.frozen k (d.tier.counters.getD k 0)
  match o with
  | 0x00 => r64 [(0, 32, d.ipmUsed), (32, 32, d.ipmPinned)]
  | 0x08 => r64 [(0, 32, (d.slowUsed + 1048575) / 1048576), (32, 32, d.slowSpace / 1048576)]
  | 0x10 => r32 []
  | 0x18 => some (8, cnt 0)
  | 0x20 => some (8, cnt 1)
  | 0x28 => some (8, cnt 2)
  | _ => none

/-- NVME_CNT. -/
def Nvme.counters (n : Nvme) : List Nat := [pack [(0, 32, n.reads.toNat), (32, 16, n.mediaErr.toNat), (48, 16, n.timeouts.toNat)]]

def nvmeReg (d : Dev) (o : Nat) : RegVal :=
  let n := d.nvme
  match o with
  | 0x00 => r32 [(0, 3, n.st.code), (4, 3, n.gen), (8, 3, n.width)]
  | 0x04 => r32 [(0, 16, n.timeoutMs.toNat)]
  | 0x08 => r32 []
  | 0x10 => some (8, shown n.frozen 0 (n.counters.getD 0 0))
  | _ => none

/-! ### FLT_, HM_, SXP_ -/

/-- FLT_CNT0-FLT_CNT2. -/
def Flt.counters (f : Flt) : List Nat :=
  [pack [(0, 32, f.corrected.toNat), (32, 32, f.uncorr.toNat)],
   pack [(0, 16, f.fences.toNat), (16, 16, f.returns.toNat), (32, 16, f.dataCause.toNat), (48, 16, f.assayFail.toNat)],
   pack [(0, 16, f.bmEntries.toNat), (16, 16, f.tsMismatch.toNat), (32, 16, f.assayRuns.toNat)]]

/-- Code of a Touchstone unit's state (*FLT_TSn_STAT*). -/
def TsSt.code : TsSt → Nat
  | .idle => 0 | .armed => 1 | .running => 2 | .matched => 3 | .mismatched => 4 | .abandoned => 5 | .fenced => 6

def tsReg (d : Dev) (n o : Nat) : RegVal :=
  let u := d.ts.getD n {}
  match o with
  | 0x00 => r32 [(0, 5, u.tap.toNat), (5, 2, u.poly.toNat), (8, 1, bit u.busy)]
  | 0x04 => r32 [(0, 32, u.sel.toNat)]
  | 0x08 => r32 [(0, 3, u.st.code), (8, 1, bit u.mismatch)]
  | 0x0C => r32 [(0, 32, u.bytes.toNat)]
  | 0x10 => r64 [(0, 64, u.expected.toNat)]
  | 0x18 => r64 [(0, 64, u.result.toNat)]
  | _ => none

def fltReg (d : Dev) (o : Nat) : RegVal :=
  let f := d.flt
  let cnt (k : Nat) : Nat := shown f.frozen k (f.counters.getD k 0)
  match o with
  | 0x00 => r32 [(0, 1, bit d.inBase), (8, 8, f.causes.toNat), (16, 8, f.lastReset.toNat)]
  | 0x04 => r32 [(0, 8, f.minLive.toNat), (8, 8, d.liveEngines),
      (16, 8, ((List.range 6).map fun c => ((d.clus c).eng.filter fun e => e.st == .fenced || e.st == .assay).length).sum), (24, 3, d.liveCores)]
  | 0x08 => r32 [(0, 1, bit f.stopOnBm), (1, 1, bit f.forceStop), (2, 1, bit d.stopLevel), (8, 8, f.hbMs.toNat), (16, 8, f.hbBmMs.toNat)]
  | 0x0C => r32 [(0, 16, f.rotateS.toNat), (16, 8, f.lastCode.toNat)]
  | 0x10 => r32 ((List.range 4).map fun k => (2 * k, 2, f.core.getD k 0))
  | 0x18 => r32 []
  | 0x20 => some (8, cnt 0)
  | 0x28 => some (8, cnt 1)
  | 0x30 => some (8, cnt 2)
  | _ => if 0x100 ≤ o && o < 0x280 then tsReg d ((o - 0x100) / 0x20) ((o - 0x100) % 0x20) else none

/-- HM_CNT. -/
def Trust.counters (t : Trust) : List Nat :=
  [pack [(0, 16, t.activations.toNat), (16, 16, t.fallbacks.toNat), (32, 16, t.violations.toNat), (48, 16, t.attests.toNat)]]

def hmReg (d : Dev) (o : Nat) : RegVal :=
  let t := d.trust
  match o with
  | 0x00 => r32 [(0, 8, t.st.code), (8, 1, bit t.unreadable), (9, 1, bit t.ownerPending), (10, 1, bit t.retainedValid),
                 (11, 1, bit d.card.usable), (16, 16, d.confirmLeft)]
  | 0x08 => r64 [(0, 64, d.runVersion)]
  | 0x10 => r64 [(0, 64, if t.retainedValid then pkgVersion t.retained else 0)]
  | 0x18 => r32 [(0, 8, d.runSvn), (8, 8, t.floor.toNat), (16, 4, t.revoked.toNat)]
  | 0x20 => r32 []
  | 0x28 => some (8, shown t.frozen 0 (t.counters.getD 0 0))
  | _ => none

/-- SXP_CNT0-SXP_CNT3. -/
def Fleet.counters (f : Fleet) : List Nat :=
  [pack [(0, 32, f.rx.toNat), (32, 32, f.tx.toNat)],
   pack [(0, 16, f.authFail.toNat), (16, 16, f.hsFail.toNat), (32, 16, f.skew.toNat), (48, 16, f.resend.toNat)],
   pack [(0, 32, f.served.toNat), (32, 16, f.bounceSent.toNat), (48, 16, f.bounceRecv.toNat)],
   pack [(0, 32, f.revisions.toNat), (32, 16, f.publishDup.toNat), (48, 16, f.shardMissing.toNat)]]

def sxpReg (d : Dev) (o : Nat) : RegVal :=
  let f := d.fleet
  let cnt (k : Nat) : Nat := shown f.frozen k (f.counters.getD k 0)
  match o with
  | 0x00 => r32 [(0, 8, f.st.code), (8, 1, bit f.alt), (16, 15, (f.sessions.filter fun s => s.st == .opened && s.expire.isNone).length)]
  | 0x04 => r32 [(0, 16, d.devId), (16, 8, (f.hosted.filter fun h => h.st != .absent).length),
                 (24, 8, (f.hosted.filter fun h => h.st == .primary).length)]
  | 0x08 => r32 [(0, 16, f.rtoMs.toNat), (16, 16, f.skewMs.toNat)]
  | 0x0C => r32 [(0, 3, f.replAck.toNat), (8, 8, f.publishTmoS.toNat)]
  | 0x10 => r32 []
  | 0x18 => some (8, cnt 0)
  | 0x20 => some (8, cnt 1)
  | 0x28 => some (8, cnt 2)
  | 0x30 => some (8, cnt 3)
  | _ => none

/-! ### Reading BAR0 (R25, R100) -/

/-- The register at an offset of BAR0: its width and value. The chapters give DBG_ no register. -/
def regAt (i : Iface) (d : Dev) (off : Nat) : RegVal :=
  let o := off % 0x10000
  match off / 0x10000 with
  | 0x00 => hifReg i d o
  | 0x01 => msixReg d o
  | 0x02 => ownReg d o
  | 0x03 => pwReg d o
  | 0x04 => timeReg d o
  | 0x05 => ethReg d o
  | 0x06 => sfReg d o
  | 0x07 => vpReg d 0 o
  | 0x08 => vpReg d 1 o
  | 0x18 => wlkReg d o
  | 0x19 => ipmReg d o
  | 0x1A => tierReg d o
  | 0x1B => nvmeReg d o
  | 0x1C => fltReg d o
  | 0x1D => hmReg d o
  | 0x1E => sxpReg d o
  | b => if 0x10 ≤ b && b < 0x16 then cluReg d (b - 0x10) o else none

/-- An access of `width` bytes at `off` reaches a register: its offset, and which bytes of it (R25): 0 all of it, 1 its low
half, 2 its high half. -/
def regReach (i : Iface) (d : Dev) (off width : Nat) : Option (Nat × Nat) :=
  if !(width = 4 || width = 8) || off % width != 0 then none else
  match regAt i d off with
  | some (w, _) => if w = width then some (off, 0) else if width = 4 then some (off, 1) else none
  | none =>
    if width = 4 && off % 8 = 4 then
      match regAt i d (off - 4) with
      | some (8, _) => some (off - 4, 2)
      | _ => none
    else none

/-- What an access reads: no read has a side effect, and what reaches no register reads as zero (R10, R25). -/
def regRead (i : Iface) (d : Dev) (off width : Nat) : Nat :=
  match regReach i d off width with
  | none => 0
  | some (o, h) =>
    let v := match regAt i d o with
      | some (_, v) => v
      | none => 0
    if h = 0 then v else if h = 1 then v % 2 ^ 32 else v / 2 ^ 32

/-! ### Writing the host interface (R29-R33, R103) -/

/-- HIF_ABI_REQ: a negotiation starts, unless the ABI is locked (R29, R30). -/
def writeAbiReq (now v : Nat) (i : Iface) : Iface :=
  if i.locked then i else
  let m := BitVec.ofNat 8 v
  { i with abiReq := m, actResult := 0, negotiating := some (m, now) }

/-- The negotiation ends within 10 µs (R29). -/
def abiDone (i : Iface) : Iface :=
  match i.negotiating with
  | none => i
  | some (m, _) =>
    match abiMinor m.toNat with
    | some n => { i with actMajor := m, actMinor := BitVec.ofNat 8 n, actResult := 1, negotiating := none }
    | none => { i with actMajor := 0, actMinor := 0, actResult := 2, negotiating := none }

/-- A ring size is 4-16. -/
def sizeOk (n : Nat) : Bool := decide (4 ≤ n ∧ n ≤ 16)

/-- The interface after a write of HIF_ADM_CTRL (R31, R33). -/
def Iface.admCtrl (v : Nat) (i : Iface) : Iface :=
  let on := bitsOf 16 16 v == 1
  let s := bitsOf 4 0 v
  let c := bitsOf 9 5 v
  if i.admEnable then (if on then i else i.reset33)
  else if on then
    if i.actResult == 1 && sizeOk s && sizeOk c then
      { i with admSqLog2 := BitVec.ofNat 5 s, admCqLog2 := BitVec.ofNat 5 c, admEnable := true }
    else i
  else { i with admSqLog2 := BitVec.ofNat 5 s, admCqLog2 := BitVec.ofNat 5 c }

/-- SQ00 and CQ00 become active (R31, R35, R75). -/
def adminRings (i : Iface) (d : Dev) : Dev :=
  let sq : SubRing := { st := .active, log2 := i.admSqLog2.toNat, base := i.admSqBase.toNat }
  let cq : CqRing := { st := .active, vector := 1, phase := true, log2 := i.admCqLog2.toNat, base := i.admCqBase.toNat }
  { d with hif := { d.hif with sq := upd d.hif.sq 0 fun _ => sq, cq := upd d.hif.cq 0 fun _ => cq } }

/-- The event ring is enabled: EV_EVENTS_LOST for what it lost before, then the held events in order, then EV_EVENTS_LOST for
those that could not be held (R59, R103). Held events that find a smaller ring full are lost like any other (DESIGN CHOICE,
notes/assumptions/83.md). -/
def eventRingOn (base log2 : Nat) (d : Dev) : Dev :=
  let r := d.hif.evr
  let d := { d with hif := { d.hif with evr := { on := true, base := base, log2 := log2, held := [] } } }
  let d := if r.lostOld = 0 then d else evPost (d.evLost r.lostOld) d
  let d := r.held.foldl (fun d e => evPost e d) d
  evFlushLost { d with hif := { d.hif with evr := { d.hif.evr with lost := d.hif.evr.lost + r.lost } } }

/-- The interface after a write of HIF_EVR_CTRL (R31). -/
def Iface.evrCtrl (v : Nat) (i : Iface) : Iface :=
  let on := bitsOf 16 16 v == 1
  let s := bitsOf 4 0 v
  if i.evrEnable then (if on then i else { i with evrEnable := false })
  else if on then
    if i.actResult == 1 && sizeOk s then { i with evrLog2 := BitVec.ofNat 5 s, evrEnable := true } else i
  else { i with evrLog2 := BitVec.ofNat 5 s }

/-- HIF_ADM_CTRL written: the rings follow ENABLE (R31, R33). -/
def writeAdmCtrl (v : Nat) (i : Iface) (d : Dev) : Iface × Dev :=
  let i' := i.admCtrl v
  if i.admEnable && !i'.admEnable then (i', ringsAbsent d)
  else if !i.admEnable && i'.admEnable then (i', adminRings i' d)
  else (i', d)

/-- HIF_EVR_CTRL written (R31, R103). -/
def writeEvrCtrl (v : Nat) (i : Iface) (d : Dev) : Iface × Dev :=
  let i' := i.evrCtrl v
  if i.evrEnable && !i'.evrEnable then (i', eventRingOff d)
  else if !i.evrEnable && i'.evrEnable then (i', eventRingOn i'.evrBase.toNat i'.evrLog2.toNat d)
  else (i', d)

/-- A 4 KiB-aligned base field (bits [63:12]). -/
def baseOf (v : Nat) : W64 := BitVec.ofNat 64 (v / 4096 * 4096)

/-- HIF_ registers written. -/
def writeHif (o v : Nat) (i : Iface) (d : Dev) : Iface × Dev :=
  match o with
  | 0x0008 => (writeAbiReq d.now v i, d)
  | 0x1000 => (if i.admEnable then i else { i with admSqBase := baseOf v }, d)
  | 0x1008 => (if i.admEnable then i else { i with admCqBase := baseOf v }, d)
  | 0x1010 => writeAdmCtrl v i d
  | 0x1018 => (if i.evrEnable then i else { i with evrBase := baseOf v }, d)
  | 0x1020 => writeEvrCtrl v i d
  | 0x1028 => (i, { d with hif := { d.hif with evtPend := d.hif.evtPend &&& ~~~ BitVec.ofNat 4 v } })
  | 0x1030 => (i, { d with hif := { d.hif with frozen := snapTo v d.hif.counters d.hif.frozen } })
  | _ => (i, d)

/-- The MSI-X table written; unmasking a vector sends its message if its pending bit is set (R76). -/
def writeMsix (o v : Nat) (d : Dev) : Dev :=
  if 0x800 ≤ o then d else
  let n := o / 16
  let e := d.hif.msix.getD n {}
  let put (f : MsixEntry → MsixEntry) (d : Dev) : Dev := { d with hif := { d.hif with msix := upd d.hif.msix n f } }
  if o % 16 = 0 then put (fun e => { e with addr := BitVec.ofNat 64 (v / 4 * 4) }) d
  else
    let mask := bitsOf 32 32 v == 1
    let d := put (fun e => { e with data := BitVec.ofNat 32 v, masked := mask }) d
    if !mask && e.pendingBit then msixSend n (put (fun e => { e with pendingBit := false }) d) else d

/-! ### Writing the other blocks (R9, R87) -/

/-- SNAP and RELEASE of a block (R10), by its offset in BAR0. -/
def writeSnap (off v : Nat) (d : Dev) : Dev :=
  match off with
  | 0x20030 => { d with own := { d.own with frozen := snapTo v d.own.counters d.own.frozen } }
  | 0x30020 => d.setPw fun p => { p with frozen := snapTo v p.counters p.frozen }
  | 0x40018 =>
    { d with time := { d.time with
      latch := if bitsOf 0 0 v = 1 then d.time.tb else d.time.latch
      frozen := snapTo v d.time.counters d.time.frozen } }
  | 0x60000 => { d with sens := { d.sens with frozen := snapTo v d.sfCounters d.sens.frozen } }
  | 0x70010 => d.setVp 0 fun p => { p with frozen := snapTo v p.counters p.frozen }
  | 0x80010 => d.setVp 1 fun p => { p with frozen := snapTo v p.counters p.frozen }
  | 0x180008 => d.setPlace fun p => { p with frozen := snapTo v p.counters p.frozen }
  | 0x190018 => { d with ipm := { d.ipm with frozen := snapTo v d.ipm.counters d.ipm.frozen } }
  | 0x1A0010 => { d with tier := { d.tier with frozen := snapTo v d.tier.counters d.tier.frozen } }
  | 0x1B0008 => { d with nvme := { d.nvme with frozen := snapTo v d.nvme.counters d.nvme.frozen } }
  | 0x1C0018 => { d with flt := { d.flt with frozen := snapTo v d.flt.counters d.flt.frozen } }
  | 0x1D0020 => d.setTrust fun t => { t with frozen := snapTo v t.counters t.frozen }
  | 0x1E0010 => d.setFleet fun f => { f with frozen := snapTo v f.counters f.frozen }
  | _ =>
    let b := off / 0x10000
    if 0x10 ≤ b && b < 0x16 then
      match off % 0x10000 with
      | 0x20 => d.setClus (b - 0x10) fun q => { q with frozen := snapTo v q.counters q.frozen }
      | 0x310 => d.setClus (b - 0x10) fun q => { q with seqFrozen := snapTo v q.seqCounters q.seqFrozen }
      | _ => d
    else d

/-- TIME_LAUNCH and TIME_PPS; a value outside a field's range is ignored for it (notes/assumptions/52.md). -/
def writeLaunch (v : Nat) (d : Dev) : Dev :=
  let t := bitsOf 15 0 v
  if 2 ≤ t && t ≤ 10000 then { d with time := { d.time with tolUs := BitVec.ofNat 16 t } } else d
def writePps (v : Nat) (d : Dev) : Dev :=
  let w := bitsOf 24 16 v
  { d with time := { d.time with
    cableNs := BitVec.ofNat 16 v, widthMs := if 1 ≤ w ∧ w ≤ 500 then BitVec.ofNat 9 w else d.time.widthMs } }

/-- SXP_CFG and SXP_CFG2. -/
def writeSxpCfg (v : Nat) (d : Dev) : Dev :=
  let r := bitsOf 15 0 v
  let k := bitsOf 31 16 v
  d.setFleet fun f => { f with
    rtoMs := if 5 ≤ r ∧ r ≤ 1000 then BitVec.ofNat 16 r else f.rtoMs
    skewMs := if 100 ≤ k ∧ k ≤ 60000 then BitVec.ofNat 16 k else f.skewMs }
def writeSxpCfg2 (v : Nat) (d : Dev) : Dev :=
  let p := bitsOf 15 8 v
  d.setFleet fun f => { f with replAck := BitVec.ofNat 3 v, publishTmoS := if p = 0 then f.publishTmoS else BitVec.ofNat 8 p }

/-- Registers of a timer pin; START, PERIOD and WIDTH are fixed while ARM is 1 (R128). -/
def writeTmr (n o v : Nat) (d : Dev) : Option (Dev → Dev) :=
  let free (f : TmrPin → TmrPin) : Option (Dev → Dev) := some fun d => d.setPin n fun p => if p.arm then p else f p
  match o with
  | 0x00 => some (writeTmrCfg n v)
  | 0x08 => free fun p => { p with start := BitVec.ofNat 64 v }
  | 0x10 => free fun p => { p with period := BitVec.ofNat 64 v }
  | 0x18 => free fun p => { p with width := BitVec.ofNat 32 v }
  | _ => let _ := d; none

/-- What a write of the OWN fields of the register at an offset does; none where it has no such field. -/
def ownFields (off v : Nat) (d : Dev) : Option (Dev → Dev) :=
  let o := off % 0x10000
  match off with
  | 0x20004 => some (writeOwnCfg v)
  | 0x20008 => some (writeOwnPrio v)
  | 0x20018 => some (writeOwnOuten v)
  | 0x30004 => some (writePwEnv v)
  | 0x40008 => some (writeTimeCfg v)
  | 0x40010 => some (writeLaunch v)
  | 0x40014 => some (writePps v)
  | 0x40040 => some (writeTrkCfg 0 v)
  | 0x40044 => some (writeTrkCfg 1 v)
  | 0x60300 => some (writeCanCfg 0 v)
  | 0x60310 => some (writeCanCfg 1 v)
  | 0x60400 => some (writeGnssCfg v)
  | 0x190010 => some (writeIpmScrub v)
  | 0x1B0004 => some (writeNvmeCfg v)
  | 0x1C0004 => some (writeFltFence v)
  | 0x1C0008 => some (writeFltSafe v)
  | 0x1C000C => some (writeFltAssay v)
  | 0x1E0008 => some (writeSxpCfg v)
  | 0x1E000C => some (writeSxpCfg2 v)
  | _ =>
    match off / 0x10000 with
    | 0x04 => if 0x100 ≤ o && o < 0x500 then writeTmr ((o - 0x100) / 0x40) ((o - 0x100) % 0x40) v d else none
    | 0x05 => if o < 0x400 && o % 0x100 == 0 then some (writeEthCtrl (o / 0x100) v) else none
    | 0x06 => if 0x100 ≤ o && o < 0x1C0 && o % 0x10 == 0 then some (writeCsiCtrl ((o - 0x100) / 0x10) v) else none
    | 0x1C =>
      if 0x100 ≤ o && o < 0x280 then
        let n := (o - 0x100) / 0x20
        let free (f : TsUnit → TsUnit) : Option (Dev → Dev) := some fun d => d.setTs n fun u => if u.busy then u else f u
        match (o - 0x100) % 0x20 with
        | 0x00 => some (writeTsCtrl n v)
        | 0x04 => free fun u => { u with sel := BitVec.ofNat 32 v }
        | 0x10 => free fun u => { u with expected := BitVec.ofNat 64 v }
        | _ => none
      else none
    | b =>
      if 0x10 ≤ b && b < 0x16 then
        if o = 0x10 then some (writeCluCeil (b - 0x10) v) else if o = 0x14 then some (writeCluSteal (b - 0x10) v) else none
      else none

/-- What any master's write does beside OWN fields: the W1C bits, and DISARM, which is WO (R9). -/
def openFields (off v : Nat) (d : Dev) : Dev :=
  let o := off % 0x10000
  let b0 := bitsOf 0 0 v == 1
  let b1 := bitsOf 1 1 v == 1
  if off = 0x20020 then { d with own := { d.own with safeSeen := d.own.safeSeen && !b1 } }
  else if off / 0x10000 = 0x04 && 0x100 ≤ o && o < 0x500 && (o - 0x100) % 0x40 = 0x04 then
    d.setPin ((o - 0x100) / 0x40) fun p => { p with late := p.late && !b0, badcfg := p.badcfg && !b1 }
  else if off / 0x10000 = 0x1C && 0x100 ≤ o && o < 0x280 then
    let n := (o - 0x100) / 0x20
    match (o - 0x100) % 0x20 with
    | 0x00 => if (d.ts.getD n {}).busy then writeTsCtrl n (atBit 9 (bitsOf 9 9 v)) d else d
    | 0x08 => d.setTs n fun u => { u with mismatch := u.mismatch && !(bitsOf 8 8 v == 1) }
    | _ => d
  else writeSnap off v d

/-- A whole register at its offset is written with a value by a master. -/
def regPut (m off v : Nat) (i : Iface) (d : Dev) : Iface × Dev :=
  if off < 0x10000 then writeHif off v i d
  else if off < 0x20000 then (i, writeMsix (off - 0x10000) v d)
  else
    let d' := match ownFields off v d with
      | some f => ownWrite m f d
      | none => d
    (i, openFields off v d')

/-- A write of `width` bytes at an offset of BAR0 by a master (R25): a half of a 64-bit register keeps the other half. -/
def regWrite (m off width v : Nat) (i : Iface) (d : Dev) : Iface × Dev :=
  match regReach i d off width with
  | none => (i, d)
  | some (o, h) =>
    let cur := match regAt i d o with
      | some (_, x) => x
      | none => 0
    let v := v % 2 ^ (8 * width)
    regPut m o (if h = 0 then v else if h = 1 then cur / 2 ^ 32 * 2 ^ 32 + v else v * 2 ^ 32 + cur % 2 ^ 32) i d

/-! ### Doorbells (R26, R27, R55) -/

/-- A doorbell that names no acceptable index: counted, with EV_DOORBELL_INVALID (R55). -/
def dbInvalid (off v : Nat) (d : Dev) : Dev :=
  ev 0x0001 0 (det [(16, leBytes 4 off), (20, leBytes 2 v)]) { d with hif := { d.hif with dbInvalid := satInc d.hif.dbInvalid } }

/-- Counted without an event. -/
def dbCount (d : Dev) : Dev := { d with hif := { d.hif with dbInvalid := satInc d.hif.dbInvalid } }

/-- SQn tail (R55; *Ring states*). -/
def sqDoorbell (n v : Nat) (d : Dev) : Dev :=
  let r := d.chan (.sq n)
  let t := v % 65536
  let size := 2 ^ r.log2
  match r.st with
  | .absent => dbInvalid (4096 * n) t d
  | .fault => dbCount d
  | _ =>
    if t < size && (r.tail + size - r.head) % size ≤ (t + size - r.head) % size then d.setChan (.sq n) fun r => { r with tail := t }
    else dbInvalid (4096 * n) t d

/-- CQn head: entries are released, and held completions may be written (R52, R55). -/
def cqDoorbell (n v : Nat) (d : Dev) : Dev :=
  let q := d.cq n
  let h := v % 65536
  let size := 2 ^ q.log2
  if q.st == .absent || size ≤ h || (q.tail + size - q.head) % size < (h + size - q.head) % size then dbInvalid (4096 * n + 4) h d else
  let d := d.setCq n fun q => { q with head := h, fullPosted := false }
  { d with kick := ((List.range 64).filter fun s => (d.chan (.sq s)).cq == n).map Chan.sq ++ d.kick }

/-- The event ring's head (R55, R59). -/
def evrDoorbell (v : Nat) (d : Dev) : Dev :=
  let r := d.hif.evr
  let h := v % 65536
  let size := 2 ^ r.log2
  if !r.on || size ≤ h || (r.tail + size - r.head) % size < (h + size - r.head) % size then dbInvalid 0x40004 h d else
  evFlushLost { d with hif := { d.hif with evr := { r with head := h } } }

/-- A read anywhere in BAR2, of any offset and width, gives zero (R27). -/
def bar2Read (_off _width : Nat) (_d : Dev) : Nat := 0

/-- A write to BAR2: to a doorbell where it is a naturally aligned 32-bit write of one, else counted (R27). -/
def bar2Write (off width v : Nat) (d : Dev) : Dev :=
  let p := off / 4096
  if width != 4 then dbCount d
  else if p < 64 && off % 4096 = 0 then sqDoorbell p v d
  else if p < 64 && off % 4096 = 4 then cqDoorbell p v d
  else if off = 0x40004 then evrDoorbell v d
  else dbCount d

end Sys2Proof.Machine
end

