-- ==== Sys2Proof/Machine/Descriptor.lean ====
section
/-! DEFINITION. Descriptors from their fetch to their completion: the admin opcodes, the checks at the fetch, what holds a
descriptor, its start, the order of completions (spec/02 R34-R52, R60, R61; spec/03 R77-R80, R85, R94; spec/04 R132-R136;
spec/15 R478-R480; spec/16 R501, R503, R510). -/

namespace Sys2Proof.Machine

/-- The host-interface registers under the ABI lock, and the rest of the part. -/
abbrev Whole := Iface × Dev

/-! ### The admin opcodes (R39-R44) -/

/-- NOP. -/
def opNop : OpFn := fun _ d => opDone d .ok

/-- Work that never runs. -/
def opRefused : OpFn := fun _ d => opDone d .bad

/-- The version of the component of a kind in the running package's manifest; the loader's own in RECOVERY. -/
def Dev.fwVersion (d : Dev) (kind : Nat) : Nat :=
  if d.trust.running.isEmpty then Config.loaderVersion else
  match (List.range 7).find? fun k => fld (manEntry d.trust.running k) 0 1 == kind with
  | some k => fld (manEntry d.trust.running k) 24 8
  | none => 0

/-- The identify block (*Identify block*) for a channel's ABI. -/
def identifyBlock (c : OpCtx) (d : Dev) : Bytes :=
  padTo 4096 (leBytes 2 0x9600 ++ [0xB0, BitVec.ofNat 8 d.grade] ++ leBytes 4 (c.minor + 256 * c.major) ++ leBytes 8 d.feat
    ++ leBytes 8 (fmtVer c.major) ++ leBytes 8 (d.fwVersion 1) ++ leBytes 8 (d.fwVersion 2) ++ leBytes 8 (d.fwVersion 3)
    ++ leBytes 2 d.devId ++ [BitVec.ofNat 8 d.prof.activeId, BitVec.ofNat 8 d.own.owner] ++ leBytes 4 d.serial.toNat)

/-- IDENTIFY. -/
def opIdentify : OpFn := fun c d =>
  if !aligned4k (c.d.f 32 8) then opDone d .bad else opDone d (c.output 32 (identifyBlock c d) .ok)

/-- A ring number, a size and an alignment in range (R40). -/
def ringNo (n : Nat) : Bool := decide (1 ≤ n ∧ n ≤ 63)

/-- The body of CREATE_CQ is out of range (R40). -/
def createCqBad (x : Desc) : Bool :=
  let stream := x.u8 27 == 1
  !ringNo (x.u8 24) || !(1 ≤ x.u8 25 && x.u8 25 ≤ 127) || !sizeOk (x.u8 26) || 2 ≤ x.u8 27
    || !(if stream then 6 ≤ x.u8 28 && x.u8 28 ≤ 8 else x.u8 28 == 0) || !aligned4k (x.f 32 8) || !aligned4k (x.f 40 8)
    || (x.f 40 8 != 0) != stream

/-- CREATE_CQ. -/
def opCreateCq : OpFn := fun c d =>
  let x := c.d
  let n := x.u8 24
  if createCqBad x then opDone d .bad
  else if (d.cq n).st != .absent then opDone d (.conflict (d.cq n).st.code)
  else
    let q : CqRing := {
      st := if x.u8 27 = 1 then .stream else .active, vector := x.u8 25, phase := true, log2 := x.u8 26, base := x.f 32 8
      recBase := x.f 40 8, recLog2 := x.u8 28, coalCount := max (x.u8 29) 1, coalTimeUs := x.f 30 2 }
    opDone (d.setCq n fun _ => q) .ok

/-- CREATE_SQ. -/
def opCreateSq : OpFn := fun c d =>
  let x := c.d
  let n := x.u8 24
  let q := x.u8 25
  if !ringNo n || !ringNo q || !sizeOk (x.u8 26) || !aligned4k (x.f 32 8) then opDone d .bad
  else if (d.chan (.sq n)).st != .absent then opDone d (.conflict (d.chan (.sq n)).st.code)
  else if (d.cq q).st != .active then opDone d (.conflict (d.cq q).st.code)
  else
    let r : SubRing := { st := .active, cq := q, log2 := x.u8 26, base := x.f 32 8 }
    opDone (d.setChan (.sq n) fun _ => r) .ok

/-- The streams that run (R42); in base-metal mode only the pose stream does (R477). -/
def Dev.runningStreams (d : Dev) : List Nat :=
  let sample := ((List.range 32).filter fun i => (d.sensor i).enabled && bitsOf 1 1 (d.se i 2 1) == 1).map fun i => 0x0100 + i
  let capture := ((List.range 16).filter fun n =>
    let m := (d.time.tmr.getD n {}).mode.toNat
    decide (1 ≤ m ∧ m ≤ 3)).map fun n => 0x0800 + n
  let pose := if d.posing then [0x0510] else []
  let epoch := if d.est.st == .off then [] else [0x0511]
  let fus := if d.fusion.st == .running || d.fusion.st == .checking then [0x0500, 0x0501] else []
  if d.inBase then pose else sample ++ capture ++ pose ++ epoch ++ fus

/-- DELETE_CQ. -/
def opDeleteCq : OpFn := fun c d =>
  let n := c.d.u8 24
  let serves := (List.range 64).any fun s => (d.chan (.sq s)).st != .absent && (d.chan (.sq s)).cq == n
  let named := d.runningStreams.any fun id => routeOf d.prof.active id == some n
  if !ringNo n then opDone d .bad
  else if (d.cq n).st == .absent then opDone d (.conflict CqState.absent.code)
  else if serves || ((d.cq n).st == .stream && named) then opDone d (.conflict CqState.active.code)
  else opDone (d.setCq n fun _ => {}) .ok

/-- A descriptor from its 64 bytes (*Descriptor header*), less an inline payload. -/
def parseDesc (b : Bytes) : Op × Desc :=
  let w := fld b 0 2
  let f := fld b 2 2
  let c := fld b 12 1
  (Op.ofCode (BitVec.ofNat 12 w),
   { fmtVer := BitVec.ofNat 4 (w / 4096), irq := f.testBit 0, depWait := f.testBit 1, depAny := f.testBit 2, epochWait := f.testBit 3
     barrier := f.testBit 4, repeatNext := f.testBit 5, flagsRes := BitVec.ofNat 10 (f / 64), hostTag := BitVec.ofNat 32 (fld b 4 4)
     depCount := BitVec.ofNat 32 (fld b 8 4), depSq := BitVec.ofNat 6 c, depRes := BitVec.ofNat 2 (c / 64)
     epochLo := BitVec.ofNat 24 (fld b 13 3), launchAt := BitVec.ofNat 64 (fld b 16 8), body := sliceAt b 24 40 })

/-- The descriptor in a slot of a submission ring, from host memory. -/
def Dev.slotDesc (d : Dev) (n slot : Nat) : Op × Desc := parseDesc (memRead d.hif.mem ((d.chan (.sq n)).base + 64 * slot) 64)

/-- Slots of a ring up to its tail that have not been fetched. -/
def SubRing.unfetched (r : SubRing) : Nat := used r.head r.tail r.log2

/-- The submission count after the last slot that the ring named in byte 24 has been given (R43). -/
def Dev.outstanding (d : Dev) (x : Desc) : W32 :=
  let r := d.chan (.sq (x.u8 24))
  r.nextCount + BitVec.ofNat 32 r.unfetched

/-- The next free ID and the tombstone epoch of an index (spec/13 R409). -/
def Dev.indexNow (d : Dev) (i : Nat) : Nat × Nat := ((d.ix i).idEnd, (d.ix i).te)

/-- A fetched descriptor takes its place in its channel: the next slot, the next submission count (R45, R77). -/
def addPend (ch : Chan) (op : Op) (x : Desc) (st : Stage) (d : Dev) : Dev :=
  let put (r : SubRing) : SubRing :=
    let p : Pend := { op := op, d := x, count := r.nextCount, stage := st, launch := x.launchAt.toNat, seq := d.hif.fetches
                      fetchedAt := d.tb64, upTo := d.outstanding x, cut := d.indexNow (x.u8 24) }
    let next : Nat := match ch with
      | .sq _ => (r.head + 1) % 2 ^ r.log2
      | _ => r.head
    { r with head := next, nextCount := r.nextCount + 1, pend := r.pend ++ [p] }
  let d := d.setChan ch put
  { d with hif := { d.hif with fetches := d.hif.fetches + 1 } }

/-- Every descriptor of a ring before the count `upTo` is taken; those not fetched yet are fetched and run no more (R43). -/
def takeRing (n : Nat) (upTo : W32) (d : Dev) : Dev :=
  let ch : Chan := .sq n
  let d := (d.chan ch).pend.foldl (fun d p => if serialBefore 32 p.count.toNat upTo.toNat then takePend ch (.of stAborted) p d else d) d
  let r := d.chan ch
  if r.st == .fault || !serialBefore 32 r.nextCount.toNat upTo.toNat then d else
  (List.range (min r.unfetched (upTo - r.nextCount).toNat)).foldl (fun d _ =>
    let x := d.slotDesc n (d.chan ch).head
    addPend ch x.1 x.2 (.finished (.of stAborted)) d) d

/-- ABORT_SQ and DELETE_SQ (R41, R43, R44): they take what was outstanding when they were fetched. Both are past their commit point
once they have taken a ring (DESIGN CHOICE, notes/assumptions/53.md). -/
def closeRing (delete : Bool) : OpFn := fun c d =>
  let n := c.d.u8 24
  let st := (d.chan (.sq n)).st
  if !ringNo n then opDone d .bad
  else if st == .absent || (!delete && st != .active) then opDone d (.conflict st.code)
  else
    let d := commitPoint c.tok (takeRing n c.upTo d)
    let d := d.setChan (.sq n) fun r => { r with
      st := if r.st == .active then .aborting else r.st, closers := r.closers ++ [(c.tok, delete, c.upTo)] }
    ({ d with kick := .sq n :: d.kick }, .later)

def opAbortSq : OpFn := closeRing false
def opDeleteSq : OpFn := closeRing true

/-! ### The register opcodes (spec/03 R100) -/

/-- REG_READ and REG_WRITE name an aligned access of 4 or 8 bytes. -/
def regOperandsBad (x : Desc) : Bool :=
  let w := x.u8 28
  !(w == 4 || w == 8) || x.f 24 4 % w != 0

/-- The work of an opcode over the part. IDENTIFY and the two register opcodes need the ABI-locked registers too, and run in
`runOp`; a reserved opcode has been refused at its fetch (R60). -/
def opFn : Op → OpFn
  | .identify => opRefused
  | .createCq => opCreateCq
  | .createSq => opCreateSq
  | .deleteSq => opDeleteSq
  | .deleteCq => opDeleteCq
  | .abortSq => opAbortSq
  | .nop => opNop
  | .ownClaim => opOwnClaim
  | .ownHeartbeat => opOwnHeartbeat
  | .ownHandover => opOwnHandover
  | .ownAccept => opOwnAccept
  | .ownRelease => opOwnRelease
  | .profileSelect => opProfileSelect
  | .profileRead => opProfileRead
  | .profileWrite => opProfileWrite
  | .profileRestore => opProfileRestore
  | .regRead => opRefused
  | .regWrite => opRefused
  | .sensorInject => opSensorInject
  | .sensorEnable => opSensorEnable
  | .slotRead => opSlotRead
  | .frameGrab => opFrameGrab
  | .gnssSend => opGnssSend
  | .rectLoad => opRectLoad
  | .stereoStored => opStereoStored
  | .vpParams => opVpParams
  | .vpMove => opVpMove
  | .stereoGrab => opStereoGrab
  | .modelInstall => opModelInstall
  | .modelRemove => opModelRemove
  | .modelLoad => opModelLoad
  | .modelUnload => opModelUnload
  | .infer => opInfer
  | .modelQuery => opModelQuery
  | .stateReset => opStateReset
  | .modelBind => opModelBind
  | .modelUnbind => opModelUnbind
  | .solverLoad => opSolverLoad
  | .solve => opSolve
  | .solverFree => opSolverFree
  | .solverQuery => opSolverQuery
  | .estConfig => opEstConfig
  | .estStart => opEstStart
  | .estStop => opEstStop
  | .estStatus => opEstStatus
  | .keyframeRead => opKeyframeRead
  | .fusionStart => opFusionStart
  | .fusionStop => opFusionStop
  | .fusionBounds => opFusionBounds
  | .fusionReset => opFusionReset
  | .fusionStatus => opFusionStatus
  | .indexCreate => opIndexCreate
  | .indexLoad => opIndexLoad
  | .indexDrop => opIndexDrop
  | .placeInsert => opPlaceInsert
  | .placeDelete => opPlaceDelete
  | .placeQuery => opPlaceQuery
  | .indexMerge => opIndexMerge
  | .indexQuery => opIndexQuery
  | .walkerSet => opWalkerSet
  | .tierQuery => opTierQuery
  | .tierPromote => opTierPromote
  | .tierEvict => opTierEvict
  | .tierUnpin => opTierUnpin
  | .tierUsage => opTierUsage
  | .slowAttach => opSlowAttach
  | .ipmChannel => opIpmChannel
  | .timeSelect => opTimeSelect
  | .timeSet => opTimeSet
  | .setLaunchPeriod => opSetLaunchPeriod
  | .timeStatus => opTimeStatus
  | .fleetConfig => opFleetConfig
  | .fleetEnrol => opFleetEnrol
  | .fleetJoin => opFleetJoin
  | .fleetFrame => opFleetFrame
  | .shardTable => opShardTable
  | .shardHost => opShardHost
  | .shardDrop => opShardDrop
  | .shardHandover => opShardHandover
  | .shardPromote => opShardPromote
  | .fleetQuery => opFleetQuery
  | .shardStatus => opShardStatus
  | .fltStatus => opFltStatus
  | .unitFence => opUnitFence
  | .unitReturn => opUnitReturn
  | .assayRun => opAssayRun
  | .baseEnter => opBaseEnter
  | .baseExit => opBaseExit
  | .fltLog => opFltLog
  | .hmIdentity => opHmIdentity
  | .hmAttest => opHmAttest
  | .updateKeyInstall => opUpdateKeyInstall
  | .updateStage => opUpdateStage
  | .updateActivate => opUpdateActivate
  | .updateCancel => opUpdateCancel
  | .updateConfirm => opUpdateConfirm
  | .acceptDefaults => opAcceptDefaults
  | .updateRevert => opUpdateRevert
  | .updateStatus => opUpdateStatus
  | .settingsExport => opSettingsExport
  | .reserved _ => opRefused

/-- An opcode runs (R100: REG_WRITE has the effect of the sending master's own write). -/
def runOp (i : Iface) (op : Op) (c : OpCtx) (d : Dev) : Whole × OpResult :=
  match op with
  | .regRead =>
    if regOperandsBad c.d then ((i, d), .done .bad) else ((i, d), .done (.ok (regRead i d (c.d.f 24 4) (c.d.u8 28))))
  | .regWrite =>
    if regOperandsBad c.d || (c.d.u8 28 == 4 && c.d.f 36 4 != 0) then ((i, d), .done .bad)
    else (regWrite c.master (c.d.f 24 4) (c.d.u8 28) (c.d.f 32 8) i d, .done .ok)
  | .identify => let r := opIdentify c d; ((i, r.1), r.2)
  | op => let r := opFn op c d; ((i, r.1), r.2)

/-! ### The ABI of a channel (R34, R60, R77) -/

/-- Major and minor version in force on a channel. -/
def abiOf (i : Iface) : Chan → Nat × Nat
  | .sq _ => (i.actMajor.toNat, i.actMinor.toNat)
  | _ => (3, 2)

/-- ST_VERSION: the class is reserved for later generations or absent, or its format is too new (R34, R60). -/
def versionBad (i : Iface) (ch : Chan) (op : Op) (x : Desc) : Bool :=
  let k := op.cls
  let f := fmtVer (abiOf i ch).1
  12 ≤ k || !f.testBit (48 + k) || bitsOf (4 * k + 3) (4 * k) f < x.fmtVer.toNat

/-- The opcode is on the wrong kind of ring, or reserved (R36, R60, R77). -/
def misplaced (ch : Chan) (op : Op) : Bool :=
  let reserved := match op with
    | .reserved _ => true
    | _ => false
  let wrong := match ch with
    | .sq 0 => op.cls != 0
    | .sq _ => op.cls == 0
    | _ => !(op.code == 0x001 || op.code == 0x00F || (0x010 ≤ op.code && op.code ≤ 0x01F) || [8, 10, 11].contains op.cls)
  reserved || wrong

/-- A reserved field is not zero (R12): in the header, in bytes that the opcode does not use, in reserved bits of those it does, or in
bytes that this form of it reserves. -/
def reservedBad (op : Op) (x : Desc) : Bool :=
  x.flagsRes != 0 || x.depRes != 0 || !x.onlyUses (opInfo op).uses
    || (reservedBits op).any (fun r => x.u8 r.1 &&& r.2 != 0) || (reservedHere op x).any fun r => x.f r.1 r.2 != 0

/-- The inline payload is not what the opcode's body names, or a host buffer is named (R78). -/
def inlineBad (ch : Chan) (op : Op) (x : Desc) : Bool :=
  match ch with
  | .sq _ => false
  | _ => (opInfo op).bufs.any (fun b => x.f b 8 != 0) || 4096 < x.payload.length || x.payload.length != (opInfo op).takes x

/-- launch_at is on the launch grid of its ring (R135), which reaches before its phase as well: k may be negative (DESIGN CHOICE,
notes/assumptions/82.md). -/
def Dev.onGrid (d : Dev) (ch : Chan) (launch : Nat) : Bool :=
  match (d.chan ch).grid with
  | some (phase, period) => launch != 0 && 0 < period && ((launch : Int) - phase) % period == 0
  | none => false

/-- A launch too far ahead, or REPEAT_NEXT without a periodic launch (R135, R136). -/
def launchBad (ch : Chan) (x : Desc) (d : Dev) : Bool :=
  d.tb64 + 600 * sNs < x.launchAt.toNat || (x.repeatNext && !d.onGrid ch x.launchAt.toNat)

/-- A dependency that can name no earlier descriptor (R45, R47). -/
def depBad (ch : Chan) (x : Desc) (own : W32) (d : Dev) : Bool :=
  let q := x.depSq.toNat
  x.depWait && (q == 0 || (ch == .sq q && serialReached 32 x.depCount.toNat own.toNat) || (d.chan (.sq q)).st == .absent)

/-! ### Part-wide states that do not serve a descriptor -/

/-- No control core is live in base-metal mode (R480). -/
def Dev.noCore (d : Dev) : Bool := d.inBase && d.liveCores == 0

/-- What the safety island alone serves on SAFE_SPI (R480). -/
def islandServes (op : Op) (x : Desc) : Bool :=
  match op with
  | .fltStatus | .baseExit => true
  | .assayRun | .unitReturn => x.u8 24 == 3
  | _ => false

/-- What the service core serves in base-metal mode (R479). -/
def Dev.baseServes (d : Dev) (op : Op) (x : Desc) : Bool :=
  [0, 8, 10, 11].contains op.cls || (op == .sensorInject && x.u8 24 == d.ec 4 1)

/-- The completion that a part-wide state gives a descriptor it does not serve: RECOVERY (R510), base-metal mode (R479, R480), the
safety island before the control complex runs (notes/assumptions/54.md), unreadable settings (R503), an application (R94). -/
def partJudge (op : Op) (x : Desc) (d : Dev) : Option Cpl :=
  let admin := op.code ≤ 0x01F
  let k := op.cls
  if d.noCore then (if islandServes op x then none else some (.conflict 4))
  else if d.start.rank < 6 then (if islandServes op x then none else some (.conflict d.part.code))
  else if d.trust.st == .recovery then (if admin || k == 11 then none else some (.conflict 0x0408))
  else if d.inBase && !d.baseServes op x then some (.conflict 4)
  else if d.trust.unreadable && !(admin || [8, 10, 11].contains k) then some (.of stSettingsUnreadable)
  else if d.prof.st == .applying && ((1 ≤ k && k ≤ 7) || k == 9) then some (.conflict 0x0302)
  else none

/-- The owner is checked when the descriptor is fetched, but for the opcodes that are judged as they take effect (R61, R85). -/
def ownedAtFetch (op : Op) : Bool :=
  (opInfo op).ownerOnly && !(op == .ownHeartbeat || op == .ownRelease || op == .ownHandover)

/-- The checks at a descriptor's fetch, in the model's order (notes/assumptions/55.md). -/
def judge (i : Iface) (ch : Chan) (op : Op) (x : Desc) (own : W32) (d : Dev) : Option Cpl :=
  if versionBad i ch op x then some (.of stVersion)
  else if misplaced ch op || reservedBad op x || inlineBad ch op x || launchBad ch x d || depBad ch x own d then some .bad
  else if ownedAtFetch op && !d.own.isOwner ch.master then some (.of stNotOwner)
  else partJudge op x d

/-! ### What holds a descriptor (R46-R49, BARRIER) -/

/-- Whether a held descriptor may start. -/
inductive Cond where
  | met | wait | failed
  deriving DecidableEq, Repr

/-- The dependency of a descriptor (R46, R47); one on a ring that has been deleted meanwhile counts as failed
(notes/assumptions/56.md). -/
def depCond (x : Desc) (d : Dev) : Cond :=
  if !x.depWait then .met else
  let r := d.chan (.sq x.depSq.toNat)
  let next : W32 := match r.pend with
    | p :: _ => p.count
    | [] => r.nextCount
  if r.st == .absent then (if x.depAny then .met else .failed)
  else if !serialBefore 32 x.depCount.toNat next.toNat then .wait
  else if r.failed.contains x.depCount && !x.depAny then .failed
  else .met

/-- The map epoch waited on has been reached (R48). -/
def epochMet (x : Desc) (d : Dev) : Bool := !x.epochWait || decide ((d.est.epoch + 2 ^ 24 - x.epochLo.toNat) % 2 ^ 24 < 2 ^ 23)

/-- Every earlier descriptor of the ring has completed (BARRIER). -/
def barrierMet (t : Tok) (x : Desc) (d : Dev) : Bool :=
  !x.barrier || (match (d.chan t.ch).pend with
    | p :: _ => p.count == t.count
    | [] => true)

/-- All that holds a descriptor but its launch instant. -/
def condOf (t : Tok) (x : Desc) (d : Dev) : Cond :=
  match depCond x d with
  | .met => if epochMet x d && barrierMet t x d then .met else .wait
  | r => r

/-! ### Start and completion -/

/-- What an opcode sees of a pending descriptor. -/
def ctxFor (i : Iface) (ch : Chan) (p : Pend) : OpCtx :=
  { ch := ch, tok := { ch := ch, count := p.count }, d := p.d, major := (abiOf i ch).1, minor := (abiOf i ch).2
    fetchedAt := p.fetchedAt, upTo := p.upTo }

/-- A pending descriptor's stage is set. -/
def setStage (t : Tok) (s : Stage) (d : Dev) : Dev :=
  d.setChan t.ch fun r => { r with pend := r.pend.map fun p => if p.count = t.count then { p with stage := s } else p }

/-- Address and length of the host buffer that an opcode reads as it runs. -/
def inputSpan (op : Op) (x : Desc) (d : Dev) : Nat × Nat :=
  match op with
  | .infer => (0, 0)
  | .solve => (x.f 48 8, x.f 56 4)
  | .hmAttest => (x.f 24 8, 64)
  | .indexCreate => (x.f 32 8, if x.u8 25 = 0 then 8 * x.u8 30 * x.f 28 2 else 0)
  | .placeInsert => (x.f 32 8, x.f 28 4 * (d.ix (x.u8 24)).vecBytes)
  | .placeQuery => (x.f 32 8, x.f 48 2 * (d.ix (x.u8 24)).vecBytes)
  | .shardTable => (x.f 32 8, 64 * x.f 28 4)
  | .fleetQuery => (x.f 32 8, d.queryBytes x)
  | _ => (x.f 32 8, (opInfo op).takes x)

/-- The fetch of an opcode's host buffer fails (R63). What a buffer sent inline holds is already there. -/
def inputFails (op : Op) (c : OpCtx) (d : Dev) : Bool :=
  match c.ch with
  | .sq _ => d.hostFails (inputSpan op c.d d).1 (inputSpan op c.d d).2
  | _ => false

/-- A descriptor's work is done, or begun. -/
def runPend (ch : Chan) (p : Pend) (w : Whole) : Whole :=
  let c := ctxFor w.1 ch p
  match partJudge p.op p.d w.2 with
  | some k => (w.1, takePend ch k p w.2)
  | none =>
    if inputFails p.op c w.2 then (w.1, takePend ch (.of stDataError) p w.2) else
    match runOp w.1 p.op c (setStage c.tok .running w.2) with
    | (w, .done k) => (w.1, finish c.tok k w.2)
    | (w, .later) => w

/-- Work that goes on past its start begins. Nothing has begun where it would end at once, and its effect waits for its place in the
ring order (R43, R50, R69; notes/assumptions/15.md). -/
def beginPend (ch : Chan) (p : Pend) (w : Whole) : Option Whole :=
  let c := ctxFor w.1 ch p
  if !(opInfo p.op).async || (partJudge p.op p.d w.2).isSome || inputFails p.op c w.2 then none else
  match runOp w.1 p.op c (setStage c.tok .running w.2) with
  | (w, .later) => some w
  | _ => none

/-- A descriptor starts: work that goes on begins at once, any other is done at its place in the ring order (R43, R69). -/
def startPend (ch : Chan) (p : Pend) (w : Whole) : Whole :=
  match beginPend ch p w with
  | some w => w
  | none =>
    let d := setStage { ch := ch, count := p.count } .ready w.2
    (w.1, { d with kick := ch :: d.kick })

/-- A descriptor that nothing but its launch may hold starts, waits, or completes with ST_ABORTED (R46). -/
def tryStart (ch : Chan) (p : Pend) (w : Whole) : Whole :=
  match condOf { ch := ch, count := p.count } p.d w.2 with
  | .failed => (w.1, takePend ch (.of stAborted) p w.2)
  | .wait => w
  | .met => startPend ch p w

/-- A descriptor is fetched (R45, R537): it takes its count, is judged, and starts unless something holds it. -/
def fetchDesc (ch : Chan) (op : Op) (x : Desc) (w : Whole) : Whole :=
  let i := w.1
  let d := w.2
  let own := (d.chan ch).nextCount
  let tok : Tok := { ch := ch, count := own }
  match judge i ch op x own d with
  | some k =>
    let d := if k.status = stNotOwner then countNotOwner d else d
    let d := addPend ch op x (.finished k) d
    (i, { d with kick := ch :: d.kick })
  | none =>
    let seq := d.hif.fetches
    let p : Pend := { op := op, d := x, count := own, seq := seq, fetchedAt := d.tb64, upTo := d.outstanding x
                      cut := d.indexNow (x.u8 24) }
    let d := addPend ch op x .held d
    let (d, refused) := if op = .infer then inferFetched (ctxFor i ch p) seq d else (d, none)
    match refused with
    | some k =>
      let d := setStage tok (.finished k) d
      (i, { d with kick := ch :: d.kick })
    | none =>
      if x.launchAt != 0 then (i, d) else tryStart ch p (i, d)

/-- Room for a completion of a channel (R52). -/
def Dev.room (d : Dev) (ch : Chan) : Bool :=
  match ch with
  | .sq _ =>
    let q := d.cq (d.chan ch).cq
    q.st == .active && !ringFull q.head q.tail q.log2
  | _ => true

/-- What a completion carries besides its own result: a launch that moved, its start and how far it moved (R135); an OWN_CLAIM, the owner
at this instant, with every status (R99). -/
def Pend.final (p : Pend) (k : Cpl) (d : Dev) : Cpl :=
  let k := if p.op = .ownClaim then { k with result0 := BitVec.ofNat 64 d.own.owner } else k
  if p.moved = 0 then k else { k with result0 := BitVec.ofNat 64 p.launch, result1 := BitVec.ofNat 32 p.moved }

/-- A MODEL_LOAD or SOLVER_LOAD that ends without a report of its own writes one all the same (R274, R356); one of another format
version, whose body is not read, does not (DESIGN CHOICE, notes/assumptions/89.md). -/
def Pend.withReport (p : Pend) (ch : Chan) (k : Cpl) (d : Dev) : Cpl :=
  let s := p.d.u8 24
  let m := if p.d.u8 25 = 0 then d.clusterEn else p.d.u8 25
  let own (at8 : Nat) (b : Bytes) : Cpl := { k with dest := some (p.d.f at8 8), payload := b }
  match ch with
  | .sq _ =>
    if k.dest.isSome || k.status == stVersion then k
    else if p.op == .modelLoad && p.d.f 32 8 != 0 then own 32 (refusedReport s (d.slot s).st.code m)
    else if p.op == .solverLoad && p.d.f 48 8 != 0 then own 48 (solverRefused s d)
    else k
  | _ => k

/-- The report that a SOLVER_LOAD writes is its slot's last one (R359). -/
def Pend.keepReport (p : Pend) (k : Cpl) (d : Dev) : Dev :=
  if p.op == .solverLoad && 256 ≤ k.payload.length then d.setPs (p.d.u8 24) fun x => { x with report := k.payload.take 256 } else d

/-- Finished work takes effect at its descriptor's place in the ring order, and the descriptor ends with it (R50, R52, R69). -/
def commitStaged (ch : Chan) (p : Pend) (d : Dev) : Dev :=
  let t : Tok := { ch := ch, count := p.count }
  let d := setStage t .running d
  match p.op with
  | .infer => inferCommit t (p.d.u8 24) d
  | .modelUnload => unloadCommit t (p.d.u8 24) d
  | .stateReset => resetCommit t (p.d.u8 24) (p.d.u8 25) d
  | .modelUnbind => unbindCommit t (p.d.u8 24) d
  | _ => finish t .ok d

/-- The last descriptor that a closer took has completed: an ABORT_SQ waits for those before its count, a DELETE_SQ for all, as the ring
goes with it. -/
def SubRing.closed (r : SubRing) (c : Tok × Bool × W32) : Bool :=
  match r.pend with
  | [] => true
  | p :: _ => !c.2.1 && !serialBefore 32 p.count.toNat c.2.2.toNat

/-- A ring whose last taken descriptor has completed: its ABORT_SQs and DELETE_SQs complete (R43, R44). -/
def closeDone (ch : Chan) (d : Dev) : Dev :=
  let r := d.chan ch
  let l := r.closers.filter r.closed
  let rest := r.closers.filter fun c => !r.closed c
  let gone := l.any (·.2.1)
  let d := d.setChan ch fun r => if gone then {} else { r with
    closers := rest, st := if r.st == .aborting && rest.isEmpty then .active else r.st }
  l.foldl (fun d c => finish c.1 .ok d) d

/-- One thing that a channel does in its ring order: a completion is written, work in its place is done, a closing ring closes
(R52, R67, R69). -/
def pumpOne (ch : Chan) (w : Whole) : Option Whole :=
  let r := w.2.chan ch
  if r.closers.any r.closed then some (w.1, closeDone ch w.2) else
  match r.pend with
  | [] => none
  | p :: rest =>
    if !w.2.room ch then none else
    match p.stage with
    | .finished k =>
      let d := w.2.setChan ch fun r => { r with pend := rest }
      let k := p.withReport ch (p.final k d) d
      some (w.1, writeCpl ch p k (p.keepReport k d))
    | .ready => some (runPend ch p w)
    | .staged => some (w.1, commitStaged ch p w.2)
    | _ => none

/-- What a channel does until something else must happen first. -/
def pump (ch : Chan) : Nat → Whole → Whole
  | 0, w => w
  | n + 1, w =>
    match pumpOne ch w with
    | some w => pump ch n w
    | none => w

/-- Completions on SAFE_SPI wait in the response slot, payload in pieces of 128 bytes (R390). -/
def spiFlush (d : Dev) : Dev :=
  let piece (b : Bytes) : List Bytes :=
    let n := (b.length - 32 + 127) / 128
    b.take 32 :: (List.range n).map fun k => sliceAt b (32 + 128 * k) 128
  let l := d.hif.safeSpi.replies.flatMap piece
  { d with spi := { d.spi with resp := d.spi.resp ++ l }, hif := { d.hif with safeSpi := { d.hif.safeSpi with replies := [] } } }

/-- The channels that wait, each once. -/
def kicked (d : Dev) : List Chan := channels.filter fun c => d.kick.contains c

/-- What follows of itself at the end of a command: consequences within the part, then completions, until nothing is left. -/
def settle : Nat → Whole → Whole
  | 0, w => w
  | n + 1, w =>
    let d := settleParts w.2
    let l := kicked d
    if l.isEmpty then (w.1, spiFlush (adminFlush d)) else
    let w := l.foldl (fun w ch => pump ch (3 * (w.2.chan ch).pend.length + 4) w) (w.1, { d with kick := [] })
    settle n w

/-- A command's effect, then what follows of itself. -/
def settled (w : Whole) : Whole := settle 64 w

/-! ### Fetches (R44, R136, R537) -/

/-- A descriptor that waits for its launch. -/
def Pend.timed (p : Pend) : Bool := p.stage == .held && p.launch != 0

/-- The part holds 1,024 pending timed descriptors (R136). -/
def Dev.timedFull (d : Dev) : Bool := decide (1024 ≤ (channels.flatMap fun c => (d.chan c).pend.filter Pend.timed).length)

/-- The part holds 1,024 pending timed descriptors and this ring holds one (R136). -/
def Dev.launchFull (d : Dev) (ch : Chan) : Bool := (d.chan ch).pend.any Pend.timed && d.timedFull

/-- The part fetches no descriptor: an activation under way, or no live core (R480, R501). -/
def Dev.fetchStopped (d : Dev) : Bool := (d.trust.st == .activating && d.part == .updatePause) || d.noCore

/-- Descriptors of the open admin session under way (R436). -/
def Dev.adminInFlight (d : Dev) : Nat := ((d.chan .net).pend.filter fun p => !d.fleet.orphans.contains p.count).length

/-- A channel can take a descriptor now (R44, R79, R101, R136, R390, R436, R480, R501, R510). -/
def Dev.canFetch (d : Dev) (ch : Chan) : Bool :=
  let r := d.chan ch
  match ch with
  | .sq _ => r.st == .active && r.head != r.tail && d.canWrite && 6 ≤ d.start.rank && !d.fetchStopped && !d.launchFull ch
  | .i3c => r.pend.isEmpty && r.replies.isEmpty && 6 ≤ d.start.rank && !d.fetchStopped
  | .safeSpi => r.pend.isEmpty && d.spi.resp.isEmpty && 5 ≤ d.start.rank && !(d.trust.st == .activating && d.part == .updatePause)
      && d.trust.st != .recovery
  | .net => d.adminSession.isSome && decide (d.adminInFlight < 16) && 6 ≤ d.start.rank && !d.fetchStopped && d.trust.st != .recovery

/-- A channel can take this descriptor now. At 1,024 pending timed descriptors a further timed one stays unfetched on every channel,
since the part holds at most that many (R136; DEDUCED, notes/assumptions/82.md). -/
def Dev.mayFetch (d : Dev) (ch : Chan) (x : Desc) : Bool := d.canFetch ch && !(x.launchAt != 0 && d.timedFull)

/-- A command of the descriptor rows: the channel's next descriptor is this one (notes/assumptions/2.md). -/
def fetchRow (ch : Chan) (op : Op) (x : Desc) (w : Whole) : Whole := if w.2.mayFetch ch x then fetchDesc ch op x w else w

/-- A fetch fails on PCIe (R44). -/
def fetchFail (n : Nat) (d : Dev) : Dev :=
  let r := d.chan (.sq n)
  if r.st != .active || r.head == r.tail then d else
  ev 0x0005 1 (det [(16, [BitVec.ofNat 8 n]), (17, leBytes 2 r.head)]) (d.setChan (.sq n) fun r => { r with st := .fault })

/-! ### Held descriptors and timed launch (R46-R49, R132-R136) -/

/-- The held descriptor of a count. -/
def Dev.heldAt (d : Dev) (t : Tok) : Option Pend := (d.chan t.ch).pend.find? fun p => p.count == t.count && p.stage == .held

/-- A held descriptor starts once nothing holds it; a timed one whose dependency failed completes. The slot whose turn it is, where
the ring has not fetched it, is fetched from host memory, whatever its opcode (notes/assumptions/2.md). -/
def descriptorStart (ch : Chan) (count : Nat) (w : Whole) : Whole :=
  let d := w.2
  let t : Tok := { ch := ch, count := BitVec.ofNat 32 count }
  match d.heldAt t with
  | some p =>
    if p.launch = 0 then tryStart ch p w
    else if depCond p.d d = .failed then (w.1, takePend ch (.of stAborted) p d)
    else w
  | none =>
    match ch with
    | .sq n =>
      let x := d.slotDesc n (d.chan ch).head
      if t.count = (d.chan ch).nextCount && d.mayFetch ch x.2 then fetchDesc ch x.1 x.2 w else w
    | _ => w

/-- The order of timed starts (R133): launch instant, ring, count. The channels of masters 2-4, which have no SQ number, come after
SQ63 in the order I3C, SAFE_SPI, network (DESIGN CHOICE, notes/assumptions/82.md). -/
def launchBefore (a b : Chan × Pend) : Bool :=
  let key (c : Chan) : Nat := match c with
    | .sq n => n
    | .i3c => 64
    | .safeSpi => 65
    | .net => 66
  decide (a.2.launch < b.2.launch) || (a.2.launch == b.2.launch && (decide (key a.1 < key b.1)
    || (key a.1 == key b.1 && serialBefore 32 a.2.count.toNat b.2.count.toNat)))

/-- Timed descriptors that may start now. -/
def Dev.launchReady (d : Dev) : List (Chan × Pend) :=
  channels.flatMap fun c => ((d.chan c).pend.filter fun p =>
    p.timed && decide (p.launch ≤ d.tb64) && condOf { ch := c, count := p.count } p.d d == .met).map fun p => (c, p)

/-- A timed descriptor starts (R132-R134): its work runs at this instant, whatever its ring has before it, and its completion waits for
its place (R133, R67; notes/assumptions/82.md). A start later than launch_at + 2 µs is counted; cluster work has its start when an engine begins it. -/
def timedStart (ch : Chan) (count : Nat) (w : Whole) : Whole :=
  let d := w.2
  let t : Tok := { ch := ch, count := BitVec.ofNat 32 count }
  match d.heldAt t with
  | none => w
  | some p =>
    let late := p.launch + d.time.tolUs.toNat * usNs
    let first := !(d.launchReady.any fun x => launchBefore x (ch, p))
    if !p.timed || d.tb64 < p.launch || late < d.tb64 || condOf t p.d d != .met || !first then w else
    runPend ch p (w.1, if clusterWork p.op then d else launchBegins t p d)

/-- A descriptor whose work has been given up waits again: an INFER is on its slot's books as from its fetch (R135, R280). -/
def refetched (t : Tok) (p : Pend) (d : Dev) : Dev :=
  if p.op == .infer then d.setSlot (p.d.u8 24) fun x => { x with fetched := x.fetched ++ [(p.seq, t)] } else d

/-- A timed descriptor whose start is to come: one that is held, or cluster work that no engine has begun (R132). -/
def Dev.startAhead (d : Dev) (t : Tok) : Option Pend :=
  (d.chan t.ch).pend.find? fun p =>
    p.count == t.count && p.launch != 0 && (p.stage == .held || (p.stage == .running && clusterWork p.op && !p.begun))

/-- A timed descriptor is given up, or one with REPEAT_NEXT whose launch lies on its ring's grid as it is now moves to the first later grid
instant (R134, R135). Cluster work that no engine has begun leaves the array. -/
def launchMissed (ch : Chan) (count : Nat) (d : Dev) : Dev :=
  let t : Tok := { ch := ch, count := BitVec.ofNat 32 count }
  match d.startAhead t with
  | none => d
  | some p =>
    if d.tb64 ≤ p.launch + d.time.tolUs.toNat * usNs then d else
    match (d.chan ch).grid with
    | some (_, period) =>
      if p.d.repeatNext && d.onGrid ch p.launch then
        let d := if p.stage == .running then refetched t p (cancelTok t d) else d
        let k := (d.tb64 - p.launch) / period + 1
        let go (q : Pend) : Pend :=
          if q.count = p.count then { q with stage := .held, launch := q.launch + k * period, moved := q.moved + k } else q
        d.setChan ch fun r => { r with pend := r.pend.map go }
      else takePend ch { (Cpl.of stLaunchMissed) with result0 := BitVec.ofNat 64 d.tb64 } p d
    | none => takePend ch { (Cpl.of stLaunchMissed) with result0 := BitVec.ofNat 64 d.tb64 } p d

/-! ### The I3C mailbox (R78, R79) -/

/-- The controller writes a descriptor and its payload, in one private transfer or, in SMBus fallback, in block transfers whose bytes are
`b` in order; refused while an earlier one has not had its completion read. -/
def i3cDescriptor (smbus : Bool) (b : Bytes) (w : Whole) : Whole :=
  let d := w.2
  if d.start.rank = 0 then w
  else
    let x := parseDesc b
    if !d.mayFetch .i3c x.2 || b.length < 64 then (w.1, emit .i3cNack d) else
    fetchDesc .i3c x.1 { x.2 with payload := b.drop 64 } (w.1, { d with hif := { d.hif with smbus := smbus } })

/-- The controller reads the completion and its payload, in the mode of its last mailbox write: in SMBus fallback in blocks of up to 255
bytes. -/
def i3cCompletion (d : Dev) : Dev :=
  if d.start.rank = 0 then d else
  match d.hif.i3c.replies with
  | b :: r =>
    if d.start.rank < 6 then emit .i3cNack d
    else emit (if d.hif.smbus then .smbusRead ((List.range ((b.length + 254) / 255)).map fun i => (b.drop (255 * i)).take 255) else .i3cRead b) { d with hif := { d.hif with i3c := { d.hif.i3c with replies := r } } }
  | [] => emit .i3cNack d

/-! ### SAFE_SPI (R388-R390) -/

/-- The part's 288 bytes of a frame, latched at its start. -/
def spiMiso (d : Dev) : Bytes :=
  let s := d.spi
  let flags := bit d.inBase + 2 * bit s.crcErr + 4 * bit s.busy + 8 * bit d.est.last.isEmpty
  let kind := match s.resp with
    | [] => 0
    | b :: _ => if b.length = 32 then 1 else 2
  let b : Bytes := [0xFE, 0x5A, BitVec.ofNat 8 kind, BitVec.ofNat 8 flags] ++ leBytes 4 s.ack.toNat ++ padTo 128 d.est.last
    ++ padTo 128 (s.resp.headD []) ++ List.replicate 20 0
  b ++ leBytes 4 (crcOf 0 b)

/-- A frame of the safety MCU is whole (R390). -/
def spiFrameOk (m : Bytes) : Bool := m.length == 288 && m.take 2 == [0xFE, 0x5A] && fld m 284 4 == crcOf 0 (m.take 284)

/-- The frame's command (R390). Its sequence number is acknowledged where the part takes the command (notes/assumptions/57.md). -/
def spiCommand (m : Bytes) (w : Whole) : Whole :=
  let d := w.2
  let seq := BitVec.ofNat 32 (fld m 4 4)
  let set (f : Spi → Spi) (d : Dev) : Dev := { d with spi := f d.spi }
  match fld m 2 1 with
  | 1 =>
    let x := parseDesc (sliceAt m 8 64)
    if !d.mayFetch .safeSpi x.2 || d.spi.desc.isSome then (w.1, set (fun s => { s with busy := true }) d) else
    let due := (opInfo x.1).takes x.2
    let d := set (fun s => { s with ack := seq }) d
    if due = 0 || 4096 < due then fetchDesc .safeSpi x.1 x.2 (w.1, d)
    else (w.1, set (fun s => { s with desc := some x, due := due, got := [] }) d)
  | 2 =>
    match d.spi.desc with
    | none => w
    | some x =>
      let got := d.spi.got ++ sliceAt m 8 128
      let d := set (fun s => { s with ack := seq, got := got }) d
      if got.length < d.spi.due then (w.1, d)
      else if (d.trust.st == .activating && d.part == .updatePause) || (x.2.launchAt != 0 && d.timedFull) then (w.1, d)
      else fetchDesc .safeSpi x.1 { x.2 with payload := got.take d.spi.due } (w.1, set (fun s => { s with desc := none, due := 0, got := [] }) d)
  | 3 =>
    if d.spi.resp.isEmpty then w
    else (w.1, set (fun s => { s with ack := seq, resp := s.resp.drop 1 }) d)
  | _ => w

/-- A frame is exchanged: the part's content is latched first. -/
def spiFrame (m : Bytes) (w : Whole) : Whole :=
  let d := w.2
  if d.start.rank < 5 then w else
  let d := if d.driven 26 then emit (.safeSpi (spiMiso d)) d else d
  let d := { d with spi := { d.spi with frames := d.spi.frames + 1, crcErr := false, busy := false } }
  if spiFrameOk m then spiCommand m (w.1, d)
  else (w.1, { d with spi := { d.spi with bad := satInc d.spi.bad, crcErr := true } })

/-! ### The admin session (R77, R436) -/

/-- An administrator's descriptor is run on the session, or not acted on where 16 are in flight; a resend is judged afresh. -/
def adminDesc (w : Whole) : Whole :=
  match takeMsg 0x50 w.2 with
  | none => w
  | some (m, d) =>
    let release (d : Dev) : Dev := d.setFleet fun f => { f with taken := f.taken.filter fun x => x != (m.src, m.msgId) }
    match m.body with
    | .adminDesc b payload =>
      let x := parseDesc (padTo 64 b)
      if !d.mayFetch .net x.2 then (w.1, release d) else
      let r := d.chan .net
      let n := r.nextCount - BitVec.ofNat 32 r.base
      let d := d.setFleet fun f => { f with adminMsgs := f.adminMsgs ++ [(n, m.msgId)] }
      fetchDesc .net x.1 { x.2 with payload := payload } (w.1, d)
    | _ => (w.1, release d)

end Sys2Proof.Machine
end

