-- ==== Sys2Proof/Machine/Commands.lean ====
section
/-! DEFINITION. What every command shares: the clock moves to the command's instant, the command acts, and what follows of itself
follows (notes/assumptions/1.md); the states of the part in which a kind of command acts; the paths of a host's access. -/

namespace Sys2Proof.Machine

/-- A command at instant `t`: its effect on the host interface's locked registers and on the rest of the part. -/
def onWhole (t : Nat) (f : Whole → Whole) (s : State) : Host.Outcome State Fault Refusal :=
  let w := settled (f (s.iface, advance t s.dev))
  .next { s with iface := w.1, dev := w.2 }

/-- A command that leaves the locked registers to what follows of itself. -/
def onDev (t : Nat) (f : Dev → Dev) (s : State) : Host.Outcome State Fault Refusal := onWhole t (fun w => (w.1, f w.2)) s

/-- A command that acts only where a condition of the part holds; elsewhere only the clock moves. -/
def onIf (c : Dev → Bool) (t : Nat) (f : Dev → Dev) (s : State) : Host.Outcome State Fault Refusal :=
  onDev t (fun d => if c d then f d else d) s

/-- The safety island runs (R101). -/
def Dev.islandUp (d : Dev) : Bool := 5 ≤ d.start.rank

/-- The control complex runs (R101, R102). -/
def Dev.controlUp (d : Dev) : Bool := 6 ≤ d.start.rank

/-- The start-up sequence has ended (R101, R124). -/
def Dev.booted (d : Dev) : Bool := d.start == .done

/-- Lease and handover times run (R501). -/
def Dev.leasesRun (d : Dev) : Bool := d.part != .updatePause

/-- The host reaches the function's BARs: the link is up and configuration requests are answered (R102). -/
def Dev.hostReach (d : Dev) : Bool := d.hif.linkUp && 6 ≤ d.start.rank

/-- A register write of the PCIe host (1), or of the I3C controller (2), which is refused until the control complex runs (R79). -/
def regBy (m off width v : Nat) (w : Whole) : Whole :=
  if m = 1 then (if w.2.hostReach then regWrite 1 off width v w.1 w.2 else w)
  else if m = 2 then
    if w.2.start.rank = 0 then w
    else if 6 ≤ w.2.start.rank then regWrite 2 off width v w.1 w.2
    else (w.1, emit .i3cNack w.2)
  else w

/-- A value with one bit set, or cleared. -/
def withBit (b : Nat) (on : Bool) (v : Nat) : Nat := if v.testBit b == on then v else if on then v + 2 ^ b else v - 2 ^ b

/-- The SNAP registers of the blocks (R10). -/
def snapRegs : List Nat :=
  [0x1030, 0x20030, 0x30020, 0x40018, 0x60000, 0x70010, 0x80010, 0x180008, 0x190018, 0x1A0010, 0x1B0008, 0x1C0018, 0x1D0020, 0x1E0010]
    ++ (List.range 6).flatMap fun c => [0x100020 + 0x10000 * c, 0x100310 + 0x10000 * c]

/-- SNAP or RELEASE of a block's counters. -/
def snapBy (m off v : Nat) (w : Whole) : Whole := if snapRegs.contains off then regBy m off 4 v w else w

/-- A doorbell write of the host. -/
def doorbell (f : Dev → Dev) (d : Dev) : Dev := if d.hostReach then f d else d

/-- coal_time_us after the first entry of a batch, the CQ's message is sent (R75). -/
def coalesceTimeout (n : Nat) (d : Dev) : Dev :=
  let q := d.cq n
  if q.batch = 0 || q.coalTimeUs = 0 || d.now < q.batchAt + q.coalTimeUs * usNs then d
  else msixSend q.vector (d.setCq n fun q => { q with batch := 0 })

/-- The patrol scrub has corrected words of on-chip SRAM (R230). -/
def sramScrub (corrected : Nat) (d : Dev) : Dev := { d with flt := { d.flt with corrected := satAdd d.flt.corrected corrected } }

/-- A full reset takes the locked registers with it. -/
def withReset (hit : Dev → Bool) (f : Dev → Dev) (w : Whole) : Whole := (if hit w.2 then {} else w.1, f w.2)

/-- The conditions of the full resets of Startup.lean. -/
def resetLowHits (d : Dev) : Bool := !d.resetLow && d.vinUp
def tripHits (tj : Int) (d : Dev) : Bool := d.vinUp && !d.tripped && decide ((if d.grade = 0 then 115 else 125) ≤ tj)
def fatalHits (d : Dev) : Bool := match d.flt.fatal with
  | some x => decide (x.2 ≤ d.now)
  | none => false

end Sys2Proof.Machine
end

