-- ==== Sys2Proof/Machine/ArrayCmds.lean ====
section
/-! DEFINITION. The meanings of the commands of the vision pipes, the array, memory, models, fusion (spec/06 to spec/10). -/

namespace Sys2Proof.Machine

/-- PAIR_TIMEOUT: A frame with no partner within sync_us is recorded UNPAIRED. R170. -/
def execPairTimeout (t : Nat) (i : Nat) (s : State) : Host.Outcome State Fault Refusal :=
  onIf Dev.full t (pairTimeout i) s

/-- VP_BAND_READY: A pipe writes a band into its slot and sets the flag, or drops it if the slot is held. R184. -/
def execVpBandReady (t : Nat) (i : Nat) (s : State) : Host.Outcome State Fault Refusal :=
  onIf Dev.full t (bandReady i) s

/-- VP_ADMISSION_WINDOW: At the end of each 100 us window a hosting pipe admits or skips paired frames. R195. -/
def execVpAdmissionWindow (t : Nat) (p : Nat) (s : State) : Host.Outcome State Fault Refusal :=
  onIf Dev.full t (admissionWindow p) s

/-- VP_FAULT: A fault fences a vision pipe and its cameras move to the other pipe. R194. -/
def execVpFault (t : Nat) (p : Nat) (s : State) : Host.Outcome State Fault Refusal :=
  onIf Dev.islandUp t (pipeFault p) s

/-- TASK_DISPATCH: An engine that is free takes its next task from deque, ready queue or by stealing. R210. -/
def execTaskDispatch (t : Nat) (c e : Nat) (s : State) : Host.Outcome State Fault Refusal :=
  onIf Dev.full t (taskDispatch c e) s

/-- TASK_COMMIT: A task's program ends without fault and its commit queue issues in order. R208. -/
def execTaskCommit (t : Nat) (c e : Nat) (r : TaskResult) (s : State) : Host.Outcome State Fault Refusal :=
  onIf Dev.full t (taskCommit c e r) s

/-- TASK_OVERRUN: A task over its planned cycles by 25 % is stopped as an engine fault. R209. -/
def execTaskOverrun (t : Nat) (c e : Nat) (s : State) : Host.Outcome State Fault Refusal :=
  onIf Dev.full t (taskOverrun c e) s

/-- ENGINE_MESSAGE_RX: An engine receives a role message, acting on it, queueing it or bouncing it. R217. -/
def execEngineMessageRx (t : Nat) (c e : Nat) (s : State) : Host.Outcome State Fault Refusal :=
  onIf Dev.full t (engineMessage c e) s

/-- ROLE_REBUILD_DONE: The new role holder finishes rebuilding and accepts messages. R216. -/
def execRoleRebuildDone (t : Nat) (c e : Nat) (s : State) : Host.Outcome State Fault Refusal :=
  onIf Dev.full t (rebuildDone c e) s

/-- REDUCTION_ROUND_DONE: Every partition has been contributed and the round result is delivered. R220. -/
def execReductionRoundDone (t : Nat) (id : Nat) (s : State) : Host.Outcome State Fault Refusal :=
  onIf Dev.full t (roundDone id) s

/-- COPY_DONE: A copy engine finishes a copy and issues its completion notice or flag write. R256. -/
def execCopyDone (t : Nat) (ce src dst len : Nat) (cost : CopyCost) (srcHost dstHost : Bool) (flag : Option (Nat × Nat)) (ok : Bool) (issuer : Reader) (s : State) : Host.Outcome State Fault Refusal :=
  onIf Dev.controlUp t (copyDone ce src dst len cost.stall cost.corrected srcHost dstHost flag ok issuer) s

/-- UPC_UPDATE: Every 1 ms the part recomputes U_pc and sets HELD if above the ceiling. R222. -/
def execUpcUpdate (t : Nat) (s : State) : Host.Outcome State Fault Refusal :=
  onIf Dev.full t upcUpdate s

/-- CEILING_HOLD_CLEAR: U_pc within CEILING for 100 ms clears HELD. R224. -/
def execCeilingHoldClear (t : Nat) (c : Nat) (s : State) : Host.Outcome State Fault Refusal :=
  onIf Dev.full t (holdClear c) s

/-- SRAM_PATROL_SCRUB: The patrol scrub reads and corrects on-chip SRAM words. R230. -/
def execSramPatrolScrub (t : Nat) (corrected : Nat) (s : State) : Host.Outcome State Fault Refusal :=
  onIf Dev.islandUp t (sramScrub corrected) s

/-- SRAM_UNCORRECTABLE: An uncorrectable SRAM word fails or reruns its reader. R459. -/
def execSramUncorrectable (t : Nat) (addr : Nat) (reader : Reader) (s : State) : Host.Outcome State Fault Refusal :=
  onIf Dev.islandUp t (sramUncorr addr reader) s

/-- FLAG_UNCORR_EXPIRE: 100 ms after an uncorrectable flag word the part writes 0 to it. R460. -/
def execFlagUncorrExpire (t : Nat) (n : Nat) (s : State) : Host.Outcome State Fault Refusal :=
  onIf Dev.islandUp t (flagExpire n) s

/-- IPM_PATROL_SCRUB: The IPM patrol scrub reads and repairs stripes. R238. -/
def execIpmPatrolScrub (t : Nat) (l : List IpmRead) (last : Bool) (s : State) : Host.Outcome State Fault Refusal :=
  onIf Dev.full t (ipmScrub l last) s

/-- IPM_UNCORRECTABLE: An uncorrectable IPM read fails its issuer or triggers a rewrite from home. R237. -/
def execIpmUncorrectable (t : Nat) (x : IpmRead) (obj : Option Nat) (reader : Reader) (s : State) : Host.Outcome State Fault Refusal :=
  onIf Dev.full t (ipmRead x obj reader) s

/-- IPM_CHANNEL_FAULT: A faulty IPM channel goes FAILED, or a second fault in a group loses the group. R239. -/
def execIpmChannelFault (t : Nat) (n : Nat) (s : State) : Host.Outcome State Fault Refusal :=
  onIf Dev.controlUp t (channelFault n) s

/-- IPM_RESYNC_DONE: A resyncing channel has been rewritten and becomes ONLINE. R242. -/
def execIpmResyncDone (t : Nat) (n : Nat) (s : State) : Host.Outcome State Fault Refusal :=
  onIf Dev.full t (ipmResyncDone n) s

/-- NVME_DEVICE_DETECT: The root port finds an NVMe device and chooses its namespace. R244. -/
def execNvmeDeviceDetect (t : Nat) (gen width : Nat) (l : List Namespace) (s : State) : Host.Outcome State Fault Refusal :=
  onIf Dev.controlUp t (nvmeDetect gen width l) s

/-- NVME_CMD_TIMEOUT: A slow-tier read unanswered within TIMEOUT_MS counts as an unrecovered read error. R248. -/
def execNvmeCmdTimeout (t : Nat) (obj block : Nat) (s : State) : Host.Outcome State Fault Refusal :=
  onIf Dev.full t (nvmeTimeout obj block) s

/-- PROMOTION_DONE: A promoted object is whole and checked and becomes RESIDENT. R249. -/
def execPromotionDone (t : Nat) (obj : Nat) (s : State) : Host.Outcome State Fault Refusal :=
  onIf Dev.full t (promotionDone obj) s

/-- EVICTION_DONE: An eviction ends after any write-back and the object is HOME. R249. -/
def execEvictionDone (t : Nat) (obj : Nat) (s : State) : Host.Outcome State Fault Refusal :=
  onIf Dev.full t (evictionDone obj) s

/-- SLOW_READ_FAIL: A failed slow-tier read is retried, then read from the mirror, or the object becomes LOST. R252. -/
def execSlowReadFail (t : Nat) (obj : Nat) (r : BlockRead) (s : State) : Host.Outcome State Fault Refusal :=
  onIf Dev.full t (slowReadFail obj r.block r.got) s

/-- TIER_REPAIR_DONE: Failed blocks are rewritten from the good copy. R252. -/
def execTierRepairDone (t : Nat) (obj : Nat) (ok : Bool) (s : State) : Host.Outcome State Fault Refusal :=
  onIf Dev.full t (repairDone obj ok) s

/-- SLOW_TIER_FAILURE: The NVMe SSD fails or is lost, so NVME_STATE becomes FAILED or ABSENT and EV_SLOW_STATE is posted. R246. -/
def execSlowTierFailure (t : Nat) (absent : Bool) (s : State) : Host.Outcome State Fault Refusal :=
  onIf Dev.controlUp t (slowFailure absent) s

/-- SSD_HEALTH_WARNING: The SSD reports a SMART critical warning and the part posts EV_SLOW_HEALTH. R243. -/
def execSsdHealthWarning (t : Nat) (b : Nat) (s : State) : Host.Outcome State Fault Refusal :=
  onIf Dev.controlUp t (slowHealth b) s

/-- WAVE_START: A wave of ready inferences of one model starts in a cluster. R278. -/
def execWaveStart (t : Nat) (slot c : Nat) (plan : List PlanTask) (s : State) : Host.Outcome State Fault Refusal :=
  onIf Dev.full t (waveStart slot c plan) s

/-- BIND_BAND_READY: A flagged band of a bound ring becomes an inference or is skipped. R284. -/
def execBindBandReady (t : Nat) (b c : Nat) (plan : List PlanTask) (s : State) : Host.Outcome State Fault Refusal :=
  onIf Dev.full t (bandStart b c plan) s

/-- FUSION_TICK: At a tick instant the part snapshots slots, checks conflicts and queues the inference. R296. -/
def execFusionTick (t : Nat) (plan : List PlanTask) (s : State) : Host.Outcome State Fault Refusal :=
  onIf Dev.full t (fusionTick plan) s

/-- FUSION_TICK_COMMIT: A tick's inference commits and track and tick records are written. R312. -/
def execFusionTickCommit (t : Nat) (discarded : Bool) (s : State) : Host.Outcome State Fault Refusal :=
  onIf Dev.full t (fusionCommit discarded) s

end Sys2Proof.Machine
end

