-- ==== Sys2Proof/Machine/DescCmds.lean ====
section
/-! DEFINITION. The meanings of the commands of the opcode tables (spec/02 to spec/17). -/

namespace Sys2Proof.Machine

/-- IDENTIFY: a channel fetches its descriptor (R39). -/
def execIdentify (t : Nat) (ch : Chan) (d : Desc) (s : State) : Host.Outcome State Fault Refusal :=
  onWhole t (fetchRow ch .identify d) s

/-- CREATE_CQ: a channel fetches its descriptor (R41). -/
def execCreateCq (t : Nat) (ch : Chan) (d : Desc) (s : State) : Host.Outcome State Fault Refusal :=
  onWhole t (fetchRow ch .createCq d) s

/-- CREATE_SQ: a channel fetches its descriptor (R42). -/
def execCreateSq (t : Nat) (ch : Chan) (d : Desc) (s : State) : Host.Outcome State Fault Refusal :=
  onWhole t (fetchRow ch .createSq d) s

/-- DELETE_SQ: a channel fetches its descriptor (R43). -/
def execDeleteSq (t : Nat) (ch : Chan) (d : Desc) (s : State) : Host.Outcome State Fault Refusal :=
  onWhole t (fetchRow ch .deleteSq d) s

/-- DELETE_CQ: a channel fetches its descriptor (R42). -/
def execDeleteCq (t : Nat) (ch : Chan) (d : Desc) (s : State) : Host.Outcome State Fault Refusal :=
  onWhole t (fetchRow ch .deleteCq d) s

/-- ABORT_SQ: a channel fetches its descriptor (R43). -/
def execAbortSq (t : Nat) (ch : Chan) (d : Desc) (s : State) : Host.Outcome State Fault Refusal :=
  onWhole t (fetchRow ch .abortSq d) s

/-- NOP: a channel fetches its descriptor (R38). -/
def execNop (t : Nat) (ch : Chan) (d : Desc) (s : State) : Host.Outcome State Fault Refusal :=
  onWhole t (fetchRow ch .nop d) s

/-- OWN_CLAIM: a channel fetches its descriptor (R82). -/
def execOwnClaim (t : Nat) (ch : Chan) (d : Desc) (s : State) : Host.Outcome State Fault Refusal :=
  onWhole t (fetchRow ch .ownClaim d) s

/-- OWN_HEARTBEAT: a channel fetches its descriptor (R83). -/
def execOwnHeartbeat (t : Nat) (ch : Chan) (d : Desc) (s : State) : Host.Outcome State Fault Refusal :=
  onWhole t (fetchRow ch .ownHeartbeat d) s

/-- OWN_HANDOVER: a channel fetches its descriptor (R84). -/
def execOwnHandover (t : Nat) (ch : Chan) (d : Desc) (s : State) : Host.Outcome State Fault Refusal :=
  onWhole t (fetchRow ch .ownHandover d) s

/-- OWN_ACCEPT: a channel fetches its descriptor (R84). -/
def execOwnAccept (t : Nat) (ch : Chan) (d : Desc) (s : State) : Host.Outcome State Fault Refusal :=
  onWhole t (fetchRow ch .ownAccept d) s

/-- OWN_RELEASE: a channel fetches its descriptor (R81). -/
def execOwnRelease (t : Nat) (ch : Chan) (d : Desc) (s : State) : Host.Outcome State Fault Refusal :=
  onWhole t (fetchRow ch .ownRelease d) s

/-- PROFILE_SELECT: a channel fetches its descriptor (R93). -/
def execProfileSelect (t : Nat) (ch : Chan) (d : Desc) (s : State) : Host.Outcome State Fault Refusal :=
  onWhole t (fetchRow ch .profileSelect d) s

/-- PROFILE_READ: a channel fetches its descriptor (R97). -/
def execProfileRead (t : Nat) (ch : Chan) (d : Desc) (s : State) : Host.Outcome State Fault Refusal :=
  onWhole t (fetchRow ch .profileRead d) s

/-- PROFILE_WRITE: a channel fetches its descriptor (R96). -/
def execProfileWrite (t : Nat) (ch : Chan) (d : Desc) (s : State) : Host.Outcome State Fault Refusal :=
  onWhole t (fetchRow ch .profileWrite d) s

/-- PROFILE_RESTORE: a channel fetches its descriptor (R96). -/
def execProfileRestore (t : Nat) (ch : Chan) (d : Desc) (s : State) : Host.Outcome State Fault Refusal :=
  onWhole t (fetchRow ch .profileRestore d) s

/-- REG_READ: a channel fetches its descriptor (R100). -/
def execRegRead (t : Nat) (ch : Chan) (d : Desc) (s : State) : Host.Outcome State Fault Refusal :=
  onWhole t (fetchRow ch .regRead d) s

/-- REG_WRITE: a channel fetches its descriptor (R100). -/
def execRegWrite (t : Nat) (ch : Chan) (d : Desc) (s : State) : Host.Outcome State Fault Refusal :=
  onWhole t (fetchRow ch .regWrite d) s

/-- TIME_SELECT: a channel fetches its descriptor (R113). -/
def execTimeSelect (t : Nat) (ch : Chan) (d : Desc) (s : State) : Host.Outcome State Fault Refusal :=
  onWhole t (fetchRow ch .timeSelect d) s

/-- TIME_SET: a channel fetches its descriptor (R107). -/
def execTimeSet (t : Nat) (ch : Chan) (d : Desc) (s : State) : Host.Outcome State Fault Refusal :=
  onWhole t (fetchRow ch .timeSet d) s

/-- SET_LAUNCH_PERIOD: a channel fetches its descriptor (R135). -/
def execSetLaunchPeriod (t : Nat) (ch : Chan) (d : Desc) (s : State) : Host.Outcome State Fault Refusal :=
  onWhole t (fetchRow ch .setLaunchPeriod d) s

/-- TIME_STATUS: a channel fetches its descriptor (R137). -/
def execTimeStatus (t : Nat) (ch : Chan) (d : Desc) (s : State) : Host.Outcome State Fault Refusal :=
  onWhole t (fetchRow ch .timeStatus d) s

/-- SENSOR_INJECT: a channel fetches its descriptor (R155). -/
def execSensorInject (t : Nat) (ch : Chan) (d : Desc) (s : State) : Host.Outcome State Fault Refusal :=
  onWhole t (fetchRow ch .sensorInject d) s

/-- SENSOR_ENABLE: a channel fetches its descriptor (R159). -/
def execSensorEnable (t : Nat) (ch : Chan) (d : Desc) (s : State) : Host.Outcome State Fault Refusal :=
  onWhole t (fetchRow ch .sensorEnable d) s

/-- SLOT_READ: a channel fetches its descriptor (R162). -/
def execSlotRead (t : Nat) (ch : Chan) (d : Desc) (s : State) : Host.Outcome State Fault Refusal :=
  onWhole t (fetchRow ch .slotRead d) s

/-- FRAME_GRAB: a channel fetches its descriptor (R163). -/
def execFrameGrab (t : Nat) (ch : Chan) (d : Desc) (s : State) : Host.Outcome State Fault Refusal :=
  onWhole t (fetchRow ch .frameGrab d) s

/-- GNSS_SEND: a channel fetches its descriptor (R152). -/
def execGnssSend (t : Nat) (ch : Chan) (d : Desc) (s : State) : Host.Outcome State Fault Refusal :=
  onWhole t (fetchRow ch .gnssSend d) s

/-- RECT_LOAD: a channel fetches its descriptor (R168). -/
def execRectLoad (t : Nat) (ch : Chan) (d : Desc) (s : State) : Host.Outcome State Fault Refusal :=
  onWhole t (fetchRow ch .rectLoad d) s

/-- STEREO_STORED: a channel fetches its descriptor (R191). -/
def execStereoStored (t : Nat) (ch : Chan) (d : Desc) (s : State) : Host.Outcome State Fault Refusal :=
  onWhole t (fetchRow ch .stereoStored d) s

/-- VP_PARAMS: a channel fetches its descriptor (R197). -/
def execVpParams (t : Nat) (ch : Chan) (d : Desc) (s : State) : Host.Outcome State Fault Refusal :=
  onWhole t (fetchRow ch .vpParams d) s

/-- VP_MOVE: a channel fetches its descriptor (R193). -/
def execVpMove (t : Nat) (ch : Chan) (d : Desc) (s : State) : Host.Outcome State Fault Refusal :=
  onWhole t (fetchRow ch .vpMove d) s

/-- STEREO_GRAB: a channel fetches its descriptor (R198). -/
def execStereoGrab (t : Nat) (ch : Chan) (d : Desc) (s : State) : Host.Outcome State Fault Refusal :=
  onWhole t (fetchRow ch .stereoGrab d) s

/-- MODEL_INSTALL: a channel fetches its descriptor (R265). -/
def execModelInstall (t : Nat) (ch : Chan) (d : Desc) (s : State) : Host.Outcome State Fault Refusal :=
  onWhole t (fetchRow ch .modelInstall d) s

/-- MODEL_REMOVE: a channel fetches its descriptor (R264). -/
def execModelRemove (t : Nat) (ch : Chan) (d : Desc) (s : State) : Host.Outcome State Fault Refusal :=
  onWhole t (fetchRow ch .modelRemove d) s

/-- MODEL_LOAD: a channel fetches its descriptor (R272). -/
def execModelLoad (t : Nat) (ch : Chan) (d : Desc) (s : State) : Host.Outcome State Fault Refusal :=
  onWhole t (fetchRow ch .modelLoad d) s

/-- MODEL_UNLOAD: a channel fetches its descriptor (R280). -/
def execModelUnload (t : Nat) (ch : Chan) (d : Desc) (s : State) : Host.Outcome State Fault Refusal :=
  onWhole t (fetchRow ch .modelUnload d) s

/-- INFER: a channel fetches its descriptor (R277). -/
def execInfer (t : Nat) (ch : Chan) (d : Desc) (s : State) : Host.Outcome State Fault Refusal :=
  onWhole t (fetchRow ch .infer d) s

/-- MODEL_QUERY: a channel fetches its descriptor (R274). -/
def execModelQuery (t : Nat) (ch : Chan) (d : Desc) (s : State) : Host.Outcome State Fault Refusal :=
  onWhole t (fetchRow ch .modelQuery d) s

/-- STATE_RESET: a channel fetches its descriptor (R290). -/
def execStateReset (t : Nat) (ch : Chan) (d : Desc) (s : State) : Host.Outcome State Fault Refusal :=
  onWhole t (fetchRow ch .stateReset d) s

/-- MODEL_BIND: a channel fetches its descriptor (R282). -/
def execModelBind (t : Nat) (ch : Chan) (d : Desc) (s : State) : Host.Outcome State Fault Refusal :=
  onWhole t (fetchRow ch .modelBind d) s

/-- MODEL_UNBIND: a channel fetches its descriptor (R285). -/
def execModelUnbind (t : Nat) (ch : Chan) (d : Desc) (s : State) : Host.Outcome State Fault Refusal :=
  onWhole t (fetchRow ch .modelUnbind d) s

/-- SOLVER_LOAD: a channel fetches its descriptor (R325). -/
def execSolverLoad (t : Nat) (ch : Chan) (d : Desc) (s : State) : Host.Outcome State Fault Refusal :=
  onWhole t (fetchRow ch .solverLoad d) s

/-- SOLVE: a channel fetches its descriptor (R342). -/
def execSolve (t : Nat) (ch : Chan) (d : Desc) (s : State) : Host.Outcome State Fault Refusal :=
  onWhole t (fetchRow ch .solve d) s

/-- SOLVER_FREE: a channel fetches its descriptor (R327). -/
def execSolverFree (t : Nat) (ch : Chan) (d : Desc) (s : State) : Host.Outcome State Fault Refusal :=
  onWhole t (fetchRow ch .solverFree d) s

/-- SOLVER_QUERY: a channel fetches its descriptor (R359). -/
def execSolverQuery (t : Nat) (ch : Chan) (d : Desc) (s : State) : Host.Outcome State Fault Refusal :=
  onWhole t (fetchRow ch .solverQuery d) s

/-- EST_CONFIG: a channel fetches its descriptor (R362). -/
def execEstConfig (t : Nat) (ch : Chan) (d : Desc) (s : State) : Host.Outcome State Fault Refusal :=
  onWhole t (fetchRow ch .estConfig d) s

/-- EST_START: a channel fetches its descriptor (R365). -/
def execEstStart (t : Nat) (ch : Chan) (d : Desc) (s : State) : Host.Outcome State Fault Refusal :=
  onWhole t (fetchRow ch .estStart d) s

/-- EST_STOP: a channel fetches its descriptor (R364). -/
def execEstStop (t : Nat) (ch : Chan) (d : Desc) (s : State) : Host.Outcome State Fault Refusal :=
  onWhole t (fetchRow ch .estStop d) s

/-- EST_STATUS: a channel fetches its descriptor (R392). -/
def execEstStatus (t : Nat) (ch : Chan) (d : Desc) (s : State) : Host.Outcome State Fault Refusal :=
  onWhole t (fetchRow ch .estStatus d) s

/-- KEYFRAME_READ: a channel fetches its descriptor (R392). -/
def execKeyframeRead (t : Nat) (ch : Chan) (d : Desc) (s : State) : Host.Outcome State Fault Refusal :=
  onWhole t (fetchRow ch .keyframeRead d) s

/-- FUSION_START: a channel fetches its descriptor (R321). -/
def execFusionStart (t : Nat) (ch : Chan) (d : Desc) (s : State) : Host.Outcome State Fault Refusal :=
  onWhole t (fetchRow ch .fusionStart d) s

/-- FUSION_STOP: a channel fetches its descriptor (R317). -/
def execFusionStop (t : Nat) (ch : Chan) (d : Desc) (s : State) : Host.Outcome State Fault Refusal :=
  onWhole t (fetchRow ch .fusionStop d) s

/-- FUSION_BOUNDS: a channel fetches its descriptor (R303). -/
def execFusionBounds (t : Nat) (ch : Chan) (d : Desc) (s : State) : Host.Outcome State Fault Refusal :=
  onWhole t (fetchRow ch .fusionBounds d) s

/-- FUSION_RESET: a channel fetches its descriptor (R317). -/
def execFusionReset (t : Nat) (ch : Chan) (d : Desc) (s : State) : Host.Outcome State Fault Refusal :=
  onWhole t (fetchRow ch .fusionReset d) s

/-- FUSION_STATUS: a channel fetches its descriptor (R320). -/
def execFusionStatus (t : Nat) (ch : Chan) (d : Desc) (s : State) : Host.Outcome State Fault Refusal :=
  onWhole t (fetchRow ch .fusionStatus d) s

/-- INDEX_CREATE: a channel fetches its descriptor (R399). -/
def execIndexCreate (t : Nat) (ch : Chan) (d : Desc) (s : State) : Host.Outcome State Fault Refusal :=
  onWhole t (fetchRow ch .indexCreate d) s

/-- INDEX_LOAD: a channel fetches its descriptor (R423). -/
def execIndexLoad (t : Nat) (ch : Chan) (d : Desc) (s : State) : Host.Outcome State Fault Refusal :=
  onWhole t (fetchRow ch .indexLoad d) s

/-- INDEX_DROP: a channel fetches its descriptor (R416). -/
def execIndexDrop (t : Nat) (ch : Chan) (d : Desc) (s : State) : Host.Outcome State Fault Refusal :=
  onWhole t (fetchRow ch .indexDrop d) s

/-- PLACE_INSERT: a channel fetches its descriptor (R407). -/
def execPlaceInsert (t : Nat) (ch : Chan) (d : Desc) (s : State) : Host.Outcome State Fault Refusal :=
  onWhole t (fetchRow ch .placeInsert d) s

/-- PLACE_DELETE: a channel fetches its descriptor (R408). -/
def execPlaceDelete (t : Nat) (ch : Chan) (d : Desc) (s : State) : Host.Outcome State Fault Refusal :=
  onWhole t (fetchRow ch .placeDelete d) s

/-- PLACE_QUERY: a channel fetches its descriptor (R403). -/
def execPlaceQuery (t : Nat) (ch : Chan) (d : Desc) (s : State) : Host.Outcome State Fault Refusal :=
  onWhole t (fetchRow ch .placeQuery d) s

/-- INDEX_MERGE: a channel fetches its descriptor (R409). -/
def execIndexMerge (t : Nat) (ch : Chan) (d : Desc) (s : State) : Host.Outcome State Fault Refusal :=
  onWhole t (fetchRow ch .indexMerge d) s

/-- INDEX_QUERY: a channel fetches its descriptor (R420). -/
def execIndexQuery (t : Nat) (ch : Chan) (d : Desc) (s : State) : Host.Outcome State Fault Refusal :=
  onWhole t (fetchRow ch .indexQuery d) s

/-- WALKER_SET: a channel fetches its descriptor (R419). -/
def execWalkerSet (t : Nat) (ch : Chan) (d : Desc) (s : State) : Host.Outcome State Fault Refusal :=
  onWhole t (fetchRow ch .walkerSet d) s

/-- TIER_QUERY: a channel fetches its descriptor (R258). -/
def execTierQuery (t : Nat) (ch : Chan) (d : Desc) (s : State) : Host.Outcome State Fault Refusal :=
  onWhole t (fetchRow ch .tierQuery d) s

/-- TIER_PROMOTE: a channel fetches its descriptor (R249). -/
def execTierPromote (t : Nat) (ch : Chan) (d : Desc) (s : State) : Host.Outcome State Fault Refusal :=
  onWhole t (fetchRow ch .tierPromote d) s

/-- TIER_EVICT: a channel fetches its descriptor (R250). -/
def execTierEvict (t : Nat) (ch : Chan) (d : Desc) (s : State) : Host.Outcome State Fault Refusal :=
  onWhole t (fetchRow ch .tierEvict d) s

/-- TIER_UNPIN: a channel fetches its descriptor (R259). -/
def execTierUnpin (t : Nat) (ch : Chan) (d : Desc) (s : State) : Host.Outcome State Fault Refusal :=
  onWhole t (fetchRow ch .tierUnpin d) s

/-- TIER_USAGE: a channel fetches its descriptor (R258). -/
def execTierUsage (t : Nat) (ch : Chan) (d : Desc) (s : State) : Host.Outcome State Fault Refusal :=
  onWhole t (fetchRow ch .tierUsage d) s

/-- SLOW_ATTACH: a channel fetches its descriptor (R246). -/
def execSlowAttach (t : Nat) (ch : Chan) (d : Desc) (s : State) : Host.Outcome State Fault Refusal :=
  onWhole t (fetchRow ch .slowAttach d) s

/-- IPM_CHANNEL: a channel fetches its descriptor (R240). -/
def execIpmChannel (t : Nat) (ch : Chan) (d : Desc) (s : State) : Host.Outcome State Fault Refusal :=
  onWhole t (fetchRow ch .ipmChannel d) s

/-- FLEET_CONFIG: a channel fetches its descriptor (R426). -/
def execFleetConfig (t : Nat) (ch : Chan) (d : Desc) (s : State) : Host.Outcome State Fault Refusal :=
  onWhole t (fetchRow ch .fleetConfig d) s

/-- FLEET_ENROL: a channel fetches its descriptor (R430). -/
def execFleetEnrol (t : Nat) (ch : Chan) (d : Desc) (s : State) : Host.Outcome State Fault Refusal :=
  onWhole t (fetchRow ch .fleetEnrol d) s

/-- FLEET_JOIN: a channel fetches its descriptor (R424). -/
def execFleetJoin (t : Nat) (ch : Chan) (d : Desc) (s : State) : Host.Outcome State Fault Refusal :=
  onWhole t (fetchRow ch .fleetJoin d) s

/-- FLEET_FRAME: a channel fetches its descriptor (R438). -/
def execFleetFrame (t : Nat) (ch : Chan) (d : Desc) (s : State) : Host.Outcome State Fault Refusal :=
  onWhole t (fetchRow ch .fleetFrame d) s

/-- SHARD_TABLE: a channel fetches its descriptor (R438). -/
def execShardTable (t : Nat) (ch : Chan) (d : Desc) (s : State) : Host.Outcome State Fault Refusal :=
  onWhole t (fetchRow ch .shardTable d) s

/-- SHARD_HOST: a channel fetches its descriptor (R439). -/
def execShardHost (t : Nat) (ch : Chan) (d : Desc) (s : State) : Host.Outcome State Fault Refusal :=
  onWhole t (fetchRow ch .shardHost d) s

/-- SHARD_DROP: a channel fetches its descriptor (R439). -/
def execShardDrop (t : Nat) (ch : Chan) (d : Desc) (s : State) : Host.Outcome State Fault Refusal :=
  onWhole t (fetchRow ch .shardDrop d) s

/-- SHARD_HANDOVER: a channel fetches its descriptor (R452). -/
def execShardHandover (t : Nat) (ch : Chan) (d : Desc) (s : State) : Host.Outcome State Fault Refusal :=
  onWhole t (fetchRow ch .shardHandover d) s

/-- SHARD_PROMOTE: a channel fetches its descriptor (R453). -/
def execShardPromote (t : Nat) (ch : Chan) (d : Desc) (s : State) : Host.Outcome State Fault Refusal :=
  onWhole t (fetchRow ch .shardPromote d) s

/-- FLEET_QUERY: a channel fetches its descriptor (R447). -/
def execFleetQuery (t : Nat) (ch : Chan) (d : Desc) (s : State) : Host.Outcome State Fault Refusal :=
  onWhole t (fetchRow ch .fleetQuery d) s

/-- SHARD_STATUS: a channel fetches its descriptor (R456). -/
def execShardStatus (t : Nat) (ch : Chan) (d : Desc) (s : State) : Host.Outcome State Fault Refusal :=
  onWhole t (fetchRow ch .shardStatus d) s

/-- FLT_STATUS: a channel fetches its descriptor (R485). -/
def execFltStatus (t : Nat) (ch : Chan) (d : Desc) (s : State) : Host.Outcome State Fault Refusal :=
  onWhole t (fetchRow ch .fltStatus d) s

/-- UNIT_FENCE: a channel fetches its descriptor (R463). -/
def execUnitFence (t : Nat) (ch : Chan) (d : Desc) (s : State) : Host.Outcome State Fault Refusal :=
  onWhole t (fetchRow ch .unitFence d) s

/-- UNIT_RETURN: a channel fetches its descriptor (R486). -/
def execUnitReturn (t : Nat) (ch : Chan) (d : Desc) (s : State) : Host.Outcome State Fault Refusal :=
  onWhole t (fetchRow ch .unitReturn d) s

/-- ASSAY_RUN: a channel fetches its descriptor (R486). -/
def execAssayRun (t : Nat) (ch : Chan) (d : Desc) (s : State) : Host.Outcome State Fault Refusal :=
  onWhole t (fetchRow ch .assayRun d) s

/-- BASE_ENTER: a channel fetches its descriptor (R476). -/
def execBaseEnter (t : Nat) (ch : Chan) (d : Desc) (s : State) : Host.Outcome State Fault Refusal :=
  onWhole t (fetchRow ch .baseEnter d) s

/-- BASE_EXIT: a channel fetches its descriptor (R481). -/
def execBaseExit (t : Nat) (ch : Chan) (d : Desc) (s : State) : Host.Outcome State Fault Refusal :=
  onWhole t (fetchRow ch .baseExit d) s

/-- FLT_LOG: a channel fetches its descriptor (R485). -/
def execFltLog (t : Nat) (ch : Chan) (d : Desc) (s : State) : Host.Outcome State Fault Refusal :=
  onWhole t (fetchRow ch .fltLog d) s

/-- HM_IDENTITY: a channel fetches its descriptor (R489). -/
def execHmIdentity (t : Nat) (ch : Chan) (d : Desc) (s : State) : Host.Outcome State Fault Refusal :=
  onWhole t (fetchRow ch .hmIdentity d) s

/-- HM_ATTEST: a channel fetches its descriptor (R493). -/
def execHmAttest (t : Nat) (ch : Chan) (d : Desc) (s : State) : Host.Outcome State Fault Refusal :=
  onWhole t (fetchRow ch .hmAttest d) s

/-- UPDATE_KEY_INSTALL: a channel fetches its descriptor (R488). -/
def execUpdateKeyInstall (t : Nat) (ch : Chan) (d : Desc) (s : State) : Host.Outcome State Fault Refusal :=
  onWhole t (fetchRow ch .updateKeyInstall d) s

/-- UPDATE_STAGE: a channel fetches its descriptor (R498). -/
def execUpdateStage (t : Nat) (ch : Chan) (d : Desc) (s : State) : Host.Outcome State Fault Refusal :=
  onWhole t (fetchRow ch .updateStage d) s

/-- UPDATE_ACTIVATE: a channel fetches its descriptor (R501). -/
def execUpdateActivate (t : Nat) (ch : Chan) (d : Desc) (s : State) : Host.Outcome State Fault Refusal :=
  onWhole t (fetchRow ch .updateActivate d) s

/-- UPDATE_CANCEL: a channel fetches its descriptor (R497). -/
def execUpdateCancel (t : Nat) (ch : Chan) (d : Desc) (s : State) : Host.Outcome State Fault Refusal :=
  onWhole t (fetchRow ch .updateCancel d) s

/-- UPDATE_CONFIRM: a channel fetches its descriptor (R506). -/
def execUpdateConfirm (t : Nat) (ch : Chan) (d : Desc) (s : State) : Host.Outcome State Fault Refusal :=
  onWhole t (fetchRow ch .updateConfirm d) s

/-- ACCEPT_DEFAULTS: a channel fetches its descriptor (R504). -/
def execAcceptDefaults (t : Nat) (ch : Chan) (d : Desc) (s : State) : Host.Outcome State Fault Refusal :=
  onWhole t (fetchRow ch .acceptDefaults d) s

/-- UPDATE_REVERT: a channel fetches its descriptor (R507). -/
def execUpdateRevert (t : Nat) (ch : Chan) (d : Desc) (s : State) : Host.Outcome State Fault Refusal :=
  onWhole t (fetchRow ch .updateRevert d) s

/-- UPDATE_STATUS: a channel fetches its descriptor (R512). -/
def execUpdateStatus (t : Nat) (ch : Chan) (d : Desc) (s : State) : Host.Outcome State Fault Refusal :=
  onWhole t (fetchRow ch .updateStatus d) s

/-- SETTINGS_EXPORT: a channel fetches its descriptor (R514). -/
def execSettingsExport (t : Nat) (ch : Chan) (d : Desc) (s : State) : Host.Outcome State Fault Refusal :=
  onWhole t (fetchRow ch .settingsExport d) s

end Sys2Proof.Machine
end

