-- ==== Sys2Proof/Machine/HealthCmds.lean ====
section
/-! DEFINITION. The meanings of the commands of faults, trust and update, power (spec/15 to spec/17). -/

namespace Sys2Proof.Machine

/-- ENGINE_FAULT: A class 3 or 4 engine fault fences the engine and re-queues its work. R461. -/
def execEngineFault (t : Nat) (c e cls cause detail : Nat) (s : State) : Host.Outcome State Fault Refusal :=
  onIf Dev.islandUp t (engineFault c e cls cause detail) s

/-- CONTROL_CORE_FAULT: A control core fault fences it and moves its firmware work. R465. -/
def execControlCoreFault (t : Nat) (k cause : Nat) (s : State) : Host.Outcome State Fault Refusal :=
  onIf Dev.islandUp t (coreFault k cause) s

/-- FABRIC_FAULT: A class 5 fabric fault puts the part in base-metal mode. R458. -/
def execFabricFault (t : Nat) (detail : Nat) (s : State) : Host.Outcome State Fault Refusal :=
  onIf Dev.islandUp t (fabricFault detail) s

/-- FATAL_FAULT: A class 6 fault stops HEARTBEAT, raises SAFE_STOP and logs the fault. R468. -/
def execFatalFault (t : Nat) (code : Nat) (s : State) : Host.Outcome State Fault Refusal :=
  onIf Dev.islandUp t (fatalFault code) s

/-- FATAL_RESET_TIMEOUT: 100 ms after a class 6 fault the full reset starts. R468. -/
def execFatalResetTimeout (t : Nat) (s : State) : Host.Outcome State Fault Refusal :=
  onWhole t (withReset fatalHits fatalReset) s

/-- ASSAY_DONE: An Assay test ends with a result code and the unit returns or stays fenced. R470. -/
def execAssayDone (t : Nat) (kind unit code : Nat) (s : State) : Host.Outcome State Fault Refusal :=
  onIf Dev.islandUp t (assayEnd kind unit code) s

/-- ASSAY_ROTATION: Every ROTATE_S seconds one live engine is taken for Assay. R471. -/
def execAssayRotation (t : Nat) (s : State) : Host.Outcome State Fault Refusal :=
  onIf Dev.full t assayRotation s

/-- TS_STREAM_END: A Touchstone stream ends and its value is compared with EXP. R475. -/
def execTsStreamEnd (t : Nat) (n : Nat) (s : State) : Host.Outcome State Fault Refusal :=
  onIf Dev.islandUp t (tsEndUnit n) s

/-- SAFE_STOP_CHECK: Every 100 us the part re-evaluates the SAFE_STOP level. R483. -/
def execSafeStopCheck (t : Nat) (s : State) : Host.Outcome State Fault Refusal :=
  onIf Dev.islandUp t safeStopCheck s

/-- HEARTBEAT_TOGGLE: HEARTBEAT toggles each interval if the safety island self-check passes. R484. -/
def execHeartbeatToggle (t : Nat) (selfOk : Bool) (s : State) : Host.Outcome State Fault Refusal :=
  onIf Dev.islandUp t (heartbeatToggle selfOk) s

/-- HM_VIOLATION: A measurement mismatch or forbidden access enters base-metal mode with SECURITY. R492. -/
def execHmViolation (t : Nat) (what kind addr : Nat) (s : State) : Host.Outcome State Fault Refusal :=
  onIf Dev.islandUp t (hmViolation what kind addr) s

/-- CARD_INSERT_REMOVE: A microSD card is inserted or removed and EV_CARD is posted. R496. -/
def execCardInsertRemove (t : Nat) (present usable : Bool) (files : List (Bytes × Bytes)) (s : State) : Host.Outcome State Fault Refusal :=
  onDev t (cardChange present usable files) s

/-- STAGING_DONE: The flash copies of a staging end and the state becomes STAGED, or staging fails. R499. -/
def execStagingDone (t : Nat) (ok : Bool) (s : State) : Host.Outcome State Fault Refusal :=
  onIf Dev.controlUp t (stagingDone ok) s

/-- UNSTAGING_DONE: The retained package has been copied back and the state becomes IDLE. R497. -/
def execUnstagingDone (t : Nat) (s : State) : Host.Outcome State Fault Refusal :=
  onIf Dev.controlUp t unstagingDone s

/-- ACTIVATION_DONE: The new image has started and the update enters TRIAL. R501. -/
def execActivationDone (t : Nat) (ok : Bool) (s : State) : Host.Outcome State Fault Refusal :=
  onDev t (activationEnds ok) s

/-- HEALTH_CONFIRM: The trial image confirms its health once every condition holds. R506. -/
def execHealthConfirm (t : Nat) (healthy : Bool) (s : State) : Host.Outcome State Fault Refusal :=
  onIf Dev.full t (healthConfirm healthy) s

/-- CONFIRMATION_TIMER_EXPIRE: The confirmation timer expires and the update falls back. R507. -/
def execConfirmationTimerExpire (t : Nat) (s : State) : Host.Outcome State Fault Refusal :=
  onIf Dev.controlUp t confirmExpire s

/-- FALLBACK_DONE: The retained image runs, the part is READY and the update state is IDLE. R508. -/
def execFallbackDone (t : Nat) (ok : Bool) (s : State) : Host.Outcome State Fault Refusal :=
  onDev t (fallbackDone ok) s

/-- POWER_LOOP_TICK: Every 1 ms the power loop lowers or raises one cluster clock by one step. R523. -/
def execPowerLoopTick (t : Nat) (mean1 mean100 vinMv iinMa : Nat) (s : State) : Host.Outcome State Fault Refusal :=
  onIf Dev.booted t (powerTick mean1 mean100 vinMv iinMa) s

/-- THERMAL_LOOP_TICK: Every 10 ms the thermal loop lowers a cluster when at the throttle threshold. R524. -/
def execThermalLoopTick (t : Nat) (tj : Int) (sensor : Nat) (s : State) : Host.Outcome State Fault Refusal :=
  onIf Dev.islandUp t (thermalTick tj sensor) s

/-- ENVIRONMENT_FAULT: A supply, temperature or power condition lasting its time enters base-metal mode. R526. -/
def execEnvironmentFault (t : Nat) (cond : Nat) (s : State) : Host.Outcome State Fault Refusal :=
  onIf Dev.islandUp t (environmentFault cond) s

/-- ENVIRONMENT_CLEAR: VIN and temperature back within limits long enough clear the ENVIRONMENT cause. R527. -/
def execEnvironmentClear (t : Nat) (s : State) : Host.Outcome State Fault Refusal :=
  onIf Dev.islandUp t environmentClear s

end Sys2Proof.Machine
end

