-- ==== Sys2Proof/Machine/HostCmds.lean ====
section
/-! DEFINITION. The meanings of the commands of rings, registers, doorbells, resets, start-up (spec/02, spec/03; spec/17 R517-R519, R528). -/

namespace Sys2Proof.Machine

/-- SQ_TAIL_DOORBELL: Host writes a new SQ tail, which the part accepts or ignores and then fetches from. R55. -/
def execSqTailDoorbell (t : Nat) (n : Nat) (v : W32) (s : State) : Host.Outcome State Fault Refusal :=
  onDev t (doorbell (sqDoorbell n v.toNat)) s

/-- CQ_HEAD_DOORBELL: Host writes a new CQ head, freeing slots for held completions. R55. -/
def execCqHeadDoorbell (t : Nat) (n : Nat) (v : W32) (s : State) : Host.Outcome State Fault Refusal :=
  onDev t (doorbell (cqDoorbell n v.toNat)) s

/-- EVENT_RING_HEAD_DOORBELL: Host writes a new event ring head, freeing slots and posting EV_EVENTS_LOST if events were lost. R59. -/
def execEventRingHeadDoorbell (t : Nat) (v : W32) (s : State) : Host.Outcome State Fault Refusal :=
  onDev t (doorbell (evrDoorbell v.toNat)) s

/-- BAR2_INVALID_WRITE: A BAR2 write that is not a naturally aligned doorbell write is ignored and counted. R27. -/
def execBar2InvalidWrite (t : Nat) (off width : Nat) (v : W64) (s : State) : Host.Outcome State Fault Refusal :=
  onDev t (doorbell (bar2Write off width v.toNat)) s

/-- REGISTER_WRITE: A write to a register field without behaviour of its own, applied per its access code. R9. -/
def execRegisterWrite (t : Nat) (m off width : Nat) (v : W64) (s : State) : Host.Outcome State Fault Refusal :=
  onWhole t (regBy m off width v.toNat) s

/-- ABI_REQUEST: A write of HIF_ABI_REQ starts an ABI negotiation. R29. -/
def execAbiRequest (t : Nat) (v : W32) (s : State) : Host.Outcome State Fault Refusal :=
  onWhole t (regBy 1 0x0008 4 v.toNat) s

/-- ABI_NEGOTIATION_DONE: Within 10 us the part sets HIF_ABI_ACT to accepted or not supported. R29. -/
def execAbiNegotiationDone (t : Nat) (s : State) : Host.Outcome State Fault Refusal :=
  onWhole t (fun w => (abiDone w.1, w.2)) s

/-- ADMIN_RING_ENABLE: Setting HIF_ADM_CTRL.ENABLE activates SQ00 and CQ00. R31. -/
def execAdminRingEnable (t : Nat) (v : W32) (s : State) : Host.Outcome State Fault Refusal :=
  onWhole t (regBy 1 0x1010 4 (withBit 16 true v.toNat)) s

/-- ADMIN_RING_DISABLE: Clearing HIF_ADM_CTRL.ENABLE returns every ring to ABSENT and discards fetched descriptors. R33. -/
def execAdminRingDisable (t : Nat) (v : W32) (s : State) : Host.Outcome State Fault Refusal :=
  onWhole t (regBy 1 0x1010 4 (withBit 16 false v.toNat)) s

/-- EVENT_RING_ENABLE: Setting HIF_EVR_CTRL.ENABLE activates the event ring and posts the held events. R103. -/
def execEventRingEnable (t : Nat) (v : W32) (s : State) : Host.Outcome State Fault Refusal :=
  onWhole t (regBy 1 0x1020 4 (withBit 16 true v.toNat)) s

/-- EVENT_RING_DISABLE: Clearing HIF_EVR_CTRL.ENABLE makes later events be held. R103. -/
def execEventRingDisable (t : Nat) (v : W32) (s : State) : Host.Outcome State Fault Refusal :=
  onWhole t (regBy 1 0x1020 4 (withBit 16 false v.toNat)) s

/-- COUNTER_SNAP: Writing SNAP of a block freezes its counter registers. R10. -/
def execCounterSnap (t : Nat) (m off : Nat) (s : State) : Host.Outcome State Fault Refusal :=
  onWhole t (snapBy m off 1) s

/-- COUNTER_RELEASE: Writing RELEASE makes the counter registers show running values again. R10. -/
def execCounterRelease (t : Nat) (m off : Nat) (s : State) : Host.Outcome State Fault Refusal :=
  onWhole t (snapBy m off 2) s

/-- TIME_SNAP_LATCH: Writing TIME_SNAP.SNAP latches the time base and freezes the timer pin counters. R109. -/
def execTimeSnapLatch (t : Nat) (m : Nat) (s : State) : Host.Outcome State Fault Refusal :=
  onWhole t (snapBy m 0x40018 1) s

/-- MSIX_UNMASK: Unmasking an MSI-X vector sends its message if its pending bit is still set. R76. -/
def execMsixUnmask (t : Nat) (v : Nat) (s : State) : Host.Outcome State Fault Refusal :=
  onWhole t (fun w => if v < 128 then regBy 1 (0x1000C + 16 * v) 4 0 w else w) s

/-- TMR_ARM: Setting ARM starts a pulse-mode timer pin or refuses it with BADCFG or LATE. R127. -/
def execTmrArm (t : Nat) (m n : Nat) (v : W32) (s : State) : Host.Outcome State Fault Refusal :=
  onWhole t (fun w => if n < 16 then regBy m (0x40100 + 0x40 * n) 4 (withBit 4 true v.toNat) w else w) s

/-- TMR_DISARM: Clearing ARM stops a pulse pin after its pulse in progress. R128. -/
def execTmrDisarm (t : Nat) (m n : Nat) (v : W32) (s : State) : Host.Outcome State Fault Refusal :=
  onWhole t (fun w => if n < 16 then regBy m (0x40100 + 0x40 * n) 4 (withBit 4 false v.toNat) w else w) s

/-- TRACK_ENABLE: Setting TIME_TRKn_CFG.ENABLE puts the track in LOST until its first input. R110. -/
def execTrackEnable (t : Nat) (m k : Nat) (v : W32) (s : State) : Host.Outcome State Fault Refusal :=
  onWhole t (fun w => if k < 2 then regBy m (0x40040 + 4 * k) 4 (withBit 0 true v.toNat) w else w) s

/-- TRACK_DISABLE: Clearing TIME_TRKn_CFG.ENABLE puts the track in DISABLED at once. R110. -/
def execTrackDisable (t : Nat) (m k : Nat) (v : W32) (s : State) : Host.Outcome State Fault Refusal :=
  onWhole t (fun w => if k < 2 then regBy m (0x40040 + 4 * k) 4 (withBit 0 false v.toNat) w else w) s

/-- HOLD_MAX_S_WRITE: A write of HOLD_MAX_S below the time spent in HOLDOVER moves the time base to FREE_RUN. R111. -/
def execHoldMaxSWrite (t : Nat) (m : Nat) (v : W64) (s : State) : Host.Outcome State Fault Refusal :=
  onWhole t (regBy m 0x40008 8 v.toNat) s

/-- ETH_PORT_ENABLE: Setting ETH_Pn_CTRL.ENABLE restarts link training in the port's mode. R124. -/
def execEthPortEnable (t : Nat) (m n : Nat) (v : W32) (s : State) : Host.Outcome State Fault Refusal :=
  onWhole t (fun w => if n < 4 then regBy m (0x50000 + 0x100 * n) 4 (withBit 0 true v.toNat) w else w) s

/-- ETH_PORT_DISABLE: Clearing ETH_Pn_CTRL.ENABLE takes the port out and drops its queued frames. R124. -/
def execEthPortDisable (t : Nat) (m n : Nat) (v : W32) (s : State) : Host.Outcome State Fault Refusal :=
  onWhole t (fun w => if n < 4 then regBy m (0x50000 + 0x100 * n) 4 (withBit 0 false v.toNat) w else w) s

/-- CSI_PORT_ENABLE: Setting SF_CSIn_CTRL.ENABLE puts a CSI-2 port in service from the next frame. R159. -/
def execCsiPortEnable (t : Nat) (m n : Nat) (s : State) : Host.Outcome State Fault Refusal :=
  onWhole t (fun w => if n < 12 then regBy m (0x60100 + 0x10 * n) 4 1 w else w) s

/-- CSI_PORT_DISABLE: Clearing SF_CSIn_CTRL.ENABLE takes a CSI-2 port out and empties its slots. R159. -/
def execCsiPortDisable (t : Nat) (m n : Nat) (s : State) : Host.Outcome State Fault Refusal :=
  onWhole t (fun w => if n < 12 then regBy m (0x60100 + 0x10 * n) 4 0 w else w) s

/-- TS_ARM: Setting ARM of a Touchstone unit arms it for its tap's next stream. R474. -/
def execTsArm (t : Nat) (m n : Nat) (v : W32) (s : State) : Host.Outcome State Fault Refusal :=
  onWhole t (fun w => if n < 12 then regBy m (0x1C0100 + 0x20 * n) 4 (withBit 9 false (withBit 8 true v.toNat)) w else w) s

/-- TS_DISARM: Writing DISARM ends an armed or running Touchstone unit as ABANDONED. R474. -/
def execTsDisarm (t : Nat) (m n : Nat) (s : State) : Host.Outcome State Fault Refusal :=
  onWhole t (fun w => if n < 12 then regBy m (0x1C0100 + 0x20 * n) 4 0x200 w else w) s

/-- POWER_UP: VIN rises through 8.6 V and the start-up sequence begins. R101. -/
def execPowerUp (t : Nat) (s : State) : Host.Outcome State Fault Refusal :=
  onDev t powerUp s

/-- VIN_LOSS: VIN falls below 8.4 V, rails are held 2 ms and a full reset follows. R517. -/
def execVinLoss (t : Nat) (s : State) : Host.Outcome State Fault Refusal :=
  onWhole t (withReset (·.vinUp) vinLoss) s

/-- RESET_N_ASSERT: RESET_N low for 10 us makes a full reset. R101. -/
def execResetNAssert (t : Nat) (s : State) : Host.Outcome State Fault Refusal :=
  onWhole t (withReset resetLowHits resetLow) s

/-- RESET_N_RELEASE: RESET_N is released after a full reset, ending the reset and starting the start-up sequence. R101. -/
def execResetNRelease (t : Nat) (s : State) : Host.Outcome State Fault Refusal :=
  onDev t resetHigh s

/-- HOST_INTERFACE_RESET: PCIE_PERST_N or a function-level reset returns every ring to ABSENT. R33. -/
def execHostInterfaceReset (t : Nat) (perst : Bool) (s : State) : Host.Outcome State Fault Refusal :=
  onWhole t (fun w => (w.1.reset33, hostInterfaceReset perst w.2)) s

/-- STRAP_SAMPLE: At always-on running the straps are sampled and latched. R519. -/
def execStrapSample (t : Nat) (sel vsel : Nat) (s : State) : Host.Outcome State Fault Refusal :=
  onDev t (strapSample sel vsel) s

/-- LOADER_MEASURED: Hallmark measures the loader and starts it, or the part does not start. R490. -/
def execLoaderMeasured (t : Nat) (digestOk imageOk : Bool) (s : State) : Host.Outcome State Fault Refusal :=
  onDev t (loaderMeasured digestOk imageOk) s

/-- STARTUP_PROFILE_READ: The loader reads the strapped profile and loads its register values. R538. -/
def execStartupProfileRead (t : Nat) (s : State) : Host.Outcome State Fault Refusal :=
  onDev t profileRead s

/-- SAFETY_ISLAND_RUNNING: The time base starts at 0 in FREE_RUN and safety outputs become driven. R108. -/
def execSafetyIslandRunning (t : Nat) (s : State) : Host.Outcome State Fault Refusal :=
  onDev t safetyRunning s

/-- CONTROL_COMPLEX_RUNNING: The PCIe endpoint stops retrying configuration requests and I3C private transfers are served. R102. -/
def execControlComplexRunning (t : Nat) (s : State) : Host.Outcome State Fault Refusal :=
  onDev t controlRunning s

/-- IPM_TRAINED: All 64 IPM channels are trained and checked. R101. -/
def execIpmTrained (t : Nat) (s : State) : Host.Outcome State Fault Refusal :=
  onDev t ipmTrained s

/-- STARTUP_READY: The profile is applied at the end of start-up and the part becomes READY. R101. -/
def execStartupReady (t : Nat) (s : State) : Host.Outcome State Fault Refusal :=
  onDev t startupReady s

/-- PCIE_LINK_TRAIN: The PCIe endpoint trains its link after PERST deassertion and safety island start. R102. -/
def execPcieLinkTrain (t : Nat) (s : State) : Host.Outcome State Fault Refusal :=
  onDev t linkTrain s

/-- PCIE_LINK_DOWN: The host PCIe link goes down, so completions, records and events are discarded while tails advance. R535. -/
def execPcieLinkDown (t : Nat) (s : State) : Host.Outcome State Fault Refusal :=
  onDev t linkDown s

/-- BUS_MASTERING_CHANGE: The host clears or sets bus mastering in the function's configuration space, stopping or resuming the part's posted writes. R535. -/
def execBusMasteringChange (t : Nat) (on : Bool) (s : State) : Host.Outcome State Fault Refusal :=
  onIf Dev.hostReach t (busMastering on) s

/-- DESCRIPTOR_FETCH_FAIL: A descriptor fetch that fails on PCIe puts the ring in FAULT. R44. -/
def execDescriptorFetchFail (t : Nat) (n : Nat) (s : State) : Host.Outcome State Fault Refusal :=
  onIf Dev.controlUp t (fetchFail n) s

/-- DESCRIPTOR_START: A held descriptor starts once its dependency, epoch or barrier condition is met. R46. -/
def execDescriptorStart (t : Nat) (ch : Chan) (count : Nat) (s : State) : Host.Outcome State Fault Refusal :=
  onWhole t (descriptorStart ch count) s

/-- TIMED_LAUNCH_START: A timed descriptor starts at its launch_at. R132. -/
def execTimedLaunchStart (t : Nat) (ch : Chan) (count : Nat) (s : State) : Host.Outcome State Fault Refusal :=
  onWhole t (timedStart ch count) s

/-- LAUNCH_MISSED: A timed descriptor not started by launch_at plus TOL_US completes with ST_LAUNCH_MISSED. R134. -/
def execLaunchMissed (t : Nat) (ch : Chan) (count : Nat) (s : State) : Host.Outcome State Fault Refusal :=
  onDev t (launchMissed ch count) s

/-- MSIX_COALESCE_TIMEOUT: coal_time_us elapses and the CQ's MSI-X message is sent. R75. -/
def execMsixCoalesceTimeout (t : Nat) (n : Nat) (s : State) : Host.Outcome State Fault Refusal :=
  onDev t (coalesceTimeout n) s

/-- PART_READY_TIMEOUT: 1 ms after no enabled cluster is busy the part-wide state becomes READY. R65. -/
def execPartReadyTimeout (t : Nat) (s : State) : Host.Outcome State Fault Refusal :=
  onDev t readyTimeout s

/-- ARBITRATION_WINDOW_END: The 2 ms window ends and ownership goes to the highest-priority claimant. R82. -/
def execArbitrationWindowEnd (t : Nat) (s : State) : Host.Outcome State Fault Refusal :=
  onIf Dev.leasesRun t arbitrationEnd s

/-- LEASE_LAPSE: The 1 ms lease check finds the lease ended and ownership becomes VACANT. R83. -/
def execLeaseLapse (t : Nat) (s : State) : Host.Outcome State Fault Refusal :=
  onIf Dev.leasesRun t leaseLapse s

/-- HANDOVER_EXPIRE: The handover timer runs out and the owner stays. R84. -/
def execHandoverExpire (t : Nat) (s : State) : Host.Outcome State Fault Refusal :=
  onIf Dev.leasesRun t handoverExpire s

/-- PROFILE_APPLY_DONE: A profile application ends and its configuration is in force. R94. -/
def execProfileApplyDone (t : Nat) (s : State) : Host.Outcome State Fault Refusal :=
  onDev t profileApplyDone s

/-- PROFILE_WRITE_DONE: The flash holds the written or restored profile record, the profile leaves WRITING and the completion is written. R97. -/
def execProfileWriteDone (t : Nat) (s : State) : Host.Outcome State Fault Refusal :=
  onDev t profileWriteDone s

/-- I3C_DESCRIPTOR_WRITE: The I3C controller writes a descriptor and payload into the mailbox. R79. -/
def execI3cDescriptorWrite (t : Nat) (w : MailboxWrite) (s : State) : Host.Outcome State Fault Refusal :=
  onWhole t (i3cDescriptor w.smbus w.bytes) s

/-- I3C_COMPLETION_READ: The I3C controller reads the mailbox completion and payload. R79. -/
def execI3cCompletionRead (t : Nat) (s : State) : Host.Outcome State Fault Refusal :=
  onDev t i3cCompletion s

/-- I3C_COMMON_COMMAND: The part takes part in an I3C bus initialisation, a dynamic address assignment or a common command code. R79. -/
def execI3cCommonCommand (t : Nat) (code : Nat) (s : State) : Host.Outcome State Fault Refusal :=
  onDev t (i3cCommon code) s

/-- SAFE_SPI_FRAME: A 288-byte SAFE_SPI frame is exchanged, latching the pose and taking a command or acknowledgement. R390. -/
def execSafeSpiFrame (t : Nat) (mosi : Bytes) (s : State) : Host.Outcome State Fault Refusal :=
  onWhole t (spiFrame mosi) s

/-- SAFE_REQ_ASSERT: SAFE_REQ_N asserted for 50 us puts the part in base-metal mode. R88. -/
def execSafeReqAssert (t : Nat) (s : State) : Host.Outcome State Fault Refusal :=
  onDev t safeReqAssert s

/-- SAFE_REQ_DEASSERT: SAFE_REQ_N deasserted clears cause SAFE_REQ. R476. -/
def execSafeReqDeassert (t : Nat) (s : State) : Host.Outcome State Fault Refusal :=
  onDev t safeReqDeassert s

/-- BASE_METAL_BLOCKS_GATED: Within 100 ms of entry clusters, pipes, walkers and cores except the service core are gated. R477. -/
def execBaseMetalBlocksGated (t : Nat) (s : State) : Host.Outcome State Fault Refusal :=
  onDev t blocksGated s

/-- THERMAL_TRIP: Junction temperature at the trip removes every rail but always-on and holds reset. R528. -/
def execThermalTrip (t : Nat) (tj : Int) (s : State) : Host.Outcome State Fault Refusal :=
  onWhole t (withReset (tripHits tj) (thermalTrip tj)) s

/-- THERMAL_TRIP_RELEASE: The junction temperature falls below 80 °C (C) or 90 °C (I), ending the trip reset so start-up begins. R528. -/
def execThermalTripRelease (t : Nat) (s : State) : Host.Outcome State Fault Refusal :=
  onDev t tripRelease s

end Sys2Proof.Machine
end

