-- ==== Sys2Proof/Machine/MapCmds.lean ====
section
/-! DEFINITION. The meanings of the commands of estimation, place search, the fleet (spec/12 to spec/14). -/

namespace Sys2Proof.Machine

/-- POSE_TAKEOVER_TIMEOUT: No control-complex record by 120 us makes the safety island write it. R372. -/
def execPoseTakeoverTimeout (t : Nat) (s : State) : Host.Outcome State Fault Refusal :=
  onIf Dev.islandUp t poseTakeover s

/-- IMU_GAP_TIMEOUT: 2 periods without a primary IMU sample set IMU_GAP. R369. -/
def execImuGapTimeout (t : Nat) (s : State) : Host.Outcome State Fault Refusal :=
  onIf Dev.islandUp t imuGap s

/-- IMU_SWITCH_TIMEOUT: 4 periods without a primary sample switch to the secondary IMU. R369. -/
def execImuSwitchTimeout (t : Nat) (s : State) : Host.Outcome State Fault Refusal :=
  onIf Dev.islandUp t imuSwitch s

/-- FRAME_UPDATE_START: Every band of a frame set has committed and a frame update is posed. R374. -/
def execFrameUpdateStart (t : Nat) (plan : List PlanTask) (s : State) : Host.Outcome State Fault Refusal :=
  onIf Dev.full t (frameUpdateStart plan) s

/-- FRAME_UPDATE_DONE: A frame or GNSS update ends and its correction is applied or discarded. R380. -/
def execFrameUpdateDone (t : Nat) (o : EstOutcome) (s : State) : Host.Outcome State Fault Refusal :=
  onIf Dev.full t (frameUpdateDone o) s

/-- WINDOW_BA_DONE: A window BA solve ends and its poses enter the next epoch or not. R380. -/
def execWindowBaDone (t : Nat) (o : EstOutcome) (s : State) : Host.Outcome State Fault Refusal :=
  onIf Dev.full t (windowBaDone o) s

/-- LOOP_QUERY_DONE: A keyframe's loop query returns candidates for verification. R381. -/
def execLoopQueryDone (t : Nat) (inliers : List (Nat × Nat)) (s : State) : Host.Outcome State Fault Refusal :=
  onIf Dev.full t (loopQueryDone inliers) s

/-- POSE_GRAPH_DONE: A pose-graph solve ends and commits or keeps its constraints. R382. -/
def execPoseGraphDone (t : Nat) (o : EstOutcome) (s : State) : Host.Outcome State Fault Refusal :=
  onIf Dev.full t (poseGraphDone o) s

/-- MAP_EPOCH_COMMIT: An epoch's tiles are written and flushed and the epoch commits. R384. -/
def execMapEpochCommit (t : Nat) (tiles : List (Nat × Bytes)) (s : State) : Host.Outcome State Fault Refusal :=
  onIf Dev.full t (mapEpochCommit tiles) s

/-- EST_LOST_TIMEOUT: No successful update for lost_ms moves TRACKING to LOST. R364. -/
def execEstLostTimeout (t : Nat) (s : State) : Host.Outcome State Fault Refusal :=
  onIf Dev.full t estLost s

/-- PLACE_QUERY_ADMIT: A waiting query is admitted into a free context slot and takes its snapshot. R395. -/
def execPlaceQueryAdmit (t : Nat) (w : Nat) (s : State) : Host.Outcome State Fault Refusal :=
  onIf Dev.full t (placeAdmit w) s

/-- PLACE_QUERY_DONE: A walk ends and the query's results are written. R403. -/
def execPlaceQueryDone (t : Nat) (w slot : Nat) (s : State) : Host.Outcome State Fault Refusal :=
  onIf Dev.full t (placeDone w slot) s

/-- INDEX_MERGE_COMMIT: A new graph version commits as one change. R411. -/
def execIndexMergeCommit (t : Nat) (i : Nat) (s : State) : Host.Outcome State Fault Refusal :=
  onIf Dev.full t (mergeCommit i) s

/-- WALKER_FAULT: A faulty walker is fenced and its queries restart elsewhere. R419. -/
def execWalkerFault (t : Nat) (w : Nat) (s : State) : Host.Outcome State Fault Refusal :=
  onIf Dev.islandUp t (walkerFault w) s

/-- SXP_INIT: A session INIT is checked and answered with a REPLY. R431. -/
def execSxpInit (t : Nat) (h : SxpHello) (s : State) : Host.Outcome State Fault Refusal :=
  onIf Dev.controlUp t (sxpInit h) s

/-- SXP_REPLY: A session REPLY is checked, keys derived and CONFIRM sent. R431. -/
def execSxpReply (t : Nat) (h : SxpHello) (s : State) : Host.Outcome State Fault Refusal :=
  onIf Dev.controlUp t (sxpReply h) s

/-- SXP_CONFIRM: A CONFIRM datagram completes session set-up. R433. -/
def execSxpConfirm (t : Nat) (sid : Nat) (sealedBytes : Bytes) (s : State) : Host.Outcome State Fault Refusal :=
  onIf Dev.controlUp t (sxpConfirm sid sealedBytes) s

/-- SXP_DATAGRAM_RX: A protected datagram is authenticated and its fragment reassembled. R434. -/
def execSxpDatagramRx (t : Nat) (g : SxpDgram) (s : State) : Host.Outcome State Fault Refusal :=
  onIf Dev.controlUp t (sxpDatagram g) s

/-- PUBLISH: A primary applies, acknowledges or holds a publication. R444. -/
def execPublish (t : Nat) (s : State) : Host.Outcome State Fault Refusal :=
  onIf Dev.full t onPublish s

/-- PUBLISH_ACK: A publisher receives acknowledgement of a publication. R445. -/
def execPublishAck (t : Nat) (s : State) : Host.Outcome State Fault Refusal :=
  onIf Dev.full t onPublishAck s

/-- REVISION: A holder applies a revision in order. R445. -/
def execRevision (t : Nat) (s : State) : Host.Outcome State Fault Refusal :=
  onIf Dev.full t onRevision s

/-- REVISION_ACK: A primary counts a replica's acknowledgement of a revision. R445. -/
def execRevisionAck (t : Nat) (s : State) : Host.Outcome State Fault Refusal :=
  onIf Dev.full t onRevisionAck s

/-- QUERY: A holder runs a shard QUERY as a fleet-service PLACE_QUERY. R447. -/
def execQuery (t : Nat) (s : State) : Host.Outcome State Fault Refusal :=
  onIf Dev.full t onQuery s

/-- QUERY_RESULT: A shard's answer joins the FLEET_QUERY merge. R448. -/
def execQueryResult (t : Nat) (s : State) : Host.Outcome State Fault Refusal :=
  onIf Dev.full t onQueryResult s

/-- ROLE_NOTICE: A holder takes the new primary's entry whole. R438. -/
def execRoleNotice (t : Nat) (s : State) : Host.Outcome State Fault Refusal :=
  onIf Dev.full t onRoleNotice s

/-- NOTICE_ACK: A new primary receives acknowledgement of its role notice. R452. -/
def execNoticeAck (t : Nat) (s : State) : Host.Outcome State Fault Refusal :=
  onIf Dev.full t onNoticeAck s

/-- SYNC_REQ: A primary answers a syncing holder with revisions or a full copy. R440. -/
def execSyncReq (t : Nat) (s : State) : Host.Outcome State Fault Refusal :=
  onIf Dev.full t onSyncReq s

/-- SYNC_DATA: A syncing holder applies sync data and becomes REPLICA when current. R440. -/
def execSyncData (t : Nat) (s : State) : Host.Outcome State Fault Refusal :=
  onIf Dev.full t onSyncData s

/-- HANDOVER_REQ: A replica named successor takes the primary role once current. R452. -/
def execHandoverReq (t : Nat) (s : State) : Host.Outcome State Fault Refusal :=
  onIf Dev.full t onHandoverReq s

/-- HANDOVER_ACK: The old primary becomes REPLICA and bounces held publications. R452. -/
def execHandoverAck (t : Nat) (s : State) : Host.Outcome State Fault Refusal :=
  onIf Dev.full t onHandoverAck s

/-- BOUNCE: A part takes a bounced shard entry and resends to the new holder. R451. -/
def execBounce (t : Nat) (s : State) : Host.Outcome State Fault Refusal :=
  onIf Dev.full t onBounce s

/-- ADMIN_DESC: An administrator descriptor is run on the admin session channel. R436. -/
def execAdminDesc (t : Nat) (s : State) : Host.Outcome State Fault Refusal :=
  onWhole t adminDesc s

/-- IP_CONTROL_RX: An ARP, Neighbor Discovery or echo request to the fleet address is answered. R427. -/
def execIpControlRx (t : Nat) (port kind : Nat) (target body : Bytes) (s : State) : Host.Outcome State Fault Refusal :=
  onIf Dev.controlUp t (ipControl port kind target body) s

/-- SXP_REASSEMBLY_TIMEOUT: An incomplete message is discarded 500 ms after its first fragment. R436. -/
def execSxpReassemblyTimeout (t : Nat) (session msgId : Nat) (s : State) : Host.Outcome State Fault Refusal :=
  onDev t (reasmExpire session msgId) s

/-- SXP_RESEND_TIMEOUT: A request without reply after RTO_MS is sent again. R436. -/
def execSxpResendTimeout (t : Nat) (msgId : Nat) (s : State) : Host.Outcome State Fault Refusal :=
  onIf Dev.full t (resendTimeout msgId) s

/-- REPLY_CACHE_EXPIRE: A kept reply is dropped after 2 s. R436. -/
def execReplyCacheExpire (t : Nat) (src msgId : Nat) (s : State) : Host.Outcome State Fault Refusal :=
  onDev t (replyExpire src msgId) s

/-- SESSION_REKEY: After 2^32 datagrams or 24 h a session re-runs set-up. R435. -/
def execSessionRekey (t : Nat) (id : Nat) (s : State) : Host.Outcome State Fault Refusal :=
  onIf Dev.controlUp t (sessionRekey id) s

/-- SESSION_OLD_KEY_EXPIRE: Old session keys stop being valid 2 s after the new CONFIRM. R435. -/
def execSessionOldKeyExpire (t : Nat) (id : Nat) (s : State) : Host.Outcome State Fault Refusal :=
  onDev t (oldKeyExpire id) s

/-- SESSION_IDLE_TIMEOUT: A session idle for 120 s is closed. R435. -/
def execSessionIdleTimeout (t : Nat) (id : Nat) (s : State) : Host.Outcome State Fault Refusal :=
  onDev t (sessionIdle id) s

/-- FLEET_QUERY_TIMEOUT: A shard unanswered in timeout_ms is asked of the next holder or declared missing. R448. -/
def execFleetQueryTimeout (t : Nat) (q shard : Nat) (s : State) : Host.Outcome State Fault Refusal :=
  onIf Dev.full t (queryTimeout q shard) s

/-- PUBLISH_LATE_TIMEOUT: No PUBLISH_ACK after PUBLISH_TMO_S posts EV_PUBLISH_LATE. R445. -/
def execPublishLateTimeout (t : Nat) (shard : Nat) (s : State) : Host.Outcome State Fault Refusal :=
  onIf Dev.full t (publishLate shard) s

/-- SXP_PORT_FAILOVER: SXP moves to the alternate port after the primary link goes down. R428. -/
def execSxpPortFailover (t : Nat) (s : State) : Host.Outcome State Fault Refusal :=
  onIf Dev.controlUp t portFailover s

/-- SXP_PORT_RETURN: 10 s after the primary link returns SXP moves back. R428. -/
def execSxpPortReturn (t : Nat) (s : State) : Host.Outcome State Fault Refusal :=
  onIf Dev.controlUp t portReturn s

/-- CLAIM_TIMEOUT: A claimant's 200 ms wait ends and it becomes PRIMARY. R453. -/
def execClaimTimeout (t : Nat) (shard : Nat) (s : State) : Host.Outcome State Fault Refusal :=
  onIf Dev.full t (claimTimeout shard) s

/-- SHARD_HANDOVER_TIMEOUT: A handover that does not finish in time leaves the old primary. R452. -/
def execShardHandoverTimeout (t : Nat) (shard : Nat) (s : State) : Host.Outcome State Fault Refusal :=
  onIf Dev.full t (handoverTimeout shard) s

end Sys2Proof.Machine
end

