-- ==== Sys2Proof/Machine/TimeCmds.lean ====
section
/-! DEFINITION. The meanings of the commands of time, PTP, the switch and sensor ingress (spec/04, spec/05). -/

namespace Sys2Proof.Machine

/-- PTP_SYNC_RX: A Sync message on a PTP track updates its residual and lock state. R110. -/
def execPtpSyncRx (t : Nat) (port std domain : Nat) (src : PtpFrom) (twoStep : Bool) (interval origin80 : Nat) (s : State) : Host.Outcome State Fault Refusal :=
  onIf Dev.islandUp t (ptpSyncRx port std domain src.transport src.sender twoStep interval origin80) s

/-- PTP_ANNOUNCE_RX: An Announce message enters the BMCA of a track. R118. -/
def execPtpAnnounceRx (t : Nat) (port : Nat) (via : PtpVia) (domain : Nat) (c : ClockSet) (s : State) : Host.Outcome State Fault Refusal :=
  onIf Dev.islandUp t (ptpAnnounceRx port via domain c) s

/-- PTP_DELAY_MSG_RX: A delay request-response or peer delay message is taken for the track's delay measurement. R117. -/
def execPtpDelayMsgRx (t : Nat) (port : Nat) (via : PtpVia) (domain : Nat) (t1 : Option Int) (t2 t3 t4 : Int) (s : State) :
    Host.Outcome State Fault Refusal :=
  onIf Dev.islandUp t (ptpDelayRx port via domain ((t1.map fun x => PtpDelay.answered x t2 t3 t4).getD .asked)) s

/-- PTP_SYNC_TX: The part sends Sync as time transmitter when the BMCA selects its clock. R118. -/
def execPtpSyncTx (t : Nat) (k : Nat) (s : State) : Host.Outcome State Fault Refusal :=
  onIf Dev.islandUp t (ptpSyncTx k) s

/-- PTP_EVENT_FORWARD: A PTP event message forwarded between TC ports gets its residence time added. R120. -/
def execPtpEventForward (t : Nat) (src dst : Nat) (headers msg : Bytes) (ingress80 egress80 : Nat) (s : State) : Host.Outcome State Fault Refusal :=
  onIf Dev.islandUp t (ptpForward src dst (headers ++ msg) ingress80 egress80) s

/-- PPS_IN_PULSE: A PPS_IN rising edge is stamped and labelled for the GNSS track. R151. -/
def execPpsInPulse (t : Nat) (s : State) : Host.Outcome State Fault Refusal :=
  onIf Dev.islandUp t ppsIn s

/-- TRACK_LOST_TIMEOUT: A track with no valid input for its timeout becomes LOST. R110. -/
def execTrackLostTimeout (t : Nat) (k : Nat) (s : State) : Host.Outcome State Fault Refusal :=
  onIf Dev.islandUp t (trackTimeout k) s

/-- HOLDOVER_EXPIRE: HOLD_MAX_S elapses in HOLDOVER and the time base moves to FREE_RUN. R111. -/
def execHoldoverExpire (t : Nat) (s : State) : Host.Outcome State Fault Refusal :=
  onIf Dev.islandUp t holdoverExpire s

/-- HOLD_ERR_UPDATE: Every 10 ms in HOLDOVER the part recomputes HOLD_ERR. R116. -/
def execHoldErrUpdate (t : Nat) (temp : Int) (s : State) : Host.Outcome State Fault Refusal :=
  onIf Dev.islandUp t (fun d => holdErrUpdate { d with time := { d.time with tempRef := temp } }) s

/-- ETH_LINK_CHANGE: An Ethernet port link goes up or down, making its tracks LOST on loss. R124. -/
def execEthLinkChange (t : Nat) (n : Nat) (up fast seated : Bool) (s : State) : Host.Outcome State Fault Refusal :=
  onIf Dev.booted t (ethLinkChange n up fast seated) s

/-- ETH_FRAME_RX: A frame received on a switch port is switched by VLAN and priority. R123. -/
def execEthFrameRx (t : Nat) (n : Nat) (f : EthFrame) (s : State) : Host.Outcome State Fault Refusal :=
  onIf Dev.booted t (ethFrameRx n f) s

/-- TMR_CAPTURE_EDGE: A selected edge on a capture pin is stamped and recorded. R126. -/
def execTmrCaptureEdge (t : Nat) (n : Nat) (rising : Bool) (s : State) : Host.Outcome State Fault Refusal :=
  onIf Dev.islandUp t (tmrCapture n rising) s

/-- TMR_PULSE_EDGE: A pulse-mode pin reaches its next pulse instant or pulse end. R127. -/
def execTmrPulseEdge (t : Nat) (n : Nat) (s : State) : Host.Outcome State Fault Refusal :=
  onIf Dev.islandUp t (tmrPulse n) s

/-- PPS_OUT_PULSE: PPS_OUT starts a pulse at each whole second of the time base. R131. -/
def execPpsOutPulse (t : Nat) (s : State) : Host.Outcome State Fault Refusal :=
  onIf Dev.islandUp t ppsOut s

/-- CSI_FRAME_START: A CSI-2 Frame Start short packet begins a camera frame. R159. -/
def execCsiFrameStart (t : Nat) (port vc frameNo ecc : Nat) (s : State) : Host.Outcome State Fault Refusal :=
  onIf Dev.full t (fun d => visionFrameStart port vc d (csiFrameStart port vc frameNo ecc d)) s

/-- CSI_LONG_PACKET: A CSI-2 long packet of pixel data is received and checked. R144. -/
def execCsiLongPacket (t : Nat) (port vc dataType : Nat) (data : Bytes) (crcOk : Bool) (ecc lead80 : Nat) (s : State) : Host.Outcome State Fault Refusal :=
  onIf Dev.full t (fun d => visionLine port vc (d.linesOn port vc) (csiLongPacket port vc dataType data crcOk ecc lead80 d)) s

/-- CSI_FRAME_END: A CSI-2 Frame End completes a camera sample with its last-line stamp. R143. -/
def execCsiFrameEnd (t : Nat) (port vc frameNo ecc : Nat) (s : State) : Host.Outcome State Fault Refusal :=
  onIf Dev.full t (fun d => let r := csiFrameEnd port vc frameNo ecc d; visionFrameEnd r.2 r.1) s

/-- CSI_DESKEW_CALIBRATION: A D-PHY deskew calibration sequence is received on a CSI-2 port above 1,500 Mb/s and applied, setting DESKEWED. R142. -/
def execCsiDeskewCalibration (t : Nat) (port : Nat) (s : State) : Host.Outcome State Fault Refusal :=
  onIf Dev.full t (csiDeskew port) s

/-- IMU_DRDY_EDGE: An IMU data-ready edge is stamped and starts a read. R145. -/
def execImuDrdyEdge (t : Nat) (port cs : Nat) (falling : Bool) (s : State) : Host.Outcome State Fault Refusal :=
  onIf Dev.islandUp t (imuDrdy port cs falling) s

/-- IMU_READ_DONE: An IMU read ends and its sample is converted and judged for its slot. R147. -/
def execImuReadDone (t : Nat) (port : Nat) (data : Bytes) (s : State) : Host.Outcome State Fault Refusal :=
  onIf Dev.islandUp t (imuReadDone port data) s

/-- CAN_FRAME_RX: A received CAN frame is matched against CAN entries and taken as samples. R150. -/
def execCanFrameRx (t : Nat) (port id : Nat) (ext fd brs remote : Bool) (data : Bytes) (lead80 : Nat) (s : State) : Host.Outcome State Fault Refusal :=
  onIf Dev.islandUp t (canFrameRx port id ext fd brs remote data lead80) s

/-- CAN_CONFIG_APPLY: A written SF_CANn_CFG takes effect at the next bus idle. R148. -/
def execCanConfigApply (t : Nat) (n : Nat) (s : State) : Host.Outcome State Fault Refusal :=
  onDev t (canConfigApply n) s

/-- CAN_BUS_ERROR: A CAN bus error is seen, updating REC, TEC and the error-active, error-passive or bus-off state, with EV_CAN_STATE. R149. -/
def execCanBusError (t : Nat) (port : Nat) (recCount tecCount : Nat) (s : State) : Host.Outcome State Fault Refusal :=
  onIf Dev.islandUp t (canBusError port recCount tecCount) s

/-- CAN_BUS_OFF_RECOVERY: After 128 occurrences of 11 recessive bits a bus-off CAN port returns to error-active. R149. -/
def execCanBusOffRecovery (t : Nat) (port : Nat) (s : State) : Host.Outcome State Fault Refusal :=
  onIf Dev.islandUp t (canBusOffRecovery port) s

/-- GNSS_SENTENCE_RX: A valid NMEA sentence is received; GGA gives a GNSS sample. R152. -/
def execGnssSentenceRx (t : Nat) (s0 : Bytes) (lead80 : Nat) (s : State) : Host.Outcome State Fault Refusal :=
  onIf Dev.islandUp t (gnssSentence s0 lead80) s

/-- LIDAR_DATAGRAM_RX: A matching lidar datagram is written into its exchange memory ring. R153. -/
def execLidarDatagramRx (t : Nat) (port udp ipVer : Nat) (src : Bytes) (dgram : Datagram) (lead80 : Nat) (s : State) : Host.Outcome State Fault Refusal :=
  onIf Dev.full t (lidarDatagram port udp ipVer src dgram.payload lead80 dgram.frame) s

/-- LIDAR_SWEEP_TIMEOUT: 100 ms after a sweep's last datagram the sweep closes with SWEEP_PARTIAL. R154. -/
def execLidarSweepTimeout (t : Nat) (i : Nat) (s : State) : Host.Outcome State Fault Refusal :=
  onIf Dev.full t (sweepTimeout i) s

/-- SENSOR_SILENCE_TIMEOUT: Four periods without an accepted sample post EV_SENSOR_SILENT. R160. -/
def execSensorSilenceTimeout (t : Nat) (i : Nat) (s : State) : Host.Outcome State Fault Refusal :=
  onIf Dev.islandUp t (sensorSilence i) s

end Sys2Proof.Machine
end

