-- ==== Sys2Proof/Machine/Dispatch.lean ====
section
/-! DEFINITION. exec: one arm per command of spec/opcode_table.json, each one direct call of its meaning. -/

namespace Sys2Proof.Machine

/-- The effect of a command on everything but the queue: one arm per row of spec/opcode_table.json. -/
def exec (i : Instr) (s : State) : Host.Outcome State Fault Refusal :=
  match i with
  | .identify t ch d => Sys2Proof.Machine.execIdentify t ch d s
  | .createCq t ch d => Sys2Proof.Machine.execCreateCq t ch d s
  | .createSq t ch d => Sys2Proof.Machine.execCreateSq t ch d s
  | .deleteSq t ch d => Sys2Proof.Machine.execDeleteSq t ch d s
  | .deleteCq t ch d => Sys2Proof.Machine.execDeleteCq t ch d s
  | .abortSq t ch d => Sys2Proof.Machine.execAbortSq t ch d s
  | .nop t ch d => Sys2Proof.Machine.execNop t ch d s
  | .ownClaim t ch d => Sys2Proof.Machine.execOwnClaim t ch d s
  | .ownHeartbeat t ch d => Sys2Proof.Machine.execOwnHeartbeat t ch d s
  | .ownHandover t ch d => Sys2Proof.Machine.execOwnHandover t ch d s
  | .ownAccept t ch d => Sys2Proof.Machine.execOwnAccept t ch d s
  | .ownRelease t ch d => Sys2Proof.Machine.execOwnRelease t ch d s
  | .profileSelect t ch d => Sys2Proof.Machine.execProfileSelect t ch d s
  | .profileRead t ch d => Sys2Proof.Machine.execProfileRead t ch d s
  | .profileWrite t ch d => Sys2Proof.Machine.execProfileWrite t ch d s
  | .profileRestore t ch d => Sys2Proof.Machine.execProfileRestore t ch d s
  | .regRead t ch d => Sys2Proof.Machine.execRegRead t ch d s
  | .regWrite t ch d => Sys2Proof.Machine.execRegWrite t ch d s
  | .timeSelect t ch d => Sys2Proof.Machine.execTimeSelect t ch d s
  | .timeSet t ch d => Sys2Proof.Machine.execTimeSet t ch d s
  | .setLaunchPeriod t ch d => Sys2Proof.Machine.execSetLaunchPeriod t ch d s
  | .timeStatus t ch d => Sys2Proof.Machine.execTimeStatus t ch d s
  | .sensorInject t ch d => Sys2Proof.Machine.execSensorInject t ch d s
  | .sensorEnable t ch d => Sys2Proof.Machine.execSensorEnable t ch d s
  | .slotRead t ch d => Sys2Proof.Machine.execSlotRead t ch d s
  | .frameGrab t ch d => Sys2Proof.Machine.execFrameGrab t ch d s
  | .gnssSend t ch d => Sys2Proof.Machine.execGnssSend t ch d s
  | .rectLoad t ch d => Sys2Proof.Machine.execRectLoad t ch d s
  | .stereoStored t ch d => Sys2Proof.Machine.execStereoStored t ch d s
  | .vpParams t ch d => Sys2Proof.Machine.execVpParams t ch d s
  | .vpMove t ch d => Sys2Proof.Machine.execVpMove t ch d s
  | .stereoGrab t ch d => Sys2Proof.Machine.execStereoGrab t ch d s
  | .modelInstall t ch d => Sys2Proof.Machine.execModelInstall t ch d s
  | .modelRemove t ch d => Sys2Proof.Machine.execModelRemove t ch d s
  | .modelLoad t ch d => Sys2Proof.Machine.execModelLoad t ch d s
  | .modelUnload t ch d => Sys2Proof.Machine.execModelUnload t ch d s
  | .infer t ch d => Sys2Proof.Machine.execInfer t ch d s
  | .modelQuery t ch d => Sys2Proof.Machine.execModelQuery t ch d s
  | .stateReset t ch d => Sys2Proof.Machine.execStateReset t ch d s
  | .modelBind t ch d => Sys2Proof.Machine.execModelBind t ch d s
  | .modelUnbind t ch d => Sys2Proof.Machine.execModelUnbind t ch d s
  | .solverLoad t ch d => Sys2Proof.Machine.execSolverLoad t ch d s
  | .solve t ch d => Sys2Proof.Machine.execSolve t ch d s
  | .solverFree t ch d => Sys2Proof.Machine.execSolverFree t ch d s
  | .solverQuery t ch d => Sys2Proof.Machine.execSolverQuery t ch d s
  | .estConfig t ch d => Sys2Proof.Machine.execEstConfig t ch d s
  | .estStart t ch d => Sys2Proof.Machine.execEstStart t ch d s
  | .estStop t ch d => Sys2Proof.Machine.execEstStop t ch d s
  | .estStatus t ch d => Sys2Proof.Machine.execEstStatus t ch d s
  | .keyframeRead t ch d => Sys2Proof.Machine.execKeyframeRead t ch d s
  | .fusionStart t ch d => Sys2Proof.Machine.execFusionStart t ch d s
  | .fusionStop t ch d => Sys2Proof.Machine.execFusionStop t ch d s
  | .fusionBounds t ch d => Sys2Proof.Machine.execFusionBounds t ch d s
  | .fusionReset t ch d => Sys2Proof.Machine.execFusionReset t ch d s
  | .fusionStatus t ch d => Sys2Proof.Machine.execFusionStatus t ch d s
  | .indexCreate t ch d => Sys2Proof.Machine.execIndexCreate t ch d s
  | .indexLoad t ch d => Sys2Proof.Machine.execIndexLoad t ch d s
  | .indexDrop t ch d => Sys2Proof.Machine.execIndexDrop t ch d s
  | .placeInsert t ch d => Sys2Proof.Machine.execPlaceInsert t ch d s
  | .placeDelete t ch d => Sys2Proof.Machine.execPlaceDelete t ch d s
  | .placeQuery t ch d => Sys2Proof.Machine.execPlaceQuery t ch d s
  | .indexMerge t ch d => Sys2Proof.Machine.execIndexMerge t ch d s
  | .indexQuery t ch d => Sys2Proof.Machine.execIndexQuery t ch d s
  | .walkerSet t ch d => Sys2Proof.Machine.execWalkerSet t ch d s
  | .tierQuery t ch d => Sys2Proof.Machine.execTierQuery t ch d s
  | .tierPromote t ch d => Sys2Proof.Machine.execTierPromote t ch d s
  | .tierEvict t ch d => Sys2Proof.Machine.execTierEvict t ch d s
  | .tierUnpin t ch d => Sys2Proof.Machine.execTierUnpin t ch d s
  | .tierUsage t ch d => Sys2Proof.Machine.execTierUsage t ch d s
  | .slowAttach t ch d => Sys2Proof.Machine.execSlowAttach t ch d s
  | .ipmChannel t ch d => Sys2Proof.Machine.execIpmChannel t ch d s
  | .fleetConfig t ch d => Sys2Proof.Machine.execFleetConfig t ch d s
  | .fleetEnrol t ch d => Sys2Proof.Machine.execFleetEnrol t ch d s
  | .fleetJoin t ch d => Sys2Proof.Machine.execFleetJoin t ch d s
  | .fleetFrame t ch d => Sys2Proof.Machine.execFleetFrame t ch d s
  | .shardTable t ch d => Sys2Proof.Machine.execShardTable t ch d s
  | .shardHost t ch d => Sys2Proof.Machine.execShardHost t ch d s
  | .shardDrop t ch d => Sys2Proof.Machine.execShardDrop t ch d s
  | .shardHandover t ch d => Sys2Proof.Machine.execShardHandover t ch d s
  | .shardPromote t ch d => Sys2Proof.Machine.execShardPromote t ch d s
  | .fleetQuery t ch d => Sys2Proof.Machine.execFleetQuery t ch d s
  | .shardStatus t ch d => Sys2Proof.Machine.execShardStatus t ch d s
  | .fltStatus t ch d => Sys2Proof.Machine.execFltStatus t ch d s
  | .unitFence t ch d => Sys2Proof.Machine.execUnitFence t ch d s
  | .unitReturn t ch d => Sys2Proof.Machine.execUnitReturn t ch d s
  | .assayRun t ch d => Sys2Proof.Machine.execAssayRun t ch d s
  | .baseEnter t ch d => Sys2Proof.Machine.execBaseEnter t ch d s
  | .baseExit t ch d => Sys2Proof.Machine.execBaseExit t ch d s
  | .fltLog t ch d => Sys2Proof.Machine.execFltLog t ch d s
  | .hmIdentity t ch d => Sys2Proof.Machine.execHmIdentity t ch d s
  | .hmAttest t ch d => Sys2Proof.Machine.execHmAttest t ch d s
  | .updateKeyInstall t ch d => Sys2Proof.Machine.execUpdateKeyInstall t ch d s
  | .updateStage t ch d => Sys2Proof.Machine.execUpdateStage t ch d s
  | .updateActivate t ch d => Sys2Proof.Machine.execUpdateActivate t ch d s
  | .updateCancel t ch d => Sys2Proof.Machine.execUpdateCancel t ch d s
  | .updateConfirm t ch d => Sys2Proof.Machine.execUpdateConfirm t ch d s
  | .acceptDefaults t ch d => Sys2Proof.Machine.execAcceptDefaults t ch d s
  | .updateRevert t ch d => Sys2Proof.Machine.execUpdateRevert t ch d s
  | .updateStatus t ch d => Sys2Proof.Machine.execUpdateStatus t ch d s
  | .settingsExport t ch d => Sys2Proof.Machine.execSettingsExport t ch d s
  | .sqTailDoorbell t n v => Sys2Proof.Machine.execSqTailDoorbell t n v s
  | .cqHeadDoorbell t n v => Sys2Proof.Machine.execCqHeadDoorbell t n v s
  | .eventRingHeadDoorbell t v => Sys2Proof.Machine.execEventRingHeadDoorbell t v s
  | .bar2InvalidWrite t off width v => Sys2Proof.Machine.execBar2InvalidWrite t off width v s
  | .registerWrite t m off width v => Sys2Proof.Machine.execRegisterWrite t m off width v s
  | .abiRequest t v => Sys2Proof.Machine.execAbiRequest t v s
  | .abiNegotiationDone t => Sys2Proof.Machine.execAbiNegotiationDone t s
  | .adminRingEnable t v => Sys2Proof.Machine.execAdminRingEnable t v s
  | .adminRingDisable t v => Sys2Proof.Machine.execAdminRingDisable t v s
  | .eventRingEnable t v => Sys2Proof.Machine.execEventRingEnable t v s
  | .eventRingDisable t v => Sys2Proof.Machine.execEventRingDisable t v s
  | .counterSnap t m off => Sys2Proof.Machine.execCounterSnap t m off s
  | .counterRelease t m off => Sys2Proof.Machine.execCounterRelease t m off s
  | .timeSnapLatch t m => Sys2Proof.Machine.execTimeSnapLatch t m s
  | .msixUnmask t v => Sys2Proof.Machine.execMsixUnmask t v s
  | .tmrArm t m n v => Sys2Proof.Machine.execTmrArm t m n v s
  | .tmrDisarm t m n v => Sys2Proof.Machine.execTmrDisarm t m n v s
  | .trackEnable t m k v => Sys2Proof.Machine.execTrackEnable t m k v s
  | .trackDisable t m k v => Sys2Proof.Machine.execTrackDisable t m k v s
  | .holdMaxSWrite t m v => Sys2Proof.Machine.execHoldMaxSWrite t m v s
  | .ethPortEnable t m n v => Sys2Proof.Machine.execEthPortEnable t m n v s
  | .ethPortDisable t m n v => Sys2Proof.Machine.execEthPortDisable t m n v s
  | .csiPortEnable t m n => Sys2Proof.Machine.execCsiPortEnable t m n s
  | .csiPortDisable t m n => Sys2Proof.Machine.execCsiPortDisable t m n s
  | .canConfigApply t n => Sys2Proof.Machine.execCanConfigApply t n s
  | .tsArm t m n v => Sys2Proof.Machine.execTsArm t m n v s
  | .tsDisarm t m n => Sys2Proof.Machine.execTsDisarm t m n s
  | .powerUp t => Sys2Proof.Machine.execPowerUp t s
  | .vinLoss t => Sys2Proof.Machine.execVinLoss t s
  | .resetNAssert t => Sys2Proof.Machine.execResetNAssert t s
  | .hostInterfaceReset t perst => Sys2Proof.Machine.execHostInterfaceReset t perst s
  | .strapSample t sel vsel => Sys2Proof.Machine.execStrapSample t sel vsel s
  | .loaderMeasured t digestOk imageOk => Sys2Proof.Machine.execLoaderMeasured t digestOk imageOk s
  | .startupProfileRead t => Sys2Proof.Machine.execStartupProfileRead t s
  | .safetyIslandRunning t => Sys2Proof.Machine.execSafetyIslandRunning t s
  | .controlComplexRunning t => Sys2Proof.Machine.execControlComplexRunning t s
  | .ipmTrained t => Sys2Proof.Machine.execIpmTrained t s
  | .startupReady t => Sys2Proof.Machine.execStartupReady t s
  | .pcieLinkTrain t => Sys2Proof.Machine.execPcieLinkTrain t s
  | .descriptorFetchFail t n => Sys2Proof.Machine.execDescriptorFetchFail t n s
  | .descriptorStart t ch count => Sys2Proof.Machine.execDescriptorStart t ch count s
  | .timedLaunchStart t ch count => Sys2Proof.Machine.execTimedLaunchStart t ch count s
  | .launchMissed t ch count => Sys2Proof.Machine.execLaunchMissed t ch count s
  | .msixCoalesceTimeout t n => Sys2Proof.Machine.execMsixCoalesceTimeout t n s
  | .partReadyTimeout t => Sys2Proof.Machine.execPartReadyTimeout t s
  | .arbitrationWindowEnd t => Sys2Proof.Machine.execArbitrationWindowEnd t s
  | .leaseLapse t => Sys2Proof.Machine.execLeaseLapse t s
  | .handoverExpire t => Sys2Proof.Machine.execHandoverExpire t s
  | .profileApplyDone t => Sys2Proof.Machine.execProfileApplyDone t s
  | .i3cDescriptorWrite t w => Sys2Proof.Machine.execI3cDescriptorWrite t w s
  | .i3cCompletionRead t => Sys2Proof.Machine.execI3cCompletionRead t s
  | .safeSpiFrame t mosi => Sys2Proof.Machine.execSafeSpiFrame t mosi s
  | .safeReqAssert t => Sys2Proof.Machine.execSafeReqAssert t s
  | .safeReqDeassert t => Sys2Proof.Machine.execSafeReqDeassert t s
  | .baseMetalBlocksGated t => Sys2Proof.Machine.execBaseMetalBlocksGated t s
  | .ptpSyncRx t port std domain src twoStep interval origin80 => Sys2Proof.Machine.execPtpSyncRx t port std domain src twoStep interval origin80 s
  | .ptpAnnounceRx t port via domain c => Sys2Proof.Machine.execPtpAnnounceRx t port via domain c s
  | .ptpDelayMsgRx t port via domain t1 t2 t3 t4 => Sys2Proof.Machine.execPtpDelayMsgRx t port via domain t1 t2 t3 t4 s
  | .ptpSyncTx t k => Sys2Proof.Machine.execPtpSyncTx t k s
  | .ptpEventForward t src dst headers msg ingress80 egress80 => Sys2Proof.Machine.execPtpEventForward t src dst headers msg ingress80 egress80 s
  | .ppsInPulse t => Sys2Proof.Machine.execPpsInPulse t s
  | .trackLostTimeout t k => Sys2Proof.Machine.execTrackLostTimeout t k s
  | .holdoverExpire t => Sys2Proof.Machine.execHoldoverExpire t s
  | .holdErrUpdate t temp => Sys2Proof.Machine.execHoldErrUpdate t temp s
  | .ethLinkChange t n up fast seated => Sys2Proof.Machine.execEthLinkChange t n up fast seated s
  | .ethFrameRx t n f => Sys2Proof.Machine.execEthFrameRx t n f s
  | .tmrCaptureEdge t n rising => Sys2Proof.Machine.execTmrCaptureEdge t n rising s
  | .tmrPulseEdge t n => Sys2Proof.Machine.execTmrPulseEdge t n s
  | .ppsOutPulse t => Sys2Proof.Machine.execPpsOutPulse t s
  | .csiFrameStart t port vc frameNo ecc => Sys2Proof.Machine.execCsiFrameStart t port vc frameNo ecc s
  | .csiLongPacket t port vc dataType data crcOk ecc lead80 => Sys2Proof.Machine.execCsiLongPacket t port vc dataType data crcOk ecc lead80 s
  | .csiFrameEnd t port vc frameNo ecc => Sys2Proof.Machine.execCsiFrameEnd t port vc frameNo ecc s
  | .imuDrdyEdge t port cs falling => Sys2Proof.Machine.execImuDrdyEdge t port cs falling s
  | .imuReadDone t port data => Sys2Proof.Machine.execImuReadDone t port data s
  | .canFrameRx t port id ext fd brs remote data lead80 => Sys2Proof.Machine.execCanFrameRx t port id ext fd brs remote data lead80 s
  | .gnssSentenceRx t s0 lead80 => Sys2Proof.Machine.execGnssSentenceRx t s0 lead80 s
  | .lidarDatagramRx t port udp ipVer src dgram lead80 => Sys2Proof.Machine.execLidarDatagramRx t port udp ipVer src dgram lead80 s
  | .lidarSweepTimeout t k => Sys2Proof.Machine.execLidarSweepTimeout t k s
  | .sensorSilenceTimeout t k => Sys2Proof.Machine.execSensorSilenceTimeout t k s
  | .pairTimeout t k => Sys2Proof.Machine.execPairTimeout t k s
  | .vpBandReady t k => Sys2Proof.Machine.execVpBandReady t k s
  | .vpAdmissionWindow t p => Sys2Proof.Machine.execVpAdmissionWindow t p s
  | .vpFault t p => Sys2Proof.Machine.execVpFault t p s
  | .taskDispatch t c e => Sys2Proof.Machine.execTaskDispatch t c e s
  | .taskCommit t c e r => Sys2Proof.Machine.execTaskCommit t c e r s
  | .taskOverrun t c e => Sys2Proof.Machine.execTaskOverrun t c e s
  | .engineMessageRx t c e => Sys2Proof.Machine.execEngineMessageRx t c e s
  | .roleRebuildDone t c e => Sys2Proof.Machine.execRoleRebuildDone t c e s
  | .reductionRoundDone t id => Sys2Proof.Machine.execReductionRoundDone t id s
  | .copyDone t ce src dst len cost srcHost dstHost flag ok issuer => Sys2Proof.Machine.execCopyDone t ce src dst len cost srcHost dstHost flag ok issuer s
  | .upcUpdate t => Sys2Proof.Machine.execUpcUpdate t s
  | .ceilingHoldClear t c => Sys2Proof.Machine.execCeilingHoldClear t c s
  | .sramPatrolScrub t corrected => Sys2Proof.Machine.execSramPatrolScrub t corrected s
  | .sramUncorrectable t addr reader => Sys2Proof.Machine.execSramUncorrectable t addr reader s
  | .flagUncorrExpire t n => Sys2Proof.Machine.execFlagUncorrExpire t n s
  | .ipmPatrolScrub t l last => Sys2Proof.Machine.execIpmPatrolScrub t l last s
  | .ipmUncorrectable t x obj reader => Sys2Proof.Machine.execIpmUncorrectable t x obj reader s
  | .ipmChannelFault t n => Sys2Proof.Machine.execIpmChannelFault t n s
  | .ipmResyncDone t n => Sys2Proof.Machine.execIpmResyncDone t n s
  | .nvmeDeviceDetect t gen width l => Sys2Proof.Machine.execNvmeDeviceDetect t gen width l s
  | .nvmeCmdTimeout t obj block => Sys2Proof.Machine.execNvmeCmdTimeout t obj block s
  | .promotionDone t obj => Sys2Proof.Machine.execPromotionDone t obj s
  | .evictionDone t obj => Sys2Proof.Machine.execEvictionDone t obj s
  | .slowReadFail t obj r => Sys2Proof.Machine.execSlowReadFail t obj r s
  | .tierRepairDone t obj ok => Sys2Proof.Machine.execTierRepairDone t obj ok s
  | .waveStart t slot c plan => Sys2Proof.Machine.execWaveStart t slot c plan s
  | .bindBandReady t b c plan => Sys2Proof.Machine.execBindBandReady t b c plan s
  | .fusionTick t plan => Sys2Proof.Machine.execFusionTick t plan s
  | .fusionTickCommit t discarded => Sys2Proof.Machine.execFusionTickCommit t discarded s
  | .poseTakeoverTimeout t => Sys2Proof.Machine.execPoseTakeoverTimeout t s
  | .imuGapTimeout t => Sys2Proof.Machine.execImuGapTimeout t s
  | .imuSwitchTimeout t => Sys2Proof.Machine.execImuSwitchTimeout t s
  | .frameUpdateStart t plan => Sys2Proof.Machine.execFrameUpdateStart t plan s
  | .frameUpdateDone t o => Sys2Proof.Machine.execFrameUpdateDone t o s
  | .windowBaDone t o => Sys2Proof.Machine.execWindowBaDone t o s
  | .loopQueryDone t inliers => Sys2Proof.Machine.execLoopQueryDone t inliers s
  | .poseGraphDone t o => Sys2Proof.Machine.execPoseGraphDone t o s
  | .mapEpochCommit t tiles => Sys2Proof.Machine.execMapEpochCommit t tiles s
  | .estLostTimeout t => Sys2Proof.Machine.execEstLostTimeout t s
  | .placeQueryAdmit t w => Sys2Proof.Machine.execPlaceQueryAdmit t w s
  | .placeQueryDone t w slot => Sys2Proof.Machine.execPlaceQueryDone t w slot s
  | .indexMergeCommit t k => Sys2Proof.Machine.execIndexMergeCommit t k s
  | .walkerFault t w => Sys2Proof.Machine.execWalkerFault t w s
  | .sxpInit t h => Sys2Proof.Machine.execSxpInit t h s
  | .sxpReply t h => Sys2Proof.Machine.execSxpReply t h s
  | .sxpConfirm t sid sealedBytes => Sys2Proof.Machine.execSxpConfirm t sid sealedBytes s
  | .sxpDatagramRx t g => Sys2Proof.Machine.execSxpDatagramRx t g s
  | .publish t => Sys2Proof.Machine.execPublish t s
  | .publishAck t => Sys2Proof.Machine.execPublishAck t s
  | .revision t => Sys2Proof.Machine.execRevision t s
  | .revisionAck t => Sys2Proof.Machine.execRevisionAck t s
  | .query t => Sys2Proof.Machine.execQuery t s
  | .queryResult t => Sys2Proof.Machine.execQueryResult t s
  | .roleNotice t => Sys2Proof.Machine.execRoleNotice t s
  | .noticeAck t => Sys2Proof.Machine.execNoticeAck t s
  | .syncReq t => Sys2Proof.Machine.execSyncReq t s
  | .syncData t => Sys2Proof.Machine.execSyncData t s
  | .handoverReq t => Sys2Proof.Machine.execHandoverReq t s
  | .handoverAck t => Sys2Proof.Machine.execHandoverAck t s
  | .bounce t => Sys2Proof.Machine.execBounce t s
  | .adminDesc t => Sys2Proof.Machine.execAdminDesc t s
  | .ipControlRx t port kind target body => Sys2Proof.Machine.execIpControlRx t port kind target body s
  | .sxpReassemblyTimeout t session msgId => Sys2Proof.Machine.execSxpReassemblyTimeout t session msgId s
  | .sxpResendTimeout t msgId => Sys2Proof.Machine.execSxpResendTimeout t msgId s
  | .replyCacheExpire t src msgId => Sys2Proof.Machine.execReplyCacheExpire t src msgId s
  | .sessionRekey t id => Sys2Proof.Machine.execSessionRekey t id s
  | .sessionOldKeyExpire t id => Sys2Proof.Machine.execSessionOldKeyExpire t id s
  | .sessionIdleTimeout t id => Sys2Proof.Machine.execSessionIdleTimeout t id s
  | .fleetQueryTimeout t q shard => Sys2Proof.Machine.execFleetQueryTimeout t q shard s
  | .publishLateTimeout t shard => Sys2Proof.Machine.execPublishLateTimeout t shard s
  | .sxpPortFailover t => Sys2Proof.Machine.execSxpPortFailover t s
  | .sxpPortReturn t => Sys2Proof.Machine.execSxpPortReturn t s
  | .claimTimeout t shard => Sys2Proof.Machine.execClaimTimeout t shard s
  | .shardHandoverTimeout t shard => Sys2Proof.Machine.execShardHandoverTimeout t shard s
  | .engineFault t c e cls cause detail => Sys2Proof.Machine.execEngineFault t c e cls cause detail s
  | .controlCoreFault t k cause => Sys2Proof.Machine.execControlCoreFault t k cause s
  | .fabricFault t detail => Sys2Proof.Machine.execFabricFault t detail s
  | .fatalFault t code => Sys2Proof.Machine.execFatalFault t code s
  | .fatalResetTimeout t => Sys2Proof.Machine.execFatalResetTimeout t s
  | .assayDone t kind unit code => Sys2Proof.Machine.execAssayDone t kind unit code s
  | .assayRotation t => Sys2Proof.Machine.execAssayRotation t s
  | .tsStreamEnd t n => Sys2Proof.Machine.execTsStreamEnd t n s
  | .safeStopCheck t => Sys2Proof.Machine.execSafeStopCheck t s
  | .heartbeatToggle t selfOk => Sys2Proof.Machine.execHeartbeatToggle t selfOk s
  | .hmViolation t what kind addr => Sys2Proof.Machine.execHmViolation t what kind addr s
  | .cardInsertRemove t present usable files => Sys2Proof.Machine.execCardInsertRemove t present usable files s
  | .stagingDone t ok => Sys2Proof.Machine.execStagingDone t ok s
  | .unstagingDone t => Sys2Proof.Machine.execUnstagingDone t s
  | .activationDone t ok => Sys2Proof.Machine.execActivationDone t ok s
  | .healthConfirm t healthy => Sys2Proof.Machine.execHealthConfirm t healthy s
  | .confirmationTimerExpire t => Sys2Proof.Machine.execConfirmationTimerExpire t s
  | .fallbackDone t ok => Sys2Proof.Machine.execFallbackDone t ok s
  | .powerLoopTick t mean1 mean100 vinMv iinMa => Sys2Proof.Machine.execPowerLoopTick t mean1 mean100 vinMv iinMa s
  | .thermalLoopTick t tj sensor => Sys2Proof.Machine.execThermalLoopTick t tj sensor s
  | .environmentFault t cond => Sys2Proof.Machine.execEnvironmentFault t cond s
  | .environmentClear t => Sys2Proof.Machine.execEnvironmentClear t s
  | .thermalTrip t tj => Sys2Proof.Machine.execThermalTrip t tj s
  | .resetNRelease t => Sys2Proof.Machine.execResetNRelease t s
  | .thermalTripRelease t => Sys2Proof.Machine.execThermalTripRelease t s
  | .pcieLinkDown t => Sys2Proof.Machine.execPcieLinkDown t s
  | .busMasteringChange t on => Sys2Proof.Machine.execBusMasteringChange t on s
  | .canBusError t port recCount tecCount => Sys2Proof.Machine.execCanBusError t port recCount tecCount s
  | .canBusOffRecovery t port => Sys2Proof.Machine.execCanBusOffRecovery t port s
  | .i3cCommonCommand t code => Sys2Proof.Machine.execI3cCommonCommand t code s
  | .profileWriteDone t => Sys2Proof.Machine.execProfileWriteDone t s
  | .csiDeskewCalibration t port => Sys2Proof.Machine.execCsiDeskewCalibration t port s
  | .slowTierFailure t absent => Sys2Proof.Machine.execSlowTierFailure t absent s
  | .ssdHealthWarning t b => Sys2Proof.Machine.execSsdHealthWarning t b s

end Sys2Proof.Machine
end

