-- ==== Sys2Proof/Machine/Pins.lean ====
section
/-! DEFINITION. What drives the part's output balls (spec/03 R104, R105, R538; spec/04 R130; spec/17 R532). -/

namespace Sys2Proof.Machine

/-- Output groups of *Ball assignment*; numbered ones by port or pin. -/
inductive Ball where
  | pcieTx | pcieClkreq | nvmeTx | nvmePerst
  | sfpLine (port : Nat) | sfpControl | baseT (port : Nat)
  | imu (port : Nat) | can (port : Nat) | gnssTx | ppsOut | tmr (pin : Nat)
  | safeMiso | safeStop | heartbeat | i3c | loupe | tdo | sdHost | reserved
  deriving DecidableEq, Repr

/-- What a group's balls do: high impedance, SerDes electrical idle at high impedance, CAN recessive at high impedance, driven by
their block, or held low or high. -/
inductive Drive where
  | highZ | idle | recessive | driven | low | high
  deriving DecidableEq, Repr

/-- A group that its block drives once `on`, and otherwise leaves as *Before enable* says. -/
def Drive.when (before : Drive) (on : Bool) : Drive := if on then .driven else before

/-- What an output group does now (*Ball assignment*). JTAG's TDO is driven by the debug port alone, whose shift states are outside
the model. -/
def Dev.drive (d : Dev) : Ball → Drive
  | .pcieTx => Drive.idle.when d.hif.clkreq
  | .pcieClkreq => if d.hif.clkreq then .low else .highZ
  | .nvmeTx => Drive.idle.when (decide (6 ≤ d.start.rank))
  | .nvmePerst => if d.nvme.trained then .high else if 6 ≤ d.start.rank then .low else .highZ
  | .sfpLine n => Drive.highZ.when (decide (n < 2) && d.start == .done && (d.eth.getD n {}).enable)
  | .sfpControl => Drive.highZ.when (d.driven 24)
  | .baseT n => Drive.highZ.when (decide (2 ≤ n ∧ n < 4) && d.start == .done && (d.eth.getD n {}).enable)
  | .imu n => Drive.highZ.when (decide (n < 2) && d.driven (19 + n))
  | .can n => Drive.recessive.when (decide (n < 2) && d.driven (21 + n))
  | .gnssTx => Drive.highZ.when (d.driven 23)
  | .ppsOut => Drive.highZ.when (d.driven 16)
  | .tmr n => Drive.highZ.when (decide (n < 16) && (decide ((d.pin n).mode = 4) || decide ((d.pin n).mode = 5)) && d.driven n)
  | .safeMiso => Drive.highZ.when (d.driven 26)
  | .safeStop => if d.driven 17 then (if d.flt.stop then .high else .low) else .highZ
  | .heartbeat => Drive.highZ.when (d.driven 18)
  | .i3c => Drive.highZ.when (decide (6 ≤ d.start.rank))
  | .loupe => Drive.highZ.when (d.driven 25)
  | .tdo => .highZ
  | .sdHost => Drive.highZ.when (d.card.present && d.vinUp && decide (6 ≤ d.start.rank))
  | .reserved => .highZ

end Sys2Proof.Machine
end

