-- ==== Sys2Proof/Safety.lean ====
section
/-! DEFINITION. What the statements take for a safe part: no command stops it, and the host interface's locked registers agree with
each other (spec/02 R29-R31); and the words in which they say what a command does. -/

namespace Sys2Proof.Machine

/-- The outcome is a next state. -/
def Completes (o : Host.Outcome State Fault Refusal) : Prop := ∃ s, o = .next s

/-- The lock of R29-R31: while a ring or the event ring is enabled, a major version is in force; while a negotiation is under way none is; and
the sizes of the enabled rings are 4-16. -/
def Iface.Safe (i : Iface) : Prop :=
  (i.locked = true → i.actResult = 1) ∧ (i.negotiating ≠ none → i.actResult = 0)
    ∧ (i.admEnable = true → sizeOk i.admSqLog2.toNat = true ∧ sizeOk i.admCqLog2.toNat = true)
    ∧ (i.evrEnable = true → sizeOk i.evrLog2.toNat = true)

/-- The part once its clock stands at instant `t` (notes/assumptions/1.md). -/
def State.devAt (s : State) (t : Nat) : Dev := advance t s.dev

/-- The outcome of a command whose own effect leaves the locked registers `i` and the part `d`: what follows of itself has followed,
and the queue of commands is as it was. -/
def State.after (s : State) (i : Iface) (d : Dev) : Host.Outcome State Fault Refusal :=
  .next { s with iface := (settled (i, d)).1, dev := (settled (i, d)).2 }

/-- Nothing in the part waits to follow of itself. -/
def Dev.Still (d : Dev) : Prop := settleParts d = d ∧ d.kick = [] ∧ adminFlush d = d ∧ d.hif.safeSpi.replies = []

/-- A master's register accesses reach the part: the PCIe host's, or the I3C controller's (R79, R102). -/
def Dev.Reaches (d : Dev) (m : Nat) : Prop := (m = 1 ∧ d.hostReach = true) ∨ (m = 2 ∧ 6 ≤ d.start.rank)

/-! ### Descriptors that nothing holds -/

/-- The place a descriptor fetched now takes in its channel. -/
def Dev.fetched (d : Dev) (ch : Chan) (op : Op) (x : Desc) (st : Stage) : Pend :=
  { op := op, d := x, count := (d.chan ch).nextCount, stage := st, seq := d.hif.fetches, fetchedAt := d.tb64, upTo := d.outstanding x, cut := d.indexNow (x.u8 24) }

/-- Its context: channel, count, operands, the ABI version in force, the instant, and what is outstanding in the ring it names. -/
def State.opCtx (s : State) (d : Dev) (ch : Chan) (x : Desc) : OpCtx :=
  { ch := ch, tok := { ch := ch, count := (d.chan ch).nextCount }, d := x, major := (abiOf s.iface ch).1, minor := (abiOf s.iface ch).2
    fetchedAt := d.tb64, upTo := d.outstanding x }

/-- The part as the opcode sees it: the descriptor has taken its place and runs. -/
def Dev.begun (d : Dev) (ch : Chan) (op : Op) (x : Desc) : Dev := addPend ch op x .running d

/-- The part as the descriptor waits for its turn in the ring order (R67, R69). -/
def Dev.readied (d : Dev) (ch : Chan) (op : Op) (x : Desc) : Dev :=
  { addPend ch op x .ready d with kick := [ch] }

/-- The channel fetches the descriptor now and it is well: its checks pass (R60-R63), it names no launch, dependency, epoch or barrier
still to come (R46-R49), and nothing older waits in the channel. -/
def State.Accepts (s : State) (d : Dev) (ch : Chan) (op : Op) (x : Desc) : Prop :=
  d.canFetch ch = true ∧ judge s.iface ch op x (d.chan ch).nextCount d = none
    ∧ x.launchAt = 0 ∧ x.depWait = false ∧ x.epochWait = false
    ∧ (d.chan ch).pend = [] ∧ (d.chan ch).closers = [] ∧ d.kick = []
    ∧ inputFails op (s.opCtx d ch x) (d.begun ch op x) = false

/-- Also its completion can be written at once: the part is at rest, and the channel has room (R52). -/
def State.Serves (s : State) (d : Dev) (ch : Chan) (op : Op) (x : Desc) : Prop :=
  s.Accepts d ch op x ∧ ch ∈ channels ∧ settleParts (d.readied ch op x) = d.readied ch op x ∧ (d.readied ch op x).room ch = true

/-- The opcode's effect `f` leaves its descriptor alone in its channel, with room for its completion. -/
def Dev.Keeps (d : Dev) (ch : Chan) (op : Op) (x : Desc) (f : Dev) : Prop :=
  (f.chan ch).pend = ((d.begun ch op x).chan ch).pend ∧ (f.chan ch).closers = [] ∧ f.room ch = true

/-- The outcome of a descriptor whose effect leaves `i` and `f`, and which completes with `k`: the completion is written, that of an
OWN_CLAIM with the owner at that instant (R99), that of a load with its report (R274, R356), and what follows of itself has followed. -/
def State.served (s : State) (d : Dev) (ch : Chan) (op : Op) (x : Desc) (i : Iface) (f : Dev) (k : Cpl) : Host.Outcome State Fault Refusal :=
  let f := { f.setChan ch fun r => { r with pend := [] } with kick := ch :: f.kick }
  let p := d.fetched ch op x .running
  let k := p.withReport ch (p.final k f) f
  let w := settle 63 (i, writeCpl ch p k (p.keepReport k f))
  .next { s with iface := w.1, dev := w.2 }

/-- The outcome of a descriptor whose work begins at its turn in the ring order and leaves `i` and `f`: what its ring and the part then
do of themselves has followed. -/
def State.turned (s : State) (ch : Chan) (i : Iface) (f : Dev) : Host.Outcome State Fault Refusal :=
  let w := settle 63 (pump ch 6 (i, f))
  .next { s with iface := w.1, dev := w.2 }

/-- The command `mk` has its descriptor served, wherever it is accepted with room and `can` holds of what its opcode sees: the effect is the
first component of `eff` and the completion its second, and the locked registers are as they were. -/
def Runs (mk : Nat → Chan → Desc → Instr) (op : Op) (can : OpCtx → Dev → Prop) (eff : OpCtx → Dev → Dev × Cpl) : Prop :=
  ∀ (s : State) (t : Nat) (d : Dev) (ch : Chan) (x : Desc), s.devAt t = d → s.Serves d ch op x →
    can (s.opCtx d ch x) (d.begun ch op x) → d.Keeps ch op x (eff (s.opCtx d ch x) (d.begun ch op x)).1 →
    exec (mk t ch x) s = s.served d ch op x s.iface (eff (s.opCtx d ch x) (d.begun ch op x)).1 (eff (s.opCtx d ch x) (d.begun ch op x)).2

/-- The command `mk` begins the work of an asynchronous opcode, wherever its descriptor is accepted and `can` holds of what the opcode sees:
the first effect is `eff`. -/
def Starts (mk : Nat → Chan → Desc → Instr) (op : Op) (can : OpCtx → Dev → Prop) (eff : OpCtx → Dev → Dev) : Prop :=
  ∀ (s : State) (t : Nat) (d : Dev) (ch : Chan) (x : Desc), s.devAt t = d → s.Accepts d ch op x →
    can (s.opCtx d ch x) (d.begun ch op x) →
    exec (mk t ch x) s = s.after s.iface (eff (s.opCtx d ch x) (d.begun ch op x))

/-- The same as `Runs`, of an opcode whose work may go on but here has its result at once: nothing of it begins before its place in
the ring order (R43, R50, R69). -/
def Ends (mk : Nat → Chan → Desc → Instr) (op : Op) (can : OpCtx → Dev → Prop) (eff : OpCtx → Dev → Dev × Cpl) : Prop :=
  Runs mk op can eff

/-- The command `mk` begins, at its turn in the ring order, the work of an opcode that changes nothing ahead of it (R43, R50, R69): the
first effect is `eff`. -/
def Turns (mk : Nat → Chan → Desc → Instr) (op : Op) (can : OpCtx → Dev → Prop) (eff : OpCtx → Dev → Dev) : Prop :=
  ∀ (s : State) (t : Nat) (d : Dev) (ch : Chan) (x : Desc), s.devAt t = d → s.Serves d ch op x →
    can (s.opCtx d ch x) (d.begun ch op x) →
    exec (mk t ch x) s = s.turned ch s.iface (eff (s.opCtx d ch x) (d.begun ch op x))

end Sys2Proof.Machine
end

