-- ==== Sys2Proof/Certificates/Slice0/Obligations.lean ====
section
/-! DEFINITION. What is claimed of the model: statements for the provers. `s.devAt t` is the part with its clock at instant `t`;
`s.after i d` is the outcome "next" of a command whose own effect leaves the locked registers `i` and the part `d`
(Sys2Proof/Safety.lean). An update written `{ d with … }` names all that the command changes: every other field of `d`, and every
byte of its memories, is as it was. The rules that a docstring names in parentheses are those the statement rests on; it need not state
them whole. -/

section

open Sys2Proof Sys2Proof.Machine

/-- Power, straps, the loader and the steps of the start-up sequence: what each leaves (R92, R101, R102, R490, R528). Each step acts in the
state of the sequence that precedes it (the model's record of it: notes/assumptions/50.md). The safety island runs: the time base is at 0 in
FREE_RUN and the base-metal pose stream starts (R101, R108). Where no sensor that the safety island serves is enabled, no primary IMU is
configured and SAFE_REQ_N is high, nothing else changes. With SAFE_REQ_N low, EV_SAFE_REQ is posted and base-metal mode is called for; where
it was low as the reset ended and is high again, base-metal mode is entered all the same (R90; for the latter notes/assumptions/83.md). -/
def Obligations.StartUpCommandsComplete : Prop :=
  (∀ (s : State) (t : Nat) (d : Dev), s.devAt t = d →
     (d.vinUp = false → d.start = .held → d.resetLow = false → d.tripped = false →
       exec (.powerUp t) s = s.after s.iface { d with
         vinUp := true, start := .released, resetEnd := d.now, own := { d.own with safeAtReset := d.own.safeLevel } })
     ∧ (d.start = .held → d.vinUp = true → d.tripped = false →
       exec (.resetNRelease t) s = s.after s.iface { d with
         resetLow := false, start := .released, resetEnd := d.now, own := { d.own with safeAtReset := d.own.safeLevel } })
     ∧ (d.start = .held → d.vinUp = true → d.resetLow = false →
       exec (.thermalTripRelease t) s = s.after s.iface { d with
         tripped := false, start := .released, resetEnd := d.now, own := { d.own with safeAtReset := d.own.safeLevel } })
     ∧ (∀ sel vsel, d.start = .released →
       exec (.strapSample t sel vsel) s = s.after s.iface { d with
         start := .strapsSampled, prof := { d.prof with strap := (sel + 3) % 4 }, pw := { d.pw with vsel := BitVec.ofNat 6 vsel } })
     ∧ (d.start = .strapsSampled → d.trust.loaderOk = true → d.trust.st = .idle →
       exec (.loaderMeasured t true true) s = s.after s.iface { d with
         start := .loaderMeasured, trust := { d.trust with running := d.trust.active } })
     ∧ (∀ ok, d.start = .strapsSampled → exec (.loaderMeasured t false ok) s = s.after s.iface { d with start := .refused })
     ∧ (d.start = .loaderMeasured → d.prof.stored.getD d.prof.strap [] ≠ [] →
       exec (.startupProfileRead t) s =
         let e := loadProfileRegs { d with start := .profileRead, prof := { d.prof with
           active := padTo 4096 (d.prof.stored.getD d.prof.strap []), activeId := d.prof.strap } }
         s.after s.iface (setMinLive { e with
           eth := d.eth.mapIdx fun n x => { x with enable := (e.pf 54 1).testBit n }
           comp := { d.comp with cl := d.comp.cl.map fun x =>
             { x with ceiling := BitVec.ofNat 7 (e.pf 47 1) } }
           pw := { d.pw with envW := e.pf 38 1 } }))
     ∧ (d.start = .safetyRunning →
       exec (.controlComplexRunning t) s = s.after s.iface { d with
         start := .controlRunning, hif := { d.hif with crs := false }, flt := { d.flt with service := d.firstCore } })
     ∧ (d.start = .controlRunning → exec (.ipmTrained t) s = s.after s.iface { d with start := .ipmTrained }))
  ∧ (∀ (s : State) (t : Nat) (d e : Dev) (cfg : Bytes), s.devAt t = d → d.start = .profileRead → (∀ i, i < 32 → d.safetySensor i = false) →
       e = { d with
         start := .safetyRunning, time := { d.time with running := true, tb := 0, st := .freeRun }
         flt := { d.flt with beatAt := d.now, rotateAt := d.now }, est := { d.est with wroteAt := d.now } } →
       cfg = ((d.est.saved.find? fun x => x.1 == d.prof.activeId).map (·.2)).getD e.estDefaults → fld cfg 2 1 = 0xFF →
       exec (.safetyIslandRunning t) s =
         let f := streamStart 0x0510 { e with est := { e.est with cfg := cfg, source := 1 } }
         s.after s.iface (if d.own.safeLevel then
             raiseCause 0 (ev 0x0213 0 (det [(16, [1])]) { f with own := { d.own with safeSeen := true } })
           else if d.own.safeAtReset then clearCause 0 (enterBase (raiseCause 0 f)) else f))

/-- The full resets and their causes: power, RESET_N, the thermal trip and 100 ms after a class 6 fault (R468, R528). Each puts the locked
registers of the host interface at their reset values and holds the part. What a full reset leaves: the blocks at their reset values,
LAST_RESET naming the cause, the fault log kept but at a power-up reset, stored profiles and host memory as they were, and no descriptor,
event or interrupt from before it (R33, R93, R104, R464, R471, R490). The part is held in reset. -/
def Obligations.FullResetsComplete : Prop :=
  (∀ (s : State) (t : Nat) (d : Dev), s.devAt t = d →
     (d.vinUp = true → exec (.vinLoss t) s = s.after {} (fullReset 1 { d with vinUp := false }))
     ∧ (d.vinUp = true → d.resetLow = false → exec (.resetNAssert t) s = s.after {} (fullReset 2 { d with resetLow := true }))
     ∧ (d.vinUp = false → exec (.resetNAssert t) s = s.after s.iface { d with resetLow := true })
     ∧ (∀ tj : Int, d.vinUp = true → d.tripped = false → (if d.grade = 0 then (115 : Int) else 125) ≤ tj →
       exec (.thermalTrip t tj) s =
         let e := logFault 6 0xFF 0 15 4 0 d
         s.after {} (fullReset 6 { e with tripped := true, flt := { e.flt with fatalEv := some (6, e.tb64) } }))
     ∧ (∀ code due, d.flt.fatal = some (code, due) → due ≤ d.now →
       exec (.fatalResetTimeout t) s = s.after {} (releaseReset (fullReset code d))))
  ∧ (∀ (code : Nat) (d e : Dev), e = fullReset code d → d.flt.fatalEv = none →
       e.start = .held ∧ e.part = .starting ∧ e.flt.lastReset = BitVec.ofNat 8 code ∧ e.flt.causes = 0
       ∧ e.flt.log = (if code = 1 then [] else d.flt.log)
       ∧ e.prof.stored = d.prof.stored ∧ e.hif.mem = d.hif.mem ∧ e.hif.crs = true ∧ e.hif.busMaster = false ∧ e.hif.linkUp = false
       ∧ (∀ ch, (e.chan ch).pend = []) ∧ e.hif.evr = {} ∧ e.own.st = .vacant ∧ e.own.cnt = ({} : Own).cnt
       ∧ e.time = {} ∧ e.eth = ({} : Dev).eth ∧ e.sens = {} ∧ e.vision = {} ∧ e.comp = {} ∧ e.solver = ({} : Dev).solver ∧ e.fusion = {}
       ∧ e.spi = {}
       ∧ e.pw = {} ∧ e.kick = [] ∧ e.now = d.now ∧ e.serial = d.serial ∧ e.grade = d.grade)

/-- The PCIe link and the host-interface reset: what each leaves (R33, R102, R535). READY: the strapped profile is applied and, at the first
READY after a reset, the boot owner holds the lease (R86, R92, R94, R101). -/
def Obligations.HostLinkAndReadyComplete : Prop :=
  (∀ (s : State) (t : Nat) (d : Dev), s.devAt t = d →
     (5 ≤ d.start.rank → exec (.pcieLinkTrain t) s = s.after s.iface { d with hif := { d.hif with perst := false, linkUp := true, clkreq := true } })
     ∧ (exec (.pcieLinkDown t) s = s.after s.iface { d with hif := { d.hif with linkUp := false } })
     ∧ (∀ on, d.hostReach = true → d.hif.crs = false →
       exec (.busMasteringChange t on) s = s.after s.iface { d with hif := { d.hif with busMaster := on } })
     ∧ (∀ perst, exec (.hostInterfaceReset t perst) s =
       let e := ringsAbsent d
       s.after { s.iface with admEnable := false, evrEnable := false } { e with hif := { e.hif with
         msix := List.replicate 128 {}, busMaster := false, perst := e.hif.perst || perst, linkUp := e.hif.linkUp && !perst } }))
  ∧ (∀ (s : State) (t : Nat) (d e : Dev), s.devAt t = d → d.start = .ipmTrained → d.part = .starting →
       e = applyProfile d.prof.strap 0 d →
       exec (.startupReady t) s = s.after s.iface (becomeReady { e with prof := { e.prof with byCommand := false } }))

/-- Doorbells (R26, R27, R55, R57): an acceptable index moves the tail or the head, every other one is counted in DB_INVALID, with
EV_DOORBELL_INVALID where the doorbell names a ring. A ring that its host has drained may complete more (R52). Negotiation and the enables
of the admin ring and the event ring (R29-R31, R33, R35, R103): the locked registers and the rings after each write of the host. -/
def Obligations.HostInterfaceWritesComplete : Prop :=
  (∀ (s : State) (t : Nat) (d : Dev), s.devAt t = d → d.hostReach = true →
     (∀ (n : Nat) (v : W32), (d.chan (.sq n)).st = .active ∨ (d.chan (.sq n)).st = .aborting →
       let r := d.chan (.sq n)
       let size := 2 ^ r.log2
       let tl := v.toNat % 65536
       exec (.sqTailDoorbell t n v) s = s.after s.iface
         (if tl < size ∧ (r.tail + size - r.head) % size ≤ (tl + size - r.head) % size then d.setChan (.sq n) fun r => { r with tail := tl }
          else ev 0x0001 0 (det [(16, leBytes 4 (4096 * n)), (20, leBytes 2 tl)])
            { d with hif := { d.hif with dbInvalid := satInc d.hif.dbInvalid } }))
     ∧ (∀ (n : Nat) (v : W32), (d.cq n).st ≠ .absent →
       let q := d.cq n
       let size := 2 ^ q.log2
       let h := v.toNat % 65536
       h < size → (h + size - q.head) % size ≤ (q.tail + size - q.head) % size →
       exec (.cqHeadDoorbell t n v) s =
         let e := d.setCq n fun q => { q with head := h, fullPosted := false }
         s.after s.iface { e with kick := ((List.range 64).filter fun k => (e.chan (.sq k)).cq == n).map Chan.sq ++ e.kick })
     ∧ (∀ v : W32, d.hif.evr.on = true → d.hif.evr.lost = 0 →
       let r := d.hif.evr
       let size := 2 ^ r.log2
       let h := v.toNat % 65536
       h < size → (h + size - r.head) % size ≤ (r.tail + size - r.head) % size →
       exec (.eventRingHeadDoorbell t v) s = s.after s.iface { d with hif := { d.hif with evr := { r with head := h } } })
     ∧ (∀ (off width : Nat) (v : W64), width ≠ 4 →
       exec (.bar2InvalidWrite t off width v) s = s.after s.iface { d with hif := { d.hif with dbInvalid := satInc d.hif.dbInvalid } }))
  ∧ (∀ (s : State) (t : Nat) (d : Dev), s.devAt t = d →
       (∀ v : W32, d.hostReach = true → s.iface.locked = false →
         exec (.abiRequest t v) s = s.after { s.iface with
           abiReq := BitVec.ofNat 8 v.toNat, actResult := 0, negotiating := some (BitVec.ofNat 8 v.toNat, d.now) } d)
       ∧ (∀ m at_ n, s.iface.negotiating = some (m, at_) → abiMinor m.toNat = some n →
         exec (.abiNegotiationDone t) s = s.after { s.iface with
           actMajor := m, actMinor := BitVec.ofNat 8 n, actResult := 1, negotiating := none } d)
       ∧ (∀ m at_, s.iface.negotiating = some (m, at_) → abiMinor m.toNat = none →
         exec (.abiNegotiationDone t) s = s.after { s.iface with actMajor := 0, actMinor := 0, actResult := 2, negotiating := none } d)
       ∧ (∀ v : W32, d.hostReach = true → s.iface.admEnable = false → s.iface.actResult = 1 →
         sizeOk (v.toNat % 32) = true → sizeOk (v.toNat / 32 % 32) = true →
         exec (.adminRingEnable t v) s =
           let i := { s.iface with
             admSqLog2 := BitVec.ofNat 5 (v.toNat % 32), admCqLog2 := BitVec.ofNat 5 (v.toNat / 32 % 32), admEnable := true }
           s.after i { d with hif := { d.hif with
             sq := upd d.hif.sq 0 fun _ => { st := .active, log2 := i.admSqLog2.toNat, base := i.admSqBase.toNat }
             cq := upd d.hif.cq 0 fun _ =>
               { st := .active, vector := 1, phase := true, log2 := i.admCqLog2.toNat, base := i.admCqBase.toNat } } })
       ∧ (∀ v : W32, d.hostReach = true → s.iface.admEnable = true →
         exec (.adminRingDisable t v) s = s.after { s.iface with admEnable := false, evrEnable := false } (ringsAbsent d))
       ∧ (∀ v : W32, d.hostReach = true → s.iface.evrEnable = false → s.iface.actResult = 1 → sizeOk (v.toNat % 32) = true →
         exec (.eventRingEnable t v) s =
           let i := { s.iface with evrLog2 := BitVec.ofNat 5 (v.toNat % 32), evrEnable := true }
           s.after i (eventRingOn i.evrBase.toNat i.evrLog2.toNat d))
       ∧ (∀ v : W32, d.hostReach = true → s.iface.evrEnable = true →
         exec (.eventRingDisable t v) s = s.after { s.iface with evrEnable := false } (eventRingOff d)))

/-- Register accesses of the masters that have them (R9, R10, R25, R76, R87): SNAP and RELEASE of every block's counters, the latch of the
time base with TIME_'s SNAP, and the unmasking of an interrupt vector, whose pending message leaves at once. -/
def Obligations.RegisterAccessesComplete : Prop :=
  ∀ (s : State) (t : Nat) (d : Dev), s.devAt t = d →
    (∀ m off width (v : W64), d.Reaches m →
      exec (.registerWrite t m off width v) s =
        let r := regWrite m off width v.toNat s.iface d
        s.after r.1 r.2)
    ∧ (∀ m, d.Reaches m → exec (.counterSnap t m 0x1030) s = s.after s.iface { d with hif := { d.hif with
        frozen := some (d.hif.counters.map fun x => BitVec.ofNat 64 x) } })
    ∧ (∀ m, d.Reaches m → exec (.counterRelease t m 0x1030) s = s.after s.iface { d with hif := { d.hif with frozen := none } })
    ∧ (∀ m off, off ∈ snapRegs → off ≠ 0x1030 → d.Reaches m →
      exec (.counterSnap t m off) s = s.after s.iface (writeSnap off 1 d)
      ∧ exec (.counterRelease t m off) s = s.after s.iface (writeSnap off 2 d))
    ∧ (∀ m, d.Reaches m → exec (.timeSnapLatch t m) s = s.after s.iface { d with time := { d.time with
        latch := d.time.tb, frozen := some (d.time.counters.map fun x => BitVec.ofNat 64 x) } })
    ∧ (∀ v, v < 128 → d.hostReach = true →
      exec (.msixUnmask t v) s =
        let e := d.hif.msix.getD v {}
        let f := { d with hif := { d.hif with msix := upd d.hif.msix v fun e => { e with masked := false } } }
        s.after s.iface (if e.pendingBit then
            msixSend v { f with hif := { f.hif with msix := upd f.hif.msix v fun e => { e with pendingBit := false } } }
          else f))

/-- The controls of the timer pins (R127, R128): ARM of an output mode with a START at least 2 µs away makes its first pulse pending, a mode
without a pulse or a WIDTH below 10 ns sets BADCFG, and clearing ARM gives it up. The controls of the tracks and of the time base (R110,
R111): an enabled track is LOST until its first input, a disabled one is DISABLED; HOLD_MAX_S and the other fields of TIME_CFG, each kept
where the written value lies outside its range (DESIGN CHOICE: notes/assumptions/52.md). The controls of the Ethernet ports, the camera
ports, the CAN ports and the Touchstone units (R124). -/
def Obligations.BlockControlsComplete : Prop :=
  (∀ (s : State) (t : Nat) (d : Dev) (m n : Nat) (v : W32) (p : TmrPin), s.devAt t = d → n < 16 → d.Reaches m → d.own.isOwner m = true →
     d.time.tmr[n]? = some p →
     (p.arm = false → v.toNat % 8 = 4 ∨ v.toNat % 8 = 5 → 10 ≤ p.width.toNat →
       (v.toNat % 8 = 5 → 200 * 65536 ≤ p.period.toNat ∧ p.width.toNat * 65536 < p.period.toNat) →
       d.time.tb + 2000 * 65536 ≤ p.start.toNat * 65536 →
       exec (.tmrArm t m n v) s = s.after s.iface { d with time := { d.time with tmr := upd d.time.tmr n fun p => { p with
         mode := BitVec.ofNat 3 (v.toNat % 8), polarity := v.toNat.testBit 3, arm := true, pending := true, next := 0 } } })
     ∧ (p.arm = false → v.toNat % 8 < 4 ∨ p.width.toNat < 10 → v.toNat % 8 < 6 →
       exec (.tmrArm t m n v) s = s.after s.iface { d with time := { d.time with tmr := upd d.time.tmr n fun p => { p with
         mode := BitVec.ofNat 3 (v.toNat % 8), polarity := v.toNat.testBit 3, arm := false, badcfg := true } } })
     ∧ (p.arm = true →
       exec (.tmrDisarm t m n v) s = s.after s.iface { d with time := { d.time with tmr := upd d.time.tmr n fun p => { p with
         polarity := v.toNat.testBit 3, arm := false, pending := false } } }))
  ∧ (∀ (s : State) (t : Nat) (d : Dev) (m : Nat), s.devAt t = d → d.Reaches m → d.own.isOwner m = true →
       (∀ (k : Nat) (v : W32) (x : Track), k < 2 → d.time.trk[k]? = some x → x.st = .disabled → x.cfg.getLsbD 0 = false →
         exec (.trackEnable t m k v) s = s.after s.iface
           (ev 0x0401 0 (det [(16, [BitVec.ofNat 8 k]), (17, [BitVec.ofNat 8 TrkSt.lost.code])])
             { d with time := { d.time with trk := upd d.time.trk k fun x => { x with
               cfg := (v ||| 1) &&& 0xFFFFFF7F, st := .lost, lastInput := d.now, good := 0, history := [] } } }))
       ∧ (∀ (k : Nat) (v : W32) (x : Track), k < 2 → d.time.trk[k]? = some x → x.st ≠ .disabled → x.cfg.getLsbD 0 = true →
         exec (.trackDisable t m k v) s = s.after s.iface
           (let e := ev 0x0401 0 (det [(16, [BitVec.ofNat 8 k]), (17, [BitVec.ofNat 8 TrkSt.disabled.code])])
             { d with time := { d.time with trk := upd d.time.trk k fun x => { x with cfg := x.cfg &&& 0xFFFFFFFE, st := .disabled } } }
            let f := { e with time := { e.time with trk := upd e.time.trk k fun x => { x with foreign := none, gmClass := 0 } } }
            if d.time.sel = k ∧ x.st = .locked then selectedLost f else f))
       ∧ (∀ v : W64, d.time.st ≠ .holdover →
         exec (.holdMaxSWrite t m v) s = s.after s.iface { d with time := { d.time with
           auto := v.toNat.testBit 0
           slewPpb := if 1000 ≤ v.toNat / 2 ^ 8 % 2 ^ 20 ∧ v.toNat / 2 ^ 8 % 2 ^ 20 ≤ 500000 then BitVec.ofNat 20 (v.toNat / 2 ^ 8)
             else d.time.slewPpb
           stepLimitUs := if 1 ≤ v.toNat / 2 ^ 32 % 2 ^ 16 then BitVec.ofNat 16 (v.toNat / 2 ^ 32) else d.time.stepLimitUs
           holdMaxS := if 60 ≤ v.toNat / 2 ^ 48 then BitVec.ofNat 16 (v.toNat / 2 ^ 48) else d.time.holdMaxS } }))
  ∧ (∀ (s : State) (t : Nat) (d : Dev) (m n : Nat), s.devAt t = d → d.Reaches m → d.own.isOwner m = true →
       (∀ (v : W32) (p : EthPort), n < 4 → d.eth[n]? = some p → p.enable = false →
         exec (.ethPortEnable t m n v) s = s.after s.iface { d with eth := upd d.eth n fun p => { p with
           mode := BitVec.ofNat 3 (v.toNat / 2), tc := v.toNat.testBit 4, enable := true, link := false, rate := 0 } })
       ∧ (∀ (v : W32) (p : EthPort), n < 4 → d.eth[n]? = some p → p.enable = true →
         exec (.ethPortDisable t m n v) s = s.after s.iface (tracksOfPortLost n (evLink n false { d with eth := upd d.eth n fun p => { p with
           mode := BitVec.ofNat 3 (v.toNat / 2), tc := v.toNat.testBit 4, enable := false, link := false, rate := 0
           queues := List.replicate 8 [], linkAt := d.now } })))
       ∧ (n < 12 → (d.csi n).enable = false →
         exec (.csiPortEnable t m n) s = s.after s.iface { d with sens := { d.sens with csi := upd d.sens.csi n fun c =>
           { c with enable := true, rx := [] } } })
       ∧ (n < 12 → (d.csi n).enable = true →
         exec (.csiPortDisable t m n) s = s.after s.iface { d with sens := { d.sens with
           csi := upd d.sens.csi n fun c => { c with enable := false, rx := [], lanesUp := 0 }
           s := d.sens.s.mapIdx fun i x => if d.kind i == 1 && d.se i 1 1 == n then { x with slot := none } else x } })
       ∧ (∀ v : W32, n < 12 → (d.ts.getD n {}).busy = false → (d.ts.getD n {}).st ≠ .fenced → v.toNat % 32 ≠ 14 → v.toNat % 32 ≠ 15 →
         exec (.tsArm t m n v) s = s.after s.iface { d with ts := upd d.ts n fun u => { u with
           tap := BitVec.ofNat 5 v.toNat, poly := BitVec.ofNat 2 (v.toNat / 32), st := .armed } })
       ∧ (n < 12 → (d.ts.getD n {}).busy = true →
         exec (.tsDisarm t m n) s = s.after s.iface { d with ts := upd d.ts n fun u => { u with st := .abandoned } })
       ∧ (exec (.canConfigApply t n) s = s.after s.iface { d with sens := { d.sens with
           can := upd d.sens.can n fun c => { c with live := c.cfg } } }))

/-- Held and timed descriptors, fetch failures and the part's own timeouts (R44, R46, R65, R75, R132-R135): a held descriptor starts once
nothing holds it, or completes with ST_ABORTED where its dependency failed; a timed one starts at its launch, in launch order, counted in
LATE past 2 µs; one given up completes with ST_LAUNCH_MISSED; and the slot whose turn it is, is fetched from host memory (the model's way to
start a descriptor: notes/assumptions/2.md). A periodic launch that would be missed moves to the first later instant of its grid (R135), and
cluster work is counted late where an engine begins it. -/
def Obligations.DescriptorProgressCompletes : Prop :=
  ∀ (s : State) (t : Nat) (d : Dev), s.devAt t = d →
    (∀ n, d.controlUp = true → (d.chan (.sq n)).st = .active → (d.chan (.sq n)).head ≠ (d.chan (.sq n)).tail →
      exec (.descriptorFetchFail t n) s = s.after s.iface
        (ev 0x0005 1 (det [(16, [BitVec.ofNat 8 n]), (17, leBytes 2 (d.chan (.sq n)).head)])
          (d.setChan (.sq n) fun r => { r with st := .fault })))
    ∧ (∀ ch count p, d.heldAt { ch := ch, count := BitVec.ofNat 32 count } = some p → p.launch = 0 →
      (condOf { ch := ch, count := p.count } p.d d = .met → (opInfo p.op).async = false →
        exec (.descriptorStart t ch count) s =
          let e := setStage { ch := ch, count := p.count } .ready d
          s.after s.iface { e with kick := ch :: e.kick })
      ∧ (∀ r, condOf { ch := ch, count := p.count } p.d d = .met → beginPend ch p (s.iface, d) = some r →
        exec (.descriptorStart t ch count) s = s.after r.1 r.2)
      ∧ (condOf { ch := ch, count := p.count } p.d d = .met → beginPend ch p (s.iface, d) = none →
        exec (.descriptorStart t ch count) s =
          let e := setStage { ch := ch, count := p.count } .ready d
          s.after s.iface { e with kick := ch :: e.kick })
      ∧ (depCond p.d d = .failed → exec (.descriptorStart t ch count) s = s.after s.iface (takePend ch (.of stAborted) p d)))
    ∧ (∀ n count, d.heldAt { ch := .sq n, count := BitVec.ofNat 32 count } = none → BitVec.ofNat 32 count = (d.chan (.sq n)).nextCount →
      d.mayFetch (.sq n) (d.slotDesc n (d.chan (.sq n)).head).2 = true →
      exec (.descriptorStart t (.sq n) count) s =
        let x := d.slotDesc n (d.chan (.sq n)).head
        let r := fetchDesc (.sq n) x.1 x.2 (s.iface, d)
        s.after r.1 r.2)
    ∧ (∀ ch count p, d.heldAt { ch := ch, count := BitVec.ofNat 32 count } = some p → p.launch ≠ 0 → p.launch ≤ d.tb64 →
      d.tb64 ≤ p.launch + d.time.tolUs.toNat * usNs → condOf { ch := ch, count := BitVec.ofNat 32 count } p.d d = .met →
      (∀ x ∈ d.launchReady, launchBefore x (ch, p) = false) →
      exec (.timedLaunchStart t ch count) s =
        let e := if p.launch + 2 * usNs < d.tb64 then { d with time := { d.time with late := satInc d.time.late } } else d
        let go (q : Pend) : Pend :=
          if q.count = p.count then { q with begun := true, launch := if p.moved != 0 then e.tb64 else q.launch } else q
        let r := runPend ch p (s.iface, if p.op = .infer ∨ p.op = .solve then d else e.setChan ch fun r => { r with pend := r.pend.map go })
        s.after r.1 r.2)
    ∧ (∀ ch count p, d.startAhead { ch := ch, count := BitVec.ofNat 32 count } = some p →
      p.launch + d.time.tolUs.toNat * usNs < d.tb64 →
      (p.d.repeatNext = false ∨ (d.chan ch).grid = none →
        exec (.launchMissed t ch count) s = s.after s.iface
          (takePend ch { status := stLaunchMissed, result0 := BitVec.ofNat 64 d.tb64 } p d))
      ∧ (∀ g, p.d.repeatNext = true → p.stage = .held → (d.chan ch).grid = some g → d.onGrid ch p.launch = true →
        exec (.launchMissed t ch count) s =
          let k := (d.tb64 - p.launch) / g.2 + 1
          let go (q : Pend) : Pend :=
            if q.count = p.count then { q with stage := .held, launch := q.launch + k * g.2, moved := q.moved + k } else q
          s.after s.iface (d.setChan ch fun r => { r with pend := r.pend.map go })))
    ∧ (∀ n, (d.cq n).batch ≠ 0 → (d.cq n).coalTimeUs ≠ 0 → (d.cq n).batchAt + (d.cq n).coalTimeUs * usNs ≤ d.now →
      exec (.msixCoalesceTimeout t n) s = s.after s.iface (msixSend (d.cq n).vector (d.setCq n fun q => { q with batch := 0 })))
    ∧ (d.part = .running → d.busy = false →
      exec (.partReadyTimeout t) s = s.after s.iface { d with part := .ready, idleSince := none })

/-- The I3C mailbox and SAFE_SPI (R77-R79, R388-R390): a descriptor written is fetched; a completion waiting is read, and with none waiting
the read is refused; every SAFE_SPI exchange while the part drives SAFE_MISO sends its frame, and a frame with a bad check value is only
counted. -/
def Obligations.MailboxAndSafeSpiComplete : Prop :=
  ∀ (s : State) (t : Nat) (d : Dev), s.devAt t = d →
    (∀ (smbus : Bool) (bytes : Bytes), d.start.rank ≠ 0 → d.mayFetch .i3c (parseDesc bytes).2 = true → 64 ≤ bytes.length →
      exec (.i3cDescriptorWrite t ⟨smbus, bytes⟩) s =
        let x := parseDesc bytes
        let r := fetchDesc .i3c x.1 { x.2 with payload := bytes.drop 64 } (s.iface, { d with hif := { d.hif with smbus := smbus } })
        s.after r.1 r.2)
    ∧ (∀ b r, 6 ≤ d.start.rank → d.hif.i3c.replies = b :: r →
      exec (.i3cCompletionRead t) s = s.after s.iface
        (emit (if d.hif.smbus then .smbusRead ((List.range ((b.length + 254) / 255)).map fun i => (b.drop (255 * i)).take 255)
          else .i3cRead b) { d with hif := { d.hif with i3c := { d.hif.i3c with replies := r } } }))
    ∧ (d.start.rank ≠ 0 → d.hif.i3c.replies = [] → exec (.i3cCompletionRead t) s = s.after s.iface (emit .i3cNack d))
    ∧ (∀ code, d.start.rank ≠ 0 → exec (.i3cCommonCommand t code) s = s.after s.iface (emit (.i3cCcc code) d))
    ∧ (∀ m : Bytes, 5 ≤ d.start.rank → spiFrameOk m = true →
      (fld m 2 1 = 0 → exec (.safeSpiFrame t m) s =
        let e := if d.driven 26 then emit (.safeSpi (spiMiso d)) d else d
        s.after s.iface { e with spi := { e.spi with frames := e.spi.frames + 1, crcErr := false, busy := false } })
      ∧ (fld m 2 1 = 3 → d.spi.resp ≠ [] → exec (.safeSpiFrame t m) s =
        let e := if d.driven 26 then emit (.safeSpi (spiMiso d)) d else d
        s.after s.iface { e with spi := { e.spi with
          frames := e.spi.frames + 1, crcErr := false, busy := false, ack := BitVec.ofNat 32 (fld m 4 4), resp := e.spi.resp.drop 1 } }))
    ∧ (∀ m : Bytes, 5 ≤ d.start.rank → spiFrameOk m = false →
      exec (.safeSpiFrame t m) s =
        let e := if d.driven 26 then emit (.safeSpi (spiMiso d)) d else d
        s.after s.iface { e with spi := { e.spi with
          frames := e.spi.frames + 1, crcErr := true, busy := false, bad := satInc e.spi.bad } })

/-- Ownership, the profile machine and SAFE_REQ_N (R81, R83, R84, R86, R88, R89, R94-R96, R476, R477): what each instant of the part's own
leaves. -/
def Obligations.OwnershipAndProfileInstantsComplete : Prop :=
  ∀ (s : State) (t : Nat) (d : Dev), s.devAt t = d →
    (d.leasesRun = true → d.own.st = .arbitrating → d.own.windowEnd ≤ d.now → d.own.winner ≠ 0 →
      exec (.arbitrationWindowEnd t) s = s.after s.iface
        (d.own.claims.foldl (fun e c => finish c.2 (if c.1 = d.own.winner then .ok d.own.winner
            else { (Cpl.conflict 0x0202) with result0 := BitVec.ofNat 64 d.own.winner }) e)
          (renewLease (setOwner d.own.winner 0 { d with own := { d.own with claims := [] } }))))
    ∧ (d.leasesRun = true → d.own.st = .owned ∨ d.own.st = .handover → d.own.leaseEnd ≤ d.now →
      exec (.leaseLapse t) s = s.after s.iface
        (ev 0x0210 0 (det [(16, [BitVec.ofNat 8 d.own.owner, 0, 3])])
          { d with own := { d.own with st := .vacant, owner := 0, successor := 0 } }))
    ∧ (d.leasesRun = true → d.own.st = .handover → d.own.handoverEnd ≤ d.now →
      exec (.handoverExpire t) s = s.after s.iface
        (ev 0x0211 0 (det [(16, [BitVec.ofNat 8 d.own.successor])]) { d with own := { d.own with st := .owned, successor := 0 } }))
    ∧ (∀ p tok, d.prof.applying = some (p, .command tok) →
      exec (.profileApplyDone t) s =
        let e := applyProfile p 1 d
        s.after s.iface (finish tok .ok { e with prof := { e.prof with byCommand := true } }))
    ∧ (∀ p b tok, d.prof.writing = some (p, b, tok) →
      exec (.profileWriteDone t) s = s.after s.iface (finish tok .ok { d with prof := { d.prof with
        st := .applied, writing := none, stored := upd d.prof.stored p fun _ => b } }))
    ∧ (5 ≤ d.start.rank → exec (.safeReqAssert t) s = s.after s.iface
        (raiseCause 0 (ev 0x0213 0 (det [(16, [1])]) { d with own := { d.own with safeLevel := true, safeSeen := true } })))
    ∧ (d.start.rank < 5 → exec (.safeReqAssert t) s = s.after s.iface { d with own := { d.own with safeLevel := true } })
    ∧ (5 ≤ d.start.rank → exec (.safeReqDeassert t) s = s.after s.iface
        (ev 0x0213 0 (det [(16, [0])]) (clearCause 0 { d with own := { d.own with safeLevel := false } })))
    ∧ (d.part = .baseMetal → exec (.baseMetalBlocksGated t) s = s.after s.iface { d with flt := { d.flt with gated := true } })

/-- PTP messages and pulses at the tracks (R110, R111, R117-R119, R121, R122): each enabled track that a message is for takes it, track 0
before track 1, at offset message minus time base; the first step of a track's two answers each other's state. The time base and its tracks
in time (R110, R111, R116): a track without input is LOST, the loss of the selected track begins HOLDOVER, HOLDOVER ends after HOLD_MAX_S,
and its error bound is written every 10 ms. -/
def Obligations.TrackAndTimeBaseCommandsComplete : Prop :=
  (∀ (s : State) (t : Nat) (d : Dev), s.devAt t = d → d.islandUp = true →
     (∀ (port std domain transport sender : Nat) (twoStep : Bool) (interval origin80 : Nat),
       let mine (k : Nat) (e : Dev) : Bool := e.hasTrack k
         && ((e.trk k).source == std && (std == 1 || (e.trk k).transport == transport)) && decide (std < 2) && (e.trk k).port == port
         && (e.trk k).domain == domain && (std == 0 || twoStep) && decide (interval ≤ 7) && (e.eth.getD port {}).link && e.follows k sender
       let take (k : Nat) (e : Dev) : Dev :=
         if mine k e then
           askDelay k (trackInput k ((origin80 : Int) + (e.trk k).delay - e.time.tb) (max (250 * msNs) (4 * (sNs * 2 ^ interval / 128))) e)
         else e
       (mine 0 d = true ∨ mine 1 d = true) →
       exec (.ptpSyncRx t port std domain ⟨transport, sender⟩ twoStep interval origin80) s = s.after s.iface (take 1 (take 0 d)))
     ∧ (∀ port (via : PtpVia) domain (c : ClockSet) k x, k < 2 → d.time.trk[k]? = some x → d.hasTrack k = true → x.source = via.std →
       via.std = 1 ∨ x.transport = via.transport → x.port = port → x.domain = domain → x.master d.now = none → (d.hasTrack (1 - k) = true → (d.trk (1 - k)).domain ≠ domain) →
       exec (.ptpAnnounceRx t port via domain c) s = s.after s.iface { d with time := { d.time with
         trk := upd d.time.trk k fun x => { x with
           foreign := some c, gmClass := BitVec.ofNat 8 c.cls, foreignUntil := d.now + (if via.std = 0 then 6 else 3) * sNs } } })
     ∧ (∀ port (via : PtpVia) domain (t1 t2 t3 t4 : Int) k x, k < 2 → d.time.trk[k]? = some x → d.hasTrack k = true → x.source = via.std →
       via.std = 1 ∨ x.transport = via.transport → x.port = port → x.domain = domain → (d.hasTrack (1 - k) = true → (d.trk (1 - k)).domain ≠ domain) →
       exec (.ptpDelayMsgRx t port via domain (some t1) t2 t3 t4) s = s.after s.iface { d with time := { d.time with
         trk := upd d.time.trk k fun x => { x with delay := ((t2 - t1) + (t4 - t3)) / 2 } } })
     ∧ (∀ k, d.transmits k = true →
       exec (.ptpSyncTx t k) s =
         let two := (d.trk k).source == 1
         let e := emit (.ptpTx (d.trk k).port k (.announce (d.ownClockSet k)))
           (emit (.ptpSync (d.trk k).port k d.time.tb d.clockClass two) d)
         s.after s.iface (if two then emit (.ptpTx (d.trk k).port k (.followUp d.time.tb)) e else e))
     ∧ (∀ (src dst : Nat) (headers msg b : Bytes) (p : Nat) (ip : Option Nat) (ingress80 egress80 : Nat), headers ++ msg = b → ptpHeader b = some (p, ip) →
       (beAt b p 1 / 16 ≠ 1 ∨ ip.isSome) → (multicast b = true ∨ beAt b 0 6 ≠ Config.ownMac) → src < 4 → dst < 4 → src ≠ dst →
       (d.eth.getD src {}).link = true → (d.eth.getD dst {}).link = true →
       ((d.eth.getD src {}).tc = true → (d.eth.getD dst {}).tc = true → beAt b p 1 % 16 < 2 →
         exec (.ptpEventForward t src dst headers msg ingress80 egress80) s = s.after s.iface
           (emit (.ptpForward dst (withFcs (corrected p ip ((egress80 : Int) - ingress80) b))) d))
       ∧ ((d.eth.getD src {}).tc = false ∨ (d.eth.getD dst {}).tc = false ∨ 2 ≤ beAt b p 1 % 16 →
         exec (.ptpEventForward t src dst headers msg ingress80 egress80) s = s.after s.iface (emit (.ptpForward dst (withFcs b)) d)))
     ∧ (∀ label, d.time.running = true → d.pulseLabel d.tb64 = some label →
       let stamp : Int := (d.time.tb : Int) - d.time.cableNs.toNat * 65536
       let take (k : Nat) (e : Dev) : Dev :=
         if e.hasTrack k && (e.trk k).source == 2 then trackInput k (((label * 65536 : Nat) : Int) - stamp) (1500 * msNs) e else e
       exec (.ppsInPulse t) s = s.after s.iface (take 1 (take 0 d)))
     ∧ (d.time.running = true → d.pulseLabel d.tb64 = none →
       exec (.ppsInPulse t) s = s.after s.iface { d with sens := { d.sens with ppsUnlabelled := satInc d.sens.ppsUnlabelled } }))
  ∧ (∀ (s : State) (t : Nat) (d : Dev), s.devAt t = d → d.islandUp = true →
       (∀ k, d.hasTrack k = true → (d.trk k).lastInput + (d.trk k).timeout ≤ d.now → (d.trk k).st = .acquiring ∨ (d.trk k).st = .locked →
         exec (.trackLostTimeout t k) s =
           let e := trackTo k .lost d
           s.after s.iface (if d.time.sel = k ∧ (d.trk k).st = .locked then selectedLost e else e))
       ∧ (d.time.st = .holdover → d.time.holdSince + d.time.holdMaxS.toNat * sNs ≤ d.now →
         exec (.holdoverExpire t) s = s.after s.iface
           (ev 0x0403 0 (det [(16, [0])]) { d with time := { d.time with st := .freeRun, holdErr := 0xFFFF } }))
       ∧ (∀ temp : Int, d.time.st = .holdover → d.time.holdErrAt + 10 * msNs ≤ d.now →
         exec (.holdErrUpdate t temp) s =
           let e := { d with time := { d.time with tempRef := temp } }
           s.after s.iface { e with time := { e.time with holdErr := BitVec.ofNat 16 e.holdErrNow, holdErrAt := e.now } }))

/-- Ethernet links and frames (R123, R124): a link comes up at the rate its mode gives, or goes down with its tracks; a frame joins the
queue of its priority on each port the forwarding tables give it, the two internal ones among them. Edges at the timer pins and the pulse of
each second (R125-R127, R129, R130): a capture takes the instant, the direction and the next count, one within 100 ns is an overrun; an
output pulse begins at its instant and ends after its width. -/
def Obligations.EthernetAndPinCommandsComplete : Prop :=
  (∀ (s : State) (t : Nat) (d : Dev) (n : Nat) (p : EthPort), s.devAt t = d → d.booted = true → n < 4 → d.eth[n]? = some p →
     (∀ fast seated, p.enable = true → p.link = false → 2 ≤ n ∨ seated = true → 0 < linkRate n p.mode.toNat fast →
       exec (.ethLinkChange t n true fast seated) s = s.after s.iface (evLink n true { d with eth := upd d.eth n fun p => { p with
         modulePresent := decide (n < 2) && seated, link := true, rate := BitVec.ofNat 3 (linkRate n p.mode.toNat fast)
         linkAt := d.now } }))
     ∧ (∀ fast seated, p.link = true →
       exec (.ethLinkChange t n false fast seated) s = s.after s.iface (tracksOfPortLost n (evLink n false
         { d with eth := upd d.eth n fun p => { p with
           modulePresent := decide (n < 2) && seated, link := false, rate := 0, linkAt := d.now } })))
     ∧ (∀ f : EthFrame, p.link = true → f.len ≤ 9216 → f.etherType ≠ 0x8808 → isGptp f = false →
       exec (.ethFrameRx t n f) s =
         let vid := (f.vlan.map (·.2)).getD 0
         let pcp := (f.vlan.map fun v => v.1 % 8).getD 0
         let out := Config.forwardPorts f.dst vid
         let put (q : List (List EthFrame)) : List (List EthFrame) := upd q pcp fun l => l ++ [f]
         let e := (List.range 4).foldl (fun e i =>
           if i != n && out.getLsbD i && (e.eth.getD i {}).link then
             { e with eth := upd e.eth i fun q => { q with queues := put q.queues } }
           else e) d
         s.after s.iface ((List.range 2).foldl (fun e i =>
           if out.getLsbD (4 + i) then { e with ethInt := upd e.ethInt i put } else e) e)))
  ∧ (∀ (s : State) (t : Nat) (d : Dev), s.devAt t = d → d.islandUp = true →
       (∀ n rising p, n < 16 → d.time.tmr[n]? = some p → (p.mode = 1 ∧ rising = true) ∨ (p.mode = 2 ∧ rising = false) ∨ p.mode = 3 →
         (p.capAny = false ∨ p.capMono + 100 * 65536 ≤ d.time.mono →
           exec (.tmrCaptureEdge t n rising) s = s.after s.iface
             (streamRecord (0x0800 + n) d.tb64 false (captureRecord d.time.tb n rising (p.capSeq + 1).toNat)
               { d with time := { d.time with tmr := upd d.time.tmr n fun q => { q with
                 cap := d.time.tb, capEdge := rising, capSeq := p.capSeq + 1, capAny := true, capMono := d.time.mono } } }))
         ∧ (p.capAny = true → d.time.mono < p.capMono + 100 * 65536 →
           exec (.tmrCaptureEdge t n rising) s = s.after s.iface
             { d with time := { d.time with tmr := upd d.time.tmr n fun p => { p with overrun := satInc p.overrun } } }))
       ∧ (∀ n p, d.time.tmr[n]? = some p → p.pulseEnd = none → p.pending = true → p.pulseAt p.next ≤ d.time.tb →
         exec (.tmrPulseEdge t n) s = s.after s.iface (emit (.tmrEdge n p.activeLevel (p.pulseAt p.next) (d.driven n))
           { d with time := { d.time with tmr := upd d.time.tmr n fun p => { p with
             pulseEnd := some (p.pulseAt p.next + p.width.toNat * 65536), pending := p.mode == 5, next := p.next + 1, sent := p.next + 1 } } }))
       ∧ (∀ n p at_, d.time.tmr[n]? = some p → p.pulseEnd = some at_ → at_ ≤ d.time.tb → p.pending = false ∨ d.time.tb < p.pulseAt p.next →
         exec (.tmrPulseEdge t n) s = s.after s.iface (emit (.tmrEdge n (!p.activeLevel) at_ (d.driven n))
           { d with time := { d.time with tmr := upd d.time.tmr n fun p => { p with
             pulseEnd := none, arm := p.arm && (p.mode == 5 || p.pending) } } }))
       ∧ (d.time.running = true → d.time.ppsEnd = none → d.time.ppsLast < d.time.tb / (65536 * sNs) →
         exec (.ppsOutPulse t) s =
           let at80 := d.time.tb / (65536 * sNs) * 65536 * sNs
           s.after s.iface (emit (.ppsEdge true at80 (d.driven 16)) { d with time := { d.time with
             ppsLast := d.time.tb / (65536 * sNs), ppsSent := d.time.tb / (65536 * sNs)
             ppsEnd := some (at80 + d.time.widthMs.toNat * msNs * 65536) } })))

/-- Packets of a camera's link (R139, R142, R143): the start of a frame opens it, a line of its data type is stored at the entry's ingress
memory and stamped, the end of the frame gives the sample; calibration marks a port that has a fast entry. Inertial sensors (R146, R147):
the edge of a data-ready line latches the time base and reads the device's registers, one during a read is an overrun, and the read's end
gives the sample. -/
def Obligations.CameraAndInertialCommandsComplete : Prop :=
  (∀ (s : State) (t : Nat) (d : Dev) (p vc : Nat), s.devAt t = d → d.full = true → p < 12 → (d.csi p).enable = true →
     (∀ frameNo i, d.cameraOf p vc = some i →
       exec (.csiFrameStart t p vc frameNo 0) s = s.after s.iface (visionFrameStart p vc d ((tsBegin p (csiSel vc none) d).setCsi p fun c => { c with
         lanesUp := BitVec.ofNat 4 (2 ^ d.se i 58 1 - 1)
         rx := { sensor := i, vc := vc, frameNo := BitVec.ofNat 16 frameNo, grab := (d.sensor i).grab.isSome }
           :: c.rx.filter fun r => r.vc != vc })))
     ∧ (∀ frameNo,
       exec (.csiFrameStart t p vc frameNo 2) s = s.after s.iface (d.setCsi p fun c => { c with hdrDrop := satInc c.hdrDrop }))
     ∧ (∀ dt data lead80 r, (d.csi p).rx.find? (fun r => r.vc == vc) = some r → dt = d.se r.sensor 57 1 → d.routed r.sensor = false →
       d.se r.sensor 3 1 = 0 → (pixels8 dt data).length = d.se r.sensor 60 2 → r.lines < d.se r.sensor 62 2 →
       exec (.csiLongPacket t p vc dt data true 0 lead80) s = s.after s.iface (storedOverwritten r.sensor (((tsFeed p (csiSel vc (some dt)) data d).dput
           (exchBase + d.ingressAt r.sensor + (d.sensor r.sensor).nextBuf * (d.se r.sensor 60 2 * d.se r.sensor 62 2)
             + r.lines * d.se r.sensor 60 2) (pixels8 dt data)).setCsi p fun c => { c with
         rx := c.rx.map fun x => if x.vc == vc then { x with
           firstLine := some (x.firstLine.getD (d.time.tb - lead80)), lastLine := d.time.tb, lines := x.lines + 1
           rows := pixels8 dt data :: x.rows } else x })))
     ∧ (∀ frameNo r first,
       let e := (tsEnd p (csiSel vc none) d).setCsi p fun c => { c with frames := c.frames + 1 }
       (e.csi p).rx.find? (fun r => r.vc == vc) = some r → r.firstLine = some first → e.routed r.sensor = false → e.se r.sensor 3 1 = 0 →
       exec (.csiFrameEnd t p vc frameNo 0) s =
         let buf := (e.sensor r.sensor).nextBuf
         let off := e.ingressAt r.sensor + buf * (e.se r.sensor 60 2 * e.se r.sensor 62 2)
         let e := e.setCsi p fun c => { c with rx := c.rx.filter fun x => x.vc != vc }
         let x := e.cameraSample r r.lastLine first off
         s.after s.iface (acceptSample x (grabFrame r x.tov.toNat (csiErrorEvent p vc r.crcLines (e.setSensor r.sensor fun q => { q with
           nextBuf := (q.nextBuf + 1) % 3, stored := { tov := x.tov.toNat, first := first, addr := exchBase + off, lines := r.lines } :: q.stored.take 1 })))))
     ∧ (∀ i, i < 32 → d.kind i = 1 → d.se i 1 1 = p → 1500 < d.se i 64 2 →
       exec (.csiDeskewCalibration t p) s = s.after s.iface (d.setCsi p fun c => { c with deskewed := true })))
  ∧ (∀ (s : State) (t : Nat) (d : Dev) (p : Nat) (q : ImuPort), s.devAt t = d → d.islandUp = true → p < 2 → d.sens.imu[p]? = some q →
       (∀ cs falling i, cs < 2 → d.imuOf (2 * p + cs) = some i → ((bitsOf 2 2 (d.se i 2 1) == 1) = falling) →
         (q.busy = none → exec (.imuDrdyEdge t p cs falling) s = s.after s.iface
           (emit (.imuRead p cs (d.se i 56 1) (d.se i 58 2) (BitVec.ofNat 8 (d.se i 57 1)) (d.se i 60 1) (d.driven (19 + p)))
             { d with sens := { d.sens with imu := upd d.sens.imu p fun m => { m with busy := some { sensor := i, stamp := d.time.tb } } } }))
         ∧ (q.busy ≠ none → exec (.imuDrdyEdge t p cs falling) s = s.after s.iface
           { d with sens := { d.sens with imu := upd d.sens.imu p fun m => { m with overrun := satInc m.overrun } } }))
       ∧ (∀ data r, q.busy = some r →
         exec (.imuReadDone t p data) s =
           let c := d.imuConvert r.sensor (padTo (d.se r.sensor 60 1) data)
           s.after s.iface (acceptSample { stamp := r.stamp, sensor := r.sensor, kind := 2, flags := if c.2 then 2 else 0
                                           arrival := BitVec.ofNat 64 d.tb64, tov := BitVec.ofNat 64 (d.tovOf r.sensor r.stamp)
                                           payload := c.1 }
             { d with sens := { d.sens with imu := upd d.sens.imu p fun m => { m with busy := none, reads := m.reads + 1 } } })))

/-- CAN ports (R148-R150): a data frame is acknowledged and taken by every map entry it matches, or counted; an error frame, the error
counters and bus-off follow the protocol, and a change of state posts EV_CAN_STATE. Receivers, lidars and silence (R152-R154, R156, R160): a
dated sentence dates the pulses, one whose checksum fails is counted; a datagram joins the sweep being filled, with its 16-byte header, and
one of no lidar is switched as a frame; an unfinished sweep closes after 100 ms; an enabled source that gives no sample for four periods
posts EV_SENSOR_SILENT once. -/
def Obligations.CanReceiverAndLidarCommandsComplete : Prop :=
  (∀ (s : State) (t : Nat) (d : Dev) (p : Nat) (c : CanPort), s.devAt t = d → d.islandUp = true → p < 2 → d.sens.can[p]? = some c →
     (∀ id ext brs data lead80, c.state ≠ 2 → d.canMonitor p = false →
       exec (.canFrameRx t p id ext false brs false data lead80) s =
         let l := (List.range 32).filter (d.canMatches p id ext)
         let e := emit (.canAck p) (canGood p
           { d with sens := { d.sens with can := upd d.sens.can p fun c => { c with frames := c.frames + 1 } } })
         s.after s.iface (if l = [] then { e with sens := { e.sens with can := upd e.sens.can p fun c => { c with noMatch := satInc c.noMatch } } }
           else l.foldl (fun e i => canTake i id ext false brs data lead80 e) e))
     ∧ (∀ id ext brs data lead80, c.live.getLsbD 4 = false →
       exec (.canFrameRx t p id ext true brs false data lead80) s = s.after s.iface d)
     ∧ (∀ recCount tecCount, d.canMonitor p = false → c.state ≠ 2 →
       exec (.canBusError t p recCount tecCount) s =
         let st := canState recCount tecCount
         let e := emit (.canError p) { d with sens := { d.sens with can := upd d.sens.can p fun c =>
           { c with errFrames := satInc c.errFrames, recCount := min recCount 255, tecCount := min tecCount 511, state := st } } }
         s.after s.iface (if st = c.state then e else ev 0x0604 (if st = 0 then 0 else 1) (det [(16, [BitVec.ofNat 8 p]), (17, [BitVec.ofNat 8 st])]) e))
     ∧ (c.state = 2 → d.canMonitor p = false →
       exec (.canBusOffRecovery t p) s = s.after s.iface (ev 0x0604 0 (det [(16, [BitVec.ofNat 8 p]), (17, [0])])
         { d with sens := { d.sens with can := upd d.sens.can p fun c => { c with recCount := 0, tecCount := 0, state := 0 } } })))
  ∧ (∀ (s : State) (t : Nat) (d : Dev), s.devAt t = d → d.islandUp = true →
       (∀ b lead80 f u, nmeaFields b = some f → nmeaType f ≠ [0x47, 0x47, 0x41] → sentenceUtc f = some u →
         exec (.gnssSentenceRx t b lead80) s = s.after s.iface { d with sens := { d.sens with
           sentences := d.sens.sentences + 1, dated := some { stamp := (d.time.tb - lead80) / 65536, utcNs := u } } })
       ∧ (∀ b lead80 f, nmeaFields b = some f → nmeaType f = [0x47, 0x47, 0x41] →
         exec (.gnssSentenceRx t b lead80) s = s.after s.iface
           (ggaTake f lead80 { d with sens := { d.sens with sentences := d.sens.sentences + 1 } }))
       ∧ (∀ b lead80, nmeaFields b = none →
         exec (.gnssSentenceRx t b lead80) s = s.after s.iface { d with sens := { d.sens with checksumErr := satInc d.sens.checksumErr } })
       ∧ (∀ port udp ipVer src payload lead80 f i q, d.full = true → (d.eth.getD port {}).link = true → d.lidarOf udp ipVer src = some i →
         d.sens.s[i]? = some q → q.enabledAt + lead80 / 65536 ≤ d.now → q.held = none →
         let w := q.filling.getD { start := q.wr, first := d.time.tb - lead80 }
         let size := d.se i 80 2 * 1024
         w.bytes + 16 + payload.length ≤ size → (q.filling = none → w.bytes = 0) → w.count + 1 < d.se i 76 2 →
         exec (.lidarDatagramRx t port udp ipVer src ⟨payload, f⟩ lead80) s = s.after s.iface
           ((ringPut (exchBase + d.ingressAt i) size q.wr
             (leBytes 10 (d.time.tb - lead80) ++ leBytes 2 payload.length ++ [0, 0, 0, 0] ++ payload) d).setSensor i fun q => { q with
               filling := some { w with count := w.count + 1, bytes := w.bytes + (16 + payload.length), last := d.time.tb - lead80, lastAt := d.now
                                        tovRaw := d.lidarTov i (d.time.tb - lead80) payload }
               wr := (q.wr + (16 + payload.length)) % max size 1 }))
       ∧ (∀ port udp ipVer src payload lead80 f, d.full = true → (d.eth.getD port {}).link = true → d.lidarOf udp ipVer src = none →
         exec (.lidarDatagramRx t port udp ipVer src ⟨payload, f⟩ lead80) s = s.after s.iface (ethFrameRx port f d))
       ∧ (∀ i w, d.full = true → (d.sensor i).filling = some w → w.lastAt + 100 * msNs ≤ d.now →
         exec (.lidarSweepTimeout t i) s = s.after s.iface (sweepClose i true d))
       ∧ (∀ i, (d.sensor i).enabled = true → d.kind i ≠ 0 → d.se i 8 4 ≠ 0 → (d.sensor i).silent = false →
         (d.sensor i).lastAt + 4 * d.se i 8 4 * 1000 ≤ d.now →
         exec (.sensorSilenceTimeout t i) s = s.after s.iface
           (ev 0x0601 1 (det [(16, [BitVec.ofNat 8 i])]) (d.setSensor i fun q => { q with silent := true }))))

/-- Stereo rings (R190, R192-R196, R206): a left or right frame left waiting longer than the pair's window is unpaired, a band whose rows
have arrived is written into its slot and its flag set, or dropped where the slot's flag still stands, an admission window admits or skips
the pairs that wait, and a faulty pipe is fenced. -/
def Obligations.StereoCommandsComplete : Prop :=
  ∀ (s : State) (t : Nat) (d : Dev), s.devAt t = d → d.full = true →
    (∀ i f, (d.ring i).waitL = some f → f.first + d.se i 92 2 * 1000 * 65536 ≤ d.time.tb → ((leftUnpaired i f d).ring i).waitR = none →
      exec (.pairTimeout t i) s = s.after s.iface (leftUnpaired i f d))
    ∧ (∀ i a x, (d.ring i).waitL = none → (d.ring i).waitR = some (a, x) → a + d.se i 92 2 * 1000 * 65536 ≤ d.time.tb →
      exec (.pairTimeout t i) s = s.after s.iface (rightUnpaired i a d))
    ∧ (∀ i f l, (d.ring i).cur = f :: l → f.left.ended = true → f.right.ended = true → f.nextBand + 1 < d.vBands i → f.grab = none →
      let rows := d.se i 76 2
      let slot := (d.ring i).bandCount % max (d.se i 75 1) 1
      let flag := d.se i 80 2 + slot
      let out := ((d.frameRows i f).drop (f.nextBand * rows)).take rows
      let plane := planesOf out
      let base := exchBase + d.se i 88 4 + slot * slotStride (d.isPair i) (d.vW i) rows
      let g := { f with nextBand := f.nextBand + 1, firstSlot := if f.nextBand = 0 then slot else f.firstSlot }
      (d.flag flag = 0 → exec (.vpBandReady t i) s =
        let g := { g with written := f.written + 1, valid := if d.isPair i then f.valid + validOf out else f.valid }
        let e := (d.setRing i fun r => { r with bandCount := r.bandCount + 1, cur := g :: r.cur.drop 1 }).dput base plane.1
        let e := if d.isPair i then (e.dput (base + d.vW i * rows) plane.2.1).dput (base + 2 * d.vW i * rows) plane.2.2 else e
        let tag := 2 ^ 31 + atBit 16 (f.nextBand % 1024) + f.seq.toNat % 65536
        s.after s.iface ((e.setRing i fun r => { r with
          tags := (((d.ring i).bandCount, tag) :: r.tags.reverse.take (max (d.se i 75 1) 1 - 1)).reverse }).setFlag flag tag))
      ∧ (d.flag flag ≠ 0 → exec (.vpBandReady t i) s = s.after s.iface
        (dropEvent i f.pipe ((d.setRing i fun r =>
          { r with bandCount := r.bandCount + 1, cur := { g with dropped := f.dropped + 1 } :: r.cur.drop 1 }).setVp
            f.pipe fun v => { v with bandDrop := satInc v.bandDrop }))))
    ∧ (∀ p i f, (d.vp p).st = .hosting → byAge d (d.served p) = [i] → (d.ring i).paired = [f] →
      let e := d.setRing i fun r => { r with paired := [] }
      (((e.termsNow p).add (e.ringTerms i)).fits = true → exec (.vpAdmissionWindow t p) s = s.after s.iface (admitFrame i f p e))
      ∧ (((e.termsNow p).add (e.ringTerms i)).fits = false → exec (.vpAdmissionWindow t p) s = s.after s.iface (skipFrame i p f e)))
    ∧ (∀ p, p < 2 → d.islandUp = true → d.assayOf 2 p = none → (d.vp p).st ≠ .gated → (d.vp p).st ≠ .fenced →
      exec (.vpFault t p) s = s.after s.iface (vpFence p (unitFenced 2 p 8 (logFault 3 2 p 8 2 0 d))))

/-- Tasks, messages and roles of the Compute Array (R219-R221, R227, R228): an idle engine takes its own or its cluster's task, or one
another engine or cluster holds, and pose-critical work wherever in its cluster it waits; a task whose copies have arrived commits: its
effects are written and its successors freed; an overrun fences the engine; a message reaches the engine that holds the role or is turned to
it; a rebuilt role says so; a complete round is delivered. -/
def Obligations.ComputeCommandsComplete : Prop :=
  ∀ (s : State) (t : Nat) (d : Dev) (c e : Nat), s.devAt t = d → d.full = true →
    (∀ k, d.idleEngine c e = true → d.poseSteal c e = some k →
      exec (.taskDispatch t c e) s = s.after s.iface
        (startTask c e k (d.setClus c fun q => { q with stealLocal := q.stealLocal + 1 })))
    ∧ (∀ k, d.idleEngine c e = true → d.poseSteal c e = none → d.nextTask c e = some k →
      exec (.taskDispatch t c e) s =
        let jobs := k.copies.map fun x => ({ ce := 2 * c + x.ce % 2, cls := k.cls, cluster := c, engine := e
                                             src := x.src, dst := x.dst, len := x.len, task := some k.id } : CopyJob)
        let f := workBegins k.work d
        s.after s.iface
          ((({ f with comp := { f.comp with cl := f.comp.cl.map (Cluster.strip [k.id]), copyq := f.comp.copyq ++ jobs } }).setTask k.id
            fun k => { k with st := .running c e, startAt := f.now, spent := 0, cluster := c }).setEng c e fun x =>
              { x with running := some k.id }))
    ∧ (∀ k, d.idleEngine c e = true → d.poseSteal c e = none → d.nextTask c e = none → d.localSteal c e = some k →
      exec (.taskDispatch t c e) s = s.after s.iface
        (startTask c e k (d.setClus c fun q => { q with stealLocal := q.stealLocal + 1 })))
    ∧ (∀ k, d.idleEngine c e = true → d.poseSteal c e = none → d.nextTask c e = none → d.localSteal c e = none → d.remoteSteal c e = some k →
      exec (.taskDispatch t c e) s = s.after s.iface
        (startTask c e k (d.setClus c fun q => { q with stealRemote := q.stealRemote + 1 })))
    ∧ (∀ id k w r, (d.eng c e).running = some id → d.task id = some k → d.waitsCopy k = false → d.work k.work = some w →
      (∀ p q, w.kind ≠ .solve p q) →
      r.msgs = [] → r.contribs = [] → r.lastRead = false → r.cuts + longLists r = 0 →
      exec (.taskCommit t c e r) s =
        let g := taskWrites c e k.regions r (faultCorrected r.corrected d)
        let f := r.flags.foldl (fun d f => d.setFlag f.1 f.2) g.1
        let f := { f with comp := { f.comp with notes := f.comp.notes ++ r.notes.map fun b => (c, e, b) } }
        let f := f.setWork k.work fun w => { w with
          accSat := w.accSat || g.2.1, range := w.range || g.2.2, out := w.out ++ r.out
          state := if r.state.isEmpty || k.role.map (·.1) != some 1 then w.state else r.state }
        let f := f.setTask k.id fun k => { k with st := .committed }
        let freed (x : Task) : Task := if x.preds.contains k.id then { x with preds := x.preds.filter (· != k.id) } else x
        let f := { f with comp := { f.comp with tasks := f.comp.tasks.map freed } }
        s.after s.iface (workCheck k.work ((f.setEng c e fun x => { x with running := none, tasks := x.tasks + 1, acted := [] }).setClus c fun q =>
          { q with tasks := q.tasks + 1 })))
    ∧ (∀ n, d.overrun c e = some n →
      exec (.taskOverrun t c e) s = s.after s.iface (engineFault c e 4 5 n d))
    ∧ (∀ f, d.comp.net.find? (fun f => f.toC == c && f.toE == e) = some f → (d.eng c e).kind ≠ 0 → (d.eng c e).kind.toNat = f.msg.kind →
      (d.eng c e).obj.toNat = f.msg.obj → (d.eng c e).epoch.toNat = f.msg.epoch → (d.eng c e).inbox.length < 32 →
      exec (.engineMessageRx t c e) s = s.after s.iface ({ d with comp := { d.comp with net := d.comp.net.erase f } }.setEng c e fun x =>
        { x with inbox := x.inbox ++ [f] }))
    ∧ ((d.eng c e).rebuilding = true → (d.eng c e).movedFrom = none →
      let f := evComp c e 0x0903 0 (det [(16, [BitVec.ofNat 8 (d.eng c e).kind.toNat, 255, 255, BitVec.ofNat 8 c, BitVec.ofNat 8 e]),
          (22, leBytes 2 (d.eng c e).epoch.toNat), (24, leBytes 4 (d.eng c e).obj.toNat)])
          (d.setEng c e fun x => { x with rebuilding := false, movedFrom := none })
      let obj := (d.eng c e).obj.toNat
      ((d.eng c e).kind ≠ 2 → exec (.roleRebuildDone t c e) s = s.after s.iface f)
      ∧ ((d.eng c e).kind = 2 → d.setReady (obj / 0x100) = true →
        exec (.roleRebuildDone t c e) s = s.after s.iface (holderRebuilt (obj / 0x100) (obj % 32) c e f)))
    ∧ (∀ id r, d.comp.rounds.find? (fun r => r.id == id) = some r → d.comp.complete r = true → r.target = 2 →
      exec (.reductionRoundDone t id) s = s.after s.iface { d with comp := { d.comp with
        rounds := d.comp.rounds.filter fun x => x.id != r.id, results := (r.id, r.value.1, r.value.2) :: d.comp.results } })

/-- Copies and ceilings (R234, R240-R242, R254): a copy whose turn has come leaves its queue, moves a valid range between device and host
memory and then sets its flag; each update takes every cluster's utilisation, and a ceiling's hold is lifted 100 ms after it no longer
holds. -/
def Obligations.CopyAndCeilingCommandsComplete : Prop :=
  ∀ (s : State) (t : Nat) (d : Dev), s.devAt t = d → d.full = true → d.controlUp = true →
    (∀ ce src dst len stall corrected flag c e, ce < 16 → d.inBase = false → d.queuedCopy ce src dst len (.engine c e) = none →
      d.copyTurn ce src dst len false false (.engine c e) = true → copyValid false false src dst len = true →
      exec (.copyDone t ce src dst len ⟨stall, corrected⟩ false false (some flag) true (.engine c e)) s =
        let f := (faultCorrected corrected d).setClus c fun q => { q with copyStall := q.copyStall + BitVec.ofNat 64 stall }
        let b := f.copyView (.engine c e) src len
        s.after s.iface (((tsEnd (16 + ce) (fun _ => true) (tsFeed (16 + ce) (fun _ => true) b (tsBegin (16 + ce) (fun _ => true) f))).dput
          dst b).setFlag flag.1 flag.2))
    ∧ (∀ ce src dst len stall corrected c e j, ce < 16 → d.inBase = false → d.queuedCopy ce src dst len (.engine c e) = some j →
      d.copyTurn ce src dst len false false (.engine c e) = true → copyValid false false src dst len = true →
      exec (.copyDone t ce src dst len ⟨stall, corrected⟩ false false none true (.engine c e)) s =
        let f := { d with comp := { d.comp with copyq := d.comp.copyq.erase j } }
        let f := (faultCorrected corrected f).setClus c fun q => { q with copyStall := q.copyStall + BitVec.ofNat 64 stall }
        let b := f.copyView (.engine c e) src len
        s.after s.iface (ingotArrives j
          ((tsEnd (16 + ce) (fun _ => true) (tsFeed (16 + ce) (fun _ => true) b (tsBegin (16 + ce) (fun _ => true) f))).dput dst b)))
    ∧ (∀ ce src dst len stall corrected, ce < 16 → d.inBase = false → d.queuedCopy ce src dst len .other = none →
      d.copyTurn ce src dst len false true .other = true → copyValid false true src dst len = true →
      exec (.copyDone t ce src dst len ⟨stall, corrected⟩ false true none true .other) s =
        let f := faultCorrected corrected d
        let b := f.copyView .other src len
        s.after s.iface (hostWrite dst b
          (tsEnd (16 + ce) (fun _ => true) (tsFeed (16 + ce) (fun _ => true) b (tsBegin (16 + ce) (fun _ => true) f)))))
    ∧ exec (.upcUpdate t) s = s.after s.iface ([0, 1, 2, 3, 4, 5].foldl (fun d c => upcOne c d) d)
    ∧ (∀ c q a, d.comp.cl[c]? = some q → q.held = true → q.withinAt = some a → a + 100 * msNs ≤ d.now → d.overCeiling c 0 (d.liveIn c) = false →
      exec (.ceilingHoldClear t c) s = s.after s.iface
        (evComp c 0xFF 0x0902 0 (det [(16, [BitVec.ofNat 8 c, BitVec.ofNat 8 (min 127 (d.uPc c 0 (d.liveIn c)))])])
          (d.setClus c fun q => { q with held := false, withinAt := none })))

/-- Data that fails a check (R236-R238, R459, R460): corrected words are counted, an uncorrectable word in the exchange memory goes to the
fault log and fails its reader, a flag stays bad for 100 ms, an IPM position is judged and counted, and an object that IPM no longer gives
is lost to its reader. Channels of IPM (R239-R242): the first channel of a group to fail is fenced and the group goes on without it, a
second one loses the group and raises a cause for base-metal mode, a resynchronised channel goes ONLINE and ends the returns that wait for
it. -/
def Obligations.MemoryCheckAndChannelCommandsComplete : Prop :=
  (∀ (s : State) (t : Nat) (d : Dev), s.devAt t = d → d.islandUp = true →
     (∀ n, exec (.sramPatrolScrub t n) s = s.after s.iface { d with flt := { d.flt with corrected := satAdd d.flt.corrected n } })
     ∧ (∀ a r, exchBase ≤ a → a < flagBase →
       exec (.sramUncorrectable t a r) s = s.after s.iface (failReader a r (logFault 2 0xFF 0 1 1 a d)))
     ∧ (∀ n r, n < 4096 →
       exec (.sramUncorrectable t (flagBase + 4 * n) r) s =
         let e := (logFault 2 0xFF 0 1 1 (flagBase + 4 * n) d).setFlag n 0x7FFFFFFF
         s.after s.iface { e with tier := { e.tier with flagBad := (n, d.now + 100 * msNs) :: e.tier.flagBad.filter fun x => x.1 != n } })
     ∧ (∀ n x, d.tier.flagBad.find? (fun x => x.1 == n) = some x → x.2 ≤ d.now →
       exec (.flagUncorrExpire t n) s = s.after s.iface
         { d.setFlag n 0 with tier := { d.tier with flagBad := d.tier.flagBad.filter fun x => x.1 != n } })
     ∧ (d.full = true →
       (∀ r k, d.ipmBad r = false → d.ipmMarked r = [k] →
         let x := ipmPlace r.offset
         let word := ((ipmSeen r (d.ipmWords x)).eraseIdx k).foldl (· ^^^ ·) 0
         let e := faultCorrected (d.ipmRetries r) { d with ipm := { d.ipm with retry := satAdd d.ipm.retry (d.ipmRetries r) } }
         let e := if k = x.check then e
           else e.dput (ipmBase + 448 * x.stripe + 8 * (7 * x.position + if k < x.check then k else k - 1)) (leBytes 8 word)
         let e := faultCorrected 1 { e with ipm := { e.ipm with rebuilt := satInc e.ipm.rebuilt } }
         let e := e.setIpmCh (8 * k + x.group) fun c => { c with rebuilt := e.now :: c.rebuilt.filter fun a => decide (e.now < a + sNs) }
         (e.ipmCh (8 * k + x.group)).rebuilt.length < 16 →
         exec (.ipmPatrolScrub t [r] true) s = s.after s.iface { e with ipm := { e.ipm with passes := e.ipm.passes + 1 } })
       ∧ (∀ x r, d.ipmBad x = true →
         exec (.ipmUncorrectable t x none r) s = s.after s.iface (failReader (ipmBase + x.offset) r
           (ipmUncorr x.offset (faultCorrected (d.ipmRetries x)
             { d with ipm := { d.ipm with retry := satAdd d.ipm.retry (d.ipmRetries x) } }))))))
  ∧ (∀ (s : State) (t : Nat) (d : Dev) (n : Nat) (c : IpmCh), s.devAt t = d → n < 64 → d.ipm.ch[n]? = some c →
       (d.controlUp = true → c.st = .online → d.groupOut (n % 8) = [] →
         exec (.ipmChannelFault t n) s = s.after s.iface (unitFenced 4 n 7 (logFault 3 4 n 7 2 0
           (evFrom 11 0 0x0B01 1 (det [(16, [BitVec.ofNat 8 n, BitVec.ofNat 8 ChSt.failed.code, 1])])
             { d with ipm := { d.ipm with ch := upd d.ipm.ch n fun c => { c with st := .failed } } }))))
       ∧ (∀ o l, d.controlUp = true → c.st = .online → d.groupOut (n % 8) = o :: l →
         exec (.ipmChannelFault t n) s = s.after s.iface (raiseCause 2 (logFault 5 0xFF (n % 8) 10 3 0
           (evFrom 11 0 0x0B02 2 (det [(16, [BitVec.ofNat 8 (n % 8), BitVec.ofNat 8 o, BitVec.ofNat 8 n])])
             { d with ipm := { d.ipm with lost := d.ipm.lost ||| BitVec.ofNat 8 (2 ^ (n % 8)) } }))))
       ∧ (d.full = true → c.st = .resync → c.returning = [] →
         exec (.ipmResyncDone t n) s = s.after s.iface
           (evFrom 11 0 0x0B01 0 (det [(16, [BitVec.ofNat 8 n, BitVec.ofNat 8 ChSt.online.code, 0])])
             { d with ipm := { d.ipm with ch := upd d.ipm.ch n fun c => { c with st := .online, returning := [] } } })))

/-- The slow tier's device (R244-R246, R252, R253): it is found with or without a label, fails or goes, and warns of its health; a read that
fails is tried again, then read from the mirror, and a block that the second read gives is no failed one. Movement between the tiers (R248,
R249): a promoted object is RESIDENT and its bytes have passed the tier's checker, an evicted one is HOME, and blocks whose reads had failed
are rewritten and flushed, or the good copy alone is left. The units armed on a movement's copy engine cover it (R257). -/
def Obligations.TierCommandsComplete : Prop :=
  (∀ (s : State) (t : Nat) (d : Dev), s.devAt t = d →
     (∀ gen width l x, d.controlUp = true → chooseNamespace l = some x → gen ≤ 4 → (width = 1 ∨ width = 2 ∨ width = 4) →
       exec (.nvmeDeviceDetect t gen width l) s =
         let e := nvmeSend 0 (nvmeSetUp d.nvme.pairs) { d with nvme := { d.nvme with gen := gen, width := width, pairs := 8, trained := true } }
         let e := { e with nvme := { e.nvme with capacity := min x.bytes (16 * 1099511627776), lba := x.lba } }
         s.after s.iface (if x.labelled then mapHomes (slowState .attached e) else slowState .unlabelled e))
     ∧ (∀ gen width l, d.controlUp = true → chooseNamespace l = none → gen ≤ 4 → (width = 1 ∨ width = 2 ∨ width = 4) →
       exec (.nvmeDeviceDetect t gen width l) s =
         let e := nvmeSend 0 (nvmeSetUp d.nvme.pairs) { d with nvme := { d.nvme with gen := gen, width := width, pairs := 8, trained := true } }
         s.after s.iface (slowState .absent { e with nvme := { e.nvme with capacity := 0, lba := 0 } }))
     ∧ (d.controlUp = true → d.nvme.st ≠ .absent → exec (.slowTierFailure t true) s = s.after s.iface
       (evFrom 13 0 0x0D01 1 (det [(16, [BitVec.ofNat 8 NvSt.absent.code])])
         { d with nvme := { d.nvme with st := .absent, gen := 0, width := 0, capacity := 0, lba := 0, pairs := 0 } }))
     ∧ (d.controlUp = true → d.nvme.st ≠ .failed → exec (.slowTierFailure t false) s = s.after s.iface
       (evFrom 13 0 0x0D01 1 (det [(16, [BitVec.ofNat 8 NvSt.failed.code])]) { d with nvme := { d.nvme with st := .failed } }))
     ∧ (∀ b, d.controlUp = true → exec (.ssdHealthWarning t b) s = s.after s.iface
       (nvmeSend 0 [.healthLog] (evFrom 13 0 0x0D02 1 (det [(16, [BitVec.ofNat 8 b])]) d)))
     ∧ (∀ id block o got, d.full = true → d.obj id = some o → (o.st = .promoting ∨ o.st = .home ∨ o.rewrite ≠ []) →
       (∀ b, got = some b → (if o.crcs.isEmpty then blockCrcs (d.objData o) else o.crcs)[block]? ≠ some (crcOf 0 b)) →
       let e := if o.slow then { d with nvme := { d.nvme with mediaErr := satInc d.nvme.mediaErr } } else d
       let e := if o.slow && got.isNone then nvmeSend 0 [.errorLog] e else e
       (o.bad.find? (fun x => x.1 == block) = none → exec (.slowReadFail t id ⟨block, got⟩) s =
         let f := e.setObj id fun o' => { o' with bad := o.bad ++ [(block, false)], readAt := e.now }
         let f := { f with tier := { f.tier with retries := satInc f.tier.retries } }
         s.after s.iface (if o.slow then nvmeSend (classQueue o.lastCls) [.read id false [(block, 1)]] f else f))
       ∧ (o.bad.find? (fun x => x.1 == block) = some (block, false) → o.mirrored = true → exec (.slowReadFail t id ⟨block, got⟩) s =
         let f := e.setObj id fun o' => { o' with bad := (o.bad.filter fun x => x.1 != block) ++ [(block, true)], readAt := e.now }
         s.after s.iface (nvmeSend (classQueue o.lastCls) [.read id true [(block, 1)]]
           (evFrom 12 0 0x0C01 0 (det [(20, leBytes 4 id), (24, leBytes 4 block)])
             { f with tier := { f.tier with mirrorReads := satInc f.tier.mirrorReads } }))))
     ∧ (∀ id block o b, d.full = true → d.obj id = some o →
       (if o.crcs.isEmpty then blockCrcs (d.objData o) else o.crcs)[block]? = some (crcOf 0 b) →
       exec (.slowReadFail t id ⟨block, some b⟩) s = s.after s.iface
         (d.setObj id fun o => { o with bad := o.bad.filter fun x => x != (block, false) }))
     ∧ (∀ id block o, d.full = true → d.obj id = some o → o.slow = true → (o.st = .promoting ∨ o.st = .home ∨ o.rewrite ≠ []) →
       o.readAt + d.nvme.timeoutMs.toNat * msNs ≤ d.now → o.bad.find? (fun x => x.1 == block) = none →
       exec (.nvmeCmdTimeout t id block) s =
         let e := { d with nvme := { d.nvme with timeouts := satInc d.nvme.timeouts, mediaErr := satInc d.nvme.mediaErr } }
         let e := nvmeSend 0 [.errorLog] e
         let e := e.setObj id fun o' => { o' with bad := o.bad ++ [(block, false)], readAt := e.now }
         s.after s.iface (nvmeSend (classQueue o.lastCls) [.read id false [(block, 1)]]
           { e with tier := { e.tier with retries := satInc e.tier.retries } })))
  ∧ (∀ (s : State) (t : Nat) (d : Dev) (id : Nat) (o : TierObj), s.devAt t = d → d.full = true → d.obj id = some o →
       (o.st = .promoting → d.tier.serving.contains id = true → d.ipmUsed ≤ ipmUnits → o.wants = [] →
         exec (.promotionDone t id) s =
           let bad := (o.bad.filter (·.2)).map (·.1)
           let place := d.ipmUnitsFor (units o.size)
           let b := d.objData o
           let e := putUnits place b ({ d with free := d.free + o.size }.setObj id fun o => { o with
             st := .resident, wants := [], bad := [], repair := bad, units := place })
           let e := movementEnds o b e
           let e := { e with tier := { e.tier with promotions := e.tier.promotions + 1 },
                             nvme := { e.nvme with reads := if o.slow then e.nvme.reads + 1 else e.nvme.reads } }
           let e := if bad.isEmpty then e else nvmeSend (classQueue o.lastCls) [.write id false (bad.map fun b => (b, 1))] e
           s.after s.iface (tierLeave id e))
       ∧ (o.st = .evicting → d.tier.serving.contains id = true → o.evict = [] → o.wants = [] →
         exec (.evictionDone t id) s =
           let e := (movementEnds o o.data d).setObj id fun o =>
             { o with st := .home, changed := false, evict := [], evictor := none, units := [], crcs := blockCrcs o.data }
           let e := if o.slow then nvmeSend (classQueue o.lastCls) [.flush] e else e
           s.after s.iface (tierLeave id { e with tier := { e.tier with evictions := e.tier.evictions + 1 } }))
       ∧ (∀ ok, o.repair.isEmpty = false → o.rewrite = [] →
         exec (.tierRepairDone t id ok) s =
           let e := d.setObj id fun o =>
             if ok then { o with repair := [] } else { o with repair := [], mirrored := false, ext := if o.mirrored then o.mir else o.ext, mir := [] }
           let e := if ok then nvmeSend (classQueue o.lastCls) [.flush] { e with tier := { e.tier with repaired := satInc e.tier.repaired } } else e
           s.after s.iface (evFrom 12 0 0x0C03 0 (det [(16, [if ok then 0 else 1]), (20, leBytes 4 id)]) e)))

/-- Models at work (R278, R283, R284): a wave takes the ready inferences of its cluster, INFERs and bands, up to its size and, in tier mode
0, streams its step's ingots once, in the class of its members; a band that becomes ready waits for a wave in progress, or starts one, or is
skipped where its own output slot still stands. Fusion's ticks (R296, R304-R308, R311, R314): at the tick's instant the snapshot is taken
and starts, waits for the tick that runs, or is recorded alone in CHECKING; the tick's end writes its tracks and its record, or a record
that says it was discarded, with what a rebuild lost. -/
def Obligations.NeuralAndFusionCommandsComplete : Prop :=
  (∀ (s : State) (t : Nat) (d : Dev) (c : Nat) (plan : List PlanTask), s.devAt t = d → d.full = true →
     (∀ n r, (d.slot n).st = .loaded → d.waveBusy n c = 0 → d.waveReady n c = [.inl r] → 0 < (d.slot n).wave.getD c 0 →
       exec (.waveStart t n c plan) s =
         let cls := if r.fleet then 2 else 1
         let e := if (d.slot n).mode = 0 then streamWave n c cls d else d
         let role := planRole n c (e.slot n) r.inst (e.pkg n)
         s.after s.iface ((addWork (.infer r.tok n r.inst) c cls role (inferPlan r.inst.isSome role plan) e).setSlot n fun x =>
           { x with reqs := x.reqs.map fun q => if q.tok = r.tok then { q with work := some e.comp.nextId } else q }))
     ∧ (∀ n b j, (d.slot n).st = .loaded → d.waveBusy n c = 0 → d.waveReady n c = [.inr (b, j)] → 0 < (d.slot n).wave.getD c 0 →
       (d.outHeld b j = false →
         exec (.waveStart t n c plan) s =
           let e := if (d.slot n).mode = 0 then streamWave n c 1 d else d
           let role := planRole n c (e.slot n) none (e.pkg n)
           s.after s.iface (addWork (.band b j.k j.tag) c 1 role (inferPlan false role plan) (e.setBind b fun x =>
             { x with jobs := x.jobs.map fun q => if q.k = j.k then { q with started := true } else q })))
       ∧ (d.outHeld b j = true → exec (.waveStart t n c plan) s = s.after s.iface (bandSkip b j d)))
     ∧ (∀ b x pos f tag, d.bind b = some x → x.ending = none → d.freeCluster x.slot = c → d.nextBand x = some (pos, f, tag) →
       (d.slot x.slot).st = .loaded →
       let job : BandJob := { k := x.k, inFlag := f, tag := tag, cluster := c, readyAt := d.now }
       let e := d.setBind b fun x => { x with pos := pos + 1, k := x.k + 1, jobs := x.jobs ++ [job] }
       ((d.slot x.slot).mode = 0 → 0 < e.waveBusy x.slot c → exec (.bindBandReady t b c plan) s = s.after s.iface e)
       ∧ (e.waveBusy x.slot c = 0 → e.waveReady x.slot c = [.inr (b, job)] → 0 < (d.slot x.slot).wave.getD c 0 →
         (e.outHeld b job = false →
           exec (.bindBandReady t b c plan) s =
             let e := if (d.slot x.slot).mode = 0 then streamWave x.slot c 1 e else e
             let role := planRole x.slot c (e.slot x.slot) none (e.pkg x.slot)
             s.after s.iface (addWork (.band b x.k tag) c 1 role (inferPlan false role plan) (e.setBind b fun y =>
               { y with jobs := y.jobs.map fun q => if q.k = x.k then { q with started := true } else q })))
         ∧ (e.outHeld b job = true → exec (.bindBandReady t b c plan) s = s.after s.iface (bandSkip b job e)))))
  ∧ (∀ (s : State) (t : Nat) (d : Dev), s.devAt t = d → d.full = true →
       (∀ plan, d.fusion.st ≠ .idle → d.fusion.next ≤ d.tb64 → d.tb64 < d.fusion.next + d.fusion.periodUs * usNs → d.fusion.asked = [] →
         d.fusion.stepTo = none → d.fusion.waiting = none →
         let snap := d.fusSnapshot d.fusion.next d.fusion.seq
         snap.1.conflicts = [] →
         let lates := ((List.range 32).filter fun i => snap.1.late.testBit i).length
         let e := leaveMasked (d.setFus fun f => { f with
           next := f.next + f.periodUs * usNs, seq := f.seq + 1, lastTick := some f.next, runs := snap.2, masked := BitVec.ofNat 32 snap.1.masked
           lateForTick := satAdd f.lateForTick lates })
         let tick := { snap.1 with plan := plan, reset := false, resetToks := [], final := none }
         (d.fusion.st = .running → d.fusion.running = none →
           exec (.fusionTick t plan) s = s.after s.iface (startTick tick (e.setFus fun f => { f with waiting := none })))
         ∧ (d.fusion.st = .running → d.fusion.running ≠ none →
           exec (.fusionTick t plan) s = s.after s.iface (e.setFus fun f => { f with waiting := some tick }))
         ∧ (d.fusion.st = .checking → exec (.fusionTick t plan) s = s.after s.iface (plainTick tick 32 e)))
       ∧ (∀ k w, d.fusion.running = some k → k.done = some w → k.reset = false → k.resetToks = [] → d.fusion.waiting = none →
         exec (.fusionTickCommit t true) s = s.after s.iface
           ((putTick k (16 + d.fusionStale.1) 0 k.cluster d.fusionStale.2 ((staleTold d).setFus fun f =>
             { f with discarded := satInc f.discarded })).setFus fun f => { f with running := none }))
       ∧ (∀ k w, d.fusion.running = some k → k.done = some w → k.reset = false → k.resetToks = [] → d.fusion.waiting = none →
         d.fusion.maxTracks = 0 → d.pk d.fusion.slot 64 4 = 0 →
         exec (.fusionTickCommit t false) s =
           let n := d.fusion.slot
           let stale := d.fusionStale
           let e := commitStep n 0 w.state (endTracks k (staleTold d))
           let e := if ((e.slot n).insts.getD 0 {}).sinceCkpt = 0 then e.setFus fun f => { f with ckpt := f.tracks } else e
           let e := e.setSlot n fun x => { x with committed := x.committed + 1 }
           s.after s.iface ((putTick k (128 * bit w.accSat + 256 * bit w.boundHit + stale.1) d.fusion.ending.length k.cluster stale.2 e).setFus
             fun f => { f with running := none })))

/-- The estimator's own instants (R369): the safety island writes the record the control complex has not written in time, an inertial gap is
marked and after four periods the secondary is used, a TRACKING estimator without an update is LOST. -/
def Obligations.EstimatorInstantsComplete : Prop :=
  ∀ (s : State) (t : Nat) (d : Dev), s.devAt t = d → d.islandUp = true →
    (∀ x, d.est.due = some x → x.stamp + 120 * usNs * 65536 ≤ d.time.tb →
      exec (.poseTakeoverTimeout t) s = s.after s.iface ((writePose x 1 (poseSource 1 d)).setEst fun e => { e with ccReady := decide (0 < d.liveCores) }))
    ∧ (d.est.st ≠ .off → d.est.secondary = false → 2 * d.imuPeriodUs (d.ec 2 1) * 1000 ≤ d.imuQuiet (d.ec 2 1) →
      exec (.imuGapTimeout t) s = s.after s.iface ((estExtrapolate (d.ec 2 1) d).setEst fun e => { e with gap := true }))
    ∧ (d.est.st ≠ .off → d.est.secondary = false → 4 * d.imuPeriodUs (d.ec 2 1) * 1000 ≤ d.imuQuiet (d.ec 2 1) → d.ec 3 1 ≠ 0xFF →
      d.imuLog (d.ec 3 1) ≠ [] → d.imuQuiet (d.ec 3 1) ≤ 2 * d.imuPeriodUs (d.ec 3 1) * 1000 →
      exec (.imuSwitchTimeout t) s = s.after s.iface { d with est := { d.est with secondary := true, gap := false, okRun := 0 } })
    ∧ (d.full = true → d.est.st = .tracking → d.est.lastOk + d.ec 22 2 * msNs ≤ d.now →
      exec (.estLostTimeout t) s = s.after s.iface (evFrom 6 0 0x0610 1 (det [(16, [BitVec.ofNat 8 EstSt.lost.code, BitVec.ofNat 8 EstSt.tracking.code])])
        { d with est := { d.est with st := .lost } }))

/-- The estimator's problems (R374-R382, R385): a full frame set starts an update where a cluster has room for it, a converged one corrects
the state, a failed one is counted, and the window's, the loop's and the pose graph's results wait for the map epoch that commits them. -/
def Obligations.EstimatorCommandsComplete : Prop :=
  (∀ (s : State) (t : Nat) (d : Dev), s.devAt t = d → d.full = true →
     (∀ tov rest plan c, d.estLive = true → d.est.upd = none → d.frameSet = some (tov, rest) →
       d.poseCluster ((plan.map (·.cycles)).sum) (clustersOf d.clusterEn) = some c →
       let e := windowDraws (d.setEst fun e => { e with
         bands := rest, upd := some (false, tov), ran := e.ran.filter (· != 0)
         sets := (e.sets ++ [tov]).drop (e.sets.length + 1 - d.ec 7 1)
         descr := ((e.descrs.filter fun x => decide (tov ≤ x.1 ∧ x.1 ≤ tov + msNs)).getLast?.map (·.2)).getD e.descr
         descrs := e.descrs.filter fun x => decide (tov + msNs < x.1) })
       (d.spoiltSet tov = true → exec (.frameUpdateStart t plan) s = s.after s.iface (spoiltUpdate rest d))
       ∧ (d.spoiltSet tov = false → plan = [] → exec (.frameUpdateStart t plan) s = s.after s.iface
         (e.setEst fun e => { e with ran := 0 :: e.ran, leads := e.leads.set 0 c }))
       ∧ (d.spoiltSet tov = false → plan ≠ [] → exec (.frameUpdateStart t plan) s = s.after s.iface (estWork 0 c 0 plan e)))
     ∧ (∀ tov (o : EstOutcome), d.est.upd = some (false, tov) → d.est.ran.contains 0 = true →
       let e := estOutcome 0 o (d.setEst fun e => { e with upd := none, ran := e.ran.filter (· != 0), drawn := [] })
       let good := estSuccess tov (estCorrect o tov false e)
       (o.status = 0 → good.kfDue o tov = false → exec (.frameUpdateDone t o) s = s.after s.iface (gnssStart good))
       ∧ (o.status = 0 → good.kfDue o tov = true → exec (.frameUpdateDone t o) s = s.after s.iface (gnssStart (takeKeyframe tov good)))
       ∧ (o.status = 0x33 → exec (.frameUpdateDone t o) s = s.after s.iface
         (gnssStart (estUpdateFails e))))
     ∧ (∀ tov (o : EstOutcome), d.est.upd = some (true, tov) → d.est.ran.contains 0 = true → o.status = 0 →
       exec (.frameUpdateDone t o) s =
         let e := estOutcome 0 o (d.setEst fun e => { e with upd := none, ran := e.ran.filter (· != 0), drawn := [] })
         s.after s.iface (gnssStart (estSuccess tov (estCorrect o tov false e))))
     ∧ (∀ o : EstOutcome, d.est.ba = true → d.est.ran.contains 1 = true →
       let written := o.status ≤ 1 || o.status = 0x32
       let e := estOutcome 1 o (d.setEst fun e => { e with
         ba := false, ran := e.ran.filter (· != 1), baDrawn := []
         retained := if written then some (o.poses.filter fun x => e.baWindow.contains x.1) else e.retained })
       e.est.baAgain = false → e.est.commit = none → e.epochWaits 1 = false → e.est.commits.getD 1 0 = e.est.baFrom →
       (o.status = 0 → exec (.windowBaDone t o) s = s.after s.iface
         (e.setEst fun x => { x with commit := some { cause := 0, poses := o.poses.filter fun y => e.est.baWindow.contains y.1 } }))
       ∧ (o.status = 0x33 → exec (.windowBaDone t o) s = s.after s.iface (e.setEst fun e => { e with baFail := satInc e.baFail })))
     ∧ (∀ o : EstOutcome, d.est.pg ≠ [] → d.est.ran.contains 2 = true →
       let e := estOutcome 2 o (d.setEst fun e => { e with pg := [], ran := e.ran.filter (· != 2) })
       e.est.commit = none → e.epochWaits 0 = false → e.est.commits.getD 0 0 = e.est.pgFrom → o.status = 0 →
       exec (.poseGraphDone t o) s = s.after s.iface
         (startPg (estCorrect o (2 ^ 64) true (e.setEst fun e => { e with commit := some {
           cause := 1, poses := o.poses.filter fun x => decide (d.est.pgSpan.1 < x.1 ∧ x.1 ≤ d.est.pgSpan.2), loops := d.est.pg } }))))
     ∧ (∀ j ok kf a, d.place.ended.reverse.find? (fun x => match x.1.owner with
         | .loop _ => true
         | _ => false) = some (j, ok) → j.owner = .loop kf → d.est.asked.find? (fun a => a.1 == kf) = some a →
       let e := (d.setPlace fun p => { p with ended := p.ended.filter fun x => x != (j, ok) }).setEst fun e => { e with
         asked := e.asked.filter fun b => b.1 != kf }
       let e := e.setEst fun e => { e with reloc := false }
       (d.ix 0).st = .ready ∨ (d.ix 0).st = .merging → ∀ f n, appendVecs 0 [a.2] e = (f, .inl n) → (f.ix 0).side < 4096 →
       exec (.loopQueryDone t []) s = s.after s.iface (f.setEst fun e => { e with inserted := e.inserted ++ [kf] }))
     ∧ (∀ c tiles, d.est.commit = some c → c.poses = [] → c.loops = [] → d.est.fresh = [] → d.est.baAgain = false →
       exec (.mapEpochCommit t tiles) s =
         let e := tiles.foldl putTile d
         let n := e.est.epoch + 1
         let old := e.est.kfs
         let e := e.setEst fun e => { e with
           epoch := n, commits := upd e.commits c.cause (· + 1), commit := e.nextCommit.head?, nextCommit := e.nextCommit.drop 1 }
         s.after s.iface (startPg (streamRecord 0x0511 e.tb64 false
           (epochRecord n e.tb64 ((old.map (·.id)).foldl max 0) 0 0 0 c.cause tiles.length) e))))

/-- The place units (R395-R397, R403, R404, R409): a walker takes the oldest job that fits, a query's end writes its answer and, with the
last one, ends its job; a merge's end gives the index a new graph; a faulty walker is fenced. -/
def Obligations.PlaceCommandsComplete : Prop :=
  ∀ (s : State) (t : Nat) (d : Dev), s.devAt t = d → d.full = true →
    (∀ w j l, (d.wk w).st = .online → d.waitingJobs = j :: l → d.fits w j = true →
      exec (.placeQueryAdmit t w) s = s.after s.iface
        ((d.setJob j.id fun j => { j with snap := some (j.snap.getD (d.snapFor j)), waiting := j.waiting.drop 1 }).setPlace fun p =>
          { p with ctx := p.ctx ++ [{ walker := w, slot := d.freeCtx w, job := j.id, query := j.waiting.headD 0 }] }))
    ∧ (∀ w slot c j v, d.place.ctx.find? (fun c => c.walker == w && c.slot == slot) = some c → d.jobOf c.job = some j → j.snap = some v →
      d.readsRewrite j v (j.vecs.getD c.query []) = false →
      exec (.placeQueryDone t w slot) s =
        let a := (d.ix j.index).answer j v (j.vecs.getD c.query [])
        let j' := { j with done := j.done ++ [(c.query, a.flags, a.bytes j v c.query)] }
        let e := d.setPlace fun p => { p with
          ctx := p.ctx.filter (fun y => y != c), jobs := p.jobs.map (fun y => if y.id = j.id then j' else y), queries := p.queries + 1
          exhaustive := if j.exhaustive then p.exhaustive + 1 else p.exhaustive
          expansions := p.expansions + BitVec.ofNat 64 a.expansions, dangling := satAdd p.dangling a.dangling }
        let e := e.setWk w fun k => { k with queries := k.queries + 1 }
        s.after s.iface (if j.done.length + 1 = j.vecs.length then endJob j' none e else e))
    ∧ (∀ i m, (d.ix i).st = .merging → (d.ix i).merge = some m → m.tok = none →
      exec (.indexMergeCommit t i) s =
        let g := mergeGraph (d.ix i) m
        let e := storeIndex i [4] ((beforeCommit i d).setIx i fun x => { x with cur := g.1, old := x.cur :: x.old, merge := none })
        let e := dropVersions i (ixState i .ready 0 (e.setAlloc (0x3000 + i) 0))
        let e := sideHigh i (e.setPlace fun p => { p with merges := p.merges + 1 })
        s.after s.iface (evFrom 10 0 0x0A03 0 (det [(16, [BitVec.ofNat 8 i]), (20, leBytes 4 g.2.1), (24, leBytes 4 g.2.2)]) e))
    ∧ (∀ w, w < 8 → d.islandUp = true → d.assayOf 1 w = none → (d.wk w).st ≠ .gated → (d.wk w).st ≠ .fenced →
      exec (.walkerFault t w) s = s.after s.iface (walkerFence w (unitFenced 1 w 8 (logFault 3 1 w 8 2 0 d))))

/-- SXP sessions and their ports (R424, R427, R428, R431-R436): a set-up message that passes its checks is answered with a signed one, its
keys derived from both, and the confirmation opens the session; a protected datagram that opens under the session's keys counts, and its
message is taken or kept until whole; and keys, idle sessions, unfinished messages, kept replies and the port change at their times. Whether
a signature verifies and whether a datagram opens are free functions (notes/assumptions/31.md), so those clauses give the outcome for each.
-/
def Obligations.SessionCommandsComplete : Prop :=
  ∀ (s : State) (t : Nat) (d : Dev), s.devAt t = d → d.controlUp = true →
    (∀ h : SxpHello, d.answers h.udp = true →
      exec (.sxpInit t h) s = match d.helloFault h (setupFields h) with
        | some r => s.after s.iface (helloRefused h r d)
        | none =>
          let e := sessionRoom d
          let admin := h.udp == 47810
          let peer := if admin then 0xFFFF else h.srcDev
          let id := e.fleet.nextSession
          let kem := Config.kemEncaps h.kem e.coins
          let r := e.hello h.udp h.session id kem.2
          let r := { r with sig := padTo 4627 (Config.identitySign e.serial.toNat (Config.sha3 (setupBytes h) ++ setupFields r)) }
          let made : Session := { id := id, peerId := h.session, peer := peer, admin := admin, st := .replied, madeAt := e.now
                                  usedAt := e.now, keys := sessionKeys kem.1 h r }
          let f : Dev := { e with free := e.free + 96 }
          let f := f.setFleet fun f => { f with
            nextSession := id + 1, rx := f.rx + 1, sessions := f.sessions.filter (fun x => !(x.peer == peer && x.st == .replied)) ++ [made] }
          s.after s.iface (txMsg peer { kind := 2, src := f.devId, dst := peer, msgId := 0, time := r.time, body := .setup r } f))
    ∧ (∀ (h : SxpHello) r, d.answers h.udp = true → d.helloFault h (setupFields h) = some r → d.fleet.refusedAt = none →
      exec (.sxpInit t h) s = s.after s.iface (evFrom 16 0 0x1002 0
        (det [(16, [BitVec.ofNat 8 r]), (20, leBytes 2 (if h.cred = 0 ∧ h.credential.length = 7283 then fld h.credential 6 2 else 0xFFFF))])
        (d.setFleet fun f => { f with hsFail := satInc f.hsFail, refusedAt := some d.now })))
    ∧ (∀ (h : SxpHello) x, d.fleetOn = true → h.udp = 47811 →
      d.fleet.sessions.find? (fun s => s.id == h.sid && s.st == .inited && s.peer == h.srcDev) = some x →
      exec (.sxpReply t h) s =
        let init := x.init.getD {}
        match d.helloFault h (Config.sha3 (setupBytes init) ++ setupFields h) with
        | some r => s.after s.iface (helloRefused h r d)
        | none =>
          let keys := sessionKeys (Config.kemDecaps x.eph h.kem) init h
          let keyed (y : Session) : Session := if y.id = x.id then { y with peerId := h.session, keys := keys, init := none, eph := [] } else y
          let e := sessionLive x (d.setFleet fun f => { f with rx := f.rx + 1, sessions := f.sessions.map keyed })
          s.after s.iface (sessionReqs x.peer (txMsg x.peer { kind := 3, src := e.devId, dst := x.peer, msgId := 0, time := e.tb64 } e)))
    ∧ (∀ id x b, d.fleet.sessions.find? (fun s => s.id == id && s.st == .replied) = some x → x.admin = true ∨ d.fleetOn = true →
      exec (.sxpConfirm t id b) s = s.after s.iface (if x.opens 0 64 b then
          sessionReqs x.peer (sessionLive x (d.setFleet fun f => { f with
            rx := f.rx + 1, sessions := f.sessions.map fun x => if x.id = id then { x with rx := x.rx + 1, high := some 0, seen := [0] } else x }))
        else d.setFleet fun f => { f with authFail := satInc f.authFail }))
    ∧ (∀ (g : SxpDgram) x, d.fleet.sessions.find? (fun s => s.id == g.session && s.st == .opened) = some x → x.admin = true ∨ d.fleetOn = true →
      g.len ≤ 8952 → g.frag = 0 → d.fleet.reasm = [] →
      let m := { g.msg with src := if x.admin then 0xFFFF else g.msg.src }
      let r := sessionRx x g.seq (x.opens g.seq (g.len - 16) g.sealedBytes) d
      (g.count = 1 → exec (.sxpDatagramRx t g) s = s.after s.iface (if r.2 then deliver m (sxpTap m r.1) else r.1))
      ∧ (2 ≤ g.count → g.count ≤ 4096 → exec (.sxpDatagramRx t g) s = s.after s.iface (if r.2 then r.1.setFleet fun f => { f with
          reasm := [{ session := x.id, msgId := m.msgId, count := g.count, firstAt := r.1.now, msg := m, got := [0], bytes := g.len - 40 }] }
        else r.1)))
    ∧ (∀ (g : SxpDgram) x, d.fleet.sessions.find? (fun s => s.id == g.session && s.st == .opened) = some x → x.admin = true ∨ d.fleetOn = true →
      g.len ≤ 8952 → x.seen.contains g.seq = true ∨ x.high.any (fun h => decide (g.seq + 1024 ≤ h)) = true →
      exec (.sxpDatagramRx t g) s = s.after s.iface (d.setFleet fun f => { f with authFail := satInc f.authFail }))
    ∧ (∀ id x, d.full = true → d.fleetOn = true → d.fleet.sessions.find? (fun s => s.id == id && s.st == .opened && s.expire.isNone && !s.admin) = some x →
      2 ^ 32 ≤ x.tx ∨ 2 ^ 32 ≤ x.rx ∨ x.madeAt + 86400 * sNs ≤ d.now →
      exec (.sessionRekey t id) s = s.after s.iface (pushInit x.peer d))
    ∧ (∀ id x e, d.fleet.sessions.find? (fun s => s.id == id) = some x → x.expire = some e → e ≤ d.now →
      exec (.sessionOldKeyExpire t id) s = s.after s.iface (sessionClose id d))
    ∧ (∀ id x, d.fleet.sessions.find? (fun s => s.id == id) = some x → x.usedAt + 120 * sNs ≤ d.now →
      exec (.sessionIdleTimeout t id) s = s.after s.iface (sessionClose id d))
    ∧ (∀ session msgId, exec (.sxpReassemblyTimeout t session msgId) s = s.after s.iface { d with fleet := { d.fleet with
        reasm := d.fleet.reasm.filter fun r => !(r.session == session && r.msgId == msgId && decide (r.firstAt + 500 * msNs ≤ d.now)) } })
    ∧ (∀ src msgId, exec (.replyCacheExpire t src msgId) s = s.after s.iface { d with fleet := { d.fleet with
        kept := d.fleet.kept.filter fun k => !(k.src == src && k.msgId == msgId && decide (k.until_ ≤ d.now)) } })
    ∧ (let b := d.fcf 27 1
      d.fleet.st ≠ .off → d.fleet.alt = false → b.testBit 4 = true → d.portUp (bitsOf 1 0 b) = false →
      exec (.sxpPortFailover t) s =
        let e := d.setFleet fun f => { f with alt := true }
        s.after s.iface (evFrom 16 0 0x1005 1 (det [(16, [BitVec.ofNat 8 e.sxpPort])])
          (emit (.ipReply e.sxpPort (if e.fcf 26 1 = 6 then 5 else 4) e.sxpTag (e.address e.devId)) e)))
    ∧ (let p := bitsOf 1 0 (d.fcf 27 1)
      d.fleet.alt = true → d.portUp p = true → (d.eth.getD p {}).linkAt + 10 * sNs ≤ d.now →
      exec (.sxpPortReturn t) s =
        let e := d.setFleet fun f => { f with alt := false }
        s.after s.iface (evFrom 16 0 0x1005 0 (det [(16, [BitVec.ofNat 8 e.sxpPort])])
          (emit (.ipReply e.sxpPort (if e.fcf 26 1 = 6 then 5 else 4) e.sxpTag (e.address e.devId)) e)))
    ∧ (∀ port kind body, d.fleet.st ≠ .off → (d.fcf 26 1 = 6 ∧ (kind = 1 ∨ kind = 3)) ∨ (d.fcf 26 1 ≠ 6 ∧ (kind = 0 ∨ kind = 2)) →
      exec (.ipControlRx t port kind (d.address d.devId) body) s = s.after s.iface (emit (.ipReply port kind d.sxpTag body) d))

/-- Messages between parts (R436, R439, R440, R443-R445, R447-R452): the oldest message of its kind is taken; `e` is the part without it.
Each clause is the case in which the request is served, or its answer is awaited. The fleet's timers (R436, R452): an unanswered request is
sent again, a shard that does not answer a query is asked elsewhere or is missing, a late publication says so, and a claim and a handover
end. -/
def Obligations.FleetMessagesAndTimersComplete : Prop :=
  (∀ (s : State) (t : Nat) (d : Dev), s.devAt t = d → d.full = true → ∀ m e,
     (∀ me prev items h, takeMsg 0x10 d = some (m, e) → m.body = .publish me prev items → e.host m.shard = some h → e.actsOn m = true →
       exec (.publish t) s = s.after s.iface (pubsRun m.shard (e.setHost m.shard fun h => { h with pubs := h.pubs ++ [{
         src := m.src, mapEpoch := me, prev := prev, items := items, msgs := [m] }] })))
     ∧ (∀ p epoch, takeMsg 0x11 d = some (m, e) → e.fleet.pubs = [p] → p.msgIds = [m.replyTo] → p.out = some epoch →
       exec (.publishAck t) s = s.after s.iface { e with fleet := { e.fleet with
         pubs := [{ p with out := none, msgIds := [], late := false }]
         reqs := e.fleet.reqs.filter fun r => r.msg.msgId != m.replyTo } })
     ∧ (∀ r h, takeMsg 0x12 d = some (m, e) → m.body = .revision r → e.host m.shard = some h → e.actsOn m = true → h.fullSync = false →
       (r.num ≤ h.rev → exec (.revision t) s = s.after s.iface (sendReply m 0x13 0 (.revisionAck h.rev h.st.code) true e))
       ∧ (∀ f, r.num = h.rev + 1 → applyRevision m.shard r e = some f →
         exec (.revision t) s = s.after s.iface (sendReply m 0x13 0 (.revisionAck r.num h.st.code) true f)))
     ∧ (∀ n, takeMsg 0x13 d = some (m, e) → m.body = .revisionAck n 0x0903 →
       exec (.revisionAck t) s = s.after s.iface (ackCheck m.shard ((notePeer m.shard m.src 0x0903 (dropReq m.replyTo e)).setHost m.shard fun h =>
         { h with acks := h.acks.map fun a => if a.num ≤ n && !(a.got.contains m.src) then { a with got := m.src :: a.got } else a })))
     ∧ (∀ k len rr vecs h, takeMsg 0x20 d = some (m, e) → m.body = .query k len rr vecs → e.host m.shard = some h → e.actsOn m = true →
       (e.ix h.slot).st = .ready ∨ (e.ix h.slot).st = .merging →
       exec (.query t) s = s.after s.iface
         (addJob { id := 0, owner := .fleet e.fleet.nextServe, seq := e.hif.fetches, index := h.slot, low := true, k := k, rerank := rr, len := len
                   vecs := vecs.map (padTo (e.ix h.slot).vecBytes) }
           (e.setFleet fun f => { f with nextServe := e.fleet.nextServe + 1, serving := f.serving ++ [(e.fleet.nextServe, m)] })))
     ∧ (∀ l q x, takeMsg 0x21 d = some (m, e) → m.body = .queryResult l →
       e.fleet.queries.find? (fun q => q.shards.any fun s => s.msgIds.contains m.replyTo) = some q →
       q.shards.find? (fun s => s.msgIds.contains m.replyTo) = some x → x.answer = none → x.missing = false →
       exec (.queryResult t) s = s.after s.iface (queryCheck q.id ((dropAsked x e).setFleet fun f => { f with
         queries := f.queries.map fun y =>
           if y.id = q.id then { y with shards := y.shards.map fun z => if z.shard = x.shard then { z with answer := some l } else z } else y })))
     ∧ (∀ b old, takeMsg 0x30 d = some (m, e) → m.body = .notice b → e.shardEntry m.shard = some old → newerEntry b old = false →
       exec (.roleNotice t) s =
         let f := takeEntry m.shard b 1 e
         s.after s.iface (sendReply m 0x31 0 (.revisionAck (((f.host m.shard).map (·.rev)).getD 0) (f.shardSt m.shard).code) true f))
     ∧ (∀ n h, takeMsg 0x31 d = some (m, e) → m.body = .revisionAck n 0x0903 → (dropReq m.replyTo e).host m.shard = some h →
       exec (.noticeAck t) s = s.after s.iface ((h.revs.reverse.filter fun r => decide (n < r.num)).foldl
         (fun d r => sendReq 0x12 m.src m.shard 0 (.revision r) d) (notePeer m.shard m.src 0x0903 (dropReq m.replyTo e))))
     ∧ (∀ h, takeMsg 0x32 d = some (m, e) → m.body = .syncReq 0 0x0902 → e.host m.shard = some h → e.actsOn m = true → h.st = .primary →
       exec (.syncReq t) s = s.after s.iface
         (sendReply m 0x33 0 (.syncData (some (e.copyOf h)) [] h.rev h.st.code) true (notePeer m.shard m.src 0x0903 e)))
     ∧ (∀ h, takeMsg 0x33 d = some (m, e) → e.fleet.reqs.any (fun r => r.msg.msgId == m.replyTo) = true →
       let f := dropReq m.replyTo e
       f.host m.shard = some h → m.body = .syncData none [] h.rev 0x0904 → h.st = .syncing → h.fullSync = false →
       exec (.syncData t) s = s.after s.iface (shardState m.shard .replica 0 f))
     ∧ (∀ latest, takeMsg 0x34 d = some (m, e) → m.body = .handoverReq latest → e.shardSt m.shard = .replica → e.actsOn m = true →
       exec (.handoverReq t) s = s.after s.iface (handoverCheck m.shard (e.setHost m.shard fun h => { h with taking := some (m, latest) })))
     ∧ (∀ b h old k succ at_, takeMsg 0x35 d = some (m, e) → m.body = .handoverAck b →
       let f := dropReq m.replyTo e
       f.host m.shard = some h → f.shardEntry m.shard = some old → h.handing = some (k, succ, at_) → succ = m.src → h.pubs = [] →
       exec (.handoverAck t) s = s.after s.iface (shardState m.shard .replica 0
         ((releaseHeld m.shard (finish k (.ok (eEpoch b)) (setEntry m.shard b f))).setHost m.shard fun h =>
           { h with handing := none, peers := [] })))
     ∧ (∀ b id old, takeMsg 0x40 d = some (m, e) → m.body = .bounce b id → e.shardEntry m.shard = some old → newerEntry b old = false →
       let f := takeEntry m.shard b 1 (e.setFleet fun f => { f with bounceRecv := satInc f.bounceRecv })
       f.fleet.reqs.find? (fun r => r.msg.msgId == id) = none →
       exec (.bounce t) s = s.after s.iface f)
     ∧ (∀ b payload, takeMsg 0x50 d = some (m, e) → m.body = .adminDesc b payload → e.mayFetch .net (parseDesc (padTo 64 b)).2 = true →
       exec (.adminDesc t) s =
         let x := parseDesc (padTo 64 b)
         let r := e.chan .net
         let f := e.setFleet fun f => { f with adminMsgs := f.adminMsgs ++ [(r.nextCount - BitVec.ofNat 32 r.base, m.msgId)] }
         let w := fetchDesc .net x.1 { x.2 with payload := payload } (s.iface, f)
         s.after w.1 w.2))
  ∧ (∀ (s : State) (t : Nat) (d : Dev), s.devAt t = d → d.full = true →
       (∀ id r, d.fleet.reqs.find? (fun r => r.msg.msgId == id) = some r → d.fleetOn = true → 0 < r.sends → r.sends < 5 → r.nextAt ≤ d.now →
         r.msg.kind ≠ 0x20 → (r.msg.kind = 0x10 → d.publishes = true) →
         exec (.sxpResendTimeout t id) s = s.after s.iface (pumpReq id (d.setFleet fun f => { f with resend := satInc f.resend })))
       ∧ (∀ q k x y, d.fleet.queries.find? (fun y => y.id == q) = some x → x.shards.find? (fun s => s.shard == k) = some y → y.answer = none →
         y.missing = false → y.deadline ≤ d.now →
         (y.asked < 2 → y.asked < y.holders.length → exec (.fleetQueryTimeout t q k) s = s.after s.iface (askShard q k (dropAsked y d)))
         ∧ (2 ≤ y.asked → exec (.fleetQueryTimeout t q k) s = s.after s.iface (queryCheck q ((dropAsked y d).setFleet fun f => { f with
           shardMissing := satInc f.shardMissing
           queries := f.queries.map fun y => if y.id = q then
               { y with shards := y.shards.map fun z => if z.shard = k then { z with missing := true } else z } else y }))))
       ∧ (∀ k p e, d.fleet.pubs.find? (fun p => p.shard == k) = some p → p.out = some e → p.late = false →
         p.firstAt + d.fleet.publishTmoS.toNat * sNs ≤ d.now →
         exec (.publishLateTimeout t k) s = s.after s.iface (evFrom 16 0 0x1004 1 (det [(16, leBytes 4 k), (20, leBytes 8 e)])
           (d.setFleet fun f => { f with pubs := f.pubs.map fun q => if q.shard = k then { q with late := true } else q })))
       ∧ (∀ k h, d.host k = some h → h.st = .claiming → h.claimEnd ≤ d.now →
         exec (.claimTimeout t k) s = s.after s.iface (becomePrimary k 0 true [] d))
       ∧ (∀ k h tok succ end_, d.host k = some h → h.handing = some (tok, succ, end_) → end_ ≤ d.now →
         exec (.shardHandoverTimeout t k) s = s.after s.iface (pubsRun k (shardState k .primary 0
           (finish tok (.conflict (((h.peers.find? fun p => p.1 == succ).map (·.2)).getD 0x0901))
             ((d.setFleet fun f => { f with reqs := f.reqs.filter fun r => !(r.msg.shard == k && r.msg.kind == 0x34) }).setHost k fun h =>
               { h with handing := none }))))))

/-- Faults of units and of the package (R458, R461, R462, R464, R465, R468, R471-R473, R475, R483, R484, R496): a faulty engine or control
core is fenced and its work moves, a fabric fault raises a cause for base-metal mode, a fatal one owes a reset 100 ms later, an Assay's end
gives its unit back or keeps it fenced, a Touchstone stream is judged, and the SAFE_STOP and HEARTBEAT pins follow the part. -/
def Obligations.FaultCommandsComplete : Prop :=
  ∀ (s : State) (t : Nat) (d : Dev), s.devAt t = d → d.islandUp = true →
    (∀ c e cls cause detail, (d.eng c e).st = .live → (d.eng c e).running = none → (d.eng c e).leaving = none →
      exec (.engineFault t c e cls cause detail) s =
        let u := engUnit c e
        let f := (unitFenced 0 u cause (logFault cls 0 u cause 2 detail d)).setEng c e fun x => { x with st := .fenced, running := none, leaving := none }
        s.after s.iface (fencedCause (mayRise c 0 (evacuate c e f))))
    ∧ (∀ k cause, k < 4 → d.assayOf 3 k = none → d.flt.core.getD k 0 = 0 →
      exec (.controlCoreFault t k cause) s = s.after s.iface
        (fencedCause (coreGone k 1 true (unitFenced 3 k cause (logFault 3 3 k cause 2 0 d)))))
    ∧ (∀ detail, exec (.fabricFault t detail) s = s.after s.iface
        (let e := logFault 5 0xFF 0 11 3 detail d
         { e with flt := { e.flt with causes := e.flt.causes ||| 64 } }))
    ∧ (∀ code, d.flt.fatal = none → 3 ≤ code → code ≤ 6 →
      exec (.fatalFault t code) s =
        let e := logFault 6 0xFF 0 (if code = 3 then 13 else if code = 4 then 12 else if code = 5 then 14 else 15) 4 0 d
        s.after s.iface { e with flt := { e.flt with fatal := some (code, d.now + 100 * msNs), fatalEv := some (code, d.tb64) } })
    ∧ (∀ u tok at_, let a : AssayRun := { kind := 0, unit := u, why := .unitReturn tok, startAt := at_ }
      d.assayOf 0 u = some a →
      (exec (.assayDone t 0 u 0) s = s.after s.iface (finish tok .ok (unitReturned 0 u 0 (fencedClear
          ((assayResult a 0 d).setEng (u / 256) (u % 256) fun x => { x with st := if x.st = .assay then .live else x.st })))))
      ∧ (∀ code, 1 ≤ code → code ≤ 5 → exec (.assayDone t 0 u code) s = s.after s.iface
          (finish tok { (Cpl.of stDataError) with result0 := BitVec.ofNat 64 code }
            ((assayResult a code d).setEng (u / 256) (u % 256) fun x => { x with st := .fenced }))))
    ∧ (∀ n, d.full = true → 0 < d.flt.rotateS.toNat → d.flt.rotateAt + d.flt.rotateS.toNat * sNs ≤ d.now →
      (d.flt.assays.any fun a => a.why == .rotation) = false →
      ((List.range 6).any fun c => (d.clus c).eng.any fun x => x.leaving == some (none, true)) = false →
      ((List.range 144).map fun i => (d.flt.rotateNext + i) % 144).find? (fun n =>
        (d.clus (n / 24)).on && (d.eng (n / 24) (n % 24)).st == .live) = some n →
      d.flt.minLive.toNat < d.keptEngines → d.overCeiling (n / 24) 0 (d.keptIn (n / 24) - 1) = false → (d.eng (n / 24) (n % 24)).leaving = none →
      exec (.assayRotation t) s = s.after s.iface
        (({ d with flt := { d.flt with rotateAt := d.now, rotateNext := (n + 1) % 144 } } : Dev).setEng (n / 24) (n % 24) fun x =>
          { x with leaving := some (none, true) }))
    ∧ (∀ n u, d.ts[n]? = some u → u.st = .running →
      (u.matched = true → exec (.tsStreamEnd t n) s = s.after s.iface
        { d with ts := upd d.ts n fun u => { u with result := BitVec.ofNat 64 u.value, st := if u.matched then .matched else .mismatched
                                                    mismatch := u.mismatch || !u.matched } })
      ∧ (u.matched = false → exec (.tsStreamEnd t n) s = s.after s.iface
        (ev 0x0E05 1 (det [(16, [BitVec.ofNat 8 n]), (17, [BitVec.ofNat 8 u.tap.toNat]), (20, leBytes 8 u.value)])
          { d with ts := upd d.ts n fun u => { u with result := BitVec.ofNat 64 u.value, st := if u.matched then .matched else .mismatched
                                                      mismatch := u.mismatch || !u.matched }
                   flt := { d.flt with tsMismatch := satInc d.flt.tsMismatch } })))
    ∧ (d.driven 17 = true →
      exec (.safeStopCheck t) s = s.after s.iface
        (if d.flt.stop = d.stopLevel then d else
          let e := emit (.safeStop d.stopLevel) d
          { e with flt := { e.flt with stop := d.stopLevel } }))
    ∧ (d.flt.beatAt + d.beatNs ≤ d.now → d.flt.fatal = none → d.driven 18 = true →
      exec (.heartbeatToggle t true) s = s.after s.iface (emit (.heartbeat (!d.flt.beat))
        { d with flt := { d.flt with beatAt := d.now, selfFail := false, beat := !d.flt.beat } }))
    ∧ (∀ what kind addr,
      exec (.hmViolation t what kind addr) s =
        let e := logFault 8 0xFF 0 14 3 (if what = 2 then addr else 0) d
        let e := ev 0x0F03 2 (det [(16, [BitVec.ofNat 8 what, BitVec.ofNat 8 (if what = 1 then kind else 0)]), (20, leBytes 8 (if what = 2 then addr else 0))]) e
        s.after s.iface (raiseCause 4 { e with trust := { e.trust with
          violations := satInc e.trust.violations, security := true } }))
    ∧ (∀ usable files, exec (.cardInsertRemove t true usable files) s = s.after s.iface
        (ev 0x0F04 0 (det [(16, [1])]) { d with card := { present := true, usable := usable, files := files } }))
    ∧ (∀ usable files, exec (.cardInsertRemove t false usable files) s = s.after s.iface
        (ev 0x0F04 0 (det [(16, [0])]) { d with card := { present := false, usable := false, files := [] } }))

/-- Field update (R497, R499, R501-R503, R506-R510): staging judges the package, keeps the old one and stages the new one; unstaging puts
the old one back; activation goes to the trial, or falls back; the trial is confirmed, or its time ends it; the fallback's end runs the
retained package. -/
def Obligations.UpdateCommandsComplete : Prop :=
  ∀ (s : State) (t : Nat) (d : Dev), s.devAt t = d → d.controlUp = true →
    (∀ tok p ok, d.trust.staging = some (tok, p, 0) →
      (∀ code st, d.stageFault ok p = some (code, st) →
        exec (.stagingDone t ok) s = s.after s.iface (stageEnds 5 (finish tok { (Cpl.of st) with result1 := BitVec.ofNat 32 code } d)))
      ∧ (d.stageFault ok p = none → exec (.stagingDone t ok) s = s.after s.iface { d with trust := { d.trust with
        staging := some (tok, p, if d.trust.fromRecovery then 2 else 1), retainedValid := d.trust.retainedValid && d.trust.fromRecovery } }))
    ∧ (∀ tok p, d.trust.staging = some (tok, p, 1) →
      exec (.stagingDone t true) s = s.after s.iface { d with trust := { d.trust with
        staging := some (tok, p, 2), retained := d.trust.active, retainedValid := true } })
    ∧ (∀ tok p, d.trust.staging = some (tok, p, 2) →
      exec (.stagingDone t true) s = s.after s.iface (finish tok (.ok (pkgVersion p))
        (ev 0x0F01 0 (det [(16, [BitVec.ofNat 8 (UpdSt.staged.code % 256), 0]), (20, leBytes 8 d.runVersion)])
          { d with trust := { d.trust with staging := none, active := p, st := .staged } })))
    ∧ (d.trust.st = .unstaging → d.trust.fromRecovery = false → d.trust.cancels = [] →
      exec (.unstagingDone t) s = s.after s.iface
        (ev 0x0F01 0 (det [(16, [BitVec.ofNat 8 (UpdSt.idle.code % 256), 0]), (20, leBytes 8 d.runVersion)])
          { d with trust := { d.trust with active := d.trust.retained, cancels := [], st := .idle } }))
    ∧ (d.trust.st = .activating → exec (.activationDone t false) s = s.after s.iface (dropActivation (beginFallback 3 d)))
    ∧ (d.trust.st = .activating → pkgReads d.trust.active ≤ d.trust.bankFmt → d.trust.bankFmt ≤ pkgFmt d.trust.active →
      d.trust.active = d.trust.running →
      exec (.activationDone t true) s =
        let e := updState .trial 0 { d with trust := { d.trust with
          running := d.trust.active, activations := d.trust.activations + 1, ownerPending := d.trust.ownerNeeded } }
        let e := swapBanks (pkgFmt d.trust.active) e.prof.stored e.est.saved e.fleet e
        s.after s.iface (dropActivation { e with prof := { e.prof with
          st := .applying, applying := some (e.prof.activeId, .activation), applyEnd := e.now } }))
    ∧ (d.trust.st = .trial → d.trust.unreadable = false → d.trust.ownerPending = false → d.full = true → d.trust.fromRecovery = false →
      exec (.healthConfirm t true) s = s.after s.iface (updState .idle 1 { d with
        prof := { d.prof with previous := none }
        est := { d.est with savedOld := [] }
        trust := { d.trust with
          otherFmt := none, oldFleet := none, timerEnd := none, fromRecovery := false
          floor := if (fld d.trust.running 25 1 % 2 == 1 && decide (d.trust.floor.toNat < d.runSvn)) = true then BitVec.ofNat 8 d.runSvn else d.trust.floor } }))
    ∧ (∀ e, d.trust.st = .trial → d.trust.timerEnd = some e → e ≤ d.now →
      exec (.confirmationTimerExpire t) s = s.after s.iface (beginFallback 2 d))
    ∧ (d.trust.st = .fallingBack → d.part = .baseMetal → d.start = .done →
      (d.trust.reverts = [] → exec (.fallbackDone t false) s = s.after s.iface
        (let e := raiseCause 5 (updState .recovery 5 { d with trust := { d.trust with running := [], fromRecovery := true } })
         { e with trust := { e.trust with reverts := [] } }))
      ∧ (d.trust.reverts = [] → d.trust.retainedValid = true → d.trust.fromRecovery = false →
        exec (.fallbackDone t true) s =
          let e := restoreBank { d with trust := { d.trust with
            active := d.trust.retained, running := d.trust.retained, unreadable := false } }
          let e := updState .idle d.trust.cause (applyProfile e.prof.activeId e.keptCause e)
          let e := if e.liveCauses = 0 then becomeReady e else e
          s.after s.iface { e with trust := { e.trust with reverts := [] } }))

/-- The power and thermal loops and the environment (R521-R524, R527): each tick takes its readings; above the target, or at the throttling
temperature, the cluster to lower goes down one step; an environment fault raises its cause and its clearing takes it back. -/
def Obligations.PowerCommandsComplete : Prop :=
  ∀ (s : State) (t : Nat) (d : Dev), s.devAt t = d → d.booted = true →
    (∀ mean1 mean100 vin iin, (∀ a, d.pw.powerAt = some a → a + msNs ≤ d.now) → (∀ c ∈ d.clocked, (d.clus c).top ≤ (d.clus c).step) →
      let e := d.setPw fun p => { p with powerAt := some d.now, mean1 := mean1, mean100 := mean100, vinMv := vin, iinMa := iin }
      (mean1 ≤ 96 * d.pw.envW → exec (.powerLoopTick t mean1 mean100 vin iin) s = s.after s.iface e)
      ∧ (∀ c, 96 * d.pw.envW < mean1 → e.lowering = some c →
        exec (.powerLoopTick t mean1 mean100 vin iin) s = s.after s.iface (clockStep c false 0 e)))
    ∧ (∀ (tj : Int) sensor, (∀ a, d.pw.thermAt = some a → a + 10 * msNs ≤ d.now) →
      let e := d.setPw fun p => { p with
        thermAt := some d.now, tj := tj, sensor := sensor
        coolSince := if tj ≤ d.throttleAt - 3 then p.coolSince.or (some d.now) else none }
      (tj < d.throttleAt → exec (.thermalLoopTick t tj sensor) s = s.after s.iface e)
      ∧ (∀ c, d.throttleAt ≤ tj → e.lowering = some c → exec (.thermalLoopTick t tj sensor) s = s.after s.iface (clockStep c false 1 e)))
    ∧ (∀ cond, cond < 3 →
      exec (.environmentFault t cond) s =
        let e := logFault 7 0xFF 0 15 3 0 { d with pw := { d.pw with env := true, envFaults := satInc d.pw.envFaults } }
        s.after s.iface { e with flt := { e.flt with causes := e.flt.causes ||| 8 } })
    ∧ exec (.environmentClear t) s = s.after s.iface { d with
        pw := { d.pw with env := false }
        flt := { d.flt with causes := d.flt.causes &&& 0xF7 } }

/-- The admin opcodes (R38-R44): IDENTIFY writes its block, rings are created and deleted, and ABORT_SQ and DELETE_SQ close a ring. -/
def Obligations.AdminOpcodesComplete : Prop :=
  Runs .nop .nop (fun _ _ => True) (fun _ e => (e, .ok))
  ∧ Runs .identify .identify (fun c _ => c.d.f 32 8 % 4096 = 0) (fun c e => (e, c.output 32 (identifyBlock c e) .ok))
  ∧ Runs .createCq .createCq (fun c e => createCqBad c.d = false ∧ (e.cq (c.d.u8 24)).st = .absent) (fun c e =>
      (e.setCq (c.d.u8 24) fun _ => {
        st := if c.d.u8 27 = 1 then .stream else .active, vector := c.d.u8 25, phase := true, log2 := c.d.u8 26, base := c.d.f 32 8
        recBase := c.d.f 40 8, recLog2 := c.d.u8 28, coalCount := max (c.d.u8 29) 1, coalTimeUs := c.d.f 30 2 }, .ok))
  ∧ Runs .createSq .createSq (fun c e => 1 ≤ c.d.u8 24 ∧ c.d.u8 24 ≤ 63 ∧ 1 ≤ c.d.u8 25 ∧ c.d.u8 25 ≤ 63 ∧ sizeOk (c.d.u8 26) = true
      ∧ c.d.f 32 8 % 4096 = 0 ∧ (e.chan (.sq (c.d.u8 24))).st = .absent ∧ (e.cq (c.d.u8 25)).st = .active) (fun c e =>
      (e.setChan (.sq (c.d.u8 24)) fun _ => { st := .active, cq := c.d.u8 25, log2 := c.d.u8 26, base := c.d.f 32 8 }, .ok))
  ∧ Runs .deleteCq .deleteCq (fun c e => 1 ≤ c.d.u8 24 ∧ c.d.u8 24 ≤ 63 ∧ (e.cq (c.d.u8 24)).st = .active
      ∧ ∀ n < 64, (e.chan (.sq n)).st = .absent ∨ (e.chan (.sq n)).cq ≠ c.d.u8 24) (fun c e => (e.setCq (c.d.u8 24) fun _ => {}, .ok))
  ∧ Starts .abortSq .abortSq (fun c e => 1 ≤ c.d.u8 24 ∧ c.d.u8 24 ≤ 63 ∧ (e.chan (.sq (c.d.u8 24))).st = .active) (fun c e =>
      let f := (commitPoint c.tok (takeRing (c.d.u8 24) c.upTo e)).setChan (.sq (c.d.u8 24)) fun r => { r with
        st := if r.st = .active then .aborting else r.st, closers := r.closers ++ [(c.tok, false, c.upTo)] }
      { f with kick := .sq (c.d.u8 24) :: f.kick })
  ∧ Starts .deleteSq .deleteSq (fun c e => 1 ≤ c.d.u8 24 ∧ c.d.u8 24 ≤ 63 ∧ (e.chan (.sq (c.d.u8 24))).st ≠ .absent) (fun c e =>
      let f := (commitPoint c.tok (takeRing (c.d.u8 24) c.upTo e)).setChan (.sq (c.d.u8 24)) fun r => { r with
        st := if r.st = .active then .aborting else r.st, closers := r.closers ++ [(c.tok, true, c.upTo)] }
      { f with kick := .sq (c.d.u8 24) :: f.kick })

/-- Ownership (R81-R86): a claim opens the arbitration window, the owner renews its lease, hands over and releases, and the successor
accepts. -/
def Obligations.OwnershipOpcodesComplete : Prop :=
  Starts .ownClaim .ownClaim (fun c e => e.own.prioOf c.master ≠ 0 ∧ e.own.st = .vacant) (fun c e =>
      { e with own := { e.own with st := .arbitrating, windowEnd := e.now + 2 * msNs, claims := [(c.master, c.tok)] } })
  ∧ Starts .ownClaim .ownClaim (fun c e => e.own.prioOf c.master ≠ 0 ∧ e.own.st = .arbitrating) (fun c e =>
      { e with own := { e.own with claims := e.own.claims ++ [(c.master, c.tok)] } })
  ∧ Ends .ownClaim .ownClaim (fun c e => e.own.prioOf c.master ≠ 0 ∧ e.own.st = .owned ∧ e.own.owner = c.master) (fun c e =>
      ({ e with own := { e.own with leaseEnd := e.now + e.own.leaseMs.toNat * msNs } }, .ok c.master))
  ∧ Runs .ownHeartbeat .ownHeartbeat (fun c e => e.own.isOwner c.master = true) (fun _ e =>
      ({ e with own := { e.own with leaseEnd := e.now + e.own.leaseMs.toNat * msNs } }, .ok (e.tb64 + e.own.leaseMs.toNat * msNs)))
  ∧ Runs .ownHandover .ownHandover (fun c e => e.own.isOwner c.master = true ∧ 1 ≤ c.d.u8 24 ∧ c.d.u8 24 ≤ 4 ∧ c.d.u8 24 ≠ c.master
      ∧ e.own.prioOf (c.d.u8 24) ≠ 0 ∧ e.own.st ≠ .handover) (fun c e =>
      ({ e with own := { e.own with
        st := .handover, successor := c.d.u8 24
        handoverEnd := e.now + (if c.d.f 26 2 = 0 then e.own.handoverMs.toNat else c.d.f 26 2) * msNs } }, .ok))
  ∧ Runs .ownAccept .ownAccept (fun c e => e.own.st = .handover ∧ e.own.successor = c.master) (fun c e =>
      let f := setOwner c.master 1 e
      ({ f with own := { f.own with leaseEnd := f.now + f.own.leaseMs.toNat * msNs } }, .ok (f.tb64 + f.own.leaseMs.toNat * msNs)))
  ∧ Runs .ownRelease .ownRelease (fun c e => e.own.isOwner c.master = true) (fun _ e =>
      (ev 0x0210 0 (det [(16, [BitVec.ofNat 8 e.own.owner, 0, 2])]) { e with own := { e.own with st := .vacant, owner := 0, successor := 0 } }, .ok))

/-- Profiles and registers (R93, R94, R96-R100): PROFILE_SELECT begins an application of 250 ms, a record is read, written and restored, and
REG_READ and REG_WRITE act as the sending master's own access. -/
def Obligations.ProfileAndRegisterOpcodesComplete : Prop :=
  Starts .profileSelect .profileSelect (fun c e => c.d.u8 24 ≤ 3 ∧ e.own.safeLevel = false ∧ e.part = .ready ∧ e.prof.st = .applied) (fun c e =>
      { e with prof := { e.prof with st := .applying, applying := some (c.d.u8 24, .command c.tok), applyEnd := e.now + 250 * msNs } })
  ∧ Runs .profileRead .profileRead (fun c _ => c.d.u8 24 ≤ 3 ∧ c.d.u8 25 = 0 ∧ c.d.f 32 8 % 4096 = 0) (fun c e =>
      (e, c.output 32 (padTo 4096 (e.prof.stored.getD (c.d.u8 24) [])) .ok))
  ∧ (∀ l, Runs .profileRead .profileRead (fun c e => c.d.u8 24 ≤ 3 ∧ c.d.u8 25 = 1 ∧ c.d.f 32 8 % 4096 = 0 ∧ e.prof.previous = some l) (fun c e =>
      (e, c.output 32 (padTo 4096 (l.getD (c.d.u8 24) [])) .ok)))
  ∧ Starts .profileWrite .profileWrite (fun c e => c.d.u8 24 ≤ 3 ∧ e.profLocked = none
      ∧ recordFault e.trust.bankFmt (c.d.u8 24) (c.input e 32 4096) = none) (fun c e =>
      { e with prof := { e.prof with st := .writing, writing := some (c.d.u8 24, c.input e 32 4096, c.tok) } })
  ∧ (∀ o, Ends .profileWrite .profileWrite (fun c e => c.d.u8 24 ≤ 3 ∧ e.profLocked = none
      ∧ recordFault e.trust.bankFmt (c.d.u8 24) (c.input e 32 4096) = some o) (fun _ e => (e, { Cpl.bad with result0 := BitVec.ofNat 64 o })))
  ∧ Starts .profileRestore .profileRestore (fun c e => c.d.u8 24 ≤ 3 ∧ e.profLocked = none) (fun c e =>
      { e with prof := { e.prof with
        st := .writing
        writing := some (c.d.u8 24, putAt (padTo 4096 (defaultRecord (c.d.u8 24))) 0 (leBytes 2 e.trust.bankFmt), c.tok) } })
  ∧ (∀ (s : State) (t : Nat) (d : Dev) (ch : Chan) (x : Desc), s.devAt t = d →
      (let e := d.begun ch .regRead x
       s.Serves d ch .regRead x → regOperandsBad x = false → d.Keeps ch .regRead x e →
       exec (.regRead t ch x) s = s.served d ch .regRead x s.iface e (.ok (regRead s.iface e (x.f 24 4) (x.u8 28))))
      ∧ (let w := regWrite ch.master (x.f 24 4) (x.u8 28) (x.f 32 8) s.iface (d.begun ch .regWrite x)
         s.Serves d ch .regWrite x → regOperandsBad x = false → (x.u8 28 = 8 ∨ x.f 36 4 = 0) → d.Keeps ch .regWrite x w.2 →
         exec (.regWrite t ch x) s = s.served d ch .regWrite x w.1 w.2 .ok))

/-- Time and sensor opcodes (R107, R135, R137, R152, R155-R160, R162, R163): the source is selected, TIME_SET steps a free-running clock, a
launch grid is set and the time status answered; a sample is injected, a sensor enabled or disabled, the slot read, a frame awaited and
bytes sent to the receiver. -/
def Obligations.TimeAndSensorOpcodesComplete : Prop :=
  Runs .timeSelect .timeSelect (fun c e => c.d.u8 24 ≤ 1 ∧ c.d.u8 25 ≤ 1 ∧ e.time.st = .freeRun ∧ (e.trk (c.d.u8 24)).st ≠ .disabled
      ∧ (e.trk (c.d.u8 24)).st ≠ .locked) (fun c e => ({ e with time := { e.time with sel := c.d.u8 24 } }, .ok))
  ∧ Runs .timeSelect .timeSelect (fun c e => c.d.u8 24 ≤ 1 ∧ c.d.u8 25 ≤ 1 ∧ e.time.st ≠ .freeRun ∧ (e.trk (c.d.u8 24)).st = .locked
      ∧ withinLimit e (c.d.u8 24) = true) (fun c e =>
      let off := (e.trk (c.d.u8 24)).offset
      let step := atLeastZero e.time.tb (max (-ns20) (min off ns20))
      (switchTo (c.d.u8 24) e, .ok (sNat 64 (toNs step)) (sNat 32 (toNs (off - step)))))
  ∧ Runs .timeSet .timeSet (fun _ e => e.time.st = .freeRun) (fun c e =>
      (stepBy (((c.d.f 32 8 * 65536 : Nat) : Int) - e.time.tb) true e, .ok e.tb64))
  ∧ Runs .setLaunchPeriod .setLaunchPeriod (fun c e => 1 ≤ c.d.u8 24 ∧ c.d.u8 24 ≤ 63 ∧ ((e.chan (.sq (c.d.u8 24))).st = .active
      ∨ (e.chan (.sq (c.d.u8 24))).st = .aborting)) (fun c e =>
      (e.setChan (.sq (c.d.u8 24)) fun r => { r with grid := if c.d.f 32 8 = 0 then none else some (c.d.f 40 8, c.d.f 32 8) }, .ok))
  ∧ Runs .timeStatus .timeStatus (fun _ _ => True) (fun _ e =>
      (e, .ok e.tb64 (e.time.st.code + 256 * e.time.sel + 65536 * e.time.holdErr.toNat)))
  ∧ Runs .sensorEnable .sensorEnable (fun c e => e.kind (c.d.u8 24) ≠ 0 ∧ c.d.u8 25 ≤ 1) (fun c e =>
      (if c.d.u8 25 = 1 then enableSensor (c.d.u8 24) e else sensorOff (c.d.u8 24) e, .ok))
  ∧ Runs .slotRead .slotRead (fun c e => e.kind (c.d.u8 24) ≠ 0 ∧ (e.sensor (c.d.u8 24)).slot = none) (fun c e =>
      (e, .flagged 2 0 (e.sensor (c.d.u8 24)).accepted.toNat))
  ∧ (∀ p, Runs .slotRead .slotRead (fun c e => e.kind (c.d.u8 24) ≠ 0 ∧ (e.sensor (c.d.u8 24)).slot = some p) (fun c e =>
      (e, c.output 32 p.record (.ok p.tov.toNat (e.sensor (c.d.u8 24)).accepted.toNat))))
  ∧ Starts .frameGrab .frameGrab (fun c e => e.kind (c.d.u8 24) = 1 ∧ e.se (c.d.u8 24) 60 2 * e.se (c.d.u8 24) 62 2 ≤ c.d.f 40 4
      ∧ (e.sensor (c.d.u8 24)).grab = none) (fun c e => e.setSensor (c.d.u8 24) fun s => { s with grab := some c.tok })
  ∧ Starts .gnssSend .gnssSend (fun c _ => 1 ≤ c.d.f 24 2 ∧ c.d.f 24 2 ≤ 4096) (fun c e =>
      let ends := e.sens.gnssTx.foldl (fun a x => max a x.2) e.now + c.d.f 24 2 * 10 * sNs / max e.sens.gnssBaud.toNat 1
      commitPoint c.tok (emit (.gnssTx (c.input e 32 (c.d.f 24 2)) (e.driven 23))
        { e with sens := { e.sens with gnssTx := e.sens.gnssTx ++ [(c.tok, ends)] } }))
  ∧ (let can (c : OpCtx) (e : Dev) (late : Bool) : Prop :=
       e.kind (c.d.u8 24) = 6 ∧ Chan.sq (e.se (c.d.u8 24) 1 1) = c.ch ∧ 1 ≤ c.d.u8 25 ∧ c.d.u8 25 ≤ 24 ∧ c.d.f 32 8 ≤ c.fetchedAt + 10 * msNs
       ∧ ((e.sensor (c.d.u8 24)).enabled && e.isLate (c.d.u8 24) (c.d.f 32 8)) = late
     let eff (c : OpCtx) (e : Dev) : Dev :=
       acceptSample { stamp := c.d.f 32 8 * 65536, sensor := c.d.u8 24, kind := 6, flags := 1, arrival := BitVec.ofNat 64 c.fetchedAt
                      tov := BitVec.ofNat 64 (c.d.f 32 8), payload := padTo 40 (padTo 24 ((c.d.bytes 40 24).take (c.d.u8 25))) } e
     Ends .sensorInject .sensorInject (can · · false) (fun c e => (eff c e, .ok c.fetchedAt))
     ∧ Ends .sensorInject .sensorInject (can · · true) (fun c e => (eff c e, .flagged 1 c.fetchedAt)))

/-- Stereo opcodes (R166-R169, R173-R181, R191-R194, R197, R198): a rectification table is kept, parameters and pipes change, a picture is
awaited, and STEREO_STORED takes a stored pair, whose disparity, confidence and flag planes it answers when its time has come. -/
def Obligations.StereoOpcodesComplete : Prop :=
  (let rest (c : OpCtx) (e : Dev) := e.vision.tables.filter fun t => t.1 != c.d.u8 24
   Runs .rectLoad .rectLoad (fun c e => e.kind (c.d.u8 24) = 1 ∧ c.d.f 40 4 = 0) (fun c e =>
     ({ e with vision := { e.vision with tables := rest c e } }, .ok))
   ∧ Runs .rectLoad .rectLoad (fun c e =>
       let s := c.d.u8 24
       e.kind s = 1 ∧ c.d.f 40 4 ≠ 0 ∧ c.d.f 40 4 = 8 * nodeCount (e.vW s) (e.vH s)
       ∧ (e.routed s = true → tableFault (e.vW s) (e.vH s) (e.rectLines s) (c.input e 32 (c.d.f 40 4)) = none)
       ∧ ((rest c e).map fun t => t.2.length).sum + c.d.f 40 4 ≤ 2097152) (fun c e =>
     ({ e with vision := { e.vision with tables := (c.d.u8 24, c.input e 32 (c.d.f 40 4)) :: rest c e } }, .ok)))
  ∧ Runs .vpParams .vpParams (fun c e => e.routed (c.d.u8 24) = true ∧ e.vrole (c.d.u8 24) = 1 ∧ 1 ≤ c.d.u8 25 ∧ c.d.u8 25 ≤ 63
      ∧ c.d.u8 25 ≤ c.d.u8 26 ∧ c.d.u8 27 ≤ 50 ∧ c.d.u8 29 ≤ 7
      ∧ (e.servedBy (c.d.u8 24) ≠ none ∨ (e.vp (e.homePipe (c.d.u8 24))).st ≠ .gated)) (fun c e =>
      (e.setRing (c.d.u8 24) fun r => { r with
        params := some { p1 := c.d.u8 25, p2 := c.d.u8 26, uniq := c.d.u8 27, tex := c.d.u8 28, lrTol := c.d.u8 29 } }, .ok))
  ∧ Starts .vpMove .vpMove (fun c e => c.d.u8 24 ≤ 1 ∧ c.d.u8 25 = 0 ∧ (e.vp (c.d.u8 24)).st = .home ∧ (e.vp (1 - c.d.u8 24)).st ≠ .gated)
      (fun c e => moveCheck (c.d.u8 24) (e.setVp (c.d.u8 24) fun v => { v with moving := v.moving ++ [(c.tok, false)] }))
  ∧ Ends .vpMove .vpMove (fun c e => c.d.u8 24 ≤ 1 ∧ c.d.u8 25 = 1 ∧ (e.vp (c.d.u8 24)).st = .off ∧ (e.vp (1 - c.d.u8 24)).st = .hosting)
      (fun c e =>
      let f := (admissionWindow (1 - c.d.u8 24) e).setVp (c.d.u8 24) fun v => { v with st := .home, movedAt := some e.time.tb }
      let f := if (f.vp (1 - c.d.u8 24)).st == .hosting then f.setVp (1 - c.d.u8 24) fun v => { v with st := .home } else f
      (evVp (c.d.u8 24) 0x0702 0 (det [(16, [BitVec.ofNat 8 (c.d.u8 24)])]) f, .ok))
  ∧ Starts .stereoGrab .stereoGrab (fun c e =>
      let i := c.d.u8 24
      e.ownsRing i = true ∧ (if e.isPair i then 4 else 1) * e.vW i * e.vH i ≤ c.d.f 40 4 ∧ (e.vp (e.homePipe i)).st ≠ .gated
      ∧ (e.ring i).grab = none ∧ ∀ f ∈ (e.ring i).cur ++ (e.ring i).closing, f.grab = none) (fun c e =>
      e.setRing (c.d.u8 24) fun r => { r with grab := some c.tok })
  ∧ (∀ (pipe : Nat) (a b : StoredFrame) (more : List StoredFrame),
      let cam (e : Dev) (s : Nat) : Prop := e.kind s = 1 ∧ e.se s 3 1 = 0
      let need (c : OpCtx) (e : Dev) := up4k (e.vW (c.d.u8 24) * (2 * c.d.f 48 2 + if c.d.u8 26 = 8 then 480 else 240))
      let job (c : OpCtx) (e : Dev) : StoredJob :=
        let tbl (s : Nat) := (e.vision.tables.find? fun t => t.1 == s).map (·.2)
        { tok := c.tok, pipe := pipe, w := e.vW (c.d.u8 24), h := e.vH (c.d.u8 24), frameL := a, frameR := b, eight := c.d.u8 26 == 8
          depth := c.d.u8 27, params := { p1 := c.d.u8 28, p2 := c.d.u8 29, uniq := c.d.u8 30, tex := c.d.u8 31, lrTol := c.d.u8 44 }
          tblL := tbl (c.d.u8 24), tblR := tbl (c.d.u8 25), need := need c e }
      Starts .stereoStored .stereoStored (fun c e =>
        let l := c.d.u8 24
        let r := c.d.u8 25
        cam e l ∧ cam e r ∧ l ≠ r ∧ e.vW r = e.vW l ∧ e.vH r = e.vH l ∧ (c.d.u8 26 = 4 ∨ c.d.u8 26 = 8) ∧ c.d.u8 27 ≤ 4
        ∧ 1 ≤ c.d.u8 28 ∧ c.d.u8 28 ≤ 63 ∧ c.d.u8 28 ≤ c.d.u8 29 ∧ c.d.u8 30 ≤ 50 ∧ c.d.u8 44 ≤ 7 ∧ 1 ≤ c.d.f 46 2 ∧ c.d.f 46 2 ≤ 1000
        ∧ 16 ≤ c.d.f 48 2 ∧ c.d.f 48 2 ≤ 256 ∧ c.d.f 48 2 % 16 = 0 ∧ (c.d.u8 45 ≤ 1 ∨ c.d.u8 45 = 0xFF) ∧ 4 * e.vW l * e.vH l ≤ c.d.f 40 4
        ∧ e.storedPipe (c.d.u8 45) = some pipe ∧ (e.sensor l).stored = a :: more
        ∧ (e.sensor r).stored.find? (fun x => decide (((x.first : Int) - a.first).natAbs ≤ c.d.f 46 2 * 1000 * 65536)) = some b
        ∧ need c e ≤ e.freeLines pipe) (fun c e =>
        { e with vision := { e.vision with
          jobs := e.vision.jobs ++ [{ job c e with due := some (e.now + e.storedTime (job c e) pipe) }] } }))
  ∧ (∀ (d : Dev) (j : StoredJob) (p : Pend) (due : Nat), d.vision.jobs = [j] → j.due = some due → due ≤ d.now → d.pendOf j.tok = some p →
      (d.vp j.pipe).moving = [] →
      let out := stereo j.eight j.depth j.params (rectify (d.storedImage j.w j.h j.frameL) j.tblL)
        (rectify (d.storedImage j.w j.h j.frameR) j.tblR)
      storedStep d = finish j.tok { (Cpl.ok j.frameL.tov (validOf out)) with
          dest := some (p.d.f 32 8), payload := (planesOf out).1 ++ (planesOf out).2.1 ++ (planesOf out).2.2 }
        { d with vision := { d.vision with jobs := [] } })

/-- Model opcodes (R260-R262, R264-R277, R279, R280, R282, R287, R288, R293, R294): a package is installed in chunks, removed, loaded and
unloaded, instances are reset, slots bound and unbound and queried, and INFER asks for a run. -/
def Obligations.NeuralOpcodesComplete : Prop :=
  (let okChunk (c : OpCtx) (first final : Bool) : Prop :=
     c.d.u8 24 ≤ 15 ∧ c.d.u8 25 ≤ 7 ∧ c.d.u8 25 % 2 = bit first ∧ c.d.u8 25 / 2 % 2 = bit final ∧ 1 ≤ c.d.f 28 4 ∧ c.d.f 28 4 ≤ 67108864
     ∧ (final = false → c.d.f 28 4 % 4096 = 0)
   let slow (c : OpCtx) (e : Dev) := e.slowOn && c.d.u8 25 / 4 % 2 == 0
   let next (c : OpCtx) (e : Dev) := (e.slot (c.d.u8 24)).chunks ++ c.input e 32 (c.d.f 28 4)
   let need (c : OpCtx) (e : Dev) := if slow c e then 2 * ((c.d.f 44 4 + 4095) / 4096 * 4096) else c.d.f 44 4
   let begins (c : OpCtx) (e : Dev) : Dev := e.setSlot (c.d.u8 24) fun x => { x with
     prior := if x.st == .installing then x.prior else x.st
     st := .installing, chunks := c.input e 32 (c.d.f 28 4), total := c.d.f 44 4, slow := slow c e }
   Ends .modelInstall .modelInstall (fun c e => okChunk c true false ∧ c.d.f 40 4 = 0
       ∧ ((e.slot (c.d.u8 24)).st = .empty ∨ (e.slot (c.d.u8 24)).st = .installed ∨ (e.slot (c.d.u8 24)).st = .installing)
       ∧ need c e ≤ e.homeFree (c.d.u8 24) (slow c e)) (fun c e => (begins c e, .ok))
   ∧ Ends .modelInstall .modelInstall (fun c e => okChunk c true false ∧ c.d.f 40 4 = 0 ∧ (e.slot (c.d.u8 24)).st = .disabled
       ∧ need c e ≤ (dropPackage (c.d.u8 24) e).homeFree (c.d.u8 24) (slow c e)) (fun c e =>
     ((dropPackage (c.d.u8 24) e).setSlot (c.d.u8 24) fun x => { x with
       prior := if x.st == .installing then x.prior else x.st
       st := .installing, chunks := c.input e 32 (c.d.f 28 4), total := c.d.f 44 4, slow := slow c e }, .ok))
   ∧ Ends .modelInstall .modelInstall (fun c e => okChunk c true true ∧ c.d.f 40 4 = 0
       ∧ ((e.slot (c.d.u8 24)).st = .installed ∨ (e.slot (c.d.u8 24)).st = .installing)
       ∧ need c e ≤ e.homeFree (c.d.u8 24) (slow c e)
       ∧ installFault (c.input e 32 (c.d.f 28 4)) (c.d.f 44 4) e.feat (begins c e).freeVal = none) (fun c e =>
     let b := c.input e 32 (c.d.f 28 4)
     (slotState (c.d.u8 24) .installed 0 ((putPackage (c.d.u8 24) b (slow c e) (begins c e).useFree).setSlot (c.d.u8 24) fun x => { x with
       chunks := [], total := 0 }), .ok b.length))
   ∧ Ends .modelInstall .modelInstall (fun c e => okChunk c false false ∧ c.d.f 44 4 = 0 ∧ (e.slot (c.d.u8 24)).st = .installing
       ∧ c.d.f 40 4 = (e.slot (c.d.u8 24)).chunks.length) (fun c e =>
     (e.setSlot (c.d.u8 24) fun x => { x with chunks := x.chunks ++ c.input e 32 (c.d.f 28 4) }, .ok))
   ∧ Ends .modelInstall .modelInstall (fun c e => okChunk c false true ∧ c.d.f 44 4 = 0 ∧ (e.slot (c.d.u8 24)).st = .installing
       ∧ c.d.f 40 4 = (e.slot (c.d.u8 24)).chunks.length
       ∧ installFault (next c e) (e.slot (c.d.u8 24)).total e.feat e.freeVal = none) (fun c e =>
     let f := e.setSlot (c.d.u8 24) fun x => { x with chunks := x.chunks ++ c.input e 32 (c.d.f 28 4) }
     let f := (putPackage (c.d.u8 24) (next c e) (e.slot (c.d.u8 24)).slow f.useFree).setSlot (c.d.u8 24) fun x => { x with
       chunks := [], total := 0 }
     (slotState (c.d.u8 24) .installed 0 f, .ok (next c e).length)))
  ∧ Runs .modelRemove .modelRemove (fun c e => c.d.u8 24 ≤ 15 ∧ (e.slot (c.d.u8 24)).st = .installed) (fun c e =>
      let s := c.d.u8 24
      let f := dropPackage s e
      (slotState s .empty 0 (f.setSlot s fun x => { x with chunks := [], total := 0, prior := .empty }), .ok))
  ∧ (∀ (q : LoadPlan) (flags : Nat),
      let mask (c : OpCtx) (e : Dev) := if c.d.u8 25 = 0 then e.clusterEn else c.d.u8 25
      Starts .modelLoad .modelLoad (fun c e => c.d.u8 24 ≤ 15 ∧ c.d.u8 25 ≤ 63 ∧ c.d.u8 26 ≤ 1 ∧ mask c e ≠ 0
        ∧ mask c e &&& e.clusterEn = mask c e ∧ (e.slot (c.d.u8 24)).st = .installed
        ∧ e.choosePlan (e.pkg (c.d.u8 24)) (mask c e) (e.pf 23 1) (c.d.u8 26 == 1) = (q, flags)
        ∧ e.loadShort (mask c e) q = 0 ∧ e.homeShort (c.d.u8 24) = 0) (fun c e =>
        let s := c.d.u8 24
        let p := e.pkg s
        let mask := mask c e
        let waves := (List.range 6).map fun k => if mask.testBit k then e.waveSize p k q else 0
        let sc := (e.stateCluster mask q).getD 0
        let f := loadSet s p q.mode (if fld p 56 1 = 0 then 0 else units (fld p 29 1 * fld p 52 4)) (loadRoles s mask q sc e)
        slotState s .loading 0 (f.setSlot s fun x => { x with
          filled := false, mask := mask, mode := q.mode, step := q.step, flags := flags, wave := waves
          area := (List.range 6).map fun k => if mask.testBit k then q.window + waves.getD k 0 * q.act else 0
          loadTok := some c.tok, loadDest := c.d.f 32 8, report := loadReport e s .loaded p mask q flags 0 waves
          stateEngines := q.states, committed := 0
          insts := (List.range (fld p 29 1)).map fun i => { state := initialState p i }, reqs := [], fetched := [], win := [] })))
  ∧ Turns .modelUnload .modelUnload (fun c e => c.d.u8 24 ≤ 15 ∧ (e.slot (c.d.u8 24)).st = .loaded ∧ e.bound (c.d.u8 24) = false
      ∧ e.fusedOn (c.d.u8 24) = false) (fun c e =>
      unloadCheck (c.d.u8 24) (slotState (c.d.u8 24) .unloading 0 (e.setSlot (c.d.u8 24) fun x => { x with
        unload := some (e.seqOf c.tok, c.tok) })))
  ∧ (let req (c : OpCtx) (e : Dev) (inst : Option Nat) (claimed : Bool) : InferReq :=
       { tok := c.tok, seq := e.seqOf c.tok, inst := inst, fleet := c.d.u8 25 / 16 % 2 == 1, release := c.d.u8 25 / 8 % 2 == 1, claimed := claimed
         watch := if c.d.f 26 2 / 2 ^ 15 = 1 then some { flag := c.d.f 26 2 % 4096, mask := c.d.f 28 4, value := c.d.f 56 4 } else none }
     let ok (c : OpCtx) (e : Dev) : Prop := c.d.u8 24 ≤ 15 ∧ (e.slot (c.d.u8 24)).st = .loaded ∧ e.inferBad c = false
     let ahead (c : OpCtx) (e : Dev) : Bool := e.resetAhead (c.d.u8 24) (c.d.u8 60) (e.seqOf c.tok)
     Starts .infer .infer (fun c e => ok c e ∧ c.d.u8 25 / 4 % 2 = 0) (fun c e => e.setSlot (c.d.u8 24) fun x => { x with
       fetched := x.fetched ++ [(e.seqOf c.tok, c.tok)], reqs := x.reqs ++ [req c e none true] })
     ∧ Starts .infer .infer (fun c e => ok c e ∧ c.d.u8 25 / 4 % 2 = 1 ∧ ahead c e = false ∧ e.fusedOn (c.d.u8 24) = false
         ∧ (((e.slot (c.d.u8 24)).insts.getD (c.d.u8 60) {}).claim = none
           ∨ ((e.slot (c.d.u8 24)).insts.getD (c.d.u8 60) {}).claim = some c.ch)) (fun c e => e.setSlot (c.d.u8 24) fun x => { x with
       fetched := x.fetched ++ [(e.seqOf c.tok, c.tok)], insts := upd x.insts (c.d.u8 60) fun q => { q with claim := some c.ch }
       reqs := x.reqs ++ [req c e (some (c.d.u8 60)) true] })
     ∧ Starts .infer .infer (fun c e => ok c e ∧ c.d.u8 25 / 4 % 2 = 1 ∧ ahead c e = true) (fun c e => e.setSlot (c.d.u8 24) fun x => { x with
       fetched := x.fetched ++ [(e.seqOf c.tok, c.tok)], reqs := x.reqs ++ [req c e (some (c.d.u8 60)) false] }))
  ∧ Runs .modelQuery .modelQuery (fun c _ => c.d.u8 24 ≤ 15) (fun c e =>
      let x := e.slot (c.d.u8 24)
      (e, c.optOutput 32 (padTo 256 x.report)
        (.ok (x.st.code % 256 + atBit 8 x.step + atBit 16 x.mode + atBit 24 x.mask + atBit 32 x.committed.toNat)
          (e.pk (c.d.u8 24) 8 8 % 2 ^ 32))))
  ∧ Turns .stateReset .stateReset (fun c e => c.d.u8 24 ≤ 15 ∧ (e.slot (c.d.u8 24)).st = .loaded ∧ e.fusedOn (c.d.u8 24) = false
      ∧ (c.d.u8 25 = 255 ∨ c.d.u8 25 < (e.slot (c.d.u8 24)).insts.length)) (fun c e =>
      resetCheck (c.d.u8 24) (e.setSlot (c.d.u8 24) fun x => { x with resets := x.resets ++ [(e.seqOf c.tok, c.tok, c.d.u8 25)] }))
  ∧ Ends .modelBind .modelBind (fun c e => c.d.u8 24 ≤ 15 ∧ c.d.u8 25 ≤ 15 ∧ e.ownsRing (c.d.u8 26) = true ∧ (e.slot (c.d.u8 24)).st = .loaded ∧ e.fusedOn (c.d.u8 24) = false
      ∧ e.bindBad (c.d.u8 24) (c.d.u8 26) (c.d.f 28 2) (c.d.u8 30) (c.d.f 32 4) = false
      ∧ ∀ b ∈ e.neural.binds, b.id ≠ c.d.u8 25 ∧ b.sensor ≠ c.d.u8 26) (fun c e =>
      ({ e with neural := { e.neural with binds := e.neural.binds ++ [{
           id := c.d.u8 25, slot := c.d.u8 24, sensor := c.d.u8 26, outFlag := c.d.f 28 2, outSlots := c.d.u8 30, outBase := c.d.f 32 4
           pos := (e.ring (c.d.u8 26)).bandCount }] } }, .ok (e.bindStride (c.d.u8 24))))
  ∧ (∀ x : Binding, Turns .modelUnbind .modelUnbind (fun c e => c.d.u8 24 ≤ 15 ∧ e.bind (c.d.u8 24) = some x ∧ x.ending = none)
      (fun c e => bindEndCheck (c.d.u8 24) (e.setBind (c.d.u8 24) fun x => { x with ending := some (some c.tok) })))

/-- Solver opcodes (R323-R343, R348-R353, R356-R360): a problem that reads well is loaded, SOLVE begins its iterations, a slot is freed and
queried. -/
def Obligations.SolverOpcodesComplete : Prop :=
  (∀ p : Problem,
     let mask (c : OpCtx) (e : Dev) := if c.d.u8 25 = 0 then e.clusterEn else c.d.u8 25
     Starts .solverLoad .solverLoad (fun c e => c.d.u8 24 ≤ 31 ∧ c.d.u8 25 ≤ 63 ∧ mask c e &&& e.clusterEn = mask c e
       ∧ ((e.ps (c.d.u8 24)).st = .empty ∨ (e.ps (c.d.u8 24)).st = .ready)
       ∧ readProblem (c.input e 32 (c.d.f 40 4)) (mask c e) e.freeVal = .ok (p, none) ∧ p.ipmBytes / 65536 ≤ e.ipmAvail) (fun c e =>
       let s := c.d.u8 24
       let own := ((e.tier.allocs.find? fun a => a.1 == 0x1000 + s).map (·.2)).getD 0
       let r := solverReport p .ready none p.loadFlags none
       let f := (makeRoom (p.ipmBytes / 65536) 0xFFFFFFFF e).setAlloc (0x1000 + s) (own + p.ipmBytes / 65536)
       let f := (countLifts (firstCluster (mask c e)) p.lifted.length f).setPs s fun x => { x with
         st := .loading, prior := (e.ps s).st, next := some (p, c.optOutput 48 r (loadCpl p none), c.tok, 0) }
       addWork (.load s) (firstCluster (mask c e)) 1 (fun _ => none) [{ cycles := f.freeVal % 550000 + 1 }] f.useFree))
  ∧ (∀ (p : Problem) (src : Option (List Warm × Bool)),
     let warm (c : OpCtx) (e : Dev) : Prop :=
       (c.d.u8 25 ≤ 1 ∧ c.d.u8 26 = 0 ∧ c.d.f 48 8 = 0 ∧ c.d.f 56 4 = 0 ∧ src = none)
       ∨ ((c.d.u8 25 = 2 ∨ c.d.u8 25 = 3) ∧ c.d.u8 26 ≤ 31 ∧ c.d.f 48 8 = 0 ∧ c.d.f 56 4 = 0 ∧
         src = some (match (e.ps (c.d.u8 26)).retained with
           | some r => (r.vals, r.sig != p.sig)
           | none => ([], false)))
       ∨ ((c.d.u8 25 = 4 ∨ c.d.u8 25 = 5) ∧ c.d.u8 26 = 0 ∧ ∃ l, warmRecords p (c.d.f 56 4 / 16 + 1) (c.input e 48 (c.d.f 56 4)) = some l
         ∧ noRepeat (l.map (·.1)) = true ∧ src = some (l, true))
     Starts .solve .solve (fun c e => c.d.u8 24 ≤ 31 ∧ warm c e
       ∧ 1 ≤ c.d.u8 27 ∧ c.d.u8 27 ≤ 30 ∧ 1 ≤ c.d.f 28 2 ∧ (e.ps (c.d.u8 24)).st = .ready ∧ (e.ps (c.d.u8 24)).prob = some p
       ∧ p.resultLen ≤ c.d.f 40 4 ∧ (e.ps (c.d.u8 24)).bad = false ∧ e.neverRoom p.mask = false) (fun c e =>
       let dest := match c.ch with
         | .sq _ => some (c.d.f 32 8)
         | _ => none
       let z := beginSolve p c.tok dest (if c.d.u8 25 % 2 = 1 then 2 else 1) (c.d.u8 27) (c.d.f 28 2) src
       solveAdmit (c.d.u8 24) (e.setPs (c.d.u8 24) fun x => { x with st := .solving, solving := some z })))
  ∧ Runs .solverFree .solverFree (fun c e => c.d.u8 24 ≤ 31 ∧ (e.ps (c.d.u8 24)).st = .empty) (fun c e =>
      (e.setPs (c.d.u8 24) fun x => { x with retained := none }, .ok))
  ∧ Runs .solverFree .solverFree (fun c e => c.d.u8 24 ≤ 31 ∧ (e.ps (c.d.u8 24)).st = .ready) (fun c e =>
      ((e.setAlloc (0x1000 + c.d.u8 24) 0).setPs (c.d.u8 24) fun x => { x with st := .empty, prob := none, retained := none, bad := false }, .ok))
  ∧ Runs .solverQuery .solverQuery (fun c _ => c.d.u8 24 ≤ 31) (fun c e =>
      let x := e.ps (c.d.u8 24)
      (e, c.optOutput 32 (padTo 256 x.report) (.ok
        (x.st.code % 256 + atBit 8 ((x.prob.map (·.cls)).getD 0) + atBit 32 ((x.prob.map fun p => p.vars.length).getD 0))
        ((x.prob.map (·.sig)).getD 0 % 2 ^ 32))))

/-- Estimator and fusion opcodes (R303, R307, R309, R310, R317, R320, R321, R361-R365, R376, R392): a configuration waits for the next
EST_START, which empties the map with the record it completes with; fusion starts and is asked to stop or reset; the statuses and the
keyframes are answered. -/
def Obligations.EstimatorAndFusionOpcodesComplete : Prop :=
  Runs .estConfig .estConfig (fun c e => c.d.u8 24 = 0 ∧ e.estFault (c.input e 32 256) = none) (fun c e =>
      (e.setEst fun x => { x with pendingCfg := some (c.input e 32 256) }, .ok))
  ∧ Runs .estConfig .estConfig (fun c e => c.d.u8 24 = 1 ∧ e.estFault (c.input e 32 256) = none ∧ e.settingsLocked = none) (fun c e =>
      (e.setEst fun x => { x with
        pendingCfg := some (c.input e 32 256)
        saved := (e.prof.activeId, c.input e 32 256) :: x.saved.filter fun y => y.1 != e.prof.activeId }, .ok))
  ∧ (let begun (e : Dev) := e.setEst fun x => { x with cfg := x.pendingCfg.getD x.cfg, pendingCfg := none }
     let can (c : OpCtx) (e : Dev) : Prop := c.d.u8 24 ≤ 3 ∧ (sInt 32 (c.d.f 56 4)).natAbs ≤ 1686629713 ∧ e.est.st ≠ .off ∧ e.est.st ≠ .baseMetal
     let pos (c : OpCtx) : Bytes := if c.d.u8 24 % 2 = 1 then c.d.bytes 32 24 else List.replicate 24 0
     let yaw (c : OpCtx) : Int := if c.d.u8 24 % 2 = 1 then sInt 32 (c.d.f 56 4) else 0
     let opened (c : OpCtx) (e : Dev) : Dev :=
       let q := estQuiet (begun e)
       let nav := padTo 106 (pos c ++ levelWith (yaw c))
       estBind (newMap (estState .initialising (q.setEst fun x => { x with
         nav := nav, sNav := nav, reloc := c.d.u8 24 / 2 == 1, raises := ({} : Est).raises, lastOk := q.now, updTov := none
         level := some (q.now, []), imuBuf := [] })))
     Ends .estStart .estStart (fun c e => can c e ∧ (estQuiet (begun e)).ec 2 1 = 0xFF) (fun _ e => (estState .off (estQuiet (begun e)), .ok))
     ∧ Starts .estStart .estStart (fun c e => can c e ∧ (estQuiet (begun e)).ec 2 1 ≠ 0xFF ∧ (estQuiet (begun e)).bindsShort = false
         ∧ e.posing = true) (fun c e => e.setEst fun x => { x with
           startToks := x.startToks ++ [{ tok := c.tok, reloc := c.d.u8 24 / 2 == 1, pos := pos c, yaw := yaw c }] })
     ∧ Ends .estStart .estStart (fun c e => can c e ∧ (estQuiet (begun e)).ec 2 1 ≠ 0xFF ∧ (estQuiet (begun e)).bindsShort = false
         ∧ e.posing = false) (fun c e => ((opened c e).useFree, .ok (opened c e).freeVal)))
  ∧ Runs .estStop .estStop (fun _ e => e.est.st ≠ .off ∧ e.est.st ≠ .deadReckoning ∧ e.est.st ≠ .baseMetal) (fun _ e =>
      (estState .deadReckoning (estQuiet e), .ok))
  ∧ Runs .estStatus .estStatus (fun _ _ => True) (fun _ e =>
      (e, .ok e.est.epoch (e.est.st.code + atBit 3 e.est.source + atBit 8 e.est.window.length + atBit 16 e.est.failed.toNat)))
  ∧ Runs .keyframeRead .keyframeRead (fun c _ => 1 ≤ c.d.f 24 4 ∧ c.d.f 24 4 ≤ 4096) (fun c e =>
      let l := (inOrder (e.est.kfs.filter fun k => decide (c.d.f 40 8 ≤ k.id)) fun a b => decide (a.id ≤ b.id)).take (c.d.f 24 4)
      (e, c.output 32 (l.flatMap Keyframe.record) (.ok e.est.epoch l.length)))
  ∧ (let per (c : OpCtx) := c.d.f 40 4
     let first (c : OpCtx) (e : Dev) :=
       firstInstant (c.d.f 32 8) (per c * usNs) (e.tb64 + msNs)
     let start (c : OpCtx) (e : Dev) (st : FusSt) (rows : Nat) (f : Dev) : Dev :=
       fusState st 0 ((streamStart 0x0500 (streamStart 0x0501 f)).setFus fun x => { x with
         slot := c.d.u8 24, conflictRuns := if c.d.u8 25 = 0 then 8 else c.d.u8 25, createScore := c.d.u8 26, keepScore := c.d.u8 27
         maxTracks := c.d.f 28 2, rows := rows, phase := c.d.f 32 8, periodUs := per c, sensorMask := c.d.f 44 4, next := first c e, seq := 0
         runs := [], running := none, waiting := none, skippedSince := 0, tracks := [], nextId := 1, ckpt := []
         asked := [], lastTick := none, stepTo := none })
     let can (c : OpCtx) (e : Dev) : Prop := 1000 ≤ per c ∧ per c ≤ 1000000 ∧ (∀ i < 32, (c.d.f 44 4).testBit i = true → e.kind i ≠ 0)
       ∧ e.fusion.st = .idle
     Runs .fusionStart .fusionStart (fun c e => can c e ∧ c.d.u8 24 = 0xFF ∧ c.d.u8 26 = 0 ∧ c.d.u8 27 = 0 ∧ c.d.f 28 2 = 0) (fun c e =>
       (start c e .checking 0 e, .ok (first c e) 0xF))
     ∧ (∀ r : RoleEntry,
        Runs .fusionStart .fusionStart (fun c e => can c e ∧ c.d.u8 24 ≤ 15 ∧ 1 ≤ c.d.u8 27 ∧ c.d.u8 27 ≤ c.d.u8 26 ∧ 1 ≤ c.d.f 28 2
          ∧ (e.slot (c.d.u8 24)).st = .loaded ∧ fusionPkgFault (e.pkg (c.d.u8 24)) = none ∧ c.d.f 28 2 ≤ e.pk (c.d.u8 24) 588 4
          ∧ (∀ q ∈ (e.slot (c.d.u8 24)).insts, q.claim = none) ∧ e.bound (c.d.u8 24) = false
          ∧ e.roleAt 1 (holderObj (c.d.u8 24) 0) = some r ∧ r.cluster < 6) (fun c e =>
          (start c e .running (e.pk (c.d.u8 24) 588 4)
            (placeRole 4 (fusionObj (c.d.u8 24)) r.cluster r.engine none (freeRole 1 (holderObj (c.d.u8 24) 0) e)), .ok (first c e) r.cluster))))
  ∧ Starts .fusionStop .fusionStop (fun _ e => e.fusion.st ≠ .idle) (fun c e => e.setFus fun f => { f with asked := f.asked ++ [(c.tok, true)] })
  ∧ Starts .fusionReset .fusionReset (fun _ e => e.fusion.st ≠ .idle) (fun c e => e.setFus fun f => { f with asked := f.asked ++ [(c.tok, false)] })
  ∧ Runs .fusionBounds .fusionBounds (fun c _ => ∀ i < 6, c.d.f (24 + 4 * i) 4 < 2 ^ 31) (fun c e =>
      (e.setFus fun f => { f with bounds := (List.range 6).map fun i => c.d.f (24 + 4 * i) 4, runs := [] }, .ok))
  ∧ Runs .fusionStatus .fusionStatus (fun _ _ => True) (fun _ e =>
      let f := e.fusion
      (e, .ok (f.lastSeq % 2 ^ 32 + atBit 32 f.tracks.length + atBit 48 f.st.code + atBit 56 f.slot) f.masked.toNat))

/-- Place opcodes (R397-R400, R402, R403, R407-R409, R412, R415, R416, R419-R423): an index is created, loaded and dropped, vectors are
appended and deleted, a query becomes a job, a merge is cut, and a walker leaves or returns. -/
def Obligations.PlaceOpcodesComplete : Prop :=
  (let built (c : OpCtx) (e : Dev) : PIndex :=
     let x : PIndex := { format := c.d.u8 25, metric := c.d.u8 26, deg := c.d.u8 27, dim := c.d.f 28 2, codeBytes := c.d.u8 30
                         fleet := c.d.u8 31 % 2 == 1, residency := c.d.u8 31 / 2, sideCap := c.d.f 40 4, idCap := c.d.f 44 4 }
     { x with proj := if x.format = 0 then c.input e 32 (8 * x.codeBytes * x.dim) else [] }
   Runs .indexCreate .indexCreate (fun c e => 1 ≤ c.d.u8 24 ∧ c.d.u8 24 ≤ 15 ∧ (built c e).residency ≤ 2
       ∧ (ixChecks 25 26 28 27 30 (built c e)).all (fun p => p.2) = true ∧ capsOk (built c e) = true ∧ e.ixIdsFit (built c e) = true
       ∧ ((built c e).format = 1 → c.d.f 32 8 = 0) ∧ (e.ix (c.d.u8 24)).st = .empty ∧ e.ixShort (built c e) = none) (fun c e =>
     let f := makeObjects (c.d.u8 24) (if (built c e).fleet then 2 else 1) (built c e) e
     (ixState (c.d.u8 24) .ready 0 (f.setIx (c.d.u8 24) fun _ => built c e),
       .ok (built c e).ipmBytes (if f.slowOn then (built c e).slowBytes else 0))))
  ∧ (let okChunk (c : OpCtx) (first final : Bool) : Prop :=
       1 ≤ c.d.u8 24 ∧ c.d.u8 24 ≤ 15 ∧ c.d.u8 25 ≤ 3 ∧ c.d.u8 25 % 2 = bit first ∧ c.d.u8 25 / 2 % 2 = bit final ∧ 1 ≤ c.d.f 28 4
       ∧ c.d.f 28 4 ≤ 67108864 ∧ (first = false → c.d.f 48 8 = 0)
     let img (c : OpCtx) (e : Dev) (first : Bool) := (if first then [] else (e.ix (c.d.u8 24)).image) ++ c.input e 32 (c.d.f 28 4)
     let total (c : OpCtx) (e : Dev) (first : Bool) := if first then c.d.f 48 8 else (e.ix (c.d.u8 24)).total
     let held (c : OpCtx) (e : Dev) (first : Bool) : Dev :=
       let f := if first then ixState (c.d.u8 24) .loading 0 ((freeIndex (c.d.u8 24) e).setIx (c.d.u8 24) fun _ => { st := (e.ix (c.d.u8 24)).st }) else e
       f.setIx (c.d.u8 24) fun y => { y with image := img c e first, total := total c e first }
     let fits (c : OpCtx) (e : Dev) (first : Bool) : Prop :=
       if first then c.d.f 40 8 = 0 ∧ ((e.ix (c.d.u8 24)).st = .empty ∨ (e.ix (c.d.u8 24)).st = .loading)
       else (e.ix (c.d.u8 24)).st = .loading ∧ c.d.f 40 8 = (e.ix (c.d.u8 24)).image.length
     ∀ (first : Bool) (f : Dev),
     Runs .indexLoad .indexLoad (fun c e => okChunk c first false ∧ fits c e first ∧ c.d.f 40 8 + c.d.f 28 4 ≤ total c e first
         ∧ loadReserve (c.d.u8 24) (held c e first) = .ok f) (fun _ _ => (f, .ok))
     ∧ Runs .indexLoad .indexLoad (fun c e => okChunk c first true ∧ fits c e first
         ∧ imageFault ((held c e first).setIx (c.d.u8 24) fun _ => {}) (img c e first) (total c e first) = none
         ∧ loadReserve (c.d.u8 24) (held c e first) = .ok f) (fun c e =>
       let y := imageBuild (img c e first)
       (ixState (c.d.u8 24) .ready 0 (storeIndex (c.d.u8 24) [3, 4, 5] (f.setIx (c.d.u8 24) fun z => { y with st := z.st })), .ok y.idEnd)))
  ∧ Starts .indexDrop .indexDrop (fun c e => 1 ≤ c.d.u8 24 ∧ c.d.u8 24 ≤ 15 ∧ (e.ix (c.d.u8 24)).st = .ready ∧ (e.ix (c.d.u8 24)).drop = none)
      (fun c e => dropCheck (c.d.u8 24) (e.setIx (c.d.u8 24) fun x => { x with drop := some (e.seqOf c.tok, c.tok) }))
  ∧ (let can (c : OpCtx) (e : Dev) : Prop := 1 ≤ c.d.u8 24 ∧ c.d.u8 24 ≤ 15 ∧ 1 ≤ c.d.f 28 4 ∧ c.d.f 28 4 ≤ 4096
       ∧ ((e.ix (c.d.u8 24)).st = .ready ∨ (e.ix (c.d.u8 24)).st = .merging)
     let vecs (c : OpCtx) (e : Dev) := pieces (e.ix (c.d.u8 24)).vecBytes (c.d.f 28 4) (c.input e 32 (c.d.f 28 4 * (e.ix (c.d.u8 24)).vecBytes))
     let hits (c : OpCtx) (e : Dev) : List Nat :=
       ((List.range (c.d.f 28 4)).map fun k => fld (c.input e 32 (4 * c.d.f 28 4)) (4 * k) 4).foldl (fun l k =>
         let x := e.ix (c.d.u8 24)
         if decide (k < x.idEnd) && !l.contains k && x.tombs.all (fun t => t.1 != k) && !x.cur.holes.contains k then l ++ [k] else l) []
     let buried (c : OpCtx) (e : Dev) (te : Nat) : Dev := storeIndex (c.d.u8 24) [3] ((beforeCommit (c.d.u8 24) e).setIx (c.d.u8 24) fun x => { x with
       te := te, tombs := x.tombs ++ (hits c e).map fun k => (k, te) })
     (∀ (f : Dev) (id : Nat), Runs .placeInsert .placeInsert (fun c e => can c e ∧ appendVecs (c.d.u8 24) (vecs c e) e = (f, .inl id)) (fun _ _ =>
       (f, .ok id)))
     ∧ Runs .placeDelete .placeDelete (fun c e => can c e ∧ (hits c e).length = c.d.f 28 4) (fun c e =>
       let te := (e.ix (c.d.u8 24)).te + 1
       (buried c e te, .ok te (c.d.f 28 4)))
     ∧ Runs .placeDelete .placeDelete (fun c e => can c e ∧ (hits c e).length < c.d.f 28 4) (fun c e =>
       let te := if (hits c e).isEmpty then (e.ix (c.d.u8 24)).te else (e.ix (c.d.u8 24)).te + 1
       (if (hits c e).isEmpty then e else buried c e te, { Cpl.flagged 1 te (hits c e).length with stateCode := BitVec.ofNat 16 (min (c.d.f 28 4 - (hits c e).length) 65535) })))
  ∧ (let job (c : OpCtx) (e : Dev) (ex : Bool) : PlaceJob :=
       let x := e.ix (c.d.u8 24)
       { id := 0, owner := .desc c.tok, seq := e.seqOf c.tok, index := c.d.u8 24, low := c.d.u8 25 % 2 == 1 || x.fleet, exhaustive := ex
         k := c.d.u8 26, rerank := c.d.u8 27, len := if ex then 16 else c.d.f 28 2, maxExp := c.d.f 30 2
         vecs := pieces x.vecBytes (c.d.f 48 2) (c.input e 32 (c.d.f 48 2 * x.vecBytes)), dest := c.d.f 40 8 }
     let can (c : OpCtx) (e : Dev) : Prop := c.d.u8 24 ≤ 15 ∧ c.d.u8 25 ≤ 3 ∧ 1 ≤ c.d.u8 26 ∧ c.d.u8 26 ≤ 64 ∧ 1 ≤ c.d.f 48 2 ∧ c.d.f 48 2 ≤ 256
       ∧ ((e.ix (c.d.u8 24)).st = .ready ∨ (e.ix (c.d.u8 24)).st = .merging)
     Starts .placeQuery .placeQuery (fun c e => can c e ∧ 2 ≤ c.d.u8 25) (fun c e => addJob (job c e true) e)
     ∧ Starts .placeQuery .placeQuery (fun c e => can c e ∧ c.d.u8 25 ≤ 1 ∧ c.d.u8 27 ≤ 64 ∧ 16 ≤ c.d.f 28 2 ∧ c.d.f 28 2 ≤ 256
         ∧ (c.d.f 30 2 = 0 ∨ c.d.f 28 2 ≤ c.d.f 30 2) ∧ c.d.u8 27 ≤ c.d.f 28 2) (fun c e => addJob (job c e false) e))
  ∧ (∀ f : Dev, Starts .indexMerge .indexMerge (fun c e => c.d.u8 24 ≤ 15 ∧ (e.ix (c.d.u8 24)).st = .ready
      ∧ mergeCut (c.d.u8 24) (some c.tok) (((e.pendOf c.tok).map (·.cut)).getD ((e.ix (c.d.u8 24)).idEnd, (e.ix (c.d.u8 24)).te)) e = (f, none))
      (fun _ _ => f))
  ∧ Runs .indexQuery .indexQuery (fun c _ => c.d.u8 24 ≤ 15) (fun c e =>
      let x := e.ix (c.d.u8 24)
      (e, .ok (x.st.code % 256 + atBit 8 x.residency + atBit 32 x.idEnd) (x.side + atBit 32 x.pending.length)))
  ∧ Ends .walkerSet .walkerSet (fun c e => c.d.u8 24 ≤ 7 ∧ (e.pf 22 1).testBit (c.d.u8 24) = true ∧ c.d.u8 25 = 0 ∧ (e.wk (c.d.u8 24)).st = .online ∧ e.onlineWalkers.length ≠ 1) (fun c e =>
      (moveContexts (c.d.u8 24) (wkState (c.d.u8 24) .off 0 e), .ok))
  ∧ Ends .walkerSet .walkerSet (fun c e => c.d.u8 24 ≤ 7 ∧ (e.pf 22 1).testBit (c.d.u8 24) = true ∧ c.d.u8 25 = 1 ∧ (e.wk (c.d.u8 24)).st = .off) (fun c e =>
      (wkState (c.d.u8 24) .online 0 e, .ok))
  ∧ Starts .walkerSet .walkerSet (fun c e => c.d.u8 24 ≤ 7 ∧ (e.pf 22 1).testBit (c.d.u8 24) = true ∧ c.d.u8 25 = 1 ∧ (e.wk (c.d.u8 24)).st = .fenced
      ∧ (e.flt.assays.any fun a => a.kind == 1 && a.unit == c.d.u8 24) = false) (fun c e =>
      beginAssay 1 (c.d.u8 24) (.chapter c.tok) false e)

/-- Tier opcodes (R239-R242, R245, R246, R249-R251, R254, R258, R259, R263): an object is queried, promoted, evicted and unpinned, the usage
is answered, the slow tier is attached and formatted, and an IPM channel leaves and returns. -/
def Obligations.TierOpcodesComplete : Prop :=
  (∀ o : TierObj,
     Runs .tierQuery .tierQuery (fun c e => e.obj (c.d.f 24 4) = some o) (fun _ e =>
       (e, .ok (o.st.code % 256 + atBit 8 o.kind + atBit 16 (o.pins.filter fun p => decide (0 < p.2)).length + atBit 32 (units o.size)) o.hostPins))
     ∧ (∀ f : Dev, Ends .tierPromote .tierPromote (fun c e => e.obj (c.d.f 24 4) = some o ∧ promote o.id 0xFF 1 (.host c.tok) e = (f, .done))
         (fun _ _ => (f, .ok)))
     ∧ (∀ f : Dev, Starts .tierPromote .tierPromote (fun c e => e.obj (c.d.f 24 4) = some o ∧ promote o.id 0xFF 1 (.host c.tok) e = (f, .waits))
         (fun _ _ => f))
     ∧ Ends .tierEvict .tierEvict (fun c e => e.obj (c.d.f 24 4) = some o ∧ o.st = .resident ∧ o.pinCount = 0 ∧ ¬ (o.kind = 6 ∧ o.changed = true))
         (fun _ e => (evictObj o e, .ok))
     ∧ Starts .tierEvict .tierEvict (fun c e => e.obj (c.d.f 24 4) = some o ∧ o.st = .resident ∧ o.pinCount = 0 ∧ o.kind = 6 ∧ o.changed = true)
         (fun c e => evictObj o (e.setObj o.id fun o => { o with evict := [c.tok], evictor := some c.tok }))
     ∧ Runs .tierUnpin .tierUnpin (fun c e => e.obj (c.d.f 24 4) = some o ∧ c.d.f 28 2 ≤ o.hostPins) (fun c e =>
         let left := if c.d.f 28 2 = 0 then 0 else o.hostPins - c.d.f 28 2
         (e.setObj o.id fun o => { o with
           pins := (o.pins.filter fun p => p.1 != 0xFF) ++ (if left = 0 then [] else [(0xFF, left)]) }, .ok 0 left)))
  ∧ Runs .tierUsage .tierUsage (fun _ _ => True) (fun _ e => (e, .ok (e.ipmUsed + atBit 32 e.ipmPinned) ((e.slowUsed + 1048575) / 1048576)))
  ∧ Runs .slowAttach .slowAttach (fun c e => c.d.u8 24 = 0 ∧ c.d.f 28 4 = 0 ∧ e.nvme.st = .attached) (fun _ e => (e, .ok e.nvme.capacity))
  ∧ Runs .slowAttach .slowAttach (fun c e => c.d.u8 24 = 1 ∧ c.d.f 28 4 = 0x544D5246 ∧ (e.nvme.st = .attached ∨ e.nvme.st = .unlabelled)
      ∧ ∀ o ∈ e.tier.objs, o.slow = true → o.pinCount = 0) (fun _ e =>
      let gone := (e.tier.objs.filter fun o => o.slow && decide (o.kind ≤ 2)).map (·.id)
      let f := dropObjs (fun o => o.slow && decide (2 < o.kind)) (gone.foldl (fun f id => loseObject id f) e)
      let keep := f.tier.objs.map fun o => if o.slow then { o with ext := [], mir := [], crcs := [] } else o
      let f := nvmeSend (classQueue 1) [.writeLabels, .flush] { f with tier := { f.tier with objs := keep } }
      (mapHomes (slowState .attached f), .ok f.nvme.capacity))
  ∧ Ends .ipmChannel .ipmChannel (fun c e => c.d.u8 24 ≤ 63 ∧ c.d.u8 25 = 0 ∧ (e.ipmCh (c.d.u8 24)).st = .online
      ∧ (e.groupOut (c.d.u8 24 % 8)).isEmpty = true) (fun c e => (chChange (c.d.u8 24) .offline 0 e, .ok))
  ∧ Ends .ipmChannel .ipmChannel (fun c e => c.d.u8 24 ≤ 63 ∧ c.d.u8 25 = 1 ∧ (e.ipmCh (c.d.u8 24)).st = .online) (fun _ e => (e, .ok))
  ∧ Starts .ipmChannel .ipmChannel (fun c e => c.d.u8 24 ≤ 63 ∧ c.d.u8 25 = 1 ∧ (e.ipmCh (c.d.u8 24)).st = .resync) (fun c e =>
      e.setIpmCh (c.d.u8 24) fun x => { x with returning := c.tok :: x.returning })
  ∧ Starts .ipmChannel .ipmChannel (fun c e => c.d.u8 24 ≤ 63 ∧ c.d.u8 25 = 1 ∧ (e.ipmCh (c.d.u8 24)).st = .offline
      ∧ (e.flt.assays.any fun a => a.kind == 4 && a.unit == c.d.u8 24) = false) (fun c e =>
      beginAssay 4 (c.d.u8 24) (.chapter c.tok) false e)
  ∧ Starts .ipmChannel .ipmChannel (fun c e => c.d.u8 24 ≤ 63 ∧ c.d.u8 25 = 1 ∧ (e.ipmCh (c.d.u8 24)).st = .offline
      ∧ (e.flt.assays.any fun a => a.kind == 4 && a.unit == c.d.u8 24) = true) (fun c e =>
      e.setIpmCh (c.d.u8 24) fun x => { x with waiting := x.waiting ++ [c.tok] })

/-- Fleet opcodes (R424-R426, R429, R430, R432, R437-R439, R441, R442, R446, R447, R452-R454, R456, R457): the configuration, the enrolment
items, the join, the frame and the shard table are taken, shards are hosted, dropped, handed over and claimed, and a fleet query asks its
shards. -/
def Obligations.FleetOpcodesComplete : Prop :=
  (let fits (c : OpCtx) : Prop := c.d.f 24 2 ≤ 16383 ∧ c.d.u8 27 ≤ 31 ∧ bitsOf 14 12 (c.d.f 28 2) = 0 ∧ c.d.u8 30 ≤ 7 ∧ c.d.u8 31 ≤ 1
     ∧ (c.d.u8 26 = 6 ∨ (c.d.u8 26 = 4 ∧ beNat (c.d.bytes 32 4) % 16384 = 0 ∧ leNat (c.d.bytes 36 12) = 0 ∧ leNat (c.d.bytes 52 12) = 0))
   let taken (c : OpCtx) (e : Dev) : Dev :=
     let f := e.setFleet fun f => { f with cfg := c.d.bytes 24 40, alt := false }
     if f.address f.devId == e.address e.devId then f else
       match f.fleet.sessions.find? (·.admin) with
       | some s => sessionClose s.id f
       | none => f
   Runs .fleetConfig .fleetConfig (fun c e => fits c ∧ e.lockedCpl = none ∧ e.fleet.st = .off ∧ (taken c e).fleet.st = .off) (fun c e =>
     (fleetState .configured (taken c e), .ok))
   ∧ Runs .fleetConfig .fleetConfig (fun c e => fits c ∧ e.lockedCpl = none ∧ e.fleet.st = .configured ∧ (taken c e).fleet.st = .configured)
       (fun c e => (taken c e, .ok))
   ∧ Runs .fleetConfig .fleetConfig (fun c e => fits c ∧ e.lockedCpl = none ∧ e.fleet.st = .enrolled ∧ (taken c e).fleet.st = .enrolled
       ∧ (taken c e).devId ≠ e.devId) (fun c e =>
     (fleetState .configured ((taken c e).setFleet fun f => { f with enrolment := none }), .ok))
   ∧ Runs .fleetConfig .fleetConfig (fun c e => fits c ∧ e.lockedCpl = none ∧ e.fleet.st = .enrolled ∧ (taken c e).fleet.st = .enrolled
       ∧ (taken c e).devId = e.devId) (fun c e => (taken c e, .ok)))
  ∧ (let sized (c : OpCtx) : Prop := c.d.u8 25 ≤ 3 ∧ 1 ≤ c.d.f 28 4 ∧ c.d.f 28 4 ≤ 4096 ∧ (c.d.u8 25 % 2 = 1 → c.d.f 40 4 = 0)
     let held (c : OpCtx) (b : Bytes) : Bytes := if c.d.u8 25 % 2 = 1 then [] else b
     let placed (c : OpCtx) (b : Bytes) (total : Nat) : Prop := c.d.f 40 4 = (held c b).length ∧ c.d.f 40 4 + c.d.f 28 4 ≤ total
       ∧ (c.d.u8 25 / 2 % 2 = 1 → c.d.f 40 4 + c.d.f 28 4 = total)
     Runs .fleetEnrol .fleetEnrol (fun c e => c.d.u8 24 = 0 ∧ sized c ∧ e.lockedCpl = none ∧ placed c e.fleet.authIn 2592) (fun c e =>
       let b := held c e.fleet.authIn ++ c.input e 32 (c.d.f 28 4)
       (e.setFleet fun f => if c.d.u8 25 / 2 % 2 = 1 then { f with auth := b, authIn := [] } else { f with authIn := b }, .ok))
     ∧ Runs .fleetEnrol .fleetEnrol (fun c e => c.d.u8 24 = 1 ∧ c.d.u8 25 ≤ 1 ∧ sized c ∧ e.lockedCpl = none ∧ placed c e.fleet.certIn 7283)
       (fun c e => (e.setFleet fun f => { f with certIn := held c e.fleet.certIn ++ c.input e 32 (c.d.f 28 4) }, .ok))
     ∧ (let cert (c : OpCtx) (e : Dev) := held c e.fleet.certIn ++ c.input e 32 (c.d.f 28 4)
        let got (c : OpCtx) (e : Dev) := e.setFleet fun f => { f with certIn := cert c e }
        Runs .fleetEnrol .fleetEnrol (fun c e => c.d.u8 24 = 1 ∧ 2 ≤ c.d.u8 25 ∧ sized c ∧ e.lockedCpl = none ∧ placed c e.fleet.certIn 7283
          ∧ e.certFault (cert c e) = none ∧ (e.fleet.st = .configured ∨ e.fleet.st = .enrolled)) (fun c e =>
          (fleetState .enrolled ((got c e).setFleet fun f => { f with enrolment := some (f.auth, cert c e) }), .ok))))
  ∧ Runs .fleetJoin .fleetJoin (fun c e => c.d.u8 24 = 1 ∧ e.fleet.st = .enrolled) (fun _ e => (restartShards (fleetState .joined e), .ok))
  ∧ Runs .fleetJoin .fleetJoin (fun c e => c.d.u8 24 = 0 ∧ e.fleet.st = .joined
      ∧ ∀ h ∈ e.fleet.hosted, h.st ≠ .primary ∧ h.st ≠ .handingOver ∧ h.st ≠ .claiming) (fun _ e =>
      (fleetLeave (fleetState .enrolled e), .ok))
  ∧ Runs .fleetFrame .fleetFrame (fun c e =>
      let q (k : Nat) : Int := sInt 32 (c.d.f (48 + 4 * k) 4)
      (q 0 * q 0 + q 1 * q 1 + q 2 * q 2 + q 3 * q 3 - (2 ^ 60 : Nat)).natAbs ≤ 2 ^ 44 ∧ e.lockedCpl = none) (fun c e =>
      (e.setFleet fun f => { f with frame := c.d.bytes 24 40 }, .ok))
  ∧ (let rows (c : OpCtx) (e : Dev) := (if c.d.u8 24 % 2 = 1 then [] else e.fleet.tableIn) ++ pieces 64 (c.d.f 28 4) (c.input e 32 (64 * c.d.f 28 4))
     let can (c : OpCtx) (e : Dev) : Prop := 1 ≤ c.d.f 28 4 ∧ c.d.f 28 4 ≤ 65536 ∧ e.lockedCpl = none ∧ e.fleet.st = .joined
       ∧ c.d.f 40 4 = (if c.d.u8 24 % 2 = 1 then [] else e.fleet.tableIn).length ∧ c.d.f 40 4 + c.d.f 28 4 ≤ 65536
     Runs .shardTable .shardTable (fun c e => can c e ∧ c.d.u8 24 ≤ 1) (fun c e => (e.setFleet fun f => { f with tableIn := rows c e }, .ok))
     ∧ Runs .shardTable .shardTable (fun c e => can c e ∧ 2 ≤ c.d.u8 24 ∧ c.d.u8 24 ≤ 3 ∧ shardFault (rows c e) = none) (fun c e =>
       let old := e.fleet.table
       let pick (x : Bytes) : Bytes := match old.find? fun y => fld y 0 4 == fld x 0 4 with
         | some y => if eEpoch x < eEpoch y then eHeader x (eEpoch y) (ePrimary y) else x
         | none => x
       let new := (rows c e).map pick
       let known := new.filter fun x => old.any fun y => fld y 0 4 == fld x 0 4
       let f := e.setFleet fun f => { f with
         tableIn := [], table := old.filter fun y => known.any fun x => fld x 0 4 == fld y 0 4 }
       let f := known.foldl (fun f x => takeEntry (fld x 0 4) x 0 f) f
       (f.setFleet fun f => { f with table := new }, .ok new.length)))
  ∧ (∀ x : Bytes,
     let ours (c : OpCtx) (e : Dev) : Prop := e.fleet.st = .joined ∧ e.shardEntry (c.d.f 24 4) = some x
     (let ix (c : OpCtx) : PIndex :=
        let y := { entryIndex x with residency := c.d.u8 29, sideCap := c.d.f 32 4 }
        { y with proj := if y.format = 0 then Config.shake256 (sliceAt x 48 8) (8 * y.codeBytes * y.dim) else [] }
      let made (c : OpCtx) (e : Dev) : Dev := ixState (c.d.u8 28) .ready 0 ((makeObjects (c.d.u8 28) 2 (ix c) e).setIx (c.d.u8 28) fun _ => ix c)
      let put (c : OpCtx) (e : Dev) (st : ShSt) : Dev :=
        evShard (c.d.f 24 4) st 0 ((made c e).setFleet fun f => { f with hosted := f.hosted ++ [{ shard := c.d.f 24 4, slot := c.d.u8 28, st := st }] })
      let can (c : OpCtx) (e : Dev) : Prop := ours c e ∧ 1 ≤ c.d.u8 28 ∧ c.d.u8 28 ≤ 15 ∧ c.d.u8 29 ≤ 2 ∧ 1024 ≤ c.d.f 32 4 ∧ c.d.f 32 4 ≤ 16777216
        ∧ e.host (c.d.f 24 4) = none ∧ (eHolders x).contains e.devId = true ∧ (e.ix (c.d.u8 28)).st = .empty
        ∧ e.ixIdsFit { entryIndex x with residency := c.d.u8 29, sideCap := c.d.f 32 4 } = true ∧ e.ixShort (ix c) = none
      let ram (c : OpCtx) (f : Dev) : Cpl := .ok (ix c).ipmBytes (if f.slowOn then (ix c).slowBytes else 0)
      Runs .shardHost .shardHost (fun c e => can c e ∧ ePrimary x = (made c e).devId) (fun c e =>
        (put c e .primary, ram c (put c e .primary)))
      ∧ Runs .shardHost .shardHost (fun c e => can c e ∧ ePrimary x ≠ (made c e).devId) (fun c e =>
        (syncStart (c.d.f 24 4) (put c e .syncing), ram c (put c e .syncing))))
     ∧ Runs .shardDrop .shardDrop (fun c e => ours c e ∧ (e.shardSt (c.d.f 24 4) = .syncing ∨ e.shardSt (c.d.f 24 4) = .replica)) (fun c e =>
       (dropShard (c.d.f 24 4) 0 e, .ok))
     ∧ (∀ h : Hosted, Starts .shardHandover .shardHandover (fun c e => c.d.f 28 2 ≤ 16383 ∧ ours c e ∧ e.host (c.d.f 24 4) = some h ∧ h.st = .primary
         ∧ eEpoch x = c.d.f 32 4 ∧ (h.peers.find? fun p => p.1 == c.d.f 28 2).map (·.2) = some 0x0903
         ∧ (eHolders x).contains (c.d.f 28 2) = true) (fun c e =>
         let ms := if c.d.f 36 2 = 0 then 5000 else c.d.f 36 2
         sendReq 0x34 (c.d.f 28 2) (c.d.f 24 4) 0 (.handoverReq h.rev) (shardState (c.d.f 24 4) .handingOver 0
           ((commitPoint c.tok e).setHost (c.d.f 24 4) fun h => { h with handing := some (c.tok, c.d.f 28 2, e.now + ms * msNs) }))))
     ∧ Starts .shardPromote .shardPromote (fun c e => ours c e ∧ e.shardSt (c.d.f 24 4) = .replica ∧ eEpoch x = c.d.f 32 4) (fun c e =>
       startClaim (c.d.f 24 4) 0 (some c.tok) (setEntry (c.d.f 24 4) (eMoved x (eEpoch x + 1) e.devId) (commitPoint c.tok e)))
     ∧ Runs .shardStatus .shardStatus (fun c e => e.shardEntry (c.d.f 24 4) = some x) (fun c e =>
       let h := e.host (c.d.f 24 4)
       (e, .ok ((e.shardSt (c.d.f 24 4)).code % 256 + atBit 8 ((h.map (·.slot)).getD 0) + atBit 16 (ePrimary x) + atBit 32 (eEpoch x))
         ((h.map (·.rev)).getD 0))))
  ∧ Starts .fleetQuery .fleetQuery (fun c _ => c.d.u8 24 ≤ 3 ∧ 1 ≤ c.d.u8 25 ∧ c.d.u8 25 ≤ 64 ∧ c.d.u8 26 ≤ 64 ∧ 1 ≤ c.d.u8 27 ∧ c.d.u8 27 ≤ 64
      ∧ 16 ≤ c.d.f 28 2 ∧ c.d.f 28 2 ≤ 256 ∧ c.d.f 30 2 ≤ 1000 ∧ 1 ≤ c.d.f 48 2 ∧ c.d.f 48 2 ≤ 256) (fun c e =>
      let picked := e.pickShards (sInt 32 (c.d.f 56 4)) (sInt 32 (c.d.f 60 4)) (sInt 32 (c.d.f 52 4)) (c.d.u8 27)
      let key (x : Bytes) : List Nat := [fld x 24 1, fld x 25 1, fld x 26 2]
      let same := picked.filter fun x => key x == key (picked.headD [])
      let vb := (entryIndex (picked.headD [])).vecBytes
      let holders (x : Bytes) : List Nat :=
        let s := if c.d.u8 24 / 2 = 0 then 0 else c.tok.count.toNat % (eHolders x).length
        (eHolders x).drop s ++ (eHolders x).take s
      let qid := e.fleet.nextQuery
      let q : FleetQ := {
        id := qid, tok := c.tok, dest := c.d.f 40 8, k := c.d.u8 25, n := c.d.f 48 2, rerank := max (c.d.u8 26) (c.d.u8 25), len := c.d.f 28 2
        timeoutMs := if c.d.f 30 2 = 0 then 20 else c.d.f 30 2
        vecs := if picked.isEmpty then [] else pieces vb (c.d.f 48 2) (c.input e 32 (e.queryBytes c.d)), scattered := e.tb64
        formatBad := decide (same.length < picked.length), shards := same.map fun x => { shard := fld x 0 4, holders := holders x } }
      let f := e.setFleet fun f => { f with queries := f.queries ++ [q], nextQuery := qid + 1 }
      queryCheck qid ((same.map fun x => fld x 0 4).foldl (fun f s => askShard qid s f) f))

/-- Fault opcodes (R463, R465, R469, R472, R476-R482, R485, R486): the status and the log are answered, a unit is fenced, returned or tried,
and base-metal is entered and left. -/
def Obligations.FaultOpcodesComplete : Prop :=
  Runs .fltStatus .fltStatus (fun _ _ => True) (fun _ e =>
      (e, .ok (atBit 8 e.flt.causes.toNat + atBit 16 (e.liveEngines % 256) + atBit 24 (e.fencedEngines % 256) + atBit 32 e.liveCores)
        (e.fltCnt1Read % 2 ^ 32)))
  ∧ Runs .fltLog .fltLog (fun c e => 1 ≤ c.d.f 24 2 ∧ c.d.f 24 2 ≤ 256
      ∧ (c.inline = true → (e.flt.log.take (c.d.f 24 2)).length ≤ 128)) (fun c e =>
      let l := e.flt.log.take (c.d.f 24 2)
      (e, c.output 32 (l.flatMap (·.bytes)) (.ok l.length)))
  ∧ Runs .fltLog .fltLog (fun c e => c.inline = true ∧ c.d.f 24 2 ≤ 256 ∧ 128 < (e.flt.log.take (c.d.f 24 2)).length) (fun _ e => (e, .bad))
  ∧ (let unit (c : OpCtx) := c.d.f 26 2
     let sound (c : OpCtx) (e : Dev) (k : Nat) : Prop := c.d.u8 24 = k ∧ unitOk k (unit c) = true ∧ e.unitGated k (unit c) = false
       ∧ e.assayOf k (unit c) = none
     let engine (c : OpCtx) (e : Dev) := e.eng (unit c / 256) (unit c % 256)
     let spare (c : OpCtx) (e : Dev) : Prop := e.flt.minLive.toNat ≤ e.keptEngines - 1 ∧ (engine c e).leaving = none
     let counted (e : Dev) : Dev := { e with flt := { e.flt with fences := satInc e.flt.fences } }
     Starts .unitFence .unitFence (fun c e => sound c e 0 ∧ e.unitFencedNow 0 (unit c) = false ∧ spare c e ∧ (engine c e).running = none) (fun c e =>
       leaveEngine (unit c / 256) (unit c % 256) (some c.tok, false) e)
     ∧ Starts .unitFence .unitFence (fun c e => sound c e 0 ∧ e.unitFencedNow 0 (unit c) = false ∧ spare c e ∧ (engine c e).running ≠ none)
       (fun c e => e.setEng (unit c / 256) (unit c % 256) fun x => { x with leaving := some (some c.tok, false) })
     ∧ Ends .unitFence .unitFence (fun c e => sound c e 3 ∧ e.unitFencedNow 3 (unit c) = false ∧ 2 ≤ e.liveCores) (fun c e =>
       (counted (coreGone (unit c) 1 false e), .ok))
     ∧ Ends .unitFence .unitFence (fun c e => sound c e 5 ∧ e.unitFencedNow 5 (unit c) = false) (fun c e =>
       (counted (e.setTs (unit c) fun x => { x with st := .fenced }), .ok))
     ∧ Starts .unitReturn .unitReturn (fun c e => sound c e 0 ∧ e.unitFencedNow 0 (unit c) = true) (fun c e =>
       beginAssay 0 (unit c) (.unitReturn c.tok) false (e.setEng (unit c / 256) (unit c % 256) fun x => { x with st := .assay }))
     ∧ Starts .unitReturn .unitReturn (fun c e => sound c e 3 ∧ e.unitFencedNow 3 (unit c) = true) (fun c e =>
       beginAssay 3 (unit c) (.unitReturn c.tok) false { e with flt := { e.flt with core := upd e.flt.core (unit c) fun _ => 2 } })
     ∧ Starts .unitReturn .unitReturn (fun c e => sound c e 5 ∧ e.unitFencedNow 5 (unit c) = true) (fun c e =>
       beginAssay 5 (unit c) (.unitReturn c.tok) false e)
     ∧ Starts .assayRun .assayRun (fun c e => sound c e 0 ∧ e.unitFencedNow 0 (unit c) = true) (fun c e =>
       beginAssay 0 (unit c) (.run c.tok) false (e.setEng (unit c / 256) (unit c % 256) fun x => { x with st := .assay }))
     ∧ Starts .assayRun .assayRun (fun c e => sound c e 0 ∧ e.unitFencedNow 0 (unit c) = false ∧ spare c e
         ∧ e.overCeiling (unit c / 256) 0 (e.keptIn (unit c / 256) - 1) = false ∧ (engine c e).running = none) (fun c e =>
       leaveEngine (unit c / 256) (unit c % 256) (some c.tok, true) e)
     ∧ Starts .assayRun .assayRun (fun c e => sound c e 1 ∧ (e.wk (unit c)).st = .online ∧ e.onlineWalkers.length ≠ 1) (fun c e =>
       beginAssay 1 (unit c) (.run c.tok) true (moveContexts (unit c) (wkState (unit c) .off 0 e)))
     ∧ Starts .assayRun .assayRun (fun c e => sound c e 2 ∧ (e.vp (unit c)).st = .off) (fun c e =>
       beginAssay 2 (unit c) (.run c.tok) false e)
     ∧ Starts .assayRun .assayRun (fun c e => sound c e 3 ∧ e.flt.core.getD (unit c) 0 ≠ 1 ∧ 2 ≤ e.liveCores) (fun c e =>
       beginAssay 3 (unit c) (.run c.tok) true (coreGone (unit c) 2 false e))
     ∧ Starts .assayRun .assayRun (fun c e => sound c e 4 ∧ (e.ipmCh (unit c)).st = .online ∧ (e.groupOut (unit c % 8)).isEmpty = true)
       (fun c e => beginAssay 4 (unit c) (.run c.tok) true (chChange (unit c) .offline 0 e))
     ∧ Starts .assayRun .assayRun (fun c e => sound c e 5) (fun c e =>
       beginAssay 5 (unit c) (.run c.tok) ((e.ts.getD (unit c) {}).st != .fenced) (e.setTs (unit c) fun x => { x with st := .fenced }))
     ∧ Starts .assayRun .assayRun (fun c e => sound c e 6 ∧ (e.eth.getD (unit c) {}).enable = true) (fun c e =>
       beginAssay 6 (unit c) (.run c.tok) true (ethPortOff (unit c) e))
     ∧ Starts .assayRun .assayRun (fun c e => sound c e 7 ∧ (e.csi (unit c)).enable = true) (fun c e =>
       beginAssay 7 (unit c) (.run c.tok) true (writeCsiCtrl (unit c) 0 e)))
  ∧ Starts .baseEnter .baseEnter (fun _ e => e.inBase = false) (fun c e =>
      raiseCause 7 { e with flt := { e.flt with entering := e.flt.entering ++ [c.tok] } })
  ∧ (let can (e : Dev) : Prop := e.inBase = true ∧ e.trust.st ≠ .fallingBack ∧ e.flt.causes.toNat % 128 = 0
     let asked (c : OpCtx) (e : Dev) : Dev := { e with flt := { e.flt with exits := e.flt.exits ++ [c.tok] } }
     Starts .baseExit .baseExit (fun _ e => can e ∧ e.flt.exits.isEmpty = false) (fun c e => asked c e)
     ∧ Starts .baseExit .baseExit (fun _ e => can e ∧ e.flt.exits.isEmpty = true) (fun c e =>
       exitVerdict ((List.range 4).foldl (fun f k =>
         if (f.assayOf 3 k).isSome then f else
           beginAssay 3 k (.baseExit c.tok) (f.flt.core.getD k 1 == 0) { f with flt := { f.flt with core := upd f.flt.core k fun _ => 2 } })
         (asked c e))))

/-- Trust opcodes (R488, R489, R493): the identity block and an attestation are answered, and the fleet update key is kept or removed.
Update opcodes (R494-R501, R504, R506-R508, R512-R514): a package is staged, activated, cancelled, confirmed and reverted, defaults are
accepted, and the status and the settings are answered. -/
def Obligations.TrustAndUpdateOpcodesComplete : Prop :=
  (Runs .hmIdentity .hmIdentity (fun c _ => c.rangeOk 8883 = true) (fun c e =>
       (e, c.output 32 (sliceAt e.identityBlock (c.d.f 40 4) (c.d.f 44 2)) .ok))
   ∧ (let nonce (c : OpCtx) (e : Dev) := c.input e 24 64
      (∀ r : Bytes, Runs .hmAttest .hmAttest (fun c e => c.rangeOk 5651 = true ∧ e.trust.report = some (nonce c e, r)) (fun c e =>
        (e, c.output 32 (sliceAt r (c.d.f 40 4) (c.d.f 44 2)) (.ok (fld r 72 8)))))
      ∧ Runs .hmAttest .hmAttest (fun c e => c.rangeOk 5651 = true ∧ ∀ r, e.trust.report ≠ some (nonce c e, r)) (fun c e =>
        let r := e.attestation (nonce c e)
        (e.setTrust fun t => { t with report := some (nonce c e, r), attests := t.attests + 1 },
          c.output 32 (sliceAt r (c.d.f 40 4) (c.d.f 44 2)) (.ok (fld r 72 8)))))
   ∧ Runs .updateKeyInstall .updateKeyInstall (fun c e => c.d.u8 24 = 1 ∧ c.d.f 32 8 = 0 ∧ (e.trust.st = .idle ∨ e.trust.st = .recovery)) (fun _ e =>
       (e.setTrust fun t => { t with fleetKey := none }, .ok))
   ∧ (∀ seed : Bytes, Runs .updateKeyInstall .updateKeyInstall (fun c e => c.d.u8 24 = 0 ∧ (e.trust.st = .idle ∨ e.trust.st = .recovery)
       ∧ Config.parcelSeed e.serial.toNat (c.input e 32 1676) = some seed
       ∧ (Config.sha3 (Config.fleetUpdateKey seed)).take 16 = (c.input e 32 1676).take 16) (fun _ e =>
       (e.setTrust fun t => { t with fleetKey := some ((Config.sha3 (Config.fleetUpdateKey seed)).take 16, seed) }, .ok))))
  ∧ ((let name (c : OpCtx) := c.d.bytes 32 (min (c.d.u8 24) 32)
      let named (c : OpCtx) : Prop := 1 ≤ c.d.u8 24 ∧ c.d.u8 24 ≤ 32 ∧ nameOk (name c) = true
      (∀ file : Bytes × Bytes, Starts .updateStage .updateStage (fun c e => named c ∧ (e.trust.st = .idle ∨ e.trust.st = .recovery)
         ∧ e.card.usable = true ∧ e.card.files.find? (fun f => f.1 == name c) = some file ∧ file.2.length ≤ slotBytes) (fun c e =>
         updState .staging 0 ((e.setTrust fun t => { t with fromRecovery := t.st == .recovery, stageName := name c }).setTrust fun t => { t with
           staging := some (c.tok, file.2, 0) })))
      ∧ Runs .settingsExport .settingsExport (fun c e => named c ∧ e.card.usable = true) (fun c e =>
         let body := e.settingsBytes
         let b := leBytes 4 0x58544553 ++ leBytes 2 1 ++ leBytes 2 e.trust.bankFmt ++ leBytes 8 e.tb64 ++ leBytes 2 e.devId ++ List.replicate 6 0
           ++ leBytes 8 body.length ++ body
         let b := b ++ padTo 4627 (Config.identitySign e.serial.toNat b)
         (emit (.cardFile (name c) b) e, .ok b.length)))
     ∧ Starts .updateActivate .updateActivate (fun c e => c.d.u8 24 ≤ 1 ∧ (c.d.f 26 2 = 0 ∨ (30 ≤ c.d.f 26 2 ∧ c.d.f 26 2 ≤ 3600))
         ∧ e.trust.st = .staged ∧ (e.part = .ready ∨ (e.trust.fromRecovery = true ∧ e.part = .baseMetal ∧ e.flt.causes = 0x20))
         ∧ (pkgAbi e.trust.active).testBit c.major = true ∧ e.own.safeLevel = false) (fun c e =>
         updState .activating 0 ((commitPoint c.tok e).setTrust fun t => { t with
           actTok := some c.tok, ownerNeeded := c.d.u8 24 == 1, confirmS := if c.d.f 26 2 = 0 then 120 else c.d.f 26 2, pauseAt := e.now }))
     ∧ Starts .updateCancel .updateCancel (fun _ e => e.trust.st = .staged) (fun c e =>
         updState .unstaging 0 ((commitPoint c.tok e).setTrust fun t => { t with cancels := t.cancels ++ [c.tok] }))
     ∧ Ends .updateCancel .updateCancel (fun _ e => e.trust.st = .idle) (fun _ e => (e, .ok))
     ∧ Runs .updateConfirm .updateConfirm (fun _ e => e.trust.st = .trial) (fun _ e => (e.setTrust fun t => { t with ownerPending := false }, .ok))
     ∧ Ends .acceptDefaults .acceptDefaults (fun _ e => e.trust.st = .trial ∧ e.trust.unreadable = false) (fun _ e => (e, .ok))
     ∧ Starts .acceptDefaults .acceptDefaults (fun _ e => e.trust.st = .trial ∧ e.trust.unreadable = true) (fun c e =>
         let f := swapBanks (pkgFmt e.trust.running) defaultRecords [] (noFleet e.fleet) e
         let f := commitPoint c.tok (f.setTrust fun t => { t with unreadable := false, acceptTok := some c.tok })
         { f with prof := { f.prof with st := .applying, applying := some (f.prof.strap, .accept c.tok), applyEnd := f.now } })
     ∧ Starts .updateRevert .updateRevert (fun _ e => e.trust.st = .trial) (fun c e =>
         beginFallback 0 ((commitPoint c.tok e).setTrust fun t => { t with reverts := t.reverts ++ [c.tok] }))
     ∧ Runs .updateStatus .updateStatus (fun _ _ => True) (fun _ e =>
         (e, .ok (if e.trust.st == .staged || e.trust.st == .trial then pkgVersion e.trust.active else e.runVersion)
           (e.trust.st.code % 256 + atBit 8 (bit e.trust.unreadable) + atBit 9 (bit e.trust.retainedValid) + atBit 16 e.confirmLeft))))

/-- A step is the front command's effect with the rest of the queue; on an empty queue the block idles (the model's choice:
notes/assumptions/58.md). -/
def Obligations.StepTakesTheFrontCommand : Prop :=
  (∀ (s : State) (c : Instr) (rest : List Instr), step { s with pending := c :: rest } = exec c { s with pending := rest })
  ∧ (∀ s : State, s.pending = [] → step s = .next s)

/-- No command stops the block: every step answers a next state, and takes one command from the queue and no more. -/
def Obligations.EveryStepAnswers : Prop :=
  (∀ s : State, Completes (step s)) ∧ (∀ s s' : State, step s = .next s' → s'.pending = s.pending.tail)

/-- Right after reset: every ring and the event ring are ABSENT (R31, R33), no version is in force, the ownership state is VACANT (R81), the
part is starting and no base-metal cause is set, no command waits, and the interface is safe. -/
def Obligations.ResetLeaves : Prop :=
  State.reset.iface.Safe ∧ State.reset.iface.locked = false ∧ State.reset.iface.actResult = 0 ∧ State.reset.pending = []
  ∧ (∀ n < 64, (State.reset.dev.chan (.sq n)).st = .absent ∧ (State.reset.dev.cq n).st = .absent) ∧ State.reset.dev.hif.evr.on = false
  ∧ State.reset.dev.own.st = .vacant ∧ State.reset.dev.part = .starting ∧ State.reset.dev.flt.causes = 0 ∧ State.reset.dev.hif.mem = []

/-- The invariant of the locked registers (R29-R31): while a ring or the event ring is enabled, a major version is in force, no negotiation
is under way, and the sizes of the enabled rings are 4-16. Every step of every command keeps it. -/
def Obligations.InterfaceStaysSafe : Prop :=
  ∀ s s' : State, s.iface.Safe → step s = .next s' → s'.iface.Safe

/-- R30: while ABI_LOCKED is 1, writes to HIF_ABI_REQ are ignored, and the version in force stays until every ring and the event ring are
disabled, whatever command comes. -/
def Obligations.LockedVersionStays : Prop :=
  (∀ (m v : Nat) (i : Iface) (d : Dev), i.locked = true → regWrite m 0x0008 4 v i d = (i, d))
  ∧ (∀ s s' : State, s.iface.Safe → s.iface.locked = true → step s = .next s' → s'.iface.locked = true →
    s'.iface.actMajor = s.iface.actMajor ∧ s'.iface.actMinor = s.iface.actMinor ∧ s'.iface.actResult = s.iface.actResult)

/-- R29: every write of HIF_ABI_REQ that is not ignored starts a negotiation, also one of the value that the field already holds. -/
def Obligations.AbiRequestStartsNegotiation : Prop :=
  ∀ (m v : Nat) (i : Iface) (d : Dev), i.locked = false →
    regWrite m 0x0008 4 v i d =
      ({ i with abiReq := BitVec.ofNat 8 v, actResult := 0, negotiating := some (BitVec.ofNat 8 v, d.now) }, d)

/-- R31: a write that sets an ENABLE without a version in force, or with a size outside 4-16, is ignored, and the bit reads 0; while the bit
is 1, writes to the size and base fields of that ring are ignored. -/
def Obligations.EnableNeedsVersionAndSize : Prop :=
  ∀ (m v : Nat) (i : Iface) (d : Dev),
    (i.admEnable = false →
      (v.testBit 16 = true → i.actResult ≠ 1 ∨ sizeOk (v % 32) = false ∨ sizeOk (v / 32 % 32) = false → regWrite m 0x1010 4 v i d = (i, d))
      ∧ (regRead i d 0x1010 4).testBit 16 = false)
    ∧ (i.evrEnable = false →
      (v.testBit 16 = true → i.actResult ≠ 1 ∨ sizeOk (v % 32) = false → regWrite m 0x1020 4 v i d = (i, d))
      ∧ (regRead i d 0x1020 4).testBit 16 = false)
    ∧ (i.admEnable = true →
      (∀ off width, 0x1000 ≤ off → off < 0x1010 → regWrite m off width v i d = (i, d))
      ∧ (regWrite m 0x1010 4 v i d).1.admSqLog2 = i.admSqLog2 ∧ (regWrite m 0x1010 4 v i d).1.admCqLog2 = i.admCqLog2)
    ∧ (i.evrEnable = true →
      (∀ off width, 0x1018 ≤ off → off < 0x1020 → regWrite m off width v i d = (i, d))
      ∧ (regWrite m 0x1020 4 v i d).1.evrLog2 = i.evrLog2)

/-- R34: under major 2 the part accepts only opcodes of classes 0x0xx-0x6xx and 0x8xx, and only in format version 0; any other descriptor
completes with ST_VERSION. -/
def Obligations.MajorTwoAcceptsItsClasses : Prop :=
  ∀ (i : Iface) (n : Nat) (op : Op) (x : Desc) (own : W32) (d : Dev), i.actMajor = 2 →
    (versionBad i (.sq n) op x = false ↔ (op.cls ≤ 6 ∨ op.cls = 8) ∧ x.fmtVer = 0)
    ∧ (¬ ((op.cls ≤ 6 ∨ op.cls = 8) ∧ x.fmtVer = 0) → judge i (.sq n) op x own d = some (.of stVersion))

/-- A descriptor on the wrong kind of ring completes with ST_BAD_DESCRIPTOR (R36): SQ00 takes admin opcodes alone, and SQ01-SQ63 every other
one; and so does one with a reserved field that is not zero (R12). -/
def Obligations.MisplacedIsRefused : Prop :=
  ∀ (i : Iface) (n : Nat) (op : Op) (x : Desc) (own : W32) (d : Dev), versionBad i (.sq n) op x = false →
    (n = 0 → 0x100 ≤ op.code → judge i (.sq n) op x own d = some .bad)
    ∧ (n ≠ 0 → op.code < 0x100 → judge i (.sq n) op x own d = some .bad)
    ∧ (x.flagsRes ≠ 0 ∨ x.depRes ≠ 0 ∨ x.onlyUses (opInfo op).uses = false → judge i (.sq n) op x own d = some .bad)

/-- R61: the admin opcodes 0x001-0x00F are open. An owner-only descriptor from a master that is not the owner completes with ST_NOT_OWNER,
has no effect and is counted in NOT_OWNER: it takes its place in its channel with that result, or has it as its turn comes. -/
def Obligations.OwnerOnlyIsRefused : Prop :=
  (∀ op : Op, 0x001 ≤ op.code → op.code ≤ 0x00F → (opInfo op).ownerOnly = false)
  ∧ (∀ (i : Iface) (d : Dev) (ch : Chan) (op : Op) (x : Desc), (opInfo op).ownerOnly = true → d.own.isOwner ch.master = false →
      d.mayFetch ch x = true → versionBad i ch op x = false → misplaced ch op = false → reservedBad op x = false → inlineBad ch op x = false →
      launchBad ch x d = false → depBad ch x (d.chan ch).nextCount d = false → ¬ (op = .ownHeartbeat ∨ op = .ownRelease ∨ op = .ownHandover) →
      let e := addPend ch op x (.finished (.of stNotOwner)) { d with hif := { d.hif with notOwner := satInc d.hif.notOwner } }
      fetchRow ch op x (i, d) = (i, { e with kick := ch :: e.kick }))
  ∧ (let counted (e : Dev) : Dev := { e with hif := { e.hif with notOwner := satInc e.hif.notOwner } }
     let barred (c : OpCtx) (e : Dev) : Prop := e.own.isOwner c.master = false
     Runs .ownHeartbeat .ownHeartbeat barred (fun _ e => (counted e, .of stNotOwner))
     ∧ Runs .ownRelease .ownRelease barred (fun _ e => (counted e, .of stNotOwner))
     ∧ Runs .ownHandover .ownHandover barred (fun _ e => (counted e, .of stNotOwner)))

/-- Completions of a ring appear in submission order (R67): only the oldest descriptor of a channel is completed, once it has finished and
there is room, and nothing behind it moves before that. A full completion ring holds back what reports to it (R52). -/
def Obligations.CompletionsInSubmissionOrder : Prop :=
  ∀ (ch : Chan) (i : Iface) (d : Dev) (p : Pend) (rest : List Pend), (d.chan ch).pend = p :: rest →
    (d.chan ch).closers.any (d.chan ch).closed = false →
    (d.room ch = false → ∀ k, pump ch k (i, d) = (i, d))
    ∧ (d.room ch = true → ∀ k, p.stage = .finished k →
      let e := d.setChan ch fun r => { r with pend := rest }
      let k := p.withReport ch (p.final k e) e
      pumpOne ch (i, d) = some (i, writeCpl ch p k (p.keepReport k e)))
    ∧ (p.stage = .held ∨ p.stage = .running ∨ p.stage = .committed → ∀ k, pump ch k (i, d) = (i, d))

/-- A completion is written with one write of its 32 bytes into the slot at the ring's tail, after its result payload (R51, R69), the tail
moves by one slot, and nothing else of the part changes: no other byte of host memory, no other ring. The interrupt and EV_CQ_FULL are other
clauses' matter: the descriptor asks for no interrupt, and the ring does not become full. -/
def Obligations.CompletionEntryWritten : Prop :=
  ∀ (n : Nat) (p : Pend) (k : Cpl) (d : Dev), d.canWrite = true → p.d.irq = false → n < d.hif.sq.length → (d.chan (.sq n)).cq < d.hif.cq.length →
    let r := d.chan (.sq n)
    let q := d.cq r.cq
    let tail := (q.tail + 1) % 2 ^ q.log2
    ringFull q.head tail q.log2 = false →
    let f := (d.setChan (.sq n) fun r => { r with failed := if k.status16 then p.count :: r.failed else r.failed.filter (· != p.count) }).setCq r.cq fun q => { q with
      tail := tail, phase := if tail = 0 then !q.phase else q.phase }
    let m := match k.dest with
      | some a => memWrite a k.payload d.hif.mem
      | none => d.hif.mem
    writeCpl (.sq n) p k d = { f with hif := { f.hif with
      mem := memWrite (q.base + 32 * q.tail) (k.entry p.d.hostTag.toNat p.count.toNat r.head n q.phase) m } }
    ∧ (k.entry p.d.hostTag.toNat p.count.toNat r.head n q.phase).length = 32

/-- R56: from phase 1, the phase of a completion ring and of the event ring inverts at each wrap from the last slot to slot 0: the entry
written after `k` others bears phase 1 exactly where `k` entries make an even number of passes. It stands in an entry's last byte. A ring
that is created or enabled begins at slot 0 with phase 1. -/
def Obligations.PhaseInvertsAtEachWrap : Prop :=
  (∀ (n k : Nat) (d : Dev), n < d.hif.cq.length → (d.cq n).tail = 0 → (d.cq n).phase = true →
    let f := (List.range k).foldl (fun f _ => cqAdvance n f) d
    (f.cq n).tail = k % 2 ^ (d.cq n).log2 ∧ (f.cq n).phase = decide (k / 2 ^ (d.cq n).log2 % 2 = 0))
  ∧ (∀ (l : List Event) (d : Dev), d.hif.evr.tail = 0 → d.hif.evr.phase = true →
    let f := l.foldl (fun f e => evWrite e f) d
    f.hif.evr.tail = l.length % 2 ^ d.hif.evr.log2 ∧ f.hif.evr.phase = decide (l.length / 2 ^ d.hif.evr.log2 % 2 = 0))
  ∧ (∀ (c : OpCtx) (e : Dev), createCqBad c.d = false → (e.cq (c.d.u8 24)).st = .absent → c.d.u8 24 < e.hif.cq.length →
    ((opCreateCq c e).1.cq (c.d.u8 24)).tail = 0 ∧ ((opCreateCq c e).1.cq (c.d.u8 24)).phase = true)
  ∧ (∀ (i : Iface) (d : Dev), 0 < d.hif.cq.length → ((adminRings i d).cq 0).tail = 0 ∧ ((adminRings i d).cq 0).phase = true)
  ∧ (∀ (base log2 : Nat) (d : Dev), d.hif.evr.held = [] → d.hif.evr.lostOld = 0 → d.hif.evr.lost = 0 →
    (eventRingOn base log2 d).hif.evr.tail = 0 ∧ (eventRingOn base log2 d).hif.evr.phase = true)
  ∧ (∀ (k : Cpl) (tag count head n : Nat) (phase : Bool), (k.entry tag count head n phase).getD 31 0 = BitVec.ofNat 8 (bit phase))
  ∧ (∀ (e : Event) (phase : Bool), (e.entry phase).getD 31 0 = BitVec.ofNat 8 (bit phase))

/-- R59: a full event ring counts each new event in EVR_LOST and sets HIF_EVT_PEND.LOST; once a slot is freed, EV_EVENTS_LOST with the count
lost goes before any later event. -/
def Obligations.FullEventRingCountsAndReports : Prop :=
  ∀ (e : Event) (d : Dev), d.hif.evr.on = true →
    let r := d.hif.evr
    let unlost : Dev := { d with hif := { d.hif with evr := { r with lost := 0 } } }
    (ringFull r.head r.tail r.log2 = true → evPost e d = { d with hif := { d.hif with
      evrLost := satInc d.hif.evrLost, evtPend := d.hif.evtPend ||| 8, evr := { r with lost := r.lost + 1 } } })
    ∧ (ringFull r.head r.tail r.log2 = false → 0 < r.lost →
      evFlushLost d = evWrite (d.evLost r.lost) unlost
      ∧ evPost e d =
        let f := evWrite (d.evLost r.lost) unlost
        if ringFull f.hif.evr.head f.hif.evr.tail f.hif.evr.log2 then evLose f else evWrite e f)
    ∧ (ringFull r.head r.tail r.log2 = false → r.lost = 0 → evPost e d = evWrite e d)
    ∧ (∀ h, h < 2 ^ r.log2 → h < 65536 → (h + 2 ^ r.log2 - r.head) % 2 ^ r.log2 ≤ (r.tail + 2 ^ r.log2 - r.head) % 2 ^ r.log2 →
      evrDoorbell h d = evFlushLost { d with hif := { d.hif with evr := { r with head := h } } })
    ∧ (∀ n, n < 2 ^ 32 → (d.evLost n).code = 0x0004 ∧ (d.evLost n).detail = leBytes 4 n)

/-- R76: a masked vector sets its pending bit instead of sending; the message goes when the vector is unmasked, if the bit is still set. -/
def Obligations.MaskedVectorWaits : Prop :=
  ∀ (v w : Nat) (d : Dev), v < 128 →
    let e := d.hif.msix.getD v {}
    let put (f : MsixEntry → MsixEntry) : Dev := { d with hif := { d.hif with msix := upd d.hif.msix v f } }
    (e.masked = true → msixSend v d = put fun e => { e with pendingBit := true })
    ∧ (e.masked = false → d.canWrite = true → msixSend v d = emit (.msix v) (hostWrite e.addr.toNat (leBytes 4 e.data.toNat) d))
    ∧ (e.pendingBit = true → w.testBit 32 = false → d.canWrite = true →
      writeMsix (16 * v + 8) w d = emit (.msix v) (hostWrite e.addr.toNat (leBytes 4 (w % 2 ^ 32))
        (put fun e => { e with data := BitVec.ofNat 32 w, masked := false, pendingBit := false })))
    ∧ (e.pendingBit = false → w.testBit 32 = false →
      writeMsix (16 * v + 8) w d = put fun e => { e with data := BitVec.ofNat 32 w, masked := false })

/-- A stream ring that is full drops each new record, counts it in STREAM_DROP and in the stream's dropped field, and posts
EV_STREAM_OVERRUN once per run of drops; the next record written carries the count (R53). -/
def Obligations.FullStreamRingDrops : Prop :=
  ∀ (id tov n : Nat) (rec : Bytes) (d : Dev), d.part ≠ .baseMetal → routeOf d.prof.active id = some n → (d.cq n).st = .stream →
    (∀ last, (d.stream id).lastTov = some last → last.toNat < tov) → rec.length ≤ 2 ^ (d.cq n).recLog2 →
    let q := d.cq n
    let s := d.stream id
    (ringFull q.head q.tail q.log2 = true →
      let f := d.setStream { s with seq := s.seq + 1, dropped := s.dropped + 1, overrun := true }
      let f := { f with hif := { f.hif with streamDrop := satInc f.hif.streamDrop } }
      streamRecord id tov false rec d = if s.overrun then f else ev 0x0003 1 (det [(16, [BitVec.ofNat 8 n]), (17, leBytes 2 id)]) f)
    ∧ (ringFull q.head q.tail q.log2 = false →
      let f := d.setStream { s with seq := s.seq + 1, dropped := 0, overrun := false, lastTov := some (BitVec.ofNat 64 tov) }
      let f := hostWrite (q.recBase + 2 ^ q.recLog2 * q.tail) (padTo (2 ^ q.recLog2) rec) f
      streamRecord id tov false rec d = coalesce n (cqAdvance n
        (hostWrite (q.base + 32 * q.tail) (streamEntry tov s.seq.toNat rec.length id s.dropped.toNat q.phase) f)))

/-- Host memory reads back what was written, and only that (its canonical form: addresses rise, and no entry equals what an unlisted address
reads as). -/
def Obligations.HostMemoryReadsBack : Prop :=
  ∀ (a x : Nat) (b : Bytes) (m : List Host.Cell), Memory.wf m = true →
    memGet (memWrite a b m) x = if a ≤ x ∧ x < a + b.length then b.getD (x - a) 0 else memGet m x

/-- R488: UPDATE_KEY_INSTALL opens the capsule and checks that key_id is the key pair's; a failed check completes with ST_BAD_DESCRIPTOR,
with result1 1 for a failed tag and 2 for a key_id mismatch, and keeps the key that was there. -/
def Obligations.KeyInstallChecksTheParcel : Prop :=
  let ready (c : OpCtx) (e : Dev) : Prop := c.d.u8 24 = 0 ∧ (e.trust.st = .idle ∨ e.trust.st = .recovery)
  let parcel (c : OpCtx) (e : Dev) : Bytes := c.input e 32 1676
  Runs .updateKeyInstall .updateKeyInstall (fun c e => ready c e ∧ Config.parcelSeed e.serial.toNat (parcel c e) = none) (fun _ e =>
    (e, { Cpl.bad with result1 := 1 }))
  ∧ (∀ seed : Bytes,
    let id := (Config.sha3 (Config.fleetUpdateKey seed)).take 16
    let opened (c : OpCtx) (e : Dev) : Prop := ready c e ∧ Config.parcelSeed e.serial.toNat (parcel c e) = some seed
    Runs .updateKeyInstall .updateKeyInstall (fun c e => opened c e ∧ id ≠ (parcel c e).take 16) (fun _ e => (e, { Cpl.bad with result1 := 2 }))
    ∧ Runs .updateKeyInstall .updateKeyInstall (fun c e => opened c e ∧ id = (parcel c e).take 16) (fun _ e =>
      (e.setTrust fun t => { t with fleetKey := some (id, seed) }, .ok)))

/-- The clock stands at the latest instant that a command named and never goes back (the model's time operand: notes/assumptions/1.md); a
command that names an earlier instant moves neither it nor the time base. -/
def Obligations.ClockNeverGoesBack : Prop :=
  ∀ (s : State) (t : Nat), (s.devAt t).now = max s.dev.now t ∧ (t ≤ s.dev.now → s.devAt t = s.dev)
    ∧ (s.dev.now < t → (s.devAt t).time = s.dev.time.run (t - s.dev.now))
    ∧ ∀ u, u ≤ t → ({ s with dev := s.devAt t } : State).devAt u = s.devAt t

/-- The part's output balls (R104, R105, R532): right after reset every group is as *Before enable* says and none is driven; a group behind
an OUT_EN bit that is 0 stays undriven; SAFE_STOP is held at its level from the safety island's start; NVME_PERST_N is low from the control
complex's start and high from training, and PCIE_CLKREQ_N low from link training; the microSD outputs are undriven without VIN, during a
reset and without a card; RSVD balls drive nothing. -/
def Obligations.OutputBallsDriveAsTabled : Prop :=
  (∀ b, State.reset.dev.drive b = .highZ ∨ State.reset.dev.drive b = .idle ∨ State.reset.dev.drive b = .recessive)
  ∧ (∀ (d : Dev) (b : Ball) (n : Nat), (b, n) ∈ [(.sfpControl, 24), (.gnssTx, 23), (.ppsOut, 16), (.safeMiso, 26), (.safeStop, 17),
      (.heartbeat, 18), (.loupe, 25), (.imu 0, 19), (.imu 1, 20), (.can 0, 21), (.can 1, 22), (.tmr 0, 0), (.tmr 15, 15)] →
    d.own.outen.getLsbD n = false → d.drive b = .highZ ∨ d.drive b = .recessive)
  ∧ (∀ d : Dev, d.own.outen.getLsbD 17 = true → d.start = .safetyRunning ∨ d.start = .controlRunning ∨ d.start = .ipmTrained ∨ d.start = .done →
    d.drive .safeStop = if d.flt.stop then .high else .low)
  ∧ (∀ d : Dev, (d.nvme.trained = true → d.drive .nvmePerst = .high)
    ∧ (d.nvme.trained = false → 6 ≤ d.start.rank → d.drive .nvmePerst = .low)
    ∧ (d.nvme.trained = false → d.start.rank < 6 → d.drive .nvmePerst = .highZ))
  ∧ (∀ d : Dev, (d.hif.clkreq = true → d.drive .pcieClkreq = .low) ∧ (d.hif.clkreq = false → d.drive .pcieClkreq = .highZ ∧ d.drive .pcieTx = .idle))
  ∧ (∀ d : Dev, d.vinUp = false ∨ d.start.rank < 6 ∨ d.card.present = false → d.drive .sdHost = .highZ)
  ∧ (∀ d : Dev, d.drive .reserved = .highZ)

end
end

