-- ==== Sys2Proof/Laws/Ops.lean ====
section
/-! SUPPORT. What the shared operations change: completions, events and interrupts leave every channel's descriptors alone. -/

namespace Sys2Proof.Machine

/-! ### Lists in order -/

theorem putInOrder_perm {α : Type} (le : α → α → Bool) (x : α) (l : List α) : (putInOrder le x l).Perm (x :: l) := by
  induction l with
  | nil => exact .refl _
  | cons y r ih =>
    unfold putInOrder
    split
    · exact .refl _
    · exact (ih.cons y).trans (.swap x y r)

/-- Ordering a list keeps its entries and how often each stands in it. -/
theorem inOrder_perm {α : Type} (le : α → α → Bool) (l : List α) : (inOrder l le).Perm l := by
  induction l with
  | nil => exact .refl _
  | cons x r ih => exact (putInOrder_perm le x _).trans (ih.cons x)

@[simp] theorem mem_inOrder {α : Type} {le : α → α → Bool} {l : List α} {a : α} : a ∈ inOrder l le ↔ a ∈ l :=
  (inOrder_perm le l).mem_iff

/-- The channels of the two states are the same. -/
def Dev.SameChans (d e : Dev) : Prop := ∀ c, e.chan c = d.chan c

theorem Dev.SameChans.refl (d : Dev) : d.SameChans d := fun _ => rfl

section
variable {a d : Dev} (h : a.SameChans d)
include h

theorem hostWrite_chan (x : Nat) (b : Bytes) : a.SameChans (hostWrite x b d) := by
  intro c; rw [← h c]; unfold hostWrite; split
  · cases c <;> rfl
  · rfl

theorem emit_chan (e : Emission) : a.SameChans (emit e d) := fun c => by rw [← h c]; cases c <;> rfl

theorem setCq_chan (n : Nat) (f : CqRing → CqRing) : a.SameChans (d.setCq n f) := fun c => by rw [← h c]; cases c <;> rfl

theorem msixSend_chan (v : Nat) : a.SameChans (msixSend v d) := by
  unfold msixSend
  simp only []
  split
  · intro c; rw [← h c]; cases c <;> rfl
  · split
    · exact emit_chan (hostWrite_chan h _ _) _
    · exact h

theorem evWrite_chan (e : Event) : a.SameChans (evWrite e d) := by
  unfold evWrite
  simp only []
  apply msixSend_chan
  intro c
  rw [← hostWrite_chan h (d.hif.evr.base + 32 * d.hif.evr.tail) (e.entry d.hif.evr.phase) c]
  cases c <;> rfl

theorem evLose_chan : a.SameChans (evLose d) := fun c => by rw [← h c]; cases c <;> rfl

theorem evFlushLost_chan : a.SameChans (evFlushLost d) := by
  unfold evFlushLost
  simp only []
  split
  · exact h
  · apply evWrite_chan
    intro c; rw [← h c]; cases c <;> rfl

theorem evPost_chan (e : Event) : a.SameChans (evPost e d) := by
  unfold evPost
  split
  · simp only []
    split
    · exact evLose_chan (evFlushLost_chan h)
    · exact evWrite_chan (evFlushLost_chan h) e
  · split
    · intro c; rw [← h c]; cases c <;> rfl
    · exact evLose_chan h

theorem ev_chan (code sev : Nat) (b : Bytes) : a.SameChans (ev code sev b d) := evPost_chan h _
theorem evFrom_chan (src unit code sev : Nat) (b : Bytes) : a.SameChans (evFrom src unit code sev b d) := evPost_chan h _

theorem cqAdvance_chan (n : Nat) : a.SameChans (cqAdvance n d) := by
  unfold cqAdvance
  simp only []
  split
  · exact ev_chan (setCq_chan (setCq_chan h _ _) _ _) _ _ _
  · exact setCq_chan h _ _

theorem coalesce_chan (n : Nat) : a.SameChans (coalesce n d) := by
  unfold coalesce
  simp only []
  split
  · exact msixSend_chan (setCq_chan h _ _) _
  · exact setCq_chan h _ _

end

end Sys2Proof.Machine
end

