-- ==== Sys2Proof/Laws/Descriptor.lean ====
section
/-! SUPPORT. What a fetched descriptor does when nothing holds it: an opcode in the ring order completes at once, an asynchronous one
begins. The provers cite `exec_served` and `exec_begun` and never unfold the fetch, the pump or the settling. -/

namespace Sys2Proof.Machine

/-- The channel has a ring of its own in the part. -/
def Dev.HasChan (d : Dev) : Chan → Prop
  | .sq n => n < d.hif.sq.length
  | _ => True

theorem Hif.setChan_chan (h : Hif) (f : SubRing → SubRing) (c : Chan) (hc : match c with | .sq n => n < h.sq.length | _ => True) :
    (h.setChan f c).chan c = f (h.chan c) := by
  cases c with
  | sq n => simp only at hc; simp [Hif.setChan, Hif.chan, upd, hc]
  | _ => rfl

theorem Dev.setChan_chan (d : Dev) (c : Chan) (f : SubRing → SubRing) (hc : d.HasChan c) : (d.setChan c f).chan c = f (d.chan c) :=
  Hif.setChan_chan d.hif f c (by cases c <;> exact hc)

theorem Hif.setChan_setChan (h : Hif) (f g : SubRing → SubRing) (c : Chan) : (h.setChan f c).setChan g c = h.setChan (fun r => g (f r)) c := by
  cases c with
  | sq n => simp [Hif.setChan, upd, List.modify_modify_eq, Function.comp_def]
  | _ => rfl

theorem Dev.setChan_setChan (d : Dev) (c : Chan) (f g : SubRing → SubRing) : (d.setChan c f).setChan c g = d.setChan c fun r => g (f r) := by
  simp [Dev.setChan, Hif.setChan_setChan]

/-- Only the channel's own ring decides what a change of it gives. -/
theorem Hif.setChan_congr (h : Hif) (f g : SubRing → SubRing) (c : Chan) (e : f (h.chan c) = g (h.chan c)) : h.setChan f c = h.setChan g c := by
  cases c with
  | sq n =>
    simp only [Hif.setChan, upd]
    by_cases hn : n < h.sq.length
    · have e' : f h.sq[n] = g h.sq[n] := by simpa [Hif.chan, hn] using e
      congr 1
      apply List.ext_getElem (by simp)
      intro i h1 h2
      simp only [List.getElem_modify]
      split
      · subst_vars; exact e'
      · rfl
    · simp [List.modify_eq_self (by omega : h.sq.length ≤ n)]
  | i3c => simp only [Hif.setChan]; simp only [Hif.chan] at e; rw [e]
  | safeSpi => simp only [Hif.setChan]; simp only [Hif.chan] at e; rw [e]
  | net => simp only [Hif.setChan]; simp only [Hif.chan] at e; rw [e]

theorem Dev.setChan_congr (d : Dev) (c : Chan) (f g : SubRing → SubRing) (e : f (d.chan c) = g (d.chan c)) : d.setChan c f = d.setChan c g := by
  simp only [Dev.setChan]; rw [Hif.setChan_congr d.hif f g c e]

/-- A channel that fetches has a ring. -/
theorem canFetch_hasChan {d : Dev} {ch : Chan} (h : d.canFetch ch = true) : d.HasChan ch := by
  cases ch with
  | sq n =>
    show n < d.hif.sq.length
    by_cases hn : n < d.hif.sq.length
    · exact hn
    · exfalso
      have : d.chan (.sq n) = {} := by simp [Dev.chan, Hif.chan, List.getElem?_eq_none (by omega : d.hif.sq.length ≤ n)]
      simp [Dev.canFetch, this] at h
  | _ => trivial

/-- A ring that takes a descriptor. -/
def placed (ch : Chan) (op : Op) (x : Desc) (st : Stage) (seq at64 : Nat) (upTo : W32) (cut : Nat × Nat) (r : SubRing) : SubRing :=
  { r with
    head := match ch with
      | .sq _ => (r.head + 1) % 2 ^ r.log2
      | _ => r.head
    nextCount := r.nextCount + 1
    pend := r.pend ++ [{ op := op, d := x, count := r.nextCount, stage := st, launch := x.launchAt.toNat, seq := seq, fetchedAt := at64, upTo := upTo, cut := cut }] }

/-- A descriptor without a launch takes its place. -/
theorem addPend_chan {d : Dev} {ch : Chan} {op : Op} {x : Desc} {st : Stage} (hc : d.HasChan ch) (hl : x.launchAt = 0) (hp : (d.chan ch).pend = []) :
    ((addPend ch op x st d).chan ch).pend = [d.fetched ch op x st] ∧ ((addPend ch op x st d).chan ch).closers = (d.chan ch).closers := by
  have h := Dev.setChan_chan d ch (placed ch op x st d.hif.fetches d.tb64 (d.outstanding x) (d.indexNow (x.u8 24))) hc
  have e : (addPend ch op x st d).chan ch = (d.setChan ch (placed ch op x st d.hif.fetches d.tb64 (d.outstanding x) (d.indexNow (x.u8 24)))).chan ch := by cases ch <;> rfl
  rw [e, h]; simp [placed, hp, hl, Dev.fetched]

/-- The stage of the channel's only descriptor. -/
theorem setStage_addPend {d : Dev} {ch : Chan} {op : Op} {x : Desc} (st st' : Stage) (hp : (d.chan ch).pend = []) :
    setStage { ch := ch, count := (d.chan ch).nextCount } st' (addPend ch op x st d) = addPend ch op x st' d := by
  have key : ∀ f g : SubRing → SubRing, f (d.chan ch) = g (d.chan ch) →
      ({ (d.setChan ch f) with hif := { (d.setChan ch f).hif with fetches := (d.setChan ch f).hif.fetches + 1 } } : Dev)
        = { (d.setChan ch g) with hif := { (d.setChan ch g).hif with fetches := (d.setChan ch g).hif.fetches + 1 } } := by
    intro f g e; rw [Dev.setChan_congr d ch f g e]
  have swap : ∀ f g : SubRing → SubRing,
      ({ (d.setChan ch f) with hif := { (d.setChan ch f).hif with fetches := (d.setChan ch f).hif.fetches + 1 } } : Dev).setChan ch g
        = { (d.setChan ch fun r => g (f r)) with hif := { (d.setChan ch fun r => g (f r)).hif with fetches := (d.setChan ch fun r => g (f r)).hif.fetches + 1 } } := by
    intro f g; rw [(Dev.setChan_setChan d ch f g).symm]; cases ch <;> rfl
  unfold setStage addPend
  rw [swap]
  exact key _ _ (by simp [hp])

/-- Neither dependency, epoch nor barrier holds the channel's only descriptor. -/
theorem condOf_addPend {d : Dev} {ch : Chan} {op : Op} {x : Desc} {st : Stage} (hc : d.HasChan ch) (hl : x.launchAt = 0) (hp : (d.chan ch).pend = [])
    (hd : x.depWait = false) (he : x.epochWait = false) :
    condOf { ch := ch, count := (d.chan ch).nextCount } x (addPend ch op x st d) = .met := by
  have h := (addPend_chan (op := op) (st := st) hc hl hp).1
  simp [condOf, depCond, hd, epochMet, he, barrierMet, h, Dev.fetched]

/-- Taking a place in a channel changes no part-wide state. -/
theorem partJudge_addPend (op' : Op) (x' : Desc) (d : Dev) (ch : Chan) (op : Op) (x : Desc) (st : Stage) (l : List Chan) :
    partJudge op' x' { addPend ch op x st d with kick := l } = partJudge op' x' d := by
  cases ch <;> rfl

theorem judge_none {i : Iface} {ch : Chan} {op : Op} {x : Desc} {n : W32} {d : Dev} (h : judge i ch op x n d = none) : partJudge op x d = none := by
  unfold judge at h
  split at h
  · cases h
  · split at h
    · cases h
    · split at h
      · cases h
      · exact h

/-- A well descriptor that nothing holds starts as it is fetched. -/
theorem fetchRow_accepts {s : State} {d : Dev} {ch : Chan} {op : Op} {x : Desc} (h : s.Accepts d ch op x) (hop : op ≠ .infer) :
    fetchRow ch op x (s.iface, d) = startPend ch (d.fetched ch op x .ready) (s.iface, addPend ch op x .held d) := by
  obtain ⟨hf, hj, hl, hd, he, hp, _, _, _⟩ := h
  have hc := canFetch_hasChan hf
  have hm := condOf_addPend (op := op) (st := .held) hc hl hp hd he
  simp only [fetchRow, Dev.mayFetch, hf, fetchDesc, hj, hop, hl, tryStart, hm, if_false]
  simp [Dev.fetched]

/-- A descriptor's own failure to be read is judged on what its opcode sees. -/
theorem inputFails_readied {s : State} {d : Dev} {ch : Chan} {op : Op} {x : Desc} (h : inputFails op (s.opCtx d ch x) (d.begun ch op x) = false)
    (st : Stage) (l : List Chan) : inputFails op (s.opCtx d ch x) { addPend ch op x st d with kick := l } = false := by
  rw [← h]; cases ch <;> rfl

/-- What a fetched descriptor that nothing holds does as it starts: its checks hold, and its opcode runs on what it sees. -/
theorem beginPend_accepts {s : State} {d : Dev} {ch : Chan} {op : Op} {x : Desc} (h : s.Accepts d ch op x) :
    beginPend ch (d.fetched ch op x .ready) (s.iface, addPend ch op x .held d) =
      if (opInfo op).async = true then
        (match runOp s.iface op (s.opCtx d ch x) (d.begun ch op x) with
        | (w, .later) => some w
        | _ => none)
      else none := by
  have hq : partJudge op x (addPend ch op x .held d) = none := by
    rw [← judge_none h.2.1]; exact partJudge_addPend op x d ch op x .held _
  have hi : inputFails op (s.opCtx d ch x) (addPend ch op x .held d) = false :=
    inputFails_readied h.2.2.2.2.2.2.2.2 .held (addPend ch op x .held d).kick
  have hc : ctxFor s.iface ch (d.fetched ch op x .ready) = s.opCtx d ch x := rfl
  have hs : setStage (s.opCtx d ch x).tok .running (addPend ch op x .held d) = d.begun ch op x :=
    setStage_addPend .held .running h.2.2.2.2.2.1
  unfold beginPend
  simp only [hc]
  show (if (!(opInfo op).async || (partJudge op x (addPend ch op x .held d)).isSome
      || inputFails op (s.opCtx d ch x) (addPend ch op x .held d)) = true then none else
    match runOp s.iface op (s.opCtx d ch x) (setStage (s.opCtx d ch x).tok .running (addPend ch op x .held d)) with
    | (w, .later) => some w
    | _ => none) = _
  rw [hq, hi, hs]
  cases (opInfo op).async <;> simp

/-- An opcode that goes on: its first effect is the command's. -/
theorem exec_begun {s : State} {t : Nat} {d : Dev} {ch : Chan} {op : Op} {x : Desc} {i : Iface} {f : Dev} (hd : s.devAt t = d)
    (h : s.Accepts d ch op x) (hop : op ≠ .infer) (ha : (opInfo op).async = true)
    (hr : runOp s.iface op (s.opCtx d ch x) (d.begun ch op x) = ((i, f), .later)) :
    onWhole t (fetchRow ch op x) s = s.after i f := by
  have e : fetchRow ch op x (s.iface, d) = (i, f) := by
    rw [fetchRow_accepts h hop]
    unfold startPend
    rw [beginPend_accepts h, if_pos ha, hr]
  subst hd
  unfold onWhole State.after
  unfold State.devAt at e
  rw [e]

/-- Writing a completion leaves the channel without descriptors and closers where it had none. -/
theorem writeCpl_idle {ch : Chan} {p : Pend} {k : Cpl} {d : Dev} (hc : d.HasChan ch) (hp : (d.chan ch).pend = []) (hq : (d.chan ch).closers = []) :
    ((writeCpl ch p k d).chan ch).pend = [] ∧ ((writeCpl ch p k d).chan ch).closers = [] := by
  have h := Dev.setChan_chan d ch (fun r => { r with failed := if k.status16 then p.count :: r.failed else r.failed.filter (· != p.count) }) hc
  cases ch with
  | sq n =>
    unfold writeCpl
    simp only []
    generalize d.setChan (.sq n) (fun r => { r with failed := if k.status16 then p.count :: r.failed else r.failed.filter (· != p.count) }) = e at h ⊢
    have h1 : e.SameChans (match k.dest with
      | some a => hostWrite a k.payload e
      | none => e) := by
      split
      · exact hostWrite_chan (.refl e) _ _
      · exact .refl e
    have key : ∀ f, e.SameChans f → (f.chan (.sq n)).pend = [] ∧ (f.chan (.sq n)).closers = [] := by
      intro f hf; rw [hf, h]; exact ⟨hp, hq⟩
    split
    · exact key _ (coalesce_chan (cqAdvance_chan (hostWrite_chan h1 _ _) _) _)
    · exact key _ (cqAdvance_chan (hostWrite_chan h1 _ _) _)
  | i3c =>
    unfold writeCpl
    simp only []
    refine ⟨?_, ?_⟩ <;> (repeat' split) <;> first | exact hp | exact hq
  | safeSpi => exact ⟨hp, hq⟩
  | net =>
    unfold writeCpl
    simp only []
    refine ⟨?_, ?_⟩ <;> (repeat' split) <;> first | exact hp | exact hq

/-- Keeping a load's report touches only the problem's slot (R359). -/
theorem keepReport_chan (p : Pend) (k : Cpl) (d : Dev) : (p.keepReport k d).chan = d.chan ∧ ((p.keepReport k d).HasChan = d.HasChan) := by
  unfold Pend.keepReport; split <;> exact ⟨rfl, rfl⟩

/-- What the two writes of a descriptor's record see of it is the same at every stage. -/
theorem writeCpl_stage (ch : Chan) (p : Pend) (st : Stage) (k : Cpl) (d : Dev) : writeCpl ch { p with stage := st } k d = writeCpl ch p k d := by
  cases ch <;> rfl

theorem room_setPend (ch : Chan) (l : List Pend) (m : List Chan) (d : Dev) (hc : d.HasChan ch) :
    Dev.room { d.setChan ch (fun r => { r with pend := l }) with kick := m } ch = d.room ch := by
  cases ch with
  | sq n =>
    have h : ({ d.setChan (.sq n) (fun r => { r with pend := l }) with kick := m } : Dev).chan (.sq n) = { d.chan (.sq n) with pend := l } :=
      Dev.setChan_chan d (.sq n) (fun r => { r with pend := l }) hc
    unfold Dev.room
    simp only [h]
    rfl
  | _ => rfl

theorem channels_nodup : channels.Nodup := by decide

/-- One kicked channel is the only one that waits. -/
theorem kicked_one {ch : Chan} (h : ch ∈ channels) {d : Dev} (hk : d.kick = [ch]) : kicked d = [ch] := by
  unfold kicked
  rw [hk]
  have e : ∀ l : List Chan, l.Nodup → ch ∈ l → (l.filter fun c => [ch].contains c) = [ch] := by
    intro l
    induction l with
    | nil => intro _ h; cases h
    | cons a l ih =>
      intro hn hm
      rw [List.nodup_cons] at hn
      by_cases ha : a = ch
      · subst ha
        simp only [List.filter_cons, List.contains_cons, beq_self_eq_true, Bool.true_or, if_true]
        congr 1
        rw [List.filter_eq_nil_iff]
        intro b hb
        simp
        rintro rfl
        exact hn.1 hb
      · have hm' : ch ∈ l := by
          cases hm with
          | head => exact absurd rfl ha
          | tail _ h => exact h
        simp only [List.filter_cons]
        rw [if_neg (by simpa using ha)]
        exact ih hn.2 hm'
  exact e channels channels_nodup h

/-- What an opcode leaves when its descriptor's turn has come: its effect, with the completion to write where it has its result. -/
def turned (t : Tok) : Whole × OpResult → Whole
  | (w, .done k) => (w.1, finish t k w.2)
  | (w, .later) => w

/-- A descriptor whose work does not begin ahead of its turn runs at its turn, which comes at once. -/
theorem settled_turn {s : State} {d : Dev} {ch : Chan} {op : Op} {x : Desc} (h : s.Serves d ch op x) (hop : op ≠ .infer)
    (hb : beginPend ch (d.fetched ch op x .ready) (s.iface, addPend ch op x .held d) = none) :
    settled (fetchRow ch op x (s.iface, d))
      = settle 63 (pump ch 6 (turned (s.opCtx d ch x).tok (runOp s.iface op (s.opCtx d ch x) (d.begun ch op x)))) := by
  obtain ⟨hacc, hch, hst, hrm⟩ := h
  have hj := judge_none hacc.2.1
  have hc := canFetch_hasChan hacc.1
  have hl := hacc.2.2.1
  have hp := hacc.2.2.2.2.2.1
  have hcl := hacc.2.2.2.2.2.2.1
  have hkick : d.kick = [] := hacc.2.2.2.2.2.2.2.1
  have hin := hacc.2.2.2.2.2.2.2.2
  have hkick' : (addPend ch op x .running d).kick = [] := by rw [← hkick]; cases ch <;> rfl
  -- the descriptor waits for its turn
  have e0 : fetchRow ch op x (s.iface, d) = (s.iface, d.readied ch op x) := by
    rw [fetchRow_accepts hacc hop]
    unfold startPend
    rw [hb]
    show (s.iface, { setStage { ch := ch, count := (d.chan ch).nextCount } .ready (addPend ch op x .held d) with
      kick := ch :: (setStage { ch := ch, count := (d.chan ch).nextCount } .ready (addPend ch op x .held d)).kick }) = _
    have hs : setStage { ch := ch, count := (d.chan ch).nextCount } .ready (addPend ch op x .held d) = addPend ch op x .ready d :=
      setStage_addPend .held .ready hp
    rw [hs]
    have : (addPend ch op x .ready d).kick = [] := by rw [← hkick]; cases ch <;> rfl
    rw [this]
    rfl
  -- its place comes: it runs
  let a : Dev := { addPend ch op x .ready d with kick := [] }
  have ha1 : (a.chan ch).pend = [d.fetched ch op x .ready] ∧ (a.chan ch).closers = [] := by
    have h1 := addPend_chan (op := op) (x := x) (st := .ready) hc hl hp
    have h2 : a.chan ch = (addPend ch op x .ready d).chan ch := by cases ch <;> rfl
    rw [h2, h1.1, h1.2]; exact ⟨rfl, hcl⟩
  have ha2 : a.room ch = true := by rw [← hrm]; cases ch <;> rfl
  have hrun : runPend ch (d.fetched ch op x .ready) (s.iface, a) = turned (s.opCtx d ch x).tok (runOp s.iface op (s.opCtx d ch x) (d.begun ch op x)) := by
    have hq : partJudge op x a = none := by rw [← hj]; exact partJudge_addPend op x d ch op x .ready _
    have hcx : ctxFor s.iface ch (d.fetched ch op x .ready) = s.opCtx d ch x := rfl
    have hi : inputFails op (s.opCtx d ch x) a = false := inputFails_readied hin .ready []
    have hs : setStage (s.opCtx d ch x).tok .running a = d.begun ch op x := by
      have h1 : setStage (s.opCtx d ch x).tok .running (addPend ch op x .ready d) = d.begun ch op x := setStage_addPend .ready .running hp
      have h2 : setStage (s.opCtx d ch x).tok .running a = { setStage (s.opCtx d ch x).tok .running (addPend ch op x .ready d) with kick := [] } := by
        cases ch <;> rfl
      rw [h2, h1]
      unfold Dev.begun
      rw [← hkick']
    unfold runPend
    simp only [hcx]
    show (match partJudge op x a with
      | some k => (s.iface, takePend ch k (d.fetched ch op x .ready) a)
      | none =>
        if inputFails op (s.opCtx d ch x) a then (s.iface, takePend ch (.of stDataError) (d.fetched ch op x .ready) a) else
        match runOp s.iface op (s.opCtx d ch x) (setStage (s.opCtx d ch x).tok .running a) with
        | (w, .done k) => (w.1, finish (s.opCtx d ch x).tok k w.2)
        | (w, .later) => w) = _
    rw [hq, hi, hs]
    rfl
  have hstep : pumpOne ch (s.iface, a) = some (turned (s.opCtx d ch x).tok (runOp s.iface op (s.opCtx d ch x) (d.begun ch op x))) := by
    unfold pumpOne
    simp only [ha1.1, ha1.2, List.any_nil, ha2, Bool.not_true, Bool.false_eq_true, if_false]
    show some (runPend ch (d.fetched ch op x .ready) (s.iface, a)) = _
    rw [hrun]
  rw [e0]
  have round : ∀ n w, settle (n + 1) w = (let d := settleParts w.2
      let l := kicked d
      if l.isEmpty then (w.1, spiFlush (adminFlush d)) else
      let w := l.foldl (fun w ch => pump ch (3 * (w.2.chan ch).pend.length + 4) w) (w.1, { d with kick := [] })
      settle n w) := fun _ _ => rfl
  show settle (63 + 1) _ = _
  rw [round]
  simp only [hst]
  have hkd : kicked (d.readied ch op x) = [ch] := kicked_one hch rfl
  simp only [hkd, List.isEmpty_cons, Bool.false_eq_true, if_false, List.foldl_cons, List.foldl_nil]
  have : (3 * (({ d.readied ch op x with kick := [] } : Dev).chan ch).pend.length + 4) = 7 := by
    show 3 * (a.chan ch).pend.length + 4 = 7
    rw [ha1.1]; rfl
  rw [this]
  show settle 63 (pump ch (6 + 1) (s.iface, a)) = _
  simp only [pump, hstep]

/-- An opcode whose work begins at its descriptor's turn in the ring order: its first effect is the command's. -/
theorem exec_turn {s : State} {t : Nat} {d : Dev} {ch : Chan} {op : Op} {x : Desc} {i : Iface} {f : Dev} (hd : s.devAt t = d)
    (h : s.Serves d ch op x) (hop : op ≠ .infer) (ha : (opInfo op).async = false)
    (hr : runOp s.iface op (s.opCtx d ch x) (d.begun ch op x) = ((i, f), .later)) :
    onWhole t (fetchRow ch op x) s = s.turned ch i f := by
  have e := settled_turn h hop (by rw [beginPend_accepts h.1, ha]; rfl)
  rw [hr] at e
  subst hd
  unfold onWhole State.turned
  unfold State.devAt at e
  rw [e]
  rfl

/-- An opcode that has its result in its place in the ring order, asynchronous or not: its effect and its completion follow at once. -/
theorem exec_served {s : State} {t : Nat} {d : Dev} {ch : Chan} {op : Op} {x : Desc} {i : Iface} {f : Dev} {k : Cpl} (hd : s.devAt t = d)
    (h : s.Serves d ch op x) (hop : op ≠ .infer)
    (hr : runOp s.iface op (s.opCtx d ch x) (d.begun ch op x) = ((i, f), .done k)) (hk : d.Keeps ch op x f) :
    onWhole t (fetchRow ch op x) s = s.served d ch op x i f k := by
  have e := settled_turn h hop (by rw [beginPend_accepts h.1, hr]; split <;> rfl)
  rw [hr] at e
  obtain ⟨hacc, hch, hst, hrm⟩ := h
  have hc := canFetch_hasChan hacc.1
  have hl := hacc.2.2.1
  have hp := hacc.2.2.2.2.2.1
  -- its completion is written
  obtain ⟨hk1, hf2, hk2⟩ := hk
  have hb := addPend_chan (op := op) (x := x) (st := .running) hc hl hp
  have hf1 : (f.chan ch).pend = [d.fetched ch op x .running] := by rw [hk1]; exact hb.1
  have hfc : f.HasChan ch := by
    cases ch with
    | sq n =>
      show n < f.hif.sq.length
      by_cases hn : n < f.hif.sq.length
      · exact hn
      · exfalso
        have : f.chan (.sq n) = {} := by simp [Dev.chan, Hif.chan, List.getElem?_eq_none (by omega : f.hif.sq.length ≤ n)]
        rw [this] at hf1
        cases hf1
    | _ => trivial
  have hfin : finish (s.opCtx d ch x).tok k f = { f.setChan ch (fun r => { r with pend := [d.fetched ch op x (.finished k)] }) with kick := ch :: f.kick } := by
    unfold finish
    have : f.setChan ch (fun r => { r with pend := r.pend.map fun p =>
        if p.count = (s.opCtx d ch x).tok.count && (p.stage == .running || p.stage == .committed) then { p with stage := .finished k } else p })
        = f.setChan ch (fun r => { r with pend := [d.fetched ch op x (.finished k)] }) := by
      apply Dev.setChan_congr
      rw [hf1]
      simp [Dev.fetched, State.opCtx]
    show ({ f.setChan ch _ with kick := ch :: (f.setChan ch _).kick } : Dev) = _
    rw [this]
    cases ch <;> rfl
  let g : Dev := { f.setChan ch (fun r => { r with pend := [] }) with kick := ch :: f.kick }
  let kf : Cpl := (d.fetched ch op x .running).withReport ch ((d.fetched ch op x .running).final k g) g
  let gk : Dev := (d.fetched ch op x .running).keepReport kf g
  have hg : g.HasChan ch ∧ (g.chan ch).pend = [] ∧ (g.chan ch).closers = [] := by
    have h1 := Dev.setChan_chan f ch (fun r => { r with pend := [] }) hfc
    have h2 : g.chan ch = (f.setChan ch fun r => { r with pend := [] }).chan ch := by cases ch <;> rfl
    refine ⟨?_, ?_, ?_⟩
    · cases ch with
      | sq n => show n < (upd f.hif.sq n _).length; simpa [upd, Dev.HasChan] using hfc
      | _ => trivial
    · rw [h2, h1]
    · rw [h2, h1]; exact hf2
  have hstep2 : pumpOne ch (i, finish (s.opCtx d ch x).tok k f) = some (i, writeCpl ch (d.fetched ch op x .running) kf gk) := by
    rw [hfin]
    have h1 := Dev.setChan_chan f ch (fun r => { r with pend := [d.fetched ch op x (.finished k)] }) hfc
    have h2 : ({ f.setChan ch (fun r => { r with pend := [d.fetched ch op x (.finished k)] }) with kick := ch :: f.kick } : Dev).chan ch
        = (f.setChan ch fun r => { r with pend := [d.fetched ch op x (.finished k)] }).chan ch := by cases ch <;> rfl
    have h3 := room_setPend ch [d.fetched ch op x (.finished k)] (ch :: f.kick) f hfc
    unfold pumpOne
    simp only [h2, h1, h3, hk2, hf2, List.any_nil, Bool.not_true, Bool.false_eq_true, if_false]
    have h4 : (({ f.setChan ch (fun r => { r with pend := [d.fetched ch op x (.finished k)] }) with kick := ch :: f.kick } : Dev).setChan ch fun r => { r with pend := [] }) = g := by
      show _ = ({ f.setChan ch (fun r => { r with pend := [] }) with kick := ch :: f.kick } : Dev)
      have := Dev.setChan_setChan f ch (fun r => { r with pend := [d.fetched ch op x (.finished k)] }) (fun r => { r with pend := [] })
      have h5 : (f.setChan ch fun r => { r with pend := [] }) = (f.setChan ch fun r => { r with pend := [d.fetched ch op x (.finished k)] }).setChan ch fun r => { r with pend := [] } := this.symm
      rw [h5]
      cases ch <;> rfl
    rw [h4]
    exact congrArg (fun z => some (i, z)) (writeCpl_stage ch (d.fetched ch op x .running) (.finished k) kf gk)
  have hgk : gk.HasChan ch ∧ (gk.chan ch).pend = [] ∧ (gk.chan ch).closers = [] := by
    have h := keepReport_chan (d.fetched ch op x .running) kf g
    show (Pend.keepReport _ kf g).HasChan ch ∧ ((Pend.keepReport _ kf g).chan ch).pend = [] ∧ ((Pend.keepReport _ kf g).chan ch).closers = []
    rw [h.1, h.2]; exact hg
  have hstep3 : pumpOne ch (i, writeCpl ch (d.fetched ch op x .running) kf gk) = none := by
    have h1 := writeCpl_idle (p := d.fetched ch op x .running) (k := kf) hgk.1 hgk.2.1 hgk.2.2
    unfold pumpOne
    simp only [h1.1, h1.2]
    rfl
  have hpump : pump ch 6 (i, finish (s.opCtx d ch x).tok k f) = (i, writeCpl ch (d.fetched ch op x .running) kf gk) := by
    have more : ∀ n w w', pumpOne ch w = some w' → pump ch (n + 1) w = pump ch n w' := by
      intro n w w' e; simp only [pump, e]
    have spent : ∀ n w, pumpOne ch w = none → pump ch (n + 1) w = w := by
      intro n w e; simp only [pump, e]
    rw [more 5 _ _ hstep2, spent 4 _ hstep3]
  have e' : settled (fetchRow ch op x (s.iface, d)) = settle 63 (i, writeCpl ch (d.fetched ch op x .running) kf gk) := by
    rw [e, ← hpump]; rfl
  subst hd
  unfold onWhole State.served
  unfold State.devAt at e' ⊢
  rw [e']
  rfl

/-! ### Model slots and INFER (R275, R280) -/

/-- A model slot that exists, changed. -/
theorem Dev.setSlot_slot {d : Dev} {s : Nat} (f : Slot → Slot) (h : s < d.neural.slot.length) : (d.setSlot s f).slot s = f (d.slot s) := by
  simp [Dev.setSlot, Dev.slot, upd, h]

/-- Two changes of one slot are one. -/
theorem Dev.setSlot_setSlot (d : Dev) (s : Nat) (f g : Slot → Slot) : (d.setSlot s f).setSlot s g = d.setSlot s fun x => g (f x) := by
  simp [Dev.setSlot, upd, List.modify_modify_eq, Function.comp_def]

/-- A slot in any state but EMPTY exists. -/
theorem Dev.slot_lt {d : Dev} {s : Nat} (h : (d.slot s).st ≠ .empty) : s < d.neural.slot.length := by
  by_cases hs : s < d.neural.slot.length
  · exact hs
  · exfalso; apply h; simp [Dev.slot, List.getElem?_eq_none (Nat.le_of_not_lt hs)]

/-- The fetch of an INFER enters its slot's books. -/
def Dev.inferEntered (d : Dev) (ch : Chan) (x : Desc) : Dev :=
  (d.begun ch .infer x).setSlot (x.u8 24) fun y => { y with fetched := y.fetched ++ [(d.hif.fetches, { ch := ch, count := (d.chan ch).nextCount })] }

/-- An INFER of a LOADED slot that nothing holds starts as it is fetched. -/
theorem exec_infer {s : State} {t : Nat} {d : Dev} {ch : Chan} {x : Desc} {f : Dev} (hd : s.devAt t = d) (h : s.Accepts d ch .infer x)
    (hs : x.u8 24 ≤ 15) (hl : (d.slot (x.u8 24)).st = .loaded) (hr : opInfer (s.opCtx d ch x) (d.inferEntered ch x) = (f, .later)) :
    onWhole t (fetchRow ch .infer x) s = s.after s.iface f := by
  obtain ⟨hf, hj, hz, hdw, he, hp, _, _, hin⟩ := h
  have hc := canFetch_hasChan hf
  have hl' : ((addPend ch .infer x .held d).slot (x.u8 24)).st = .loaded := by rw [← hl]; cases ch <;> rfl
  let held : Dev := (addPend ch .infer x .held d).setSlot (x.u8 24) fun y => { y with
    fetched := y.fetched ++ [(d.hif.fetches, { ch := ch, count := (d.chan ch).nextCount })] }
  have hi : inferFetched (s.opCtx d ch x) d.hif.fetches (addPend ch .infer x .held d) = (held, none) := by
    unfold inferFetched
    have : (s.opCtx d ch x).d = x := rfl
    simp only [this, Nat.not_lt.2 hs, hl', if_false]
    rfl
  have hm : condOf { ch := ch, count := (d.chan ch).nextCount } x held = .met :=
    condOf_addPend (op := .infer) (st := .held) hc hz hp hdw he
  have hq : partJudge .infer x held = none := by
    rw [← judge_none hj]; cases ch <;> rfl
  have hi2 : inputFails .infer (s.opCtx d ch x) held = false := by rw [← hin]; cases ch <;> rfl
  have hst : setStage (s.opCtx d ch x).tok .running held = d.inferEntered ch x := by
    have := setStage_addPend (op := .infer) (x := x) (ch := ch) .held .running hp
    show (setStage { ch := ch, count := (d.chan ch).nextCount } .running (addPend ch .infer x .held d)).setSlot (x.u8 24) _ = _
    rw [this]; rfl
  have e : fetchRow ch .infer x (s.iface, d) = (s.iface, f) := by
    simp only [fetchRow, Dev.mayFetch, hf, fetchDesc, hj, hz, if_true, bne_self_eq_false, Bool.false_eq_true, if_false]
    show (match inferFetched (s.opCtx d ch x) d.hif.fetches (addPend ch .infer x .held d) with
      | (d', refused) => match refused with
        | some k => (s.iface, { setStage { ch := ch, count := (d.chan ch).nextCount } (.finished k) d' with
            kick := ch :: (setStage { ch := ch, count := (d.chan ch).nextCount } (.finished k) d').kick })
        | none => tryStart ch _ (s.iface, d')) = _
    rw [hi]
    simp only [tryStart, hm, startPend]
    have hb : beginPend ch (d.fetched ch .infer x .held) (s.iface, held) = some (s.iface, f) := by
      unfold beginPend
      have hc' : ctxFor s.iface ch (d.fetched ch .infer x .held) = s.opCtx d ch x := rfl
      have hr' : runOp s.iface .infer (s.opCtx d ch x) (d.inferEntered ch x) = ((s.iface, f), .later) := by
        show ((s.iface, (opInfer (s.opCtx d ch x) (d.inferEntered ch x)).1), (opInfer (s.opCtx d ch x) (d.inferEntered ch x)).2) = _
        rw [hr]
      simp only [hc']
      show (if (!(opInfo .infer).async || (partJudge .infer x held).isSome || inputFails .infer (s.opCtx d ch x) held) = true then none else
        match runOp s.iface .infer (s.opCtx d ch x) (setStage (s.opCtx d ch x).tok .running held) with
        | (w, .later) => some w
        | _ => none) = _
      rw [hq, hi2, hst, hr']
      rfl
    show (match beginPend ch (d.fetched ch .infer x .held) (s.iface, held) with
      | some w => w
      | none => _) = _
    rw [hb]
  subst hd
  unfold onWhole State.after
  unfold State.devAt at e
  rw [e]

end Sys2Proof.Machine
end

