-- ==== Sys2Proof/Laws/Commands.lean ====
section
/-! SUPPORT. What a command's outcome is, by the kind of its meaning; how a descriptor's command completes; and all that a command can do
to the locked registers of the host interface. -/

namespace Sys2Proof.Machine

/-! ### The outcome of a command, once its own effect is known -/

theorem onDev_after {s : State} {t : Nat} {f : Dev → Dev} {d e : Dev} (hd : s.devAt t = d) (h : f d = e) : onDev t f s = s.after s.iface e := by
  subst hd h; rfl

theorem onWhole_after {s : State} {t : Nat} {f : Whole → Whole} {d : Dev} {i : Iface} {e : Dev} (hd : s.devAt t = d)
    (h : f (s.iface, d) = (i, e)) : onWhole t f s = s.after i e := by
  subst hd; unfold onWhole State.after; rw [← h]; rfl

theorem onIf_after {s : State} {t : Nat} {c : Dev → Bool} {f : Dev → Dev} {d e : Dev} (hd : s.devAt t = d) (hc : c d = true) (h : f d = e) :
    onIf c t f s = s.after s.iface e := by
  subst hd h; unfold onIf onDev onWhole State.after State.devAt at *; simp [hc]

/-- Where the command's condition does not hold, only the clock has moved. -/
theorem onIf_idle {s : State} {t : Nat} {c : Dev → Bool} {f : Dev → Dev} {d : Dev} (hd : s.devAt t = d) (hc : c d = false) :
    onIf c t f s = s.after s.iface d := by
  subst hd; unfold onIf onDev onWhole State.after State.devAt at *; simp [hc]

/-! ### Descriptors -/

/-- An opcode in the ring order runs as its function says. -/
theorem runs_of {mk : Nat → Chan → Desc → Instr} {op : Op} {can : OpCtx → Dev → Prop} {eff : OpCtx → Dev → Dev × Cpl}
    (hm : ∀ t ch x s, exec (mk t ch x) s = onWhole t (fetchRow ch op x) s) (hop : op ≠ .infer)
    (hr : ∀ i c e, can c e → runOp i op c e = ((i, (eff c e).1), .done (eff c e).2)) : Runs mk op can eff := by
  intro s t d ch x hd h hc hk
  rw [hm]; exact exec_served hd h hop (hr _ _ _ hc) hk

/-- An asynchronous opcode begins as its function says. -/
theorem starts_of {mk : Nat → Chan → Desc → Instr} {op : Op} {can : OpCtx → Dev → Prop} {eff : OpCtx → Dev → Dev}
    (hm : ∀ t ch x s, exec (mk t ch x) s = onWhole t (fetchRow ch op x) s) (hop : op ≠ .infer) (ha : (opInfo op).async = true)
    (hr : ∀ i c e, can c e → runOp i op c e = ((i, eff c e), .later)) : Starts mk op can eff := by
  intro s t d ch x hd h hc
  rw [hm]; exact exec_begun hd h hop ha (hr _ _ _ hc)

/-- An asynchronous opcode that has its result at once. -/
theorem ends_of {mk : Nat → Chan → Desc → Instr} {op : Op} {can : OpCtx → Dev → Prop} {eff : OpCtx → Dev → Dev × Cpl}
    (hm : ∀ t ch x s, exec (mk t ch x) s = onWhole t (fetchRow ch op x) s) (hop : op ≠ .infer)
    (hr : ∀ i c e, can c e → runOp i op c e = ((i, (eff c e).1), .done (eff c e).2)) : Ends mk op can eff :=
  runs_of hm hop hr

/-! ### The locked registers -/

/-- What writes of the host interface's registers lead to. -/
inductive Iface.Via : Iface → Iface → Prop
  | refl (i : Iface) : Iface.Via i i
  | write {i j : Iface} (o v : Nat) (d : Dev) (h : Iface.Via i j) : Iface.Via i (writeHif o v j d).1

theorem regPut_via {i j : Iface} (h : i.Via j) (m off v : Nat) (d : Dev) : i.Via (regPut m off v j d).1 := by
  unfold regPut
  split
  · exact .write off v d h
  · split <;> exact h

theorem regWrite_via {i j : Iface} (h : i.Via j) (m off width v : Nat) (d : Dev) : i.Via (regWrite m off width v j d).1 := by
  unfold regWrite
  split
  · exact h
  · exact regPut_via h _ _ _ _

theorem regBy_via {i : Iface} (m off width v : Nat) (w : Whole) (h : i.Via w.1) : i.Via (regBy m off width v w).1 := by
  unfold regBy
  split
  · split
    · exact regWrite_via h _ _ _ _ _
    · exact h
  · split
    · split
      · exact h
      · split
        · exact regWrite_via h _ _ _ _ _
        · exact h
    · exact h

theorem runOp_via {i j : Iface} (h : i.Via j) (op : Op) (c : OpCtx) (d : Dev) : i.Via (runOp j op c d).1.1 := by
  cases op
  case regWrite =>
    simp only [runOp]
    split
    · exact h
    · exact regWrite_via h _ _ _ _ _
  case regRead => simp only [runOp]; split <;> exact h
  all_goals exact h

theorem runPend_via {i : Iface} (ch : Chan) (p : Pend) (w : Whole) (h : i.Via w.1) : i.Via (runPend ch p w).1 := by
  have hr := runOp_via h p.op (ctxFor w.1 ch p) (setStage (ctxFor w.1 ch p).tok .running w.2)
  simp only [runPend]
  split
  · exact h
  · split
    · exact h
    · split <;> (rename_i e; rw [e] at hr; exact hr)

theorem beginPend_via {i : Iface} {ch : Chan} {p : Pend} {w w' : Whole} (h : i.Via w.1) (hb : beginPend ch p w = some w') : i.Via w'.1 := by
  have hr := runOp_via h p.op (ctxFor w.1 ch p) (setStage (ctxFor w.1 ch p).tok .running w.2)
  simp only [beginPend] at hb
  split at hb
  · cases hb
  · split at hb
    · rename_i e; cases hb; rw [e] at hr; exact hr
    · cases hb

theorem startPend_via {i : Iface} (ch : Chan) (p : Pend) (w : Whole) (h : i.Via w.1) : i.Via (startPend ch p w).1 := by
  unfold startPend
  split
  · rename_i e; exact beginPend_via h e
  · exact h

theorem tryStart_via {i : Iface} (ch : Chan) (p : Pend) (w : Whole) (h : i.Via w.1) : i.Via (tryStart ch p w).1 := by
  unfold tryStart
  split
  · exact h
  · exact h
  · exact startPend_via ch p w h

theorem fetchDesc_via {i : Iface} (ch : Chan) (op : Op) (x : Desc) (w : Whole) (h : i.Via w.1) : i.Via (fetchDesc ch op x w).1 := by
  simp only [fetchDesc]
  split
  · exact h
  · split
    · exact h
    · split
      · exact h
      · exact tryStart_via ch _ _ h

theorem fetchRow_via {i : Iface} (ch : Chan) (op : Op) (x : Desc) (w : Whole) (h : i.Via w.1) : i.Via (fetchRow ch op x w).1 := by
  unfold fetchRow
  split
  · exact fetchDesc_via ch op x w h
  · exact h

theorem pumpOne_via {i : Iface} {ch : Chan} {w w' : Whole} (h : i.Via w.1) (hp : pumpOne ch w = some w') : i.Via w'.1 := by
  simp only [pumpOne] at hp
  split at hp
  · cases hp; exact h
  · split at hp
    · cases hp
    · split at hp
      · cases hp
      · split at hp
        · cases hp; exact h
        · cases hp; exact runPend_via _ _ _ h
        · cases hp; exact h
        · cases hp

theorem pump_via {i : Iface} (ch : Chan) (n : Nat) (w : Whole) (h : i.Via w.1) : i.Via (pump ch n w).1 := by
  induction n generalizing w with
  | zero => exact h
  | succ n ih =>
    simp only [pump]
    split
    · rename_i e; exact ih _ (pumpOne_via h e)
    · exact h

theorem settle_via {i : Iface} (n : Nat) (w : Whole) (h : i.Via w.1) : i.Via (settle n w).1 := by
  have fold : ∀ (l : List Chan) (w : Whole), i.Via w.1 → i.Via (l.foldl (fun w ch => pump ch (3 * (w.2.chan ch).pend.length + 4) w) w).1 := by
    intro l
    induction l with
    | nil => exact fun w h => h
    | cons c l ih => exact fun w h => ih _ (pump_via c _ w h)
  induction n generalizing w with
  | zero => exact h
  | succ n ih =>
    simp only [settle]
    split
    · exact h
    · exact ih _ (fold _ _ h)

theorem settled_via {i : Iface} (w : Whole) (h : i.Via w.1) : i.Via (settled w).1 := settle_via 64 w h

/-- All that one command can do to the locked registers: a full reset, R33, or the end of a negotiation, and then writes of them. -/
def Iface.Next (i j : Iface) : Prop := ∃ k, (k = i ∨ k = {} ∨ k = i.reset33 ∨ k = abiDone i) ∧ k.Via j

/-- The outcome leaves the locked registers as one command can. -/
def State.Leads (s : State) (o : Host.Outcome State Fault Refusal) : Prop := ∃ s', o = .next s' ∧ s'.pending = s.pending ∧ s.iface.Next s'.iface

theorem onWhole_leads {s : State} {t : Nat} {f : Whole → Whole} (h : ∀ d, s.iface.Next (f (s.iface, d)).1) : s.Leads (onWhole t f s) := by
  obtain ⟨k, hk, hv⟩ := h (advance t s.dev)
  have e : onWhole t f s = s.after (f (s.iface, advance t s.dev)).1 (f (s.iface, advance t s.dev)).2 := rfl
  have hs := settled_via (f (s.iface, advance t s.dev)) hv
  rw [e]
  unfold State.after
  generalize settled (f (s.iface, advance t s.dev)) = w at hs
  exact ⟨_, rfl, rfl, k, hk, hs⟩

theorem onWhole_via {s : State} {t : Nat} {f : Whole → Whole} (h : ∀ (i : Iface) (w : Whole), i.Via w.1 → i.Via (f w).1) : s.Leads (onWhole t f s) :=
  onWhole_leads fun d => ⟨_, .inl rfl, h s.iface (s.iface, d) (.refl _)⟩

theorem onDev_leads (s : State) (t : Nat) (f : Dev → Dev) : s.Leads (onDev t f s) := onWhole_via fun _ _ h => h

theorem onIf_leads (s : State) (c : Dev → Bool) (t : Nat) (f : Dev → Dev) : s.Leads (onIf c t f s) := onDev_leads s t _

theorem fetchRow_leads (s : State) (t : Nat) (ch : Chan) (op : Op) (x : Desc) : s.Leads (onWhole t (fetchRow ch op x) s) :=
  onWhole_via fun _ _ h => fetchRow_via ch op x _ h

theorem regBy_leads (s : State) (t m off width v : Nat) : s.Leads (onWhole t (regBy m off width v) s) :=
  onWhole_via fun _ _ h => regBy_via m off width v _ h

theorem guarded_leads (s : State) (t : Nat) (c : Prop) [Decidable c] (m off width v : Nat) :
    s.Leads (onWhole t (fun w => if c then regBy m off width v w else w) s) :=
  onWhole_via fun _ w h => by
    by_cases hc : c
    · simpa only [hc, if_true] using regBy_via m off width v w h
    · simpa only [hc, if_false] using h

theorem snapBy_leads (s : State) (t m off v : Nat) : s.Leads (onWhole t (snapBy m off v) s) :=
  onWhole_via fun _ w h => by
    unfold snapBy
    split
    · exact regBy_via m off 4 v w h
    · exact h

theorem withReset_leads (s : State) (t : Nat) (hit : Dev → Bool) (f : Dev → Dev) : s.Leads (onWhole t (withReset hit f) s) :=
  onWhole_leads fun d => by
    unfold withReset
    split
    · exact ⟨{}, .inr (.inl rfl), .refl _⟩
    · exact ⟨_, .inl rfl, .refl _⟩

theorem abiDone_leads (s : State) (t : Nat) : s.Leads (onWhole t (fun w => (abiDone w.1, w.2)) s) :=
  onWhole_leads fun _ => ⟨_, .inr (.inr (.inr rfl)), .refl _⟩

theorem reset33_leads (s : State) (t : Nat) (perst : Bool) : s.Leads (onWhole t (fun w => (w.1.reset33, hostInterfaceReset perst w.2)) s) :=
  onWhole_leads fun _ => ⟨_, .inr (.inr (.inl rfl)), .refl _⟩

theorem descriptorStart_leads (s : State) (t : Nat) (ch : Chan) (n : Nat) : s.Leads (onWhole t (descriptorStart ch n) s) :=
  onWhole_via fun _ w h => by
    simp only [descriptorStart]
    split
    · split
      · exact tryStart_via ch _ w h
      · split <;> exact h
    · split
      · split
        · exact fetchDesc_via _ _ _ w h
        · exact h
      · exact h

theorem timedStart_leads (s : State) (t : Nat) (ch : Chan) (n : Nat) : s.Leads (onWhole t (timedStart ch n) s) :=
  onWhole_via fun _ w h => by
    simp only [timedStart]
    split
    · exact h
    · split
      · exact h
      · exact runPend_via ch _ _ h

theorem i3cDescriptor_leads (s : State) (t : Nat) (smbus : Bool) (b : Bytes) : s.Leads (onWhole t (i3cDescriptor smbus b) s) :=
  onWhole_via fun _ w h => by
    simp only [i3cDescriptor]
    split
    · exact h
    · split
      · exact h
      · exact fetchDesc_via _ _ _ _ h

theorem spiFrame_leads (s : State) (t : Nat) (m : Bytes) : s.Leads (onWhole t (spiFrame m) s) :=
  onWhole_via fun i w h => by
    have cmd : ∀ d : Dev, i.Via (spiCommand m (w.1, d)).1 := by
      intro d
      simp only [spiCommand]
      split
      · split
        · exact h
        · split
          · exact fetchDesc_via _ _ _ _ h
          · exact h
      · split
        · exact h
        · split
          · exact h
          · split
            · exact h
            · exact fetchDesc_via _ _ _ _ h
      · split <;> exact h
      · exact h
    simp only [spiFrame]
    split
    · exact h
    · split
      · exact cmd _
      · exact h

theorem adminDesc_leads (s : State) (t : Nat) : s.Leads (onWhole t adminDesc s) :=
  onWhole_via fun _ w h => by
    simp only [adminDesc]
    split
    · exact h
    · split
      · split
        · exact h
        · exact fetchDesc_via _ _ _ _ h
      · exact h

end Sys2Proof.Machine
end

