-- ==== Sys2Proof/Laws/Exec.lean ====
section
/-! SUPPORT. Every command answers a next state, leaves the queue of commands alone, and leaves the locked registers as one command can. -/

namespace Sys2Proof.Machine

theorem exec_leads (c : Instr) (s : State) : s.Leads (exec c s) := by
  cases c <;> simp only [exec,
    execIdentify, execCreateCq, execCreateSq, execDeleteSq, execDeleteCq, execAbortSq, execNop, execOwnClaim, execOwnHeartbeat,
    execOwnHandover, execOwnAccept, execOwnRelease, execProfileSelect, execProfileRead, execProfileWrite, execProfileRestore, execRegRead,
    execRegWrite, execTimeSelect, execTimeSet, execSetLaunchPeriod, execTimeStatus, execSensorInject, execSensorEnable, execSlotRead,
    execFrameGrab, execGnssSend, execRectLoad, execStereoStored, execVpParams, execVpMove, execStereoGrab, execModelInstall,
    execModelRemove, execModelLoad, execModelUnload, execInfer, execModelQuery, execStateReset, execModelBind, execModelUnbind,
    execSolverLoad, execSolve, execSolverFree, execSolverQuery, execEstConfig, execEstStart, execEstStop, execEstStatus, execKeyframeRead,
    execFusionStart, execFusionStop, execFusionBounds, execFusionReset, execFusionStatus, execIndexCreate, execIndexLoad, execIndexDrop,
    execPlaceInsert, execPlaceDelete, execPlaceQuery, execIndexMerge, execIndexQuery, execWalkerSet, execTierQuery, execTierPromote,
    execTierEvict, execTierUnpin, execTierUsage, execSlowAttach, execIpmChannel, execFleetConfig, execFleetEnrol, execFleetJoin,
    execFleetFrame, execShardTable, execShardHost, execShardDrop, execShardHandover, execShardPromote, execFleetQuery, execShardStatus,
    execFltStatus, execUnitFence, execUnitReturn, execAssayRun, execBaseEnter, execBaseExit, execFltLog, execHmIdentity, execHmAttest,
    execUpdateKeyInstall, execUpdateStage, execUpdateActivate, execUpdateCancel, execUpdateConfirm, execAcceptDefaults, execUpdateRevert,
    execUpdateStatus, execSettingsExport, execSqTailDoorbell, execCqHeadDoorbell, execEventRingHeadDoorbell, execBar2InvalidWrite,
    execRegisterWrite, execAbiRequest, execAbiNegotiationDone, execAdminRingEnable, execAdminRingDisable, execEventRingEnable,
    execEventRingDisable, execCounterSnap, execCounterRelease, execTimeSnapLatch, execMsixUnmask, execTmrArm, execTmrDisarm,
    execTrackEnable, execTrackDisable, execHoldMaxSWrite, execEthPortEnable, execEthPortDisable, execCsiPortEnable, execCsiPortDisable,
    execCanConfigApply, execTsArm, execTsDisarm, execPowerUp, execVinLoss, execResetNAssert, execHostInterfaceReset, execStrapSample,
    execLoaderMeasured, execStartupProfileRead, execSafetyIslandRunning, execControlComplexRunning, execIpmTrained, execStartupReady,
    execPcieLinkTrain, execDescriptorFetchFail, execDescriptorStart, execTimedLaunchStart, execLaunchMissed, execMsixCoalesceTimeout,
    execPartReadyTimeout, execArbitrationWindowEnd, execLeaseLapse, execHandoverExpire, execProfileApplyDone, execI3cDescriptorWrite,
    execI3cCompletionRead, execSafeSpiFrame, execSafeReqAssert, execSafeReqDeassert, execBaseMetalBlocksGated, execPtpSyncRx,
    execPtpAnnounceRx, execPtpDelayMsgRx, execPtpSyncTx, execPtpEventForward, execPpsInPulse, execTrackLostTimeout, execHoldoverExpire,
    execHoldErrUpdate, execEthLinkChange, execEthFrameRx, execTmrCaptureEdge, execTmrPulseEdge, execPpsOutPulse, execCsiFrameStart,
    execCsiLongPacket, execCsiFrameEnd, execImuDrdyEdge, execImuReadDone, execCanFrameRx, execGnssSentenceRx, execLidarDatagramRx,
    execLidarSweepTimeout, execSensorSilenceTimeout, execPairTimeout, execVpBandReady, execVpAdmissionWindow, execVpFault,
    execTaskDispatch, execTaskCommit, execTaskOverrun, execEngineMessageRx, execRoleRebuildDone, execReductionRoundDone, execCopyDone,
    execUpcUpdate, execCeilingHoldClear, execSramPatrolScrub, execSramUncorrectable, execFlagUncorrExpire, execIpmPatrolScrub,
    execIpmUncorrectable, execIpmChannelFault, execIpmResyncDone, execNvmeDeviceDetect, execNvmeCmdTimeout, execPromotionDone,
    execEvictionDone, execSlowReadFail, execTierRepairDone, execWaveStart, execBindBandReady, execFusionTick, execFusionTickCommit,
    execPoseTakeoverTimeout, execImuGapTimeout, execImuSwitchTimeout, execFrameUpdateStart, execFrameUpdateDone, execWindowBaDone,
    execLoopQueryDone, execPoseGraphDone, execMapEpochCommit, execEstLostTimeout, execPlaceQueryAdmit, execPlaceQueryDone,
    execIndexMergeCommit, execWalkerFault, execSxpInit, execSxpReply, execSxpConfirm, execSxpDatagramRx, execPublish, execPublishAck,
    execRevision, execRevisionAck, execQuery, execQueryResult, execRoleNotice, execNoticeAck, execSyncReq, execSyncData, execHandoverReq,
    execHandoverAck, execBounce, execAdminDesc, execIpControlRx, execSxpReassemblyTimeout, execSxpResendTimeout, execReplyCacheExpire,
    execSessionRekey, execSessionOldKeyExpire, execSessionIdleTimeout, execFleetQueryTimeout, execPublishLateTimeout, execSxpPortFailover,
    execSxpPortReturn, execClaimTimeout, execShardHandoverTimeout, execEngineFault, execControlCoreFault, execFabricFault, execFatalFault,
    execFatalResetTimeout, execAssayDone, execAssayRotation, execTsStreamEnd, execSafeStopCheck, execHeartbeatToggle, execHmViolation,
    execCardInsertRemove, execStagingDone, execUnstagingDone, execActivationDone, execHealthConfirm, execConfirmationTimerExpire,
    execFallbackDone, execPowerLoopTick, execThermalLoopTick, execEnvironmentFault, execEnvironmentClear, execThermalTrip,
    execResetNRelease, execThermalTripRelease, execPcieLinkDown, execBusMasteringChange, execCanBusError, execCanBusOffRecovery,
    execI3cCommonCommand, execProfileWriteDone, execCsiDeskewCalibration, execSlowTierFailure, execSsdHealthWarning] <;> with_reducible first
    | exact onDev_leads _ _ _
    | exact onIf_leads _ _ _ _
    | exact fetchRow_leads _ _ _ _ _
    | exact regBy_leads _ _ _ _ _ _
    | exact snapBy_leads _ _ _ _ _
    | exact guarded_leads _ _ _ _ _ _ _
    | exact withReset_leads _ _ _ _
    | exact abiDone_leads _ _
    | exact reset33_leads _ _ _
    | exact descriptorStart_leads _ _ _ _
    | exact timedStart_leads _ _ _ _
    | exact i3cDescriptor_leads _ _ _ _
    | exact spiFrame_leads _ _ _
    | exact adminDesc_leads _ _

end Sys2Proof.Machine
end

