-- ==== Sys2Proof/Laws/Host.lean ====
section
/-! SUPPORT. The operations that speak to the host (writes of its memory, interrupts, events, completion rings, streams) change the host
interface's state and what has been sent, and nothing else of the part. -/

namespace Sys2Proof.Machine

/-- The two parts differ in the host interface and in what has been sent, at most. -/
abbrev Dev.HostOnly (d e : Dev) : Prop := e = { d with hif := e.hif, out := e.out }

theorem Dev.HostOnly.refl (d : Dev) : d.HostOnly d := rfl

theorem Dev.HostOnly.trans {d e f : Dev} (h : d.HostOnly e) (g : e.HostOnly f) : d.HostOnly f := by
  rw [g, h]

theorem hostWrite_only (a : Nat) (b : Bytes) (d : Dev) : d.HostOnly (hostWrite a b d) := by unfold hostWrite; split <;> rfl

theorem msixSend_only (v : Nat) (d : Dev) : d.HostOnly (msixSend v d) := by
  simp only [msixSend]
  split
  · rfl
  · split
    · exact (hostWrite_only _ _ d).trans rfl
    · rfl

theorem evWrite_only (e : Event) (d : Dev) : d.HostOnly (evWrite e d) := by
  simp only [evWrite]
  refine Dev.HostOnly.trans ?_ (msixSend_only 0 _)
  exact Dev.HostOnly.trans (hostWrite_only (d.hif.evr.base + 32 * d.hif.evr.tail) (e.entry d.hif.evr.phase) d) rfl

theorem evLose_only (d : Dev) : d.HostOnly (evLose d) := rfl

theorem evFlushLost_only (d : Dev) : d.HostOnly (evFlushLost d) := by
  simp only [evFlushLost]
  split
  · rfl
  · refine Dev.HostOnly.trans ?_ (evWrite_only _ _); rfl

theorem evPost_only (e : Event) (d : Dev) : d.HostOnly (evPost e d) := by
  simp only [evPost]
  split
  · split
    · exact (evFlushLost_only d).trans (evLose_only _)
    · exact (evFlushLost_only d).trans (evWrite_only e _)
  · split
    · rfl
    · exact evLose_only d

theorem ev_only (code sev : Nat) (b : Bytes) (d : Dev) : d.HostOnly (ev code sev b d) := evPost_only _ d

theorem evFrom_only (src unit code sev : Nat) (b : Bytes) (d : Dev) : d.HostOnly (evFrom src unit code sev b d) := evPost_only _ d

theorem coalesce_only (n : Nat) (d : Dev) : d.HostOnly (coalesce n d) := by
  simp only [coalesce]
  split
  · refine Dev.HostOnly.trans ?_ (msixSend_only _ _); rfl
  · rfl

theorem cqAdvance_only (n : Nat) (d : Dev) : d.HostOnly (cqAdvance n d) := by
  simp only [cqAdvance]
  split
  · refine Dev.HostOnly.trans ?_ (ev_only _ _ _ _); rfl
  · rfl

theorem streamRecord_only (id tov : Nat) (same : Bool) (r : Bytes) (d : Dev) : d.HostOnly (streamRecord id tov same r d) := by
  simp only [streamRecord]
  split
  · rfl
  · split
    · rfl
    · split
      · rfl
      · split
        · rfl
        · split
          · rfl
          · split
            · split
              · rfl
              · refine Dev.HostOnly.trans ?_ (ev_only _ _ _ _); rfl
            · refine Dev.HostOnly.trans ?_ ((cqAdvance_only _ _).trans (coalesce_only _ _))
              refine Dev.HostOnly.trans ?_ (hostWrite_only _ _ _)
              refine Dev.HostOnly.trans ?_ (hostWrite_only _ _ _)
              rfl

/-- What such an operation leaves as it was. -/
theorem Dev.HostOnly.fields {d e : Dev} (h : d.HostOnly e) :
    e.now = d.now ∧ e.part = d.part ∧ e.start = d.start ∧ e.vinUp = d.vinUp ∧ e.resetLow = d.resetLow ∧ e.tripped = d.tripped ∧ e.resetEnd
    = d.resetEnd ∧ e.grade = d.grade ∧ e.serial = d.serial ∧ e.idleSince = d.idleSince ∧ e.own = d.own ∧ e.prof = d.prof ∧ e.time = d.time
    ∧ e.eth = d.eth ∧ e.sens = d.sens ∧ e.vision = d.vision ∧ e.ts = d.ts ∧ e.dmem = d.dmem ∧ e.comp = d.comp ∧ e.ipm = d.ipm ∧ e.nvme =
    d.nvme ∧ e.tier = d.tier ∧ e.flt = d.flt ∧ e.neural = d.neural ∧ e.card = d.card ∧ e.fusion = d.fusion ∧ e.solver = d.solver ∧ e.place
    = d.place ∧ e.est = d.est ∧ e.spi = d.spi ∧ e.trust = d.trust ∧ e.fleet = d.fleet ∧ e.pw = d.pw ∧ e.kick = d.kick ∧ e.free = d.free := by
  rw [h]
  exact ⟨rfl, rfl, rfl, rfl, rfl, rfl, rfl, rfl, rfl, rfl, rfl, rfl, rfl, rfl, rfl, rfl, rfl, rfl, rfl, rfl, rfl, rfl, rfl, rfl, rfl, rfl,
  rfl, rfl, rfl, rfl, rfl, rfl, rfl, rfl, rfl⟩

@[simp] theorem hostWrite_fields (a : Nat) (b : Bytes) (d : Dev) :
    (hostWrite a b d).now = d.now ∧ (hostWrite a b d).part = d.part ∧ (hostWrite a b d).start = d.start ∧ (hostWrite a b d).vinUp =
    d.vinUp ∧ (hostWrite a b d).resetLow = d.resetLow ∧ (hostWrite a b d).tripped = d.tripped ∧ (hostWrite a b d).resetEnd = d.resetEnd ∧
    (hostWrite a b d).grade = d.grade ∧ (hostWrite a b d).serial = d.serial ∧ (hostWrite a b d).idleSince = d.idleSince ∧ (hostWrite a b
    d).own = d.own ∧ (hostWrite a b d).prof = d.prof ∧ (hostWrite a b d).time = d.time ∧ (hostWrite a b d).eth = d.eth ∧ (hostWrite a b
    d).sens = d.sens ∧ (hostWrite a b d).vision = d.vision ∧ (hostWrite a b d).ts = d.ts ∧ (hostWrite a b d).dmem = d.dmem ∧ (hostWrite a
    b d).comp = d.comp ∧ (hostWrite a b d).ipm = d.ipm ∧ (hostWrite a b d).nvme = d.nvme ∧ (hostWrite a b d).tier = d.tier ∧ (hostWrite a
    b d).flt = d.flt ∧ (hostWrite a b d).neural = d.neural ∧ (hostWrite a b d).card = d.card ∧ (hostWrite a b d).fusion = d.fusion ∧
    (hostWrite a b d).solver = d.solver ∧ (hostWrite a b d).place = d.place ∧ (hostWrite a b d).est = d.est ∧ (hostWrite a b d).spi =
    d.spi ∧ (hostWrite a b d).trust = d.trust ∧ (hostWrite a b d).fleet = d.fleet ∧ (hostWrite a b d).pw = d.pw ∧ (hostWrite a b d).kick =
    d.kick ∧ (hostWrite a b d).free = d.free :=
  (hostWrite_only a b d).fields

@[simp] theorem msixSend_fields (v : Nat) (d : Dev) :
    (msixSend v d).now = d.now ∧ (msixSend v d).part = d.part ∧ (msixSend v d).start = d.start ∧ (msixSend v d).vinUp = d.vinUp ∧
    (msixSend v d).resetLow = d.resetLow ∧ (msixSend v d).tripped = d.tripped ∧ (msixSend v d).resetEnd = d.resetEnd ∧ (msixSend v
    d).grade = d.grade ∧ (msixSend v d).serial = d.serial ∧ (msixSend v d).idleSince = d.idleSince ∧ (msixSend v d).own = d.own ∧
    (msixSend v d).prof = d.prof ∧ (msixSend v d).time = d.time ∧ (msixSend v d).eth = d.eth ∧ (msixSend v d).sens = d.sens ∧ (msixSend v
    d).vision = d.vision ∧ (msixSend v d).ts = d.ts ∧ (msixSend v d).dmem = d.dmem ∧ (msixSend v d).comp = d.comp ∧ (msixSend v d).ipm =
    d.ipm ∧ (msixSend v d).nvme = d.nvme ∧ (msixSend v d).tier = d.tier ∧ (msixSend v d).flt = d.flt ∧ (msixSend v d).neural = d.neural ∧
    (msixSend v d).card = d.card ∧ (msixSend v d).fusion = d.fusion ∧ (msixSend v d).solver = d.solver ∧ (msixSend v d).place = d.place ∧
    (msixSend v d).est = d.est ∧ (msixSend v d).spi = d.spi ∧ (msixSend v d).trust = d.trust ∧ (msixSend v d).fleet = d.fleet ∧ (msixSend
    v d).pw = d.pw ∧ (msixSend v d).kick = d.kick ∧ (msixSend v d).free = d.free :=
  (msixSend_only v d).fields

@[simp] theorem ev_fields (code sev : Nat) (b : Bytes) (d : Dev) :
    (ev code sev b d).now = d.now ∧ (ev code sev b d).part = d.part ∧ (ev code sev b d).start = d.start ∧ (ev code sev b d).vinUp =
    d.vinUp ∧ (ev code sev b d).resetLow = d.resetLow ∧ (ev code sev b d).tripped = d.tripped ∧ (ev code sev b d).resetEnd = d.resetEnd ∧
    (ev code sev b d).grade = d.grade ∧ (ev code sev b d).serial = d.serial ∧ (ev code sev b d).idleSince = d.idleSince ∧ (ev code sev b
    d).own = d.own ∧ (ev code sev b d).prof = d.prof ∧ (ev code sev b d).time = d.time ∧ (ev code sev b d).eth = d.eth ∧ (ev code sev b
    d).sens = d.sens ∧ (ev code sev b d).vision = d.vision ∧ (ev code sev b d).ts = d.ts ∧ (ev code sev b d).dmem = d.dmem ∧ (ev code sev
    b d).comp = d.comp ∧ (ev code sev b d).ipm = d.ipm ∧ (ev code sev b d).nvme = d.nvme ∧ (ev code sev b d).tier = d.tier ∧ (ev code sev
    b d).flt = d.flt ∧ (ev code sev b d).neural = d.neural ∧ (ev code sev b d).card = d.card ∧ (ev code sev b d).fusion = d.fusion ∧ (ev
    code sev b d).solver = d.solver ∧ (ev code sev b d).place = d.place ∧ (ev code sev b d).est = d.est ∧ (ev code sev b d).spi = d.spi ∧
    (ev code sev b d).trust = d.trust ∧ (ev code sev b d).fleet = d.fleet ∧ (ev code sev b d).pw = d.pw ∧ (ev code sev b d).kick = d.kick
    ∧ (ev code sev b d).free = d.free :=
  (ev_only code sev b d).fields

@[simp] theorem evFrom_fields (src unit code sev : Nat) (b : Bytes) (d : Dev) :
    (evFrom src unit code sev b d).now = d.now ∧ (evFrom src unit code sev b d).part = d.part ∧ (evFrom src unit code sev b d).start =
    d.start ∧ (evFrom src unit code sev b d).vinUp = d.vinUp ∧ (evFrom src unit code sev b d).resetLow = d.resetLow ∧ (evFrom src unit
    code sev b d).tripped = d.tripped ∧ (evFrom src unit code sev b d).resetEnd = d.resetEnd ∧ (evFrom src unit code sev b d).grade =
    d.grade ∧ (evFrom src unit code sev b d).serial = d.serial ∧ (evFrom src unit code sev b d).idleSince = d.idleSince ∧ (evFrom src unit
    code sev b d).own = d.own ∧ (evFrom src unit code sev b d).prof = d.prof ∧ (evFrom src unit code sev b d).time = d.time ∧ (evFrom src
    unit code sev b d).eth = d.eth ∧ (evFrom src unit code sev b d).sens = d.sens ∧ (evFrom src unit code sev b d).vision = d.vision ∧
    (evFrom src unit code sev b d).ts = d.ts ∧ (evFrom src unit code sev b d).dmem = d.dmem ∧ (evFrom src unit code sev b d).comp = d.comp
    ∧ (evFrom src unit code sev b d).ipm = d.ipm ∧ (evFrom src unit code sev b d).nvme = d.nvme ∧ (evFrom src unit code sev b d).tier =
    d.tier ∧ (evFrom src unit code sev b d).flt = d.flt ∧ (evFrom src unit code sev b d).neural = d.neural ∧ (evFrom src unit code sev b
    d).card = d.card ∧ (evFrom src unit code sev b d).fusion = d.fusion ∧ (evFrom src unit code sev b d).solver = d.solver ∧ (evFrom src
    unit code sev b d).place = d.place ∧ (evFrom src unit code sev b d).est = d.est ∧ (evFrom src unit code sev b d).spi = d.spi ∧ (evFrom
    src unit code sev b d).trust = d.trust ∧ (evFrom src unit code sev b d).fleet = d.fleet ∧ (evFrom src unit code sev b d).pw = d.pw ∧
    (evFrom src unit code sev b d).kick = d.kick ∧ (evFrom src unit code sev b d).free = d.free :=
  (evFrom_only src unit code sev b d).fields

@[simp] theorem coalesce_fields (n : Nat) (d : Dev) :
    (coalesce n d).now = d.now ∧ (coalesce n d).part = d.part ∧ (coalesce n d).start = d.start ∧ (coalesce n d).vinUp = d.vinUp ∧
    (coalesce n d).resetLow = d.resetLow ∧ (coalesce n d).tripped = d.tripped ∧ (coalesce n d).resetEnd = d.resetEnd ∧ (coalesce n
    d).grade = d.grade ∧ (coalesce n d).serial = d.serial ∧ (coalesce n d).idleSince = d.idleSince ∧ (coalesce n d).own = d.own ∧
    (coalesce n d).prof = d.prof ∧ (coalesce n d).time = d.time ∧ (coalesce n d).eth = d.eth ∧ (coalesce n d).sens = d.sens ∧ (coalesce n
    d).vision = d.vision ∧ (coalesce n d).ts = d.ts ∧ (coalesce n d).dmem = d.dmem ∧ (coalesce n d).comp = d.comp ∧ (coalesce n d).ipm =
    d.ipm ∧ (coalesce n d).nvme = d.nvme ∧ (coalesce n d).tier = d.tier ∧ (coalesce n d).flt = d.flt ∧ (coalesce n d).neural = d.neural ∧
    (coalesce n d).card = d.card ∧ (coalesce n d).fusion = d.fusion ∧ (coalesce n d).solver = d.solver ∧ (coalesce n d).place = d.place ∧
    (coalesce n d).est = d.est ∧ (coalesce n d).spi = d.spi ∧ (coalesce n d).trust = d.trust ∧ (coalesce n d).fleet = d.fleet ∧ (coalesce
    n d).pw = d.pw ∧ (coalesce n d).kick = d.kick ∧ (coalesce n d).free = d.free :=
  (coalesce_only n d).fields

@[simp] theorem cqAdvance_fields (n : Nat) (d : Dev) :
    (cqAdvance n d).now = d.now ∧ (cqAdvance n d).part = d.part ∧ (cqAdvance n d).start = d.start ∧ (cqAdvance n d).vinUp = d.vinUp ∧
    (cqAdvance n d).resetLow = d.resetLow ∧ (cqAdvance n d).tripped = d.tripped ∧ (cqAdvance n d).resetEnd = d.resetEnd ∧ (cqAdvance n
    d).grade = d.grade ∧ (cqAdvance n d).serial = d.serial ∧ (cqAdvance n d).idleSince = d.idleSince ∧ (cqAdvance n d).own = d.own ∧
    (cqAdvance n d).prof = d.prof ∧ (cqAdvance n d).time = d.time ∧ (cqAdvance n d).eth = d.eth ∧ (cqAdvance n d).sens = d.sens ∧
    (cqAdvance n d).vision = d.vision ∧ (cqAdvance n d).ts = d.ts ∧ (cqAdvance n d).dmem = d.dmem ∧ (cqAdvance n d).comp = d.comp ∧
    (cqAdvance n d).ipm = d.ipm ∧ (cqAdvance n d).nvme = d.nvme ∧ (cqAdvance n d).tier = d.tier ∧ (cqAdvance n d).flt = d.flt ∧ (cqAdvance
    n d).neural = d.neural ∧ (cqAdvance n d).card = d.card ∧ (cqAdvance n d).fusion = d.fusion ∧ (cqAdvance n d).solver = d.solver ∧
    (cqAdvance n d).place = d.place ∧ (cqAdvance n d).est = d.est ∧ (cqAdvance n d).spi = d.spi ∧ (cqAdvance n d).trust = d.trust ∧
    (cqAdvance n d).fleet = d.fleet ∧ (cqAdvance n d).pw = d.pw ∧ (cqAdvance n d).kick = d.kick ∧ (cqAdvance n d).free = d.free :=
  (cqAdvance_only n d).fields

@[simp] theorem streamRecord_fields (id tov : Nat) (same : Bool) (r : Bytes) (d : Dev) :
    (streamRecord id tov same r d).now = d.now ∧ (streamRecord id tov same r d).part = d.part ∧ (streamRecord id tov same r d).start =
    d.start ∧ (streamRecord id tov same r d).vinUp = d.vinUp ∧ (streamRecord id tov same r d).resetLow = d.resetLow ∧ (streamRecord id tov
    same r d).tripped = d.tripped ∧ (streamRecord id tov same r d).resetEnd = d.resetEnd ∧ (streamRecord id tov same r d).grade = d.grade
    ∧ (streamRecord id tov same r d).serial = d.serial ∧ (streamRecord id tov same r d).idleSince = d.idleSince ∧ (streamRecord id tov
    same r d).own = d.own ∧ (streamRecord id tov same r d).prof = d.prof ∧ (streamRecord id tov same r d).time = d.time ∧ (streamRecord id
    tov same r d).eth = d.eth ∧ (streamRecord id tov same r d).sens = d.sens ∧ (streamRecord id tov same r d).vision = d.vision ∧
    (streamRecord id tov same r d).ts = d.ts ∧ (streamRecord id tov same r d).dmem = d.dmem ∧ (streamRecord id tov same r d).comp = d.comp
    ∧ (streamRecord id tov same r d).ipm = d.ipm ∧ (streamRecord id tov same r d).nvme = d.nvme ∧ (streamRecord id tov same r d).tier =
    d.tier ∧ (streamRecord id tov same r d).flt = d.flt ∧ (streamRecord id tov same r d).neural = d.neural ∧ (streamRecord id tov same r
    d).card = d.card ∧ (streamRecord id tov same r d).fusion = d.fusion ∧ (streamRecord id tov same r d).solver = d.solver ∧ (streamRecord
    id tov same r d).place = d.place ∧ (streamRecord id tov same r d).est = d.est ∧ (streamRecord id tov same r d).spi = d.spi ∧
    (streamRecord id tov same r d).trust = d.trust ∧ (streamRecord id tov same r d).fleet = d.fleet ∧ (streamRecord id tov same r d).pw =
    d.pw ∧ (streamRecord id tov same r d).kick = d.kick ∧ (streamRecord id tov same r d).free = d.free :=
  (streamRecord_only id tov same r d).fields

/-- A fault changes the fault state and what speaks to the host. -/
theorem logFault_only (cls kind unit cause action detail : Nat) (d : Dev) :
    ({ d with flt := (logFault cls kind unit cause action detail d).flt } : Dev).HostOnly (logFault cls kind unit cause action detail d) := by
  simp only [logFault]
  split
  · have h := ev_only 0x0E01 1 (LogEntry.evDetail { time := d.tb64, cls, kind, unit, cause, action, detail })
    rw [h]
  · rfl

end Sys2Proof.Machine
end

