-- ==== Sys2Proof/Laws/Memory.lean ====
section
/-! SUPPORT. The memories of the model: every operation keeps their canonical form, a byte reads back as it was written, and every other
byte reads as before. -/

namespace Sys2Proof.Machine

/-- A canonical list without its first cell is canonical. -/
theorem memWf_tail {c : Host.Cell} {r : List Host.Cell} (h : Memory.wf (c :: r) = true) : Memory.wf r = true := by
  cases r with
  | nil => rfl
  | cons c' r => simp only [Memory.wf, Bool.and_eq_true] at h; exact h.2

/-- A cell may be put in front where it lies below the first and is not what an unlisted byte reads as. -/
theorem memWf_cons {c : Host.Cell} {r : List Host.Cell} (hc : c.2 ≠ memDefault) (hr : Memory.wf r = true) (hl : ∀ x ∈ r.head?, c.1 < x.1) :
    Memory.wf (c :: r) = true := by
  cases r with
  | nil => simpa [Memory.wf] using hc
  | cons c' r => simpa [Memory.wf, hc, hr] using hl c' rfl

/-- The first cell of a canonical list: not the default, and below the second. -/
theorem memWf_head {c : Host.Cell} {r : List Host.Cell} (h : Memory.wf (c :: r) = true) : c.2 ≠ memDefault ∧ ∀ x ∈ r.head?, c.1 < x.1 := by
  cases r with
  | nil => simpa [Memory.wf] using h
  | cons c' r =>
    simp only [Memory.wf, Bool.and_eq_true, bne_iff_ne, decide_eq_true_eq] at h
    exact ⟨h.1.1, fun x hx => by cases hx; exact h.1.2⟩

/-- Every cell of a canonical list lies above the first. -/
theorem memWf_above {c : Host.Cell} {r : List Host.Cell} (h : Memory.wf (c :: r) = true) : ∀ x ∈ r, c.1 < x.1 := by
  induction r generalizing c with
  | nil => simp
  | cons c' r ih =>
    have h1 := (memWf_head h).2 c' rfl
    intro x hx
    rcases List.mem_cons.1 hx with rfl | hx
    · exact h1
    · exact Nat.lt_trans h1 (ih (memWf_tail h) x hx)

/-- Below the first cell every byte reads as the default. -/
theorem memGet_below {m : List Host.Cell} {a : Nat} (h : ∀ x ∈ m, a < x.1) : memGet m a = memDefault := by
  have : m.find? (fun c => c.1 == a) = none := by
    rw [List.find?_eq_none]; intro x hx; have := h x hx; simp; omega
  rw [memGet, this]

/-- The first cell of what a write leaves is the written one or the one that was first. -/
theorem memPut_head (a : Nat) (b : Byte) (m : List Host.Cell) (hw : Memory.wf m = true) (k : Nat) (hk : k < a) (hm : ∀ x ∈ m.head?, k < x.1) :
    ∀ x ∈ (memPut a b m).head?, k < x.1 := by
  cases m with
  | nil =>
    intro x hx; simp only [memPut] at hx; split at hx
    · cases hx
    · cases hx; exact hk
  | cons c r =>
    have hc := hm c rfl
    intro x hx
    simp only [memPut] at hx
    split at hx
    · split at hx
      · cases hx; exact hc
      · cases hx; exact hk
    · split at hx
      · split at hx
        · cases r with
          | nil => cases hx
          | cons c' r => cases hx; exact Nat.lt_trans hc ((memWf_head hw).2 _ rfl)
        · cases hx; exact hk
      · cases hx; exact hc

/-- One byte written keeps the canonical form. -/
theorem memPut_wf (a : Nat) (b : Byte) (m : List Host.Cell) (hw : Memory.wf m = true) : Memory.wf (memPut a b m) = true := by
  induction m with
  | nil =>
    simp only [memPut]; split
    · rfl
    · simpa [Memory.wf]
  | cons c r ih =>
    have ht := memWf_tail hw
    have hh := memWf_head hw
    simp only [memPut]
    split
    · split
      · exact hw
      · exact memWf_cons (by assumption) hw fun x hx => by cases hx; assumption
    · split
      · split
        · exact ht
        · rename_i h1 h2 h3
          exact memWf_cons h3 ht fun x hx => by have := hh.2 x hx; show a < x.1; omega
      · rename_i h1 h2
        exact memWf_cons hh.1 (ih ht) (memPut_head a b r ht c.1 (by omega) hh.2)

/-- Bytes written keep the canonical form. -/
theorem memWrite_wf (a : Nat) (l : Bytes) (m : List Host.Cell) (hw : Memory.wf m = true) : Memory.wf (memWrite a l m) = true := by
  induction l generalizing a m with
  | nil => exact hw
  | cons b l ih => exact ih _ _ (memPut_wf a b m hw)

/-- What a byte reads as after one byte is written. -/
theorem memPut_get (a x : Nat) (b : Byte) (m : List Host.Cell) (hw : Memory.wf m = true) :
    memGet (memPut a b m) x = if x = a then b else memGet m x := by
  induction m with
  | nil =>
    simp only [memPut]
    by_cases hx : x = a
    · subst hx; split <;> simp_all [memGet]
    · have : (a == x) = false := by simp; omega
      split <;> simp [memGet, this]
  | cons c r ih =>
    have hu := memWf_above hw
    simp only [memPut]
    by_cases h1 : a < c.1
    · rw [if_pos h1]
      by_cases hx : x = a
      · subst hx
        have hd : memGet (c :: r) x = memDefault := memGet_below fun y hy => by
          rcases List.mem_cons.1 hy with rfl | hy
          · exact h1
          · exact Nat.lt_trans h1 (hu y hy)
        split
        · rename_i hb; rw [hd, if_pos rfl, hb]
        · simp [memGet]
      · have : (a == x) = false := by simp; omega
        split
        · simp
        · simp [memGet, this]
    · rw [if_neg h1]
      by_cases h2 : a = c.1
      · rw [if_pos h2]
        by_cases hx : x = a
        · subst hx
          split
          · rename_i hb; rw [if_pos rfl, hb, memGet_below fun y hy => h2 ▸ hu y hy]
          · simp [memGet]
        · have e : (a == x) = false := by simp; omega
          have e' : (c.1 == x) = false := by simp; omega
          split <;> simp [memGet, e, e']
      · rw [if_neg h2]
        have hi := ih (memWf_tail hw)
        by_cases hc : c.1 = x
        · have : x ≠ a := by omega
          simp [memGet, hc, this]
        · have e : (c.1 == x) = false := by simp [hc]
          simp only [memGet, List.find?_cons, e] at hi ⊢
          exact hi

/-- The host's memory stays canonical through the part's own writes. -/
theorem hostWrite_wf (a : Nat) (b : Bytes) (d : Dev) (h : Memory.wf d.hif.mem = true) : Memory.wf (hostWrite a b d).hif.mem = true := by
  unfold hostWrite
  split
  · exact memWrite_wf a b _ h
  · exact h

/-- The device memory stays canonical. -/
theorem dput_wf (a : Nat) (b : Bytes) (d : Dev) (h : Memory.wf d.dmem = true) : Memory.wf (d.dput a b).dmem = true := memWrite_wf a b _ h

/-- Both memories are canonical right after reset. -/
theorem reset_mem_wf : Memory.wf State.reset.dev.hif.mem = true ∧ Memory.wf State.reset.dev.dmem = true := ⟨rfl, rfl⟩

end Sys2Proof.Machine
end

