-- ==== Sys2Proof/Laws/State.lean ====
section
/-! SUPPORT. What each update of the part leaves as it was: for every update, one equation per field of the part that it does not touch
(and per field of the block it works in), each true by definition and used by simp, so that no proof unfolds a record update. The value
that an update gives its own field is a second lemma. -/

namespace Sys2Proof.Machine

@[simp] theorem Dev.emit_fields (d : Dev) (e : Emission) :
    (emit e d).now = d.now ∧ (emit e d).part = d.part ∧ (emit e d).start = d.start ∧ (emit e d).vinUp = d.vinUp ∧ (emit e d).resetLow =
    d.resetLow ∧ (emit e d).tripped = d.tripped ∧ (emit e d).resetEnd = d.resetEnd ∧ (emit e d).grade = d.grade ∧ (emit e d).serial =
    d.serial ∧ (emit e d).idleSince = d.idleSince ∧ (emit e d).hif = d.hif ∧ (emit e d).own = d.own ∧ (emit e d).prof = d.prof ∧ (emit e
    d).time = d.time ∧ (emit e d).eth = d.eth ∧ (emit e d).ethInt = d.ethInt ∧ (emit e d).sens = d.sens ∧ (emit e d).vision = d.vision ∧
    (emit e d).ts = d.ts ∧ (emit e d).dmem = d.dmem ∧ (emit e d).comp = d.comp ∧ (emit e d).ipm = d.ipm ∧ (emit e d).nvme = d.nvme ∧ (emit
    e d).tier = d.tier ∧ (emit e d).flt = d.flt ∧ (emit e d).neural = d.neural ∧ (emit e d).card = d.card ∧ (emit e d).fusion = d.fusion ∧
    (emit e d).solver = d.solver ∧ (emit e d).place = d.place ∧ (emit e d).est = d.est ∧ (emit e d).spi = d.spi ∧ (emit e d).trust =
    d.trust ∧ (emit e d).fleet = d.fleet ∧ (emit e d).pw = d.pw ∧ (emit e d).kick = d.kick ∧ (emit e d).free = d.free :=
  ⟨rfl, rfl, rfl, rfl, rfl, rfl, rfl, rfl, rfl, rfl, rfl, rfl, rfl, rfl, rfl, rfl, rfl, rfl, rfl, rfl, rfl, rfl, rfl, rfl, rfl, rfl, rfl,
    rfl, rfl, rfl, rfl, rfl, rfl, rfl, rfl, rfl, rfl⟩
@[simp] theorem Dev.emit_own (d : Dev) (e : Emission) : (emit e d).out = e :: d.out := rfl
@[simp] theorem Dev.useFree_fields (d : Dev) :
    (d.useFree).now = d.now ∧ (d.useFree).part = d.part ∧ (d.useFree).start = d.start ∧ (d.useFree).vinUp = d.vinUp ∧ (d.useFree).resetLow
    = d.resetLow ∧ (d.useFree).tripped = d.tripped ∧ (d.useFree).resetEnd = d.resetEnd ∧ (d.useFree).grade = d.grade ∧ (d.useFree).serial
    = d.serial ∧ (d.useFree).idleSince = d.idleSince ∧ (d.useFree).hif = d.hif ∧ (d.useFree).own = d.own ∧ (d.useFree).prof = d.prof ∧
    (d.useFree).time = d.time ∧ (d.useFree).eth = d.eth ∧ (d.useFree).ethInt = d.ethInt ∧ (d.useFree).sens = d.sens ∧ (d.useFree).vision =
    d.vision ∧ (d.useFree).ts = d.ts ∧ (d.useFree).dmem = d.dmem ∧ (d.useFree).comp = d.comp ∧ (d.useFree).ipm = d.ipm ∧ (d.useFree).nvme
    = d.nvme ∧ (d.useFree).tier = d.tier ∧ (d.useFree).flt = d.flt ∧ (d.useFree).neural = d.neural ∧ (d.useFree).card = d.card ∧
    (d.useFree).fusion = d.fusion ∧ (d.useFree).solver = d.solver ∧ (d.useFree).place = d.place ∧ (d.useFree).est = d.est ∧
    (d.useFree).spi = d.spi ∧ (d.useFree).trust = d.trust ∧ (d.useFree).fleet = d.fleet ∧ (d.useFree).pw = d.pw ∧ (d.useFree).out = d.out
    ∧ (d.useFree).kick = d.kick :=
  ⟨rfl, rfl, rfl, rfl, rfl, rfl, rfl, rfl, rfl, rfl, rfl, rfl, rfl, rfl, rfl, rfl, rfl, rfl, rfl, rfl, rfl, rfl, rfl, rfl, rfl, rfl, rfl,
    rfl, rfl, rfl, rfl, rfl, rfl, rfl, rfl, rfl, rfl⟩
@[simp] theorem Dev.useFree_own (d : Dev) : (d.useFree).free = d.free + 1 := rfl
@[simp] theorem Dev.setChan_fields (d : Dev) (c : Chan) (f : SubRing → SubRing) :
    (d.setChan c f).now = d.now ∧ (d.setChan c f).part = d.part ∧ (d.setChan c f).start = d.start ∧ (d.setChan c f).vinUp = d.vinUp ∧
    (d.setChan c f).resetLow = d.resetLow ∧ (d.setChan c f).tripped = d.tripped ∧ (d.setChan c f).resetEnd = d.resetEnd ∧ (d.setChan c
    f).grade = d.grade ∧ (d.setChan c f).serial = d.serial ∧ (d.setChan c f).idleSince = d.idleSince ∧ (d.setChan c f).own = d.own ∧
    (d.setChan c f).prof = d.prof ∧ (d.setChan c f).time = d.time ∧ (d.setChan c f).eth = d.eth ∧ (d.setChan c f).ethInt = d.ethInt ∧
    (d.setChan c f).sens = d.sens ∧ (d.setChan c f).vision = d.vision ∧ (d.setChan c f).ts = d.ts ∧ (d.setChan c f).dmem = d.dmem ∧
    (d.setChan c f).comp = d.comp ∧ (d.setChan c f).ipm = d.ipm ∧ (d.setChan c f).nvme = d.nvme ∧ (d.setChan c f).tier = d.tier ∧
    (d.setChan c f).flt = d.flt ∧ (d.setChan c f).neural = d.neural ∧ (d.setChan c f).card = d.card ∧ (d.setChan c f).fusion = d.fusion ∧
    (d.setChan c f).solver = d.solver ∧ (d.setChan c f).place = d.place ∧ (d.setChan c f).est = d.est ∧ (d.setChan c f).spi = d.spi ∧
    (d.setChan c f).trust = d.trust ∧ (d.setChan c f).fleet = d.fleet ∧ (d.setChan c f).pw = d.pw ∧ (d.setChan c f).out = d.out ∧
    (d.setChan c f).kick = d.kick ∧ (d.setChan c f).free = d.free ∧ (d.setChan c f).hif.cq = d.hif.cq ∧ (d.setChan c f).hif.smbus =
    d.hif.smbus ∧ (d.setChan c f).hif.evr = d.hif.evr ∧ (d.setChan c f).hif.evtPend = d.hif.evtPend ∧ (d.setChan c f).hif.dbInvalid =
    d.hif.dbInvalid ∧ (d.setChan c f).hif.notOwner = d.hif.notOwner ∧ (d.setChan c f).hif.evrLost = d.hif.evrLost ∧ (d.setChan c
    f).hif.streamDrop = d.hif.streamDrop ∧ (d.setChan c f).hif.frozen = d.hif.frozen ∧ (d.setChan c f).hif.streams = d.hif.streams ∧
    (d.setChan c f).hif.msix = d.hif.msix ∧ (d.setChan c f).hif.fetches = d.hif.fetches ∧ (d.setChan c f).hif.linkUp = d.hif.linkUp ∧
    (d.setChan c f).hif.busMaster = d.hif.busMaster ∧ (d.setChan c f).hif.crs = d.hif.crs ∧ (d.setChan c f).hif.perst = d.hif.perst ∧
    (d.setChan c f).hif.clkreq = d.hif.clkreq ∧ (d.setChan c f).hif.mem = d.hif.mem ∧ (d.setChan c f).hif.unreadable = d.hif.unreadable :=
  by cases c <;> exact ⟨rfl, rfl, rfl, rfl, rfl, rfl, rfl, rfl, rfl, rfl, rfl, rfl, rfl, rfl, rfl, rfl, rfl, rfl, rfl, rfl, rfl, rfl, rfl,
    rfl, rfl, rfl, rfl, rfl, rfl, rfl, rfl, rfl, rfl, rfl, rfl, rfl, rfl, rfl, rfl, rfl, rfl, rfl, rfl, rfl, rfl, rfl, rfl, rfl, rfl, rfl,
    rfl, rfl, rfl, rfl, rfl, rfl⟩
@[simp] theorem Dev.setCq_fields (d : Dev) (n : Nat) (f : CqRing → CqRing) :
    (d.setCq n f).now = d.now ∧ (d.setCq n f).part = d.part ∧ (d.setCq n f).start = d.start ∧ (d.setCq n f).vinUp = d.vinUp ∧ (d.setCq n
    f).resetLow = d.resetLow ∧ (d.setCq n f).tripped = d.tripped ∧ (d.setCq n f).resetEnd = d.resetEnd ∧ (d.setCq n f).grade = d.grade ∧
    (d.setCq n f).serial = d.serial ∧ (d.setCq n f).idleSince = d.idleSince ∧ (d.setCq n f).own = d.own ∧ (d.setCq n f).prof = d.prof ∧
    (d.setCq n f).time = d.time ∧ (d.setCq n f).eth = d.eth ∧ (d.setCq n f).ethInt = d.ethInt ∧ (d.setCq n f).sens = d.sens ∧ (d.setCq n
    f).vision = d.vision ∧ (d.setCq n f).ts = d.ts ∧ (d.setCq n f).dmem = d.dmem ∧ (d.setCq n f).comp = d.comp ∧ (d.setCq n f).ipm = d.ipm
    ∧ (d.setCq n f).nvme = d.nvme ∧ (d.setCq n f).tier = d.tier ∧ (d.setCq n f).flt = d.flt ∧ (d.setCq n f).neural = d.neural ∧ (d.setCq n
    f).card = d.card ∧ (d.setCq n f).fusion = d.fusion ∧ (d.setCq n f).solver = d.solver ∧ (d.setCq n f).place = d.place ∧ (d.setCq n
    f).est = d.est ∧ (d.setCq n f).spi = d.spi ∧ (d.setCq n f).trust = d.trust ∧ (d.setCq n f).fleet = d.fleet ∧ (d.setCq n f).pw = d.pw ∧
    (d.setCq n f).out = d.out ∧ (d.setCq n f).kick = d.kick ∧ (d.setCq n f).free = d.free ∧ (d.setCq n f).hif.sq = d.hif.sq ∧ (d.setCq n
    f).hif.i3c = d.hif.i3c ∧ (d.setCq n f).hif.smbus = d.hif.smbus ∧ (d.setCq n f).hif.safeSpi = d.hif.safeSpi ∧ (d.setCq n f).hif.net =
    d.hif.net ∧ (d.setCq n f).hif.evr = d.hif.evr ∧ (d.setCq n f).hif.evtPend = d.hif.evtPend ∧ (d.setCq n f).hif.dbInvalid =
    d.hif.dbInvalid ∧ (d.setCq n f).hif.notOwner = d.hif.notOwner ∧ (d.setCq n f).hif.evrLost = d.hif.evrLost ∧ (d.setCq n
    f).hif.streamDrop = d.hif.streamDrop ∧ (d.setCq n f).hif.frozen = d.hif.frozen ∧ (d.setCq n f).hif.streams = d.hif.streams ∧ (d.setCq
    n f).hif.msix = d.hif.msix ∧ (d.setCq n f).hif.fetches = d.hif.fetches ∧ (d.setCq n f).hif.linkUp = d.hif.linkUp ∧ (d.setCq n
    f).hif.busMaster = d.hif.busMaster ∧ (d.setCq n f).hif.crs = d.hif.crs ∧ (d.setCq n f).hif.perst = d.hif.perst ∧ (d.setCq n
    f).hif.clkreq = d.hif.clkreq ∧ (d.setCq n f).hif.mem = d.hif.mem ∧ (d.setCq n f).hif.unreadable = d.hif.unreadable :=
  ⟨rfl, rfl, rfl, rfl, rfl, rfl, rfl, rfl, rfl, rfl, rfl, rfl, rfl, rfl, rfl, rfl, rfl, rfl, rfl, rfl, rfl, rfl, rfl, rfl, rfl, rfl, rfl,
    rfl, rfl, rfl, rfl, rfl, rfl, rfl, rfl, rfl, rfl, rfl, rfl, rfl, rfl, rfl, rfl, rfl, rfl, rfl, rfl, rfl, rfl, rfl, rfl, rfl, rfl, rfl,
    rfl, rfl, rfl, rfl, rfl⟩
@[simp] theorem Dev.setCq_own (d : Dev) (n : Nat) (f : CqRing → CqRing) : (d.setCq n f).hif.cq = upd d.hif.cq n f := rfl
@[simp] theorem Dev.setStream_fields (d : Dev) (s : Stream) :
    (d.setStream s).now = d.now ∧ (d.setStream s).part = d.part ∧ (d.setStream s).start = d.start ∧ (d.setStream s).vinUp = d.vinUp ∧
    (d.setStream s).resetLow = d.resetLow ∧ (d.setStream s).tripped = d.tripped ∧ (d.setStream s).resetEnd = d.resetEnd ∧ (d.setStream
    s).grade = d.grade ∧ (d.setStream s).serial = d.serial ∧ (d.setStream s).idleSince = d.idleSince ∧ (d.setStream s).own = d.own ∧
    (d.setStream s).prof = d.prof ∧ (d.setStream s).time = d.time ∧ (d.setStream s).eth = d.eth ∧ (d.setStream s).ethInt = d.ethInt ∧
    (d.setStream s).sens = d.sens ∧ (d.setStream s).vision = d.vision ∧ (d.setStream s).ts = d.ts ∧ (d.setStream s).dmem = d.dmem ∧
    (d.setStream s).comp = d.comp ∧ (d.setStream s).ipm = d.ipm ∧ (d.setStream s).nvme = d.nvme ∧ (d.setStream s).tier = d.tier ∧
    (d.setStream s).flt = d.flt ∧ (d.setStream s).neural = d.neural ∧ (d.setStream s).card = d.card ∧ (d.setStream s).fusion = d.fusion ∧
    (d.setStream s).solver = d.solver ∧ (d.setStream s).place = d.place ∧ (d.setStream s).est = d.est ∧ (d.setStream s).spi = d.spi ∧
    (d.setStream s).trust = d.trust ∧ (d.setStream s).fleet = d.fleet ∧ (d.setStream s).pw = d.pw ∧ (d.setStream s).out = d.out ∧
    (d.setStream s).kick = d.kick ∧ (d.setStream s).free = d.free ∧ (d.setStream s).hif.sq = d.hif.sq ∧ (d.setStream s).hif.cq = d.hif.cq
    ∧ (d.setStream s).hif.i3c = d.hif.i3c ∧ (d.setStream s).hif.smbus = d.hif.smbus ∧ (d.setStream s).hif.safeSpi = d.hif.safeSpi ∧
    (d.setStream s).hif.net = d.hif.net ∧ (d.setStream s).hif.evr = d.hif.evr ∧ (d.setStream s).hif.evtPend = d.hif.evtPend ∧ (d.setStream
    s).hif.dbInvalid = d.hif.dbInvalid ∧ (d.setStream s).hif.notOwner = d.hif.notOwner ∧ (d.setStream s).hif.evrLost = d.hif.evrLost ∧
    (d.setStream s).hif.streamDrop = d.hif.streamDrop ∧ (d.setStream s).hif.frozen = d.hif.frozen ∧ (d.setStream s).hif.msix = d.hif.msix
    ∧ (d.setStream s).hif.fetches = d.hif.fetches ∧ (d.setStream s).hif.linkUp = d.hif.linkUp ∧ (d.setStream s).hif.busMaster =
    d.hif.busMaster ∧ (d.setStream s).hif.crs = d.hif.crs ∧ (d.setStream s).hif.perst = d.hif.perst ∧ (d.setStream s).hif.clkreq =
    d.hif.clkreq ∧ (d.setStream s).hif.mem = d.hif.mem ∧ (d.setStream s).hif.unreadable = d.hif.unreadable :=
  ⟨rfl, rfl, rfl, rfl, rfl, rfl, rfl, rfl, rfl, rfl, rfl, rfl, rfl, rfl, rfl, rfl, rfl, rfl, rfl, rfl, rfl, rfl, rfl, rfl, rfl, rfl, rfl,
    rfl, rfl, rfl, rfl, rfl, rfl, rfl, rfl, rfl, rfl, rfl, rfl, rfl, rfl, rfl, rfl, rfl, rfl, rfl, rfl, rfl, rfl, rfl, rfl, rfl, rfl, rfl,
    rfl, rfl, rfl, rfl, rfl⟩
@[simp] theorem Dev.setStream_own (d : Dev) (s : Stream) : (d.setStream s).hif.streams = s :: d.hif.streams.filter fun x => x.id != s.id := rfl
@[simp] theorem Dev.setTrk_fields (d : Dev) (k : Nat) (f : Track → Track) :
    (d.setTrk k f).now = d.now ∧ (d.setTrk k f).part = d.part ∧ (d.setTrk k f).start = d.start ∧ (d.setTrk k f).vinUp = d.vinUp ∧
    (d.setTrk k f).resetLow = d.resetLow ∧ (d.setTrk k f).tripped = d.tripped ∧ (d.setTrk k f).resetEnd = d.resetEnd ∧ (d.setTrk k
    f).grade = d.grade ∧ (d.setTrk k f).serial = d.serial ∧ (d.setTrk k f).idleSince = d.idleSince ∧ (d.setTrk k f).hif = d.hif ∧
    (d.setTrk k f).own = d.own ∧ (d.setTrk k f).prof = d.prof ∧ (d.setTrk k f).eth = d.eth ∧ (d.setTrk k f).ethInt = d.ethInt ∧ (d.setTrk
    k f).sens = d.sens ∧ (d.setTrk k f).vision = d.vision ∧ (d.setTrk k f).ts = d.ts ∧ (d.setTrk k f).dmem = d.dmem ∧ (d.setTrk k f).comp
    = d.comp ∧ (d.setTrk k f).ipm = d.ipm ∧ (d.setTrk k f).nvme = d.nvme ∧ (d.setTrk k f).tier = d.tier ∧ (d.setTrk k f).flt = d.flt ∧
    (d.setTrk k f).neural = d.neural ∧ (d.setTrk k f).card = d.card ∧ (d.setTrk k f).fusion = d.fusion ∧ (d.setTrk k f).solver = d.solver
    ∧ (d.setTrk k f).place = d.place ∧ (d.setTrk k f).est = d.est ∧ (d.setTrk k f).spi = d.spi ∧ (d.setTrk k f).trust = d.trust ∧
    (d.setTrk k f).fleet = d.fleet ∧ (d.setTrk k f).pw = d.pw ∧ (d.setTrk k f).out = d.out ∧ (d.setTrk k f).kick = d.kick ∧ (d.setTrk k
    f).free = d.free ∧ (d.setTrk k f).time.st = d.time.st ∧ (d.setTrk k f).time.running = d.time.running ∧ (d.setTrk k f).time.tb =
    d.time.tb ∧ (d.setTrk k f).time.mono = d.time.mono ∧ (d.setTrk k f).time.tbFrac = d.time.tbFrac ∧ (d.setTrk k f).time.slewFrac =
    d.time.slewFrac ∧ (d.setTrk k f).time.freq = d.time.freq ∧ (d.setTrk k f).time.slew = d.time.slew ∧ (d.setTrk k f).time.sel =
    d.time.sel ∧ (d.setTrk k f).time.auto = d.time.auto ∧ (d.setTrk k f).time.slewPpb = d.time.slewPpb ∧ (d.setTrk k f).time.stepLimitUs =
    d.time.stepLimitUs ∧ (d.setTrk k f).time.holdMaxS = d.time.holdMaxS ∧ (d.setTrk k f).time.holdSince = d.time.holdSince ∧ (d.setTrk k
    f).time.holdE0 = d.time.holdE0 ∧ (d.setTrk k f).time.holdT0 = d.time.holdT0 ∧ (d.setTrk k f).time.holdInt = d.time.holdInt ∧ (d.setTrk
    k f).time.holdErr = d.time.holdErr ∧ (d.setTrk k f).time.holdErrAt = d.time.holdErrAt ∧ (d.setTrk k f).time.holdGnss = d.time.holdGnss
    ∧ (d.setTrk k f).time.tolUs = d.time.tolUs ∧ (d.setTrk k f).time.late = d.time.late ∧ (d.setTrk k f).time.cableNs = d.time.cableNs ∧
    (d.setTrk k f).time.widthMs = d.time.widthMs ∧ (d.setTrk k f).time.latch = d.time.latch ∧ (d.setTrk k f).time.frozen = d.time.frozen ∧
    (d.setTrk k f).time.tmr = d.time.tmr ∧ (d.setTrk k f).time.ppsLast = d.time.ppsLast ∧ (d.setTrk k f).time.ppsSent = d.time.ppsSent ∧
    (d.setTrk k f).time.ppsEnd = d.time.ppsEnd ∧ (d.setTrk k f).time.tempRef = d.time.tempRef :=
  ⟨rfl, rfl, rfl, rfl, rfl, rfl, rfl, rfl, rfl, rfl, rfl, rfl, rfl, rfl, rfl, rfl, rfl, rfl, rfl, rfl, rfl, rfl, rfl, rfl, rfl, rfl, rfl,
    rfl, rfl, rfl, rfl, rfl, rfl, rfl, rfl, rfl, rfl, rfl, rfl, rfl, rfl, rfl, rfl, rfl, rfl, rfl, rfl, rfl, rfl, rfl, rfl, rfl, rfl, rfl,
    rfl, rfl, rfl, rfl, rfl, rfl, rfl, rfl, rfl, rfl, rfl, rfl, rfl, rfl⟩
@[simp] theorem Dev.setTrk_own (d : Dev) (k : Nat) (f : Track → Track) : (d.setTrk k f).time.trk = upd d.time.trk k f := rfl
@[simp] theorem Dev.setPin_fields (d : Dev) (n : Nat) (f : TmrPin → TmrPin) :
    (d.setPin n f).now = d.now ∧ (d.setPin n f).part = d.part ∧ (d.setPin n f).start = d.start ∧ (d.setPin n f).vinUp = d.vinUp ∧
    (d.setPin n f).resetLow = d.resetLow ∧ (d.setPin n f).tripped = d.tripped ∧ (d.setPin n f).resetEnd = d.resetEnd ∧ (d.setPin n
    f).grade = d.grade ∧ (d.setPin n f).serial = d.serial ∧ (d.setPin n f).idleSince = d.idleSince ∧ (d.setPin n f).hif = d.hif ∧
    (d.setPin n f).own = d.own ∧ (d.setPin n f).prof = d.prof ∧ (d.setPin n f).eth = d.eth ∧ (d.setPin n f).ethInt = d.ethInt ∧ (d.setPin
    n f).sens = d.sens ∧ (d.setPin n f).vision = d.vision ∧ (d.setPin n f).ts = d.ts ∧ (d.setPin n f).dmem = d.dmem ∧ (d.setPin n f).comp
    = d.comp ∧ (d.setPin n f).ipm = d.ipm ∧ (d.setPin n f).nvme = d.nvme ∧ (d.setPin n f).tier = d.tier ∧ (d.setPin n f).flt = d.flt ∧
    (d.setPin n f).neural = d.neural ∧ (d.setPin n f).card = d.card ∧ (d.setPin n f).fusion = d.fusion ∧ (d.setPin n f).solver = d.solver
    ∧ (d.setPin n f).place = d.place ∧ (d.setPin n f).est = d.est ∧ (d.setPin n f).spi = d.spi ∧ (d.setPin n f).trust = d.trust ∧
    (d.setPin n f).fleet = d.fleet ∧ (d.setPin n f).pw = d.pw ∧ (d.setPin n f).out = d.out ∧ (d.setPin n f).kick = d.kick ∧ (d.setPin n
    f).free = d.free ∧ (d.setPin n f).time.st = d.time.st ∧ (d.setPin n f).time.running = d.time.running ∧ (d.setPin n f).time.tb =
    d.time.tb ∧ (d.setPin n f).time.mono = d.time.mono ∧ (d.setPin n f).time.tbFrac = d.time.tbFrac ∧ (d.setPin n f).time.slewFrac =
    d.time.slewFrac ∧ (d.setPin n f).time.freq = d.time.freq ∧ (d.setPin n f).time.slew = d.time.slew ∧ (d.setPin n f).time.sel =
    d.time.sel ∧ (d.setPin n f).time.auto = d.time.auto ∧ (d.setPin n f).time.slewPpb = d.time.slewPpb ∧ (d.setPin n f).time.stepLimitUs =
    d.time.stepLimitUs ∧ (d.setPin n f).time.holdMaxS = d.time.holdMaxS ∧ (d.setPin n f).time.holdSince = d.time.holdSince ∧ (d.setPin n
    f).time.holdE0 = d.time.holdE0 ∧ (d.setPin n f).time.holdT0 = d.time.holdT0 ∧ (d.setPin n f).time.holdInt = d.time.holdInt ∧ (d.setPin
    n f).time.holdErr = d.time.holdErr ∧ (d.setPin n f).time.holdErrAt = d.time.holdErrAt ∧ (d.setPin n f).time.holdGnss = d.time.holdGnss
    ∧ (d.setPin n f).time.tolUs = d.time.tolUs ∧ (d.setPin n f).time.late = d.time.late ∧ (d.setPin n f).time.cableNs = d.time.cableNs ∧
    (d.setPin n f).time.widthMs = d.time.widthMs ∧ (d.setPin n f).time.latch = d.time.latch ∧ (d.setPin n f).time.frozen = d.time.frozen ∧
    (d.setPin n f).time.trk = d.time.trk ∧ (d.setPin n f).time.ppsLast = d.time.ppsLast ∧ (d.setPin n f).time.ppsSent = d.time.ppsSent ∧
    (d.setPin n f).time.ppsEnd = d.time.ppsEnd ∧ (d.setPin n f).time.tempRef = d.time.tempRef :=
  ⟨rfl, rfl, rfl, rfl, rfl, rfl, rfl, rfl, rfl, rfl, rfl, rfl, rfl, rfl, rfl, rfl, rfl, rfl, rfl, rfl, rfl, rfl, rfl, rfl, rfl, rfl, rfl,
    rfl, rfl, rfl, rfl, rfl, rfl, rfl, rfl, rfl, rfl, rfl, rfl, rfl, rfl, rfl, rfl, rfl, rfl, rfl, rfl, rfl, rfl, rfl, rfl, rfl, rfl, rfl,
    rfl, rfl, rfl, rfl, rfl, rfl, rfl, rfl, rfl, rfl, rfl, rfl, rfl, rfl⟩
@[simp] theorem Dev.setPin_own (d : Dev) (n : Nat) (f : TmrPin → TmrPin) : (d.setPin n f).time.tmr = upd d.time.tmr n f := rfl
@[simp] theorem Dev.setSensor_fields (d : Dev) (i : Nat) (f : Sensor → Sensor) :
    (d.setSensor i f).now = d.now ∧ (d.setSensor i f).part = d.part ∧ (d.setSensor i f).start = d.start ∧ (d.setSensor i f).vinUp =
    d.vinUp ∧ (d.setSensor i f).resetLow = d.resetLow ∧ (d.setSensor i f).tripped = d.tripped ∧ (d.setSensor i f).resetEnd = d.resetEnd ∧
    (d.setSensor i f).grade = d.grade ∧ (d.setSensor i f).serial = d.serial ∧ (d.setSensor i f).idleSince = d.idleSince ∧ (d.setSensor i
    f).hif = d.hif ∧ (d.setSensor i f).own = d.own ∧ (d.setSensor i f).prof = d.prof ∧ (d.setSensor i f).time = d.time ∧ (d.setSensor i
    f).eth = d.eth ∧ (d.setSensor i f).ethInt = d.ethInt ∧ (d.setSensor i f).vision = d.vision ∧ (d.setSensor i f).ts = d.ts ∧
    (d.setSensor i f).dmem = d.dmem ∧ (d.setSensor i f).comp = d.comp ∧ (d.setSensor i f).ipm = d.ipm ∧ (d.setSensor i f).nvme = d.nvme ∧
    (d.setSensor i f).tier = d.tier ∧ (d.setSensor i f).flt = d.flt ∧ (d.setSensor i f).neural = d.neural ∧ (d.setSensor i f).card =
    d.card ∧ (d.setSensor i f).fusion = d.fusion ∧ (d.setSensor i f).solver = d.solver ∧ (d.setSensor i f).place = d.place ∧ (d.setSensor
    i f).est = d.est ∧ (d.setSensor i f).spi = d.spi ∧ (d.setSensor i f).trust = d.trust ∧ (d.setSensor i f).fleet = d.fleet ∧
    (d.setSensor i f).pw = d.pw ∧ (d.setSensor i f).out = d.out ∧ (d.setSensor i f).kick = d.kick ∧ (d.setSensor i f).free = d.free ∧
    (d.setSensor i f).sens.csi = d.sens.csi ∧ (d.setSensor i f).sens.imu = d.sens.imu ∧ (d.setSensor i f).sens.can = d.sens.can ∧
    (d.setSensor i f).sens.gnssBaud = d.sens.gnssBaud ∧ (d.setSensor i f).sens.leapS = d.sens.leapS ∧ (d.setSensor i f).sens.sentences =
    d.sens.sentences ∧ (d.setSensor i f).sens.checksumErr = d.sens.checksumErr ∧ (d.setSensor i f).sens.ppsUnlabelled =
    d.sens.ppsUnlabelled ∧ (d.setSensor i f).sens.dated = d.sens.dated ∧ (d.setSensor i f).sens.gnssTx = d.sens.gnssTx ∧ (d.setSensor i
    f).sens.meas = d.sens.meas ∧ (d.setSensor i f).sens.frozen = d.sens.frozen :=
  ⟨rfl, rfl, rfl, rfl, rfl, rfl, rfl, rfl, rfl, rfl, rfl, rfl, rfl, rfl, rfl, rfl, rfl, rfl, rfl, rfl, rfl, rfl, rfl, rfl, rfl, rfl, rfl,
    rfl, rfl, rfl, rfl, rfl, rfl, rfl, rfl, rfl, rfl, rfl, rfl, rfl, rfl, rfl, rfl, rfl, rfl, rfl, rfl, rfl, rfl⟩
@[simp] theorem Dev.setSensor_own (d : Dev) (i : Nat) (f : Sensor → Sensor) : (d.setSensor i f).sens.s = upd d.sens.s i f := rfl
@[simp] theorem Dev.setCsi_fields (d : Dev) (p : Nat) (f : CsiPort → CsiPort) :
    (d.setCsi p f).now = d.now ∧ (d.setCsi p f).part = d.part ∧ (d.setCsi p f).start = d.start ∧ (d.setCsi p f).vinUp = d.vinUp ∧
    (d.setCsi p f).resetLow = d.resetLow ∧ (d.setCsi p f).tripped = d.tripped ∧ (d.setCsi p f).resetEnd = d.resetEnd ∧ (d.setCsi p
    f).grade = d.grade ∧ (d.setCsi p f).serial = d.serial ∧ (d.setCsi p f).idleSince = d.idleSince ∧ (d.setCsi p f).hif = d.hif ∧
    (d.setCsi p f).own = d.own ∧ (d.setCsi p f).prof = d.prof ∧ (d.setCsi p f).time = d.time ∧ (d.setCsi p f).eth = d.eth ∧ (d.setCsi p
    f).ethInt = d.ethInt ∧ (d.setCsi p f).vision = d.vision ∧ (d.setCsi p f).ts = d.ts ∧ (d.setCsi p f).dmem = d.dmem ∧ (d.setCsi p
    f).comp = d.comp ∧ (d.setCsi p f).ipm = d.ipm ∧ (d.setCsi p f).nvme = d.nvme ∧ (d.setCsi p f).tier = d.tier ∧ (d.setCsi p f).flt =
    d.flt ∧ (d.setCsi p f).neural = d.neural ∧ (d.setCsi p f).card = d.card ∧ (d.setCsi p f).fusion = d.fusion ∧ (d.setCsi p f).solver =
    d.solver ∧ (d.setCsi p f).place = d.place ∧ (d.setCsi p f).est = d.est ∧ (d.setCsi p f).spi = d.spi ∧ (d.setCsi p f).trust = d.trust ∧
    (d.setCsi p f).fleet = d.fleet ∧ (d.setCsi p f).pw = d.pw ∧ (d.setCsi p f).out = d.out ∧ (d.setCsi p f).kick = d.kick ∧ (d.setCsi p
    f).free = d.free ∧ (d.setCsi p f).sens.s = d.sens.s ∧ (d.setCsi p f).sens.imu = d.sens.imu ∧ (d.setCsi p f).sens.can = d.sens.can ∧
    (d.setCsi p f).sens.gnssBaud = d.sens.gnssBaud ∧ (d.setCsi p f).sens.leapS = d.sens.leapS ∧ (d.setCsi p f).sens.sentences =
    d.sens.sentences ∧ (d.setCsi p f).sens.checksumErr = d.sens.checksumErr ∧ (d.setCsi p f).sens.ppsUnlabelled = d.sens.ppsUnlabelled ∧
    (d.setCsi p f).sens.dated = d.sens.dated ∧ (d.setCsi p f).sens.gnssTx = d.sens.gnssTx ∧ (d.setCsi p f).sens.meas = d.sens.meas ∧
    (d.setCsi p f).sens.frozen = d.sens.frozen :=
  ⟨rfl, rfl, rfl, rfl, rfl, rfl, rfl, rfl, rfl, rfl, rfl, rfl, rfl, rfl, rfl, rfl, rfl, rfl, rfl, rfl, rfl, rfl, rfl, rfl, rfl, rfl, rfl,
    rfl, rfl, rfl, rfl, rfl, rfl, rfl, rfl, rfl, rfl, rfl, rfl, rfl, rfl, rfl, rfl, rfl, rfl, rfl, rfl, rfl, rfl⟩
@[simp] theorem Dev.setCsi_own (d : Dev) (p : Nat) (f : CsiPort → CsiPort) : (d.setCsi p f).sens.csi = upd d.sens.csi p f := rfl
@[simp] theorem Dev.setVp_fields (d : Dev) (p : Nat) (f : VpPipe → VpPipe) :
    (d.setVp p f).now = d.now ∧ (d.setVp p f).part = d.part ∧ (d.setVp p f).start = d.start ∧ (d.setVp p f).vinUp = d.vinUp ∧ (d.setVp p
    f).resetLow = d.resetLow ∧ (d.setVp p f).tripped = d.tripped ∧ (d.setVp p f).resetEnd = d.resetEnd ∧ (d.setVp p f).grade = d.grade ∧
    (d.setVp p f).serial = d.serial ∧ (d.setVp p f).idleSince = d.idleSince ∧ (d.setVp p f).hif = d.hif ∧ (d.setVp p f).own = d.own ∧
    (d.setVp p f).prof = d.prof ∧ (d.setVp p f).time = d.time ∧ (d.setVp p f).eth = d.eth ∧ (d.setVp p f).ethInt = d.ethInt ∧ (d.setVp p
    f).sens = d.sens ∧ (d.setVp p f).ts = d.ts ∧ (d.setVp p f).dmem = d.dmem ∧ (d.setVp p f).comp = d.comp ∧ (d.setVp p f).ipm = d.ipm ∧
    (d.setVp p f).nvme = d.nvme ∧ (d.setVp p f).tier = d.tier ∧ (d.setVp p f).flt = d.flt ∧ (d.setVp p f).neural = d.neural ∧ (d.setVp p
    f).card = d.card ∧ (d.setVp p f).fusion = d.fusion ∧ (d.setVp p f).solver = d.solver ∧ (d.setVp p f).place = d.place ∧ (d.setVp p
    f).est = d.est ∧ (d.setVp p f).spi = d.spi ∧ (d.setVp p f).trust = d.trust ∧ (d.setVp p f).fleet = d.fleet ∧ (d.setVp p f).pw = d.pw ∧
    (d.setVp p f).out = d.out ∧ (d.setVp p f).kick = d.kick ∧ (d.setVp p f).free = d.free ∧ (d.setVp p f).vision.ring = d.vision.ring ∧
    (d.setVp p f).vision.tables = d.vision.tables ∧ (d.setVp p f).vision.jobs = d.vision.jobs :=
  ⟨rfl, rfl, rfl, rfl, rfl, rfl, rfl, rfl, rfl, rfl, rfl, rfl, rfl, rfl, rfl, rfl, rfl, rfl, rfl, rfl, rfl, rfl, rfl, rfl, rfl, rfl, rfl,
    rfl, rfl, rfl, rfl, rfl, rfl, rfl, rfl, rfl, rfl, rfl, rfl, rfl⟩
@[simp] theorem Dev.setVp_own (d : Dev) (p : Nat) (f : VpPipe → VpPipe) : (d.setVp p f).vision.pipe = upd d.vision.pipe p f := rfl
@[simp] theorem Dev.setRing_fields (d : Dev) (i : Nat) (f : VpRing → VpRing) :
    (d.setRing i f).now = d.now ∧ (d.setRing i f).part = d.part ∧ (d.setRing i f).start = d.start ∧ (d.setRing i f).vinUp = d.vinUp ∧
    (d.setRing i f).resetLow = d.resetLow ∧ (d.setRing i f).tripped = d.tripped ∧ (d.setRing i f).resetEnd = d.resetEnd ∧ (d.setRing i
    f).grade = d.grade ∧ (d.setRing i f).serial = d.serial ∧ (d.setRing i f).idleSince = d.idleSince ∧ (d.setRing i f).hif = d.hif ∧
    (d.setRing i f).own = d.own ∧ (d.setRing i f).prof = d.prof ∧ (d.setRing i f).time = d.time ∧ (d.setRing i f).eth = d.eth ∧ (d.setRing
    i f).ethInt = d.ethInt ∧ (d.setRing i f).sens = d.sens ∧ (d.setRing i f).ts = d.ts ∧ (d.setRing i f).dmem = d.dmem ∧ (d.setRing i
    f).comp = d.comp ∧ (d.setRing i f).ipm = d.ipm ∧ (d.setRing i f).nvme = d.nvme ∧ (d.setRing i f).tier = d.tier ∧ (d.setRing i f).flt =
    d.flt ∧ (d.setRing i f).neural = d.neural ∧ (d.setRing i f).card = d.card ∧ (d.setRing i f).fusion = d.fusion ∧ (d.setRing i f).solver
    = d.solver ∧ (d.setRing i f).place = d.place ∧ (d.setRing i f).est = d.est ∧ (d.setRing i f).spi = d.spi ∧ (d.setRing i f).trust =
    d.trust ∧ (d.setRing i f).fleet = d.fleet ∧ (d.setRing i f).pw = d.pw ∧ (d.setRing i f).out = d.out ∧ (d.setRing i f).kick = d.kick ∧
    (d.setRing i f).free = d.free ∧ (d.setRing i f).vision.pipe = d.vision.pipe ∧ (d.setRing i f).vision.tables = d.vision.tables ∧
    (d.setRing i f).vision.jobs = d.vision.jobs :=
  ⟨rfl, rfl, rfl, rfl, rfl, rfl, rfl, rfl, rfl, rfl, rfl, rfl, rfl, rfl, rfl, rfl, rfl, rfl, rfl, rfl, rfl, rfl, rfl, rfl, rfl, rfl, rfl,
    rfl, rfl, rfl, rfl, rfl, rfl, rfl, rfl, rfl, rfl, rfl, rfl, rfl⟩
@[simp] theorem Dev.setRing_own (d : Dev) (i : Nat) (f : VpRing → VpRing) : (d.setRing i f).vision.ring = upd d.vision.ring i f := rfl
@[simp] theorem Dev.setClus_fields (d : Dev) (c : Nat) (f : Cluster → Cluster) :
    (d.setClus c f).now = d.now ∧ (d.setClus c f).part = d.part ∧ (d.setClus c f).start = d.start ∧ (d.setClus c f).vinUp = d.vinUp ∧
    (d.setClus c f).resetLow = d.resetLow ∧ (d.setClus c f).tripped = d.tripped ∧ (d.setClus c f).resetEnd = d.resetEnd ∧ (d.setClus c
    f).grade = d.grade ∧ (d.setClus c f).serial = d.serial ∧ (d.setClus c f).idleSince = d.idleSince ∧ (d.setClus c f).hif = d.hif ∧
    (d.setClus c f).own = d.own ∧ (d.setClus c f).prof = d.prof ∧ (d.setClus c f).time = d.time ∧ (d.setClus c f).eth = d.eth ∧ (d.setClus
    c f).ethInt = d.ethInt ∧ (d.setClus c f).sens = d.sens ∧ (d.setClus c f).vision = d.vision ∧ (d.setClus c f).ts = d.ts ∧ (d.setClus c
    f).dmem = d.dmem ∧ (d.setClus c f).ipm = d.ipm ∧ (d.setClus c f).nvme = d.nvme ∧ (d.setClus c f).tier = d.tier ∧ (d.setClus c f).flt =
    d.flt ∧ (d.setClus c f).neural = d.neural ∧ (d.setClus c f).card = d.card ∧ (d.setClus c f).fusion = d.fusion ∧ (d.setClus c f).solver
    = d.solver ∧ (d.setClus c f).place = d.place ∧ (d.setClus c f).est = d.est ∧ (d.setClus c f).spi = d.spi ∧ (d.setClus c f).trust =
    d.trust ∧ (d.setClus c f).fleet = d.fleet ∧ (d.setClus c f).pw = d.pw ∧ (d.setClus c f).out = d.out ∧ (d.setClus c f).kick = d.kick ∧
    (d.setClus c f).free = d.free ∧ (d.setClus c f).comp.tasks = d.comp.tasks ∧ (d.setClus c f).comp.works = d.comp.works ∧ (d.setClus c
    f).comp.nextId = d.comp.nextId ∧ (d.setClus c f).comp.dir = d.comp.dir ∧ (d.setClus c f).comp.net = d.comp.net ∧ (d.setClus c
    f).comp.rounds = d.comp.rounds ∧ (d.setClus c f).comp.results = d.comp.results ∧ (d.setClus c f).comp.ranged = d.comp.ranged ∧
    (d.setClus c f).comp.notes = d.comp.notes ∧ (d.setClus c f).comp.copyq = d.comp.copyq ∧ (d.setClus c f).comp.epochs = d.comp.epochs :=
  ⟨rfl, rfl, rfl, rfl, rfl, rfl, rfl, rfl, rfl, rfl, rfl, rfl, rfl, rfl, rfl, rfl, rfl, rfl, rfl, rfl, rfl, rfl, rfl, rfl, rfl, rfl, rfl,
    rfl, rfl, rfl, rfl, rfl, rfl, rfl, rfl, rfl, rfl, rfl, rfl, rfl, rfl, rfl, rfl, rfl, rfl, rfl, rfl, rfl⟩
@[simp] theorem Dev.setClus_own (d : Dev) (c : Nat) (f : Cluster → Cluster) : (d.setClus c f).comp.cl = upd d.comp.cl c f := rfl
@[simp] theorem Dev.setEng_fields (d : Dev) (c e : Nat) (f : Engine → Engine) :
    (d.setEng c e f).now = d.now ∧ (d.setEng c e f).part = d.part ∧ (d.setEng c e f).start = d.start ∧ (d.setEng c e f).vinUp = d.vinUp ∧
    (d.setEng c e f).resetLow = d.resetLow ∧ (d.setEng c e f).tripped = d.tripped ∧ (d.setEng c e f).resetEnd = d.resetEnd ∧ (d.setEng c e
    f).grade = d.grade ∧ (d.setEng c e f).serial = d.serial ∧ (d.setEng c e f).idleSince = d.idleSince ∧ (d.setEng c e f).hif = d.hif ∧
    (d.setEng c e f).own = d.own ∧ (d.setEng c e f).prof = d.prof ∧ (d.setEng c e f).time = d.time ∧ (d.setEng c e f).eth = d.eth ∧
    (d.setEng c e f).ethInt = d.ethInt ∧ (d.setEng c e f).sens = d.sens ∧ (d.setEng c e f).vision = d.vision ∧ (d.setEng c e f).ts = d.ts
    ∧ (d.setEng c e f).dmem = d.dmem ∧ (d.setEng c e f).ipm = d.ipm ∧ (d.setEng c e f).nvme = d.nvme ∧ (d.setEng c e f).tier = d.tier ∧
    (d.setEng c e f).flt = d.flt ∧ (d.setEng c e f).neural = d.neural ∧ (d.setEng c e f).card = d.card ∧ (d.setEng c e f).fusion =
    d.fusion ∧ (d.setEng c e f).solver = d.solver ∧ (d.setEng c e f).place = d.place ∧ (d.setEng c e f).est = d.est ∧ (d.setEng c e f).spi
    = d.spi ∧ (d.setEng c e f).trust = d.trust ∧ (d.setEng c e f).fleet = d.fleet ∧ (d.setEng c e f).pw = d.pw ∧ (d.setEng c e f).out =
    d.out ∧ (d.setEng c e f).kick = d.kick ∧ (d.setEng c e f).free = d.free ∧ (d.setEng c e f).comp.tasks = d.comp.tasks ∧ (d.setEng c e
    f).comp.works = d.comp.works ∧ (d.setEng c e f).comp.nextId = d.comp.nextId ∧ (d.setEng c e f).comp.dir = d.comp.dir ∧ (d.setEng c e
    f).comp.net = d.comp.net ∧ (d.setEng c e f).comp.rounds = d.comp.rounds ∧ (d.setEng c e f).comp.results = d.comp.results ∧ (d.setEng c
    e f).comp.ranged = d.comp.ranged ∧ (d.setEng c e f).comp.notes = d.comp.notes ∧ (d.setEng c e f).comp.copyq = d.comp.copyq ∧ (d.setEng
    c e f).comp.epochs = d.comp.epochs :=
  ⟨rfl, rfl, rfl, rfl, rfl, rfl, rfl, rfl, rfl, rfl, rfl, rfl, rfl, rfl, rfl, rfl, rfl, rfl, rfl, rfl, rfl, rfl, rfl, rfl, rfl, rfl, rfl,
    rfl, rfl, rfl, rfl, rfl, rfl, rfl, rfl, rfl, rfl, rfl, rfl, rfl, rfl, rfl, rfl, rfl, rfl, rfl, rfl, rfl⟩
@[simp] theorem Dev.setEng_own (d : Dev) (c e : Nat) (f : Engine → Engine) : (d.setEng c e f).comp.cl = upd d.comp.cl c fun k => { k with eng := upd k.eng e f } := rfl
@[simp] theorem Dev.setTask_fields (d : Dev) (n : Nat) (f : Task → Task) :
    (d.setTask n f).now = d.now ∧ (d.setTask n f).part = d.part ∧ (d.setTask n f).start = d.start ∧ (d.setTask n f).vinUp = d.vinUp ∧
    (d.setTask n f).resetLow = d.resetLow ∧ (d.setTask n f).tripped = d.tripped ∧ (d.setTask n f).resetEnd = d.resetEnd ∧ (d.setTask n
    f).grade = d.grade ∧ (d.setTask n f).serial = d.serial ∧ (d.setTask n f).idleSince = d.idleSince ∧ (d.setTask n f).hif = d.hif ∧
    (d.setTask n f).own = d.own ∧ (d.setTask n f).prof = d.prof ∧ (d.setTask n f).time = d.time ∧ (d.setTask n f).eth = d.eth ∧ (d.setTask
    n f).ethInt = d.ethInt ∧ (d.setTask n f).sens = d.sens ∧ (d.setTask n f).vision = d.vision ∧ (d.setTask n f).ts = d.ts ∧ (d.setTask n
    f).dmem = d.dmem ∧ (d.setTask n f).ipm = d.ipm ∧ (d.setTask n f).nvme = d.nvme ∧ (d.setTask n f).tier = d.tier ∧ (d.setTask n f).flt =
    d.flt ∧ (d.setTask n f).neural = d.neural ∧ (d.setTask n f).card = d.card ∧ (d.setTask n f).fusion = d.fusion ∧ (d.setTask n f).solver
    = d.solver ∧ (d.setTask n f).place = d.place ∧ (d.setTask n f).est = d.est ∧ (d.setTask n f).spi = d.spi ∧ (d.setTask n f).trust =
    d.trust ∧ (d.setTask n f).fleet = d.fleet ∧ (d.setTask n f).pw = d.pw ∧ (d.setTask n f).out = d.out ∧ (d.setTask n f).kick = d.kick ∧
    (d.setTask n f).free = d.free ∧ (d.setTask n f).comp.cl = d.comp.cl ∧ (d.setTask n f).comp.works = d.comp.works ∧ (d.setTask n
    f).comp.nextId = d.comp.nextId ∧ (d.setTask n f).comp.dir = d.comp.dir ∧ (d.setTask n f).comp.net = d.comp.net ∧ (d.setTask n
    f).comp.rounds = d.comp.rounds ∧ (d.setTask n f).comp.results = d.comp.results ∧ (d.setTask n f).comp.ranged = d.comp.ranged ∧
    (d.setTask n f).comp.notes = d.comp.notes ∧ (d.setTask n f).comp.copyq = d.comp.copyq ∧ (d.setTask n f).comp.epochs = d.comp.epochs :=
  ⟨rfl, rfl, rfl, rfl, rfl, rfl, rfl, rfl, rfl, rfl, rfl, rfl, rfl, rfl, rfl, rfl, rfl, rfl, rfl, rfl, rfl, rfl, rfl, rfl, rfl, rfl, rfl,
    rfl, rfl, rfl, rfl, rfl, rfl, rfl, rfl, rfl, rfl, rfl, rfl, rfl, rfl, rfl, rfl, rfl, rfl, rfl, rfl, rfl⟩
@[simp] theorem Dev.setTask_own (d : Dev) (n : Nat) (f : Task → Task) : (d.setTask n f).comp.tasks = d.comp.tasks.map fun k => if k.id = n then f k else k := rfl
@[simp] theorem Dev.setWork_fields (d : Dev) (n : Nat) (f : Work → Work) :
    (d.setWork n f).now = d.now ∧ (d.setWork n f).part = d.part ∧ (d.setWork n f).start = d.start ∧ (d.setWork n f).vinUp = d.vinUp ∧
    (d.setWork n f).resetLow = d.resetLow ∧ (d.setWork n f).tripped = d.tripped ∧ (d.setWork n f).resetEnd = d.resetEnd ∧ (d.setWork n
    f).grade = d.grade ∧ (d.setWork n f).serial = d.serial ∧ (d.setWork n f).idleSince = d.idleSince ∧ (d.setWork n f).hif = d.hif ∧
    (d.setWork n f).own = d.own ∧ (d.setWork n f).prof = d.prof ∧ (d.setWork n f).time = d.time ∧ (d.setWork n f).eth = d.eth ∧ (d.setWork
    n f).ethInt = d.ethInt ∧ (d.setWork n f).sens = d.sens ∧ (d.setWork n f).vision = d.vision ∧ (d.setWork n f).ts = d.ts ∧ (d.setWork n
    f).dmem = d.dmem ∧ (d.setWork n f).ipm = d.ipm ∧ (d.setWork n f).nvme = d.nvme ∧ (d.setWork n f).tier = d.tier ∧ (d.setWork n f).flt =
    d.flt ∧ (d.setWork n f).neural = d.neural ∧ (d.setWork n f).card = d.card ∧ (d.setWork n f).fusion = d.fusion ∧ (d.setWork n f).solver
    = d.solver ∧ (d.setWork n f).place = d.place ∧ (d.setWork n f).est = d.est ∧ (d.setWork n f).spi = d.spi ∧ (d.setWork n f).trust =
    d.trust ∧ (d.setWork n f).fleet = d.fleet ∧ (d.setWork n f).pw = d.pw ∧ (d.setWork n f).out = d.out ∧ (d.setWork n f).kick = d.kick ∧
    (d.setWork n f).free = d.free ∧ (d.setWork n f).comp.cl = d.comp.cl ∧ (d.setWork n f).comp.tasks = d.comp.tasks ∧ (d.setWork n
    f).comp.nextId = d.comp.nextId ∧ (d.setWork n f).comp.dir = d.comp.dir ∧ (d.setWork n f).comp.net = d.comp.net ∧ (d.setWork n
    f).comp.rounds = d.comp.rounds ∧ (d.setWork n f).comp.results = d.comp.results ∧ (d.setWork n f).comp.ranged = d.comp.ranged ∧
    (d.setWork n f).comp.notes = d.comp.notes ∧ (d.setWork n f).comp.copyq = d.comp.copyq ∧ (d.setWork n f).comp.epochs = d.comp.epochs :=
  ⟨rfl, rfl, rfl, rfl, rfl, rfl, rfl, rfl, rfl, rfl, rfl, rfl, rfl, rfl, rfl, rfl, rfl, rfl, rfl, rfl, rfl, rfl, rfl, rfl, rfl, rfl, rfl,
    rfl, rfl, rfl, rfl, rfl, rfl, rfl, rfl, rfl, rfl, rfl, rfl, rfl, rfl, rfl, rfl, rfl, rfl, rfl, rfl, rfl⟩
@[simp] theorem Dev.setWork_own (d : Dev) (n : Nat) (f : Work → Work) : (d.setWork n f).comp.works = d.comp.works.map fun w => if w.id = n then f w else w := rfl
@[simp] theorem Dev.setIpmCh_fields (d : Dev) (n : Nat) (f : IpmCh → IpmCh) :
    (d.setIpmCh n f).now = d.now ∧ (d.setIpmCh n f).part = d.part ∧ (d.setIpmCh n f).start = d.start ∧ (d.setIpmCh n f).vinUp = d.vinUp ∧
    (d.setIpmCh n f).resetLow = d.resetLow ∧ (d.setIpmCh n f).tripped = d.tripped ∧ (d.setIpmCh n f).resetEnd = d.resetEnd ∧ (d.setIpmCh n
    f).grade = d.grade ∧ (d.setIpmCh n f).serial = d.serial ∧ (d.setIpmCh n f).idleSince = d.idleSince ∧ (d.setIpmCh n f).hif = d.hif ∧
    (d.setIpmCh n f).own = d.own ∧ (d.setIpmCh n f).prof = d.prof ∧ (d.setIpmCh n f).time = d.time ∧ (d.setIpmCh n f).eth = d.eth ∧
    (d.setIpmCh n f).ethInt = d.ethInt ∧ (d.setIpmCh n f).sens = d.sens ∧ (d.setIpmCh n f).vision = d.vision ∧ (d.setIpmCh n f).ts = d.ts
    ∧ (d.setIpmCh n f).dmem = d.dmem ∧ (d.setIpmCh n f).comp = d.comp ∧ (d.setIpmCh n f).nvme = d.nvme ∧ (d.setIpmCh n f).tier = d.tier ∧
    (d.setIpmCh n f).flt = d.flt ∧ (d.setIpmCh n f).neural = d.neural ∧ (d.setIpmCh n f).card = d.card ∧ (d.setIpmCh n f).fusion =
    d.fusion ∧ (d.setIpmCh n f).solver = d.solver ∧ (d.setIpmCh n f).place = d.place ∧ (d.setIpmCh n f).est = d.est ∧ (d.setIpmCh n f).spi
    = d.spi ∧ (d.setIpmCh n f).trust = d.trust ∧ (d.setIpmCh n f).fleet = d.fleet ∧ (d.setIpmCh n f).pw = d.pw ∧ (d.setIpmCh n f).out =
    d.out ∧ (d.setIpmCh n f).kick = d.kick ∧ (d.setIpmCh n f).free = d.free ∧ (d.setIpmCh n f).ipm.lost = d.ipm.lost ∧ (d.setIpmCh n
    f).ipm.periodH = d.ipm.periodH ∧ (d.setIpmCh n f).ipm.passes = d.ipm.passes ∧ (d.setIpmCh n f).ipm.retry = d.ipm.retry ∧ (d.setIpmCh n
    f).ipm.rebuilt = d.ipm.rebuilt ∧ (d.setIpmCh n f).ipm.uncorr = d.ipm.uncorr ∧ (d.setIpmCh n f).ipm.frozen = d.ipm.frozen ∧ (d.setIpmCh
    n f).ipm.uncorrEvAt = d.ipm.uncorrEvAt :=
  ⟨rfl, rfl, rfl, rfl, rfl, rfl, rfl, rfl, rfl, rfl, rfl, rfl, rfl, rfl, rfl, rfl, rfl, rfl, rfl, rfl, rfl, rfl, rfl, rfl, rfl, rfl, rfl,
    rfl, rfl, rfl, rfl, rfl, rfl, rfl, rfl, rfl, rfl, rfl, rfl, rfl, rfl, rfl, rfl, rfl, rfl⟩
@[simp] theorem Dev.setIpmCh_own (d : Dev) (n : Nat) (f : IpmCh → IpmCh) : (d.setIpmCh n f).ipm.ch = upd d.ipm.ch n f := rfl
@[simp] theorem Dev.setObj_fields (d : Dev) (n : Nat) (f : TierObj → TierObj) :
    (d.setObj n f).now = d.now ∧ (d.setObj n f).part = d.part ∧ (d.setObj n f).start = d.start ∧ (d.setObj n f).vinUp = d.vinUp ∧
    (d.setObj n f).resetLow = d.resetLow ∧ (d.setObj n f).tripped = d.tripped ∧ (d.setObj n f).resetEnd = d.resetEnd ∧ (d.setObj n
    f).grade = d.grade ∧ (d.setObj n f).serial = d.serial ∧ (d.setObj n f).idleSince = d.idleSince ∧ (d.setObj n f).hif = d.hif ∧
    (d.setObj n f).own = d.own ∧ (d.setObj n f).prof = d.prof ∧ (d.setObj n f).time = d.time ∧ (d.setObj n f).eth = d.eth ∧ (d.setObj n
    f).ethInt = d.ethInt ∧ (d.setObj n f).sens = d.sens ∧ (d.setObj n f).vision = d.vision ∧ (d.setObj n f).ts = d.ts ∧ (d.setObj n
    f).dmem = d.dmem ∧ (d.setObj n f).comp = d.comp ∧ (d.setObj n f).ipm = d.ipm ∧ (d.setObj n f).nvme = d.nvme ∧ (d.setObj n f).flt =
    d.flt ∧ (d.setObj n f).neural = d.neural ∧ (d.setObj n f).card = d.card ∧ (d.setObj n f).fusion = d.fusion ∧ (d.setObj n f).solver =
    d.solver ∧ (d.setObj n f).place = d.place ∧ (d.setObj n f).est = d.est ∧ (d.setObj n f).spi = d.spi ∧ (d.setObj n f).trust = d.trust ∧
    (d.setObj n f).fleet = d.fleet ∧ (d.setObj n f).pw = d.pw ∧ (d.setObj n f).out = d.out ∧ (d.setObj n f).kick = d.kick ∧ (d.setObj n
    f).free = d.free ∧ (d.setObj n f).tier.serving = d.tier.serving ∧ (d.setObj n f).tier.queue = d.tier.queue ∧ (d.setObj n
    f).tier.allocs = d.tier.allocs ∧ (d.setObj n f).tier.promotions = d.tier.promotions ∧ (d.setObj n f).tier.evictions = d.tier.evictions
    ∧ (d.setObj n f).tier.retries = d.tier.retries ∧ (d.setObj n f).tier.mirrorReads = d.tier.mirrorReads ∧ (d.setObj n f).tier.repaired =
    d.tier.repaired ∧ (d.setObj n f).tier.lost = d.tier.lost ∧ (d.setObj n f).tier.evictBusy = d.tier.evictBusy ∧ (d.setObj n
    f).tier.skipped = d.tier.skipped ∧ (d.setObj n f).tier.frozen = d.tier.frozen ∧ (d.setObj n f).tier.flagBad = d.tier.flagBad ∧
    (d.setObj n f).tier.lostNow = d.tier.lostNow :=
  ⟨rfl, rfl, rfl, rfl, rfl, rfl, rfl, rfl, rfl, rfl, rfl, rfl, rfl, rfl, rfl, rfl, rfl, rfl, rfl, rfl, rfl, rfl, rfl, rfl, rfl, rfl, rfl,
    rfl, rfl, rfl, rfl, rfl, rfl, rfl, rfl, rfl, rfl, rfl, rfl, rfl, rfl, rfl, rfl, rfl, rfl, rfl, rfl, rfl, rfl, rfl, rfl⟩
@[simp] theorem Dev.setObj_own (d : Dev) (n : Nat) (f : TierObj → TierObj) : (d.setObj n f).tier.objs = d.tier.objs.map fun o => if o.id = n then f o else o := rfl
@[simp] theorem Dev.setAlloc_fields (d : Dev) (w n : Nat) :
    (d.setAlloc w n).now = d.now ∧ (d.setAlloc w n).part = d.part ∧ (d.setAlloc w n).start = d.start ∧ (d.setAlloc w n).vinUp = d.vinUp ∧
    (d.setAlloc w n).resetLow = d.resetLow ∧ (d.setAlloc w n).tripped = d.tripped ∧ (d.setAlloc w n).resetEnd = d.resetEnd ∧ (d.setAlloc w
    n).grade = d.grade ∧ (d.setAlloc w n).serial = d.serial ∧ (d.setAlloc w n).idleSince = d.idleSince ∧ (d.setAlloc w n).hif = d.hif ∧
    (d.setAlloc w n).own = d.own ∧ (d.setAlloc w n).prof = d.prof ∧ (d.setAlloc w n).time = d.time ∧ (d.setAlloc w n).eth = d.eth ∧
    (d.setAlloc w n).ethInt = d.ethInt ∧ (d.setAlloc w n).sens = d.sens ∧ (d.setAlloc w n).vision = d.vision ∧ (d.setAlloc w n).ts = d.ts
    ∧ (d.setAlloc w n).dmem = d.dmem ∧ (d.setAlloc w n).comp = d.comp ∧ (d.setAlloc w n).ipm = d.ipm ∧ (d.setAlloc w n).nvme = d.nvme ∧
    (d.setAlloc w n).flt = d.flt ∧ (d.setAlloc w n).neural = d.neural ∧ (d.setAlloc w n).card = d.card ∧ (d.setAlloc w n).fusion =
    d.fusion ∧ (d.setAlloc w n).solver = d.solver ∧ (d.setAlloc w n).place = d.place ∧ (d.setAlloc w n).est = d.est ∧ (d.setAlloc w n).spi
    = d.spi ∧ (d.setAlloc w n).trust = d.trust ∧ (d.setAlloc w n).fleet = d.fleet ∧ (d.setAlloc w n).pw = d.pw ∧ (d.setAlloc w n).out =
    d.out ∧ (d.setAlloc w n).kick = d.kick ∧ (d.setAlloc w n).free = d.free ∧ (d.setAlloc w n).tier.objs = d.tier.objs ∧ (d.setAlloc w
    n).tier.serving = d.tier.serving ∧ (d.setAlloc w n).tier.queue = d.tier.queue ∧ (d.setAlloc w n).tier.promotions = d.tier.promotions ∧
    (d.setAlloc w n).tier.evictions = d.tier.evictions ∧ (d.setAlloc w n).tier.retries = d.tier.retries ∧ (d.setAlloc w
    n).tier.mirrorReads = d.tier.mirrorReads ∧ (d.setAlloc w n).tier.repaired = d.tier.repaired ∧ (d.setAlloc w n).tier.lost = d.tier.lost
    ∧ (d.setAlloc w n).tier.evictBusy = d.tier.evictBusy ∧ (d.setAlloc w n).tier.skipped = d.tier.skipped ∧ (d.setAlloc w n).tier.frozen =
    d.tier.frozen ∧ (d.setAlloc w n).tier.flagBad = d.tier.flagBad ∧ (d.setAlloc w n).tier.lostNow = d.tier.lostNow :=
  ⟨rfl, rfl, rfl, rfl, rfl, rfl, rfl, rfl, rfl, rfl, rfl, rfl, rfl, rfl, rfl, rfl, rfl, rfl, rfl, rfl, rfl, rfl, rfl, rfl, rfl, rfl, rfl,
    rfl, rfl, rfl, rfl, rfl, rfl, rfl, rfl, rfl, rfl, rfl, rfl, rfl, rfl, rfl, rfl, rfl, rfl, rfl, rfl, rfl, rfl, rfl, rfl⟩
@[simp] theorem Dev.setTs_fields (d : Dev) (n : Nat) (f : TsUnit → TsUnit) :
    (d.setTs n f).now = d.now ∧ (d.setTs n f).part = d.part ∧ (d.setTs n f).start = d.start ∧ (d.setTs n f).vinUp = d.vinUp ∧ (d.setTs n
    f).resetLow = d.resetLow ∧ (d.setTs n f).tripped = d.tripped ∧ (d.setTs n f).resetEnd = d.resetEnd ∧ (d.setTs n f).grade = d.grade ∧
    (d.setTs n f).serial = d.serial ∧ (d.setTs n f).idleSince = d.idleSince ∧ (d.setTs n f).hif = d.hif ∧ (d.setTs n f).own = d.own ∧
    (d.setTs n f).prof = d.prof ∧ (d.setTs n f).time = d.time ∧ (d.setTs n f).eth = d.eth ∧ (d.setTs n f).ethInt = d.ethInt ∧ (d.setTs n
    f).sens = d.sens ∧ (d.setTs n f).vision = d.vision ∧ (d.setTs n f).dmem = d.dmem ∧ (d.setTs n f).comp = d.comp ∧ (d.setTs n f).ipm =
    d.ipm ∧ (d.setTs n f).nvme = d.nvme ∧ (d.setTs n f).tier = d.tier ∧ (d.setTs n f).flt = d.flt ∧ (d.setTs n f).neural = d.neural ∧
    (d.setTs n f).card = d.card ∧ (d.setTs n f).fusion = d.fusion ∧ (d.setTs n f).solver = d.solver ∧ (d.setTs n f).place = d.place ∧
    (d.setTs n f).est = d.est ∧ (d.setTs n f).spi = d.spi ∧ (d.setTs n f).trust = d.trust ∧ (d.setTs n f).fleet = d.fleet ∧ (d.setTs n
    f).pw = d.pw ∧ (d.setTs n f).out = d.out ∧ (d.setTs n f).kick = d.kick ∧ (d.setTs n f).free = d.free :=
  ⟨rfl, rfl, rfl, rfl, rfl, rfl, rfl, rfl, rfl, rfl, rfl, rfl, rfl, rfl, rfl, rfl, rfl, rfl, rfl, rfl, rfl, rfl, rfl, rfl, rfl, rfl, rfl,
    rfl, rfl, rfl, rfl, rfl, rfl, rfl, rfl, rfl, rfl⟩
@[simp] theorem Dev.setTs_own (d : Dev) (n : Nat) (f : TsUnit → TsUnit) : (d.setTs n f).ts = upd d.ts n f := rfl
@[simp] theorem Dev.setSlot_fields (d : Dev) (n : Nat) (f : Slot → Slot) :
    (d.setSlot n f).now = d.now ∧ (d.setSlot n f).part = d.part ∧ (d.setSlot n f).start = d.start ∧ (d.setSlot n f).vinUp = d.vinUp ∧
    (d.setSlot n f).resetLow = d.resetLow ∧ (d.setSlot n f).tripped = d.tripped ∧ (d.setSlot n f).resetEnd = d.resetEnd ∧ (d.setSlot n
    f).grade = d.grade ∧ (d.setSlot n f).serial = d.serial ∧ (d.setSlot n f).idleSince = d.idleSince ∧ (d.setSlot n f).hif = d.hif ∧
    (d.setSlot n f).own = d.own ∧ (d.setSlot n f).prof = d.prof ∧ (d.setSlot n f).time = d.time ∧ (d.setSlot n f).eth = d.eth ∧ (d.setSlot
    n f).ethInt = d.ethInt ∧ (d.setSlot n f).sens = d.sens ∧ (d.setSlot n f).vision = d.vision ∧ (d.setSlot n f).ts = d.ts ∧ (d.setSlot n
    f).dmem = d.dmem ∧ (d.setSlot n f).comp = d.comp ∧ (d.setSlot n f).ipm = d.ipm ∧ (d.setSlot n f).nvme = d.nvme ∧ (d.setSlot n f).tier
    = d.tier ∧ (d.setSlot n f).flt = d.flt ∧ (d.setSlot n f).card = d.card ∧ (d.setSlot n f).fusion = d.fusion ∧ (d.setSlot n f).solver =
    d.solver ∧ (d.setSlot n f).place = d.place ∧ (d.setSlot n f).est = d.est ∧ (d.setSlot n f).spi = d.spi ∧ (d.setSlot n f).trust =
    d.trust ∧ (d.setSlot n f).fleet = d.fleet ∧ (d.setSlot n f).pw = d.pw ∧ (d.setSlot n f).out = d.out ∧ (d.setSlot n f).kick = d.kick ∧
    (d.setSlot n f).free = d.free ∧ (d.setSlot n f).neural.binds = d.neural.binds :=
  ⟨rfl, rfl, rfl, rfl, rfl, rfl, rfl, rfl, rfl, rfl, rfl, rfl, rfl, rfl, rfl, rfl, rfl, rfl, rfl, rfl, rfl, rfl, rfl, rfl, rfl, rfl, rfl,
    rfl, rfl, rfl, rfl, rfl, rfl, rfl, rfl, rfl, rfl, rfl⟩
@[simp] theorem Dev.setSlot_own (d : Dev) (n : Nat) (f : Slot → Slot) : (d.setSlot n f).neural.slot = upd d.neural.slot n f := rfl
@[simp] theorem Dev.setBind_fields (d : Dev) (b : Nat) (f : Binding → Binding) :
    (d.setBind b f).now = d.now ∧ (d.setBind b f).part = d.part ∧ (d.setBind b f).start = d.start ∧ (d.setBind b f).vinUp = d.vinUp ∧
    (d.setBind b f).resetLow = d.resetLow ∧ (d.setBind b f).tripped = d.tripped ∧ (d.setBind b f).resetEnd = d.resetEnd ∧ (d.setBind b
    f).grade = d.grade ∧ (d.setBind b f).serial = d.serial ∧ (d.setBind b f).idleSince = d.idleSince ∧ (d.setBind b f).hif = d.hif ∧
    (d.setBind b f).own = d.own ∧ (d.setBind b f).prof = d.prof ∧ (d.setBind b f).time = d.time ∧ (d.setBind b f).eth = d.eth ∧ (d.setBind
    b f).ethInt = d.ethInt ∧ (d.setBind b f).sens = d.sens ∧ (d.setBind b f).vision = d.vision ∧ (d.setBind b f).ts = d.ts ∧ (d.setBind b
    f).dmem = d.dmem ∧ (d.setBind b f).comp = d.comp ∧ (d.setBind b f).ipm = d.ipm ∧ (d.setBind b f).nvme = d.nvme ∧ (d.setBind b f).tier
    = d.tier ∧ (d.setBind b f).flt = d.flt ∧ (d.setBind b f).card = d.card ∧ (d.setBind b f).fusion = d.fusion ∧ (d.setBind b f).solver =
    d.solver ∧ (d.setBind b f).place = d.place ∧ (d.setBind b f).est = d.est ∧ (d.setBind b f).spi = d.spi ∧ (d.setBind b f).trust =
    d.trust ∧ (d.setBind b f).fleet = d.fleet ∧ (d.setBind b f).pw = d.pw ∧ (d.setBind b f).out = d.out ∧ (d.setBind b f).kick = d.kick ∧
    (d.setBind b f).free = d.free ∧ (d.setBind b f).neural.slot = d.neural.slot :=
  ⟨rfl, rfl, rfl, rfl, rfl, rfl, rfl, rfl, rfl, rfl, rfl, rfl, rfl, rfl, rfl, rfl, rfl, rfl, rfl, rfl, rfl, rfl, rfl, rfl, rfl, rfl, rfl,
    rfl, rfl, rfl, rfl, rfl, rfl, rfl, rfl, rfl, rfl, rfl⟩
@[simp] theorem Dev.setBind_own (d : Dev) (b : Nat) (f : Binding → Binding) : (d.setBind b f).neural.binds = d.neural.binds.map fun x => if x.id = b then f x else x := rfl
@[simp] theorem Dev.setFus_fields (d : Dev) (f : Fusion → Fusion) :
    (d.setFus f).now = d.now ∧ (d.setFus f).part = d.part ∧ (d.setFus f).start = d.start ∧ (d.setFus f).vinUp = d.vinUp ∧ (d.setFus
    f).resetLow = d.resetLow ∧ (d.setFus f).tripped = d.tripped ∧ (d.setFus f).resetEnd = d.resetEnd ∧ (d.setFus f).grade = d.grade ∧
    (d.setFus f).serial = d.serial ∧ (d.setFus f).idleSince = d.idleSince ∧ (d.setFus f).hif = d.hif ∧ (d.setFus f).own = d.own ∧
    (d.setFus f).prof = d.prof ∧ (d.setFus f).time = d.time ∧ (d.setFus f).eth = d.eth ∧ (d.setFus f).ethInt = d.ethInt ∧ (d.setFus
    f).sens = d.sens ∧ (d.setFus f).vision = d.vision ∧ (d.setFus f).ts = d.ts ∧ (d.setFus f).dmem = d.dmem ∧ (d.setFus f).comp = d.comp ∧
    (d.setFus f).ipm = d.ipm ∧ (d.setFus f).nvme = d.nvme ∧ (d.setFus f).tier = d.tier ∧ (d.setFus f).flt = d.flt ∧ (d.setFus f).neural =
    d.neural ∧ (d.setFus f).card = d.card ∧ (d.setFus f).solver = d.solver ∧ (d.setFus f).place = d.place ∧ (d.setFus f).est = d.est ∧
    (d.setFus f).spi = d.spi ∧ (d.setFus f).trust = d.trust ∧ (d.setFus f).fleet = d.fleet ∧ (d.setFus f).pw = d.pw ∧ (d.setFus f).out =
    d.out ∧ (d.setFus f).kick = d.kick ∧ (d.setFus f).free = d.free :=
  ⟨rfl, rfl, rfl, rfl, rfl, rfl, rfl, rfl, rfl, rfl, rfl, rfl, rfl, rfl, rfl, rfl, rfl, rfl, rfl, rfl, rfl, rfl, rfl, rfl, rfl, rfl, rfl,
    rfl, rfl, rfl, rfl, rfl, rfl, rfl, rfl, rfl, rfl⟩
@[simp] theorem Dev.setFus_own (d : Dev) (f : Fusion → Fusion) : (d.setFus f).fusion = f d.fusion := rfl
@[simp] theorem Dev.setPs_fields (d : Dev) (n : Nat) (f : PSlot → PSlot) :
    (d.setPs n f).now = d.now ∧ (d.setPs n f).part = d.part ∧ (d.setPs n f).start = d.start ∧ (d.setPs n f).vinUp = d.vinUp ∧ (d.setPs n
    f).resetLow = d.resetLow ∧ (d.setPs n f).tripped = d.tripped ∧ (d.setPs n f).resetEnd = d.resetEnd ∧ (d.setPs n f).grade = d.grade ∧
    (d.setPs n f).serial = d.serial ∧ (d.setPs n f).idleSince = d.idleSince ∧ (d.setPs n f).hif = d.hif ∧ (d.setPs n f).own = d.own ∧
    (d.setPs n f).prof = d.prof ∧ (d.setPs n f).time = d.time ∧ (d.setPs n f).eth = d.eth ∧ (d.setPs n f).ethInt = d.ethInt ∧ (d.setPs n
    f).sens = d.sens ∧ (d.setPs n f).vision = d.vision ∧ (d.setPs n f).ts = d.ts ∧ (d.setPs n f).dmem = d.dmem ∧ (d.setPs n f).comp =
    d.comp ∧ (d.setPs n f).ipm = d.ipm ∧ (d.setPs n f).nvme = d.nvme ∧ (d.setPs n f).tier = d.tier ∧ (d.setPs n f).flt = d.flt ∧ (d.setPs
    n f).neural = d.neural ∧ (d.setPs n f).card = d.card ∧ (d.setPs n f).fusion = d.fusion ∧ (d.setPs n f).place = d.place ∧ (d.setPs n
    f).est = d.est ∧ (d.setPs n f).spi = d.spi ∧ (d.setPs n f).trust = d.trust ∧ (d.setPs n f).fleet = d.fleet ∧ (d.setPs n f).pw = d.pw ∧
    (d.setPs n f).out = d.out ∧ (d.setPs n f).kick = d.kick ∧ (d.setPs n f).free = d.free :=
  ⟨rfl, rfl, rfl, rfl, rfl, rfl, rfl, rfl, rfl, rfl, rfl, rfl, rfl, rfl, rfl, rfl, rfl, rfl, rfl, rfl, rfl, rfl, rfl, rfl, rfl, rfl, rfl,
    rfl, rfl, rfl, rfl, rfl, rfl, rfl, rfl, rfl, rfl⟩
@[simp] theorem Dev.setPs_own (d : Dev) (n : Nat) (f : PSlot → PSlot) : (d.setPs n f).solver = upd d.solver n f := rfl
@[simp] theorem Dev.setPlace_fields (d : Dev) (f : Place → Place) :
    (d.setPlace f).now = d.now ∧ (d.setPlace f).part = d.part ∧ (d.setPlace f).start = d.start ∧ (d.setPlace f).vinUp = d.vinUp ∧
    (d.setPlace f).resetLow = d.resetLow ∧ (d.setPlace f).tripped = d.tripped ∧ (d.setPlace f).resetEnd = d.resetEnd ∧ (d.setPlace
    f).grade = d.grade ∧ (d.setPlace f).serial = d.serial ∧ (d.setPlace f).idleSince = d.idleSince ∧ (d.setPlace f).hif = d.hif ∧
    (d.setPlace f).own = d.own ∧ (d.setPlace f).prof = d.prof ∧ (d.setPlace f).time = d.time ∧ (d.setPlace f).eth = d.eth ∧ (d.setPlace
    f).ethInt = d.ethInt ∧ (d.setPlace f).sens = d.sens ∧ (d.setPlace f).vision = d.vision ∧ (d.setPlace f).ts = d.ts ∧ (d.setPlace
    f).dmem = d.dmem ∧ (d.setPlace f).comp = d.comp ∧ (d.setPlace f).ipm = d.ipm ∧ (d.setPlace f).nvme = d.nvme ∧ (d.setPlace f).tier =
    d.tier ∧ (d.setPlace f).flt = d.flt ∧ (d.setPlace f).neural = d.neural ∧ (d.setPlace f).card = d.card ∧ (d.setPlace f).fusion =
    d.fusion ∧ (d.setPlace f).solver = d.solver ∧ (d.setPlace f).est = d.est ∧ (d.setPlace f).spi = d.spi ∧ (d.setPlace f).trust = d.trust
    ∧ (d.setPlace f).fleet = d.fleet ∧ (d.setPlace f).pw = d.pw ∧ (d.setPlace f).out = d.out ∧ (d.setPlace f).kick = d.kick ∧ (d.setPlace
    f).free = d.free :=
  ⟨rfl, rfl, rfl, rfl, rfl, rfl, rfl, rfl, rfl, rfl, rfl, rfl, rfl, rfl, rfl, rfl, rfl, rfl, rfl, rfl, rfl, rfl, rfl, rfl, rfl, rfl, rfl,
    rfl, rfl, rfl, rfl, rfl, rfl, rfl, rfl, rfl, rfl⟩
@[simp] theorem Dev.setPlace_own (d : Dev) (f : Place → Place) : (d.setPlace f).place = f d.place := rfl
@[simp] theorem Dev.setIx_fields (d : Dev) (n : Nat) (f : PIndex → PIndex) :
    (d.setIx n f).now = d.now ∧ (d.setIx n f).part = d.part ∧ (d.setIx n f).start = d.start ∧ (d.setIx n f).vinUp = d.vinUp ∧ (d.setIx n
    f).resetLow = d.resetLow ∧ (d.setIx n f).tripped = d.tripped ∧ (d.setIx n f).resetEnd = d.resetEnd ∧ (d.setIx n f).grade = d.grade ∧
    (d.setIx n f).serial = d.serial ∧ (d.setIx n f).idleSince = d.idleSince ∧ (d.setIx n f).hif = d.hif ∧ (d.setIx n f).own = d.own ∧
    (d.setIx n f).prof = d.prof ∧ (d.setIx n f).time = d.time ∧ (d.setIx n f).eth = d.eth ∧ (d.setIx n f).ethInt = d.ethInt ∧ (d.setIx n
    f).sens = d.sens ∧ (d.setIx n f).vision = d.vision ∧ (d.setIx n f).ts = d.ts ∧ (d.setIx n f).dmem = d.dmem ∧ (d.setIx n f).comp =
    d.comp ∧ (d.setIx n f).ipm = d.ipm ∧ (d.setIx n f).nvme = d.nvme ∧ (d.setIx n f).tier = d.tier ∧ (d.setIx n f).flt = d.flt ∧ (d.setIx
    n f).neural = d.neural ∧ (d.setIx n f).card = d.card ∧ (d.setIx n f).fusion = d.fusion ∧ (d.setIx n f).solver = d.solver ∧ (d.setIx n
    f).est = d.est ∧ (d.setIx n f).spi = d.spi ∧ (d.setIx n f).trust = d.trust ∧ (d.setIx n f).fleet = d.fleet ∧ (d.setIx n f).pw = d.pw ∧
    (d.setIx n f).out = d.out ∧ (d.setIx n f).kick = d.kick ∧ (d.setIx n f).free = d.free ∧ (d.setIx n f).place.wk = d.place.wk ∧ (d.setIx
    n f).place.jobs = d.place.jobs ∧ (d.setIx n f).place.ctx = d.place.ctx ∧ (d.setIx n f).place.nextJob = d.place.nextJob ∧ (d.setIx n
    f).place.ended = d.place.ended ∧ (d.setIx n f).place.queries = d.place.queries ∧ (d.setIx n f).place.exhaustive = d.place.exhaustive ∧
    (d.setIx n f).place.expansions = d.place.expansions ∧ (d.setIx n f).place.dangling = d.place.dangling ∧ (d.setIx n f).place.restarted
    = d.place.restarted ∧ (d.setIx n f).place.merges = d.place.merges ∧ (d.setIx n f).place.frozen = d.place.frozen :=
  ⟨rfl, rfl, rfl, rfl, rfl, rfl, rfl, rfl, rfl, rfl, rfl, rfl, rfl, rfl, rfl, rfl, rfl, rfl, rfl, rfl, rfl, rfl, rfl, rfl, rfl, rfl, rfl,
    rfl, rfl, rfl, rfl, rfl, rfl, rfl, rfl, rfl, rfl, rfl, rfl, rfl, rfl, rfl, rfl, rfl, rfl, rfl, rfl, rfl, rfl⟩
@[simp] theorem Dev.setIx_own (d : Dev) (n : Nat) (f : PIndex → PIndex) : (d.setIx n f).place.ix = upd d.place.ix n f := rfl
@[simp] theorem Dev.setWk_fields (d : Dev) (n : Nat) (f : Walker → Walker) :
    (d.setWk n f).now = d.now ∧ (d.setWk n f).part = d.part ∧ (d.setWk n f).start = d.start ∧ (d.setWk n f).vinUp = d.vinUp ∧ (d.setWk n
    f).resetLow = d.resetLow ∧ (d.setWk n f).tripped = d.tripped ∧ (d.setWk n f).resetEnd = d.resetEnd ∧ (d.setWk n f).grade = d.grade ∧
    (d.setWk n f).serial = d.serial ∧ (d.setWk n f).idleSince = d.idleSince ∧ (d.setWk n f).hif = d.hif ∧ (d.setWk n f).own = d.own ∧
    (d.setWk n f).prof = d.prof ∧ (d.setWk n f).time = d.time ∧ (d.setWk n f).eth = d.eth ∧ (d.setWk n f).ethInt = d.ethInt ∧ (d.setWk n
    f).sens = d.sens ∧ (d.setWk n f).vision = d.vision ∧ (d.setWk n f).ts = d.ts ∧ (d.setWk n f).dmem = d.dmem ∧ (d.setWk n f).comp =
    d.comp ∧ (d.setWk n f).ipm = d.ipm ∧ (d.setWk n f).nvme = d.nvme ∧ (d.setWk n f).tier = d.tier ∧ (d.setWk n f).flt = d.flt ∧ (d.setWk
    n f).neural = d.neural ∧ (d.setWk n f).card = d.card ∧ (d.setWk n f).fusion = d.fusion ∧ (d.setWk n f).solver = d.solver ∧ (d.setWk n
    f).est = d.est ∧ (d.setWk n f).spi = d.spi ∧ (d.setWk n f).trust = d.trust ∧ (d.setWk n f).fleet = d.fleet ∧ (d.setWk n f).pw = d.pw ∧
    (d.setWk n f).out = d.out ∧ (d.setWk n f).kick = d.kick ∧ (d.setWk n f).free = d.free ∧ (d.setWk n f).place.ix = d.place.ix ∧ (d.setWk
    n f).place.jobs = d.place.jobs ∧ (d.setWk n f).place.ctx = d.place.ctx ∧ (d.setWk n f).place.nextJob = d.place.nextJob ∧ (d.setWk n
    f).place.ended = d.place.ended ∧ (d.setWk n f).place.queries = d.place.queries ∧ (d.setWk n f).place.exhaustive = d.place.exhaustive ∧
    (d.setWk n f).place.expansions = d.place.expansions ∧ (d.setWk n f).place.dangling = d.place.dangling ∧ (d.setWk n f).place.restarted
    = d.place.restarted ∧ (d.setWk n f).place.merges = d.place.merges ∧ (d.setWk n f).place.frozen = d.place.frozen :=
  ⟨rfl, rfl, rfl, rfl, rfl, rfl, rfl, rfl, rfl, rfl, rfl, rfl, rfl, rfl, rfl, rfl, rfl, rfl, rfl, rfl, rfl, rfl, rfl, rfl, rfl, rfl, rfl,
    rfl, rfl, rfl, rfl, rfl, rfl, rfl, rfl, rfl, rfl, rfl, rfl, rfl, rfl, rfl, rfl, rfl, rfl, rfl, rfl, rfl, rfl⟩
@[simp] theorem Dev.setWk_own (d : Dev) (n : Nat) (f : Walker → Walker) : (d.setWk n f).place.wk = upd d.place.wk n f := rfl
@[simp] theorem Dev.setJob_fields (d : Dev) (n : Nat) (f : PlaceJob → PlaceJob) :
    (d.setJob n f).now = d.now ∧ (d.setJob n f).part = d.part ∧ (d.setJob n f).start = d.start ∧ (d.setJob n f).vinUp = d.vinUp ∧
    (d.setJob n f).resetLow = d.resetLow ∧ (d.setJob n f).tripped = d.tripped ∧ (d.setJob n f).resetEnd = d.resetEnd ∧ (d.setJob n
    f).grade = d.grade ∧ (d.setJob n f).serial = d.serial ∧ (d.setJob n f).idleSince = d.idleSince ∧ (d.setJob n f).hif = d.hif ∧
    (d.setJob n f).own = d.own ∧ (d.setJob n f).prof = d.prof ∧ (d.setJob n f).time = d.time ∧ (d.setJob n f).eth = d.eth ∧ (d.setJob n
    f).ethInt = d.ethInt ∧ (d.setJob n f).sens = d.sens ∧ (d.setJob n f).vision = d.vision ∧ (d.setJob n f).ts = d.ts ∧ (d.setJob n
    f).dmem = d.dmem ∧ (d.setJob n f).comp = d.comp ∧ (d.setJob n f).ipm = d.ipm ∧ (d.setJob n f).nvme = d.nvme ∧ (d.setJob n f).tier =
    d.tier ∧ (d.setJob n f).flt = d.flt ∧ (d.setJob n f).neural = d.neural ∧ (d.setJob n f).card = d.card ∧ (d.setJob n f).fusion =
    d.fusion ∧ (d.setJob n f).solver = d.solver ∧ (d.setJob n f).est = d.est ∧ (d.setJob n f).spi = d.spi ∧ (d.setJob n f).trust = d.trust
    ∧ (d.setJob n f).fleet = d.fleet ∧ (d.setJob n f).pw = d.pw ∧ (d.setJob n f).out = d.out ∧ (d.setJob n f).kick = d.kick ∧ (d.setJob n
    f).free = d.free ∧ (d.setJob n f).place.wk = d.place.wk ∧ (d.setJob n f).place.ix = d.place.ix ∧ (d.setJob n f).place.ctx =
    d.place.ctx ∧ (d.setJob n f).place.nextJob = d.place.nextJob ∧ (d.setJob n f).place.ended = d.place.ended ∧ (d.setJob n
    f).place.queries = d.place.queries ∧ (d.setJob n f).place.exhaustive = d.place.exhaustive ∧ (d.setJob n f).place.expansions =
    d.place.expansions ∧ (d.setJob n f).place.dangling = d.place.dangling ∧ (d.setJob n f).place.restarted = d.place.restarted ∧ (d.setJob
    n f).place.merges = d.place.merges ∧ (d.setJob n f).place.frozen = d.place.frozen :=
  ⟨rfl, rfl, rfl, rfl, rfl, rfl, rfl, rfl, rfl, rfl, rfl, rfl, rfl, rfl, rfl, rfl, rfl, rfl, rfl, rfl, rfl, rfl, rfl, rfl, rfl, rfl, rfl,
    rfl, rfl, rfl, rfl, rfl, rfl, rfl, rfl, rfl, rfl, rfl, rfl, rfl, rfl, rfl, rfl, rfl, rfl, rfl, rfl, rfl, rfl⟩
@[simp] theorem Dev.setJob_own (d : Dev) (n : Nat) (f : PlaceJob → PlaceJob) : (d.setJob n f).place.jobs = d.place.jobs.map fun j => if j.id = n then f j else j := rfl
@[simp] theorem Dev.setEst_fields (d : Dev) (f : Est → Est) :
    (d.setEst f).now = d.now ∧ (d.setEst f).part = d.part ∧ (d.setEst f).start = d.start ∧ (d.setEst f).vinUp = d.vinUp ∧ (d.setEst
    f).resetLow = d.resetLow ∧ (d.setEst f).tripped = d.tripped ∧ (d.setEst f).resetEnd = d.resetEnd ∧ (d.setEst f).grade = d.grade ∧
    (d.setEst f).serial = d.serial ∧ (d.setEst f).idleSince = d.idleSince ∧ (d.setEst f).hif = d.hif ∧ (d.setEst f).own = d.own ∧
    (d.setEst f).prof = d.prof ∧ (d.setEst f).time = d.time ∧ (d.setEst f).eth = d.eth ∧ (d.setEst f).ethInt = d.ethInt ∧ (d.setEst
    f).sens = d.sens ∧ (d.setEst f).vision = d.vision ∧ (d.setEst f).ts = d.ts ∧ (d.setEst f).dmem = d.dmem ∧ (d.setEst f).comp = d.comp ∧
    (d.setEst f).ipm = d.ipm ∧ (d.setEst f).nvme = d.nvme ∧ (d.setEst f).tier = d.tier ∧ (d.setEst f).flt = d.flt ∧ (d.setEst f).neural =
    d.neural ∧ (d.setEst f).card = d.card ∧ (d.setEst f).fusion = d.fusion ∧ (d.setEst f).solver = d.solver ∧ (d.setEst f).place = d.place
    ∧ (d.setEst f).spi = d.spi ∧ (d.setEst f).trust = d.trust ∧ (d.setEst f).fleet = d.fleet ∧ (d.setEst f).pw = d.pw ∧ (d.setEst f).out =
    d.out ∧ (d.setEst f).kick = d.kick ∧ (d.setEst f).free = d.free :=
  ⟨rfl, rfl, rfl, rfl, rfl, rfl, rfl, rfl, rfl, rfl, rfl, rfl, rfl, rfl, rfl, rfl, rfl, rfl, rfl, rfl, rfl, rfl, rfl, rfl, rfl, rfl, rfl,
    rfl, rfl, rfl, rfl, rfl, rfl, rfl, rfl, rfl, rfl⟩
@[simp] theorem Dev.setEst_own (d : Dev) (f : Est → Est) : (d.setEst f).est = f d.est := rfl
@[simp] theorem Dev.setFleet_fields (d : Dev) (f : Fleet → Fleet) :
    (d.setFleet f).now = d.now ∧ (d.setFleet f).part = d.part ∧ (d.setFleet f).start = d.start ∧ (d.setFleet f).vinUp = d.vinUp ∧
    (d.setFleet f).resetLow = d.resetLow ∧ (d.setFleet f).tripped = d.tripped ∧ (d.setFleet f).resetEnd = d.resetEnd ∧ (d.setFleet
    f).grade = d.grade ∧ (d.setFleet f).serial = d.serial ∧ (d.setFleet f).idleSince = d.idleSince ∧ (d.setFleet f).hif = d.hif ∧
    (d.setFleet f).own = d.own ∧ (d.setFleet f).prof = d.prof ∧ (d.setFleet f).time = d.time ∧ (d.setFleet f).eth = d.eth ∧ (d.setFleet
    f).ethInt = d.ethInt ∧ (d.setFleet f).sens = d.sens ∧ (d.setFleet f).vision = d.vision ∧ (d.setFleet f).ts = d.ts ∧ (d.setFleet
    f).dmem = d.dmem ∧ (d.setFleet f).comp = d.comp ∧ (d.setFleet f).ipm = d.ipm ∧ (d.setFleet f).nvme = d.nvme ∧ (d.setFleet f).tier =
    d.tier ∧ (d.setFleet f).flt = d.flt ∧ (d.setFleet f).neural = d.neural ∧ (d.setFleet f).card = d.card ∧ (d.setFleet f).fusion =
    d.fusion ∧ (d.setFleet f).solver = d.solver ∧ (d.setFleet f).place = d.place ∧ (d.setFleet f).est = d.est ∧ (d.setFleet f).spi = d.spi
    ∧ (d.setFleet f).trust = d.trust ∧ (d.setFleet f).pw = d.pw ∧ (d.setFleet f).out = d.out ∧ (d.setFleet f).kick = d.kick ∧ (d.setFleet
    f).free = d.free :=
  ⟨rfl, rfl, rfl, rfl, rfl, rfl, rfl, rfl, rfl, rfl, rfl, rfl, rfl, rfl, rfl, rfl, rfl, rfl, rfl, rfl, rfl, rfl, rfl, rfl, rfl, rfl, rfl,
    rfl, rfl, rfl, rfl, rfl, rfl, rfl, rfl, rfl, rfl⟩
@[simp] theorem Dev.setFleet_own (d : Dev) (f : Fleet → Fleet) : (d.setFleet f).fleet = f d.fleet := rfl
@[simp] theorem Dev.setTrust_fields (d : Dev) (f : Trust → Trust) :
    (d.setTrust f).now = d.now ∧ (d.setTrust f).part = d.part ∧ (d.setTrust f).start = d.start ∧ (d.setTrust f).vinUp = d.vinUp ∧
    (d.setTrust f).resetLow = d.resetLow ∧ (d.setTrust f).tripped = d.tripped ∧ (d.setTrust f).resetEnd = d.resetEnd ∧ (d.setTrust
    f).grade = d.grade ∧ (d.setTrust f).serial = d.serial ∧ (d.setTrust f).idleSince = d.idleSince ∧ (d.setTrust f).hif = d.hif ∧
    (d.setTrust f).own = d.own ∧ (d.setTrust f).prof = d.prof ∧ (d.setTrust f).time = d.time ∧ (d.setTrust f).eth = d.eth ∧ (d.setTrust
    f).ethInt = d.ethInt ∧ (d.setTrust f).sens = d.sens ∧ (d.setTrust f).vision = d.vision ∧ (d.setTrust f).ts = d.ts ∧ (d.setTrust
    f).dmem = d.dmem ∧ (d.setTrust f).comp = d.comp ∧ (d.setTrust f).ipm = d.ipm ∧ (d.setTrust f).nvme = d.nvme ∧ (d.setTrust f).tier =
    d.tier ∧ (d.setTrust f).flt = d.flt ∧ (d.setTrust f).neural = d.neural ∧ (d.setTrust f).card = d.card ∧ (d.setTrust f).fusion =
    d.fusion ∧ (d.setTrust f).solver = d.solver ∧ (d.setTrust f).place = d.place ∧ (d.setTrust f).est = d.est ∧ (d.setTrust f).spi = d.spi
    ∧ (d.setTrust f).fleet = d.fleet ∧ (d.setTrust f).pw = d.pw ∧ (d.setTrust f).out = d.out ∧ (d.setTrust f).kick = d.kick ∧ (d.setTrust
    f).free = d.free :=
  ⟨rfl, rfl, rfl, rfl, rfl, rfl, rfl, rfl, rfl, rfl, rfl, rfl, rfl, rfl, rfl, rfl, rfl, rfl, rfl, rfl, rfl, rfl, rfl, rfl, rfl, rfl, rfl,
    rfl, rfl, rfl, rfl, rfl, rfl, rfl, rfl, rfl, rfl⟩
@[simp] theorem Dev.setTrust_own (d : Dev) (f : Trust → Trust) : (d.setTrust f).trust = f d.trust := rfl
@[simp] theorem Dev.setPw_fields (d : Dev) (f : Pw → Pw) :
    (d.setPw f).now = d.now ∧ (d.setPw f).part = d.part ∧ (d.setPw f).start = d.start ∧ (d.setPw f).vinUp = d.vinUp ∧ (d.setPw f).resetLow
    = d.resetLow ∧ (d.setPw f).tripped = d.tripped ∧ (d.setPw f).resetEnd = d.resetEnd ∧ (d.setPw f).grade = d.grade ∧ (d.setPw f).serial
    = d.serial ∧ (d.setPw f).idleSince = d.idleSince ∧ (d.setPw f).hif = d.hif ∧ (d.setPw f).own = d.own ∧ (d.setPw f).prof = d.prof ∧
    (d.setPw f).time = d.time ∧ (d.setPw f).eth = d.eth ∧ (d.setPw f).ethInt = d.ethInt ∧ (d.setPw f).sens = d.sens ∧ (d.setPw f).vision =
    d.vision ∧ (d.setPw f).ts = d.ts ∧ (d.setPw f).dmem = d.dmem ∧ (d.setPw f).comp = d.comp ∧ (d.setPw f).ipm = d.ipm ∧ (d.setPw f).nvme
    = d.nvme ∧ (d.setPw f).tier = d.tier ∧ (d.setPw f).flt = d.flt ∧ (d.setPw f).neural = d.neural ∧ (d.setPw f).card = d.card ∧ (d.setPw
    f).fusion = d.fusion ∧ (d.setPw f).solver = d.solver ∧ (d.setPw f).place = d.place ∧ (d.setPw f).est = d.est ∧ (d.setPw f).spi = d.spi
    ∧ (d.setPw f).trust = d.trust ∧ (d.setPw f).fleet = d.fleet ∧ (d.setPw f).out = d.out ∧ (d.setPw f).kick = d.kick ∧ (d.setPw f).free =
    d.free :=
  ⟨rfl, rfl, rfl, rfl, rfl, rfl, rfl, rfl, rfl, rfl, rfl, rfl, rfl, rfl, rfl, rfl, rfl, rfl, rfl, rfl, rfl, rfl, rfl, rfl, rfl, rfl, rfl,
    rfl, rfl, rfl, rfl, rfl, rfl, rfl, rfl, rfl, rfl⟩
@[simp] theorem Dev.setPw_own (d : Dev) (f : Pw → Pw) : (d.setPw f).pw = f d.pw := rfl
@[simp] theorem Dev.setFlag_fields (d : Dev) (n v : Nat) :
    (d.setFlag n v).now = d.now ∧ (d.setFlag n v).part = d.part ∧ (d.setFlag n v).start = d.start ∧ (d.setFlag n v).vinUp = d.vinUp ∧
    (d.setFlag n v).resetLow = d.resetLow ∧ (d.setFlag n v).tripped = d.tripped ∧ (d.setFlag n v).resetEnd = d.resetEnd ∧ (d.setFlag n
    v).grade = d.grade ∧ (d.setFlag n v).serial = d.serial ∧ (d.setFlag n v).idleSince = d.idleSince ∧ (d.setFlag n v).hif = d.hif ∧
    (d.setFlag n v).own = d.own ∧ (d.setFlag n v).prof = d.prof ∧ (d.setFlag n v).time = d.time ∧ (d.setFlag n v).eth = d.eth ∧ (d.setFlag
    n v).ethInt = d.ethInt ∧ (d.setFlag n v).sens = d.sens ∧ (d.setFlag n v).vision = d.vision ∧ (d.setFlag n v).ts = d.ts ∧ (d.setFlag n
    v).comp = d.comp ∧ (d.setFlag n v).ipm = d.ipm ∧ (d.setFlag n v).nvme = d.nvme ∧ (d.setFlag n v).tier = d.tier ∧ (d.setFlag n v).flt =
    d.flt ∧ (d.setFlag n v).neural = d.neural ∧ (d.setFlag n v).card = d.card ∧ (d.setFlag n v).fusion = d.fusion ∧ (d.setFlag n v).solver
    = d.solver ∧ (d.setFlag n v).place = d.place ∧ (d.setFlag n v).est = d.est ∧ (d.setFlag n v).spi = d.spi ∧ (d.setFlag n v).trust =
    d.trust ∧ (d.setFlag n v).fleet = d.fleet ∧ (d.setFlag n v).pw = d.pw ∧ (d.setFlag n v).out = d.out ∧ (d.setFlag n v).kick = d.kick ∧
    (d.setFlag n v).free = d.free :=
  ⟨rfl, rfl, rfl, rfl, rfl, rfl, rfl, rfl, rfl, rfl, rfl, rfl, rfl, rfl, rfl, rfl, rfl, rfl, rfl, rfl, rfl, rfl, rfl, rfl, rfl, rfl, rfl,
    rfl, rfl, rfl, rfl, rfl, rfl, rfl, rfl, rfl, rfl⟩
end Sys2Proof.Machine
end

