-- ==== Sys2Proof/WellFormed.lean ====
section
/-! DEFINITION. Commands as the outside can send them: a ring that exists, a descriptor of 64 bytes whose payload travels inline
only on the channels of masters 2-4 (spec/03 R78), a master that writes registers directly (spec/03, *Masters*). -/

namespace Sys2Proof

/-- A ring of 0-63 (spec/02, *Rings*). -/
def ringIx (n : Nat) : Bool := decide (n < 64)

/-- The channel exists. -/
def Chan.wf : Chan → Bool
  | .sq n => ringIx n
  | _ => true

/-- The body is the 40 bytes 24-63 (R45), and a submission ring carries no inline payload (R78). -/
def Desc.wf (ch : Chan) (d : Desc) : Bool :=
  d.body.length == 40 && (match ch with
    | .sq _ => d.payload.isEmpty
    | _ => true)

/-- The PCIe host or the I3C controller: the masters that reach registers without a descriptor. -/
def master12 (m : Nat) : Bool := m == 1 || m == 2

/-- A command is well formed. -/
def Instr.wf : Instr → Bool
  | .identify _ ch d => ch.wf && d.wf ch
  | .createCq _ ch d => ch.wf && d.wf ch
  | .createSq _ ch d => ch.wf && d.wf ch
  | .deleteSq _ ch d => ch.wf && d.wf ch
  | .deleteCq _ ch d => ch.wf && d.wf ch
  | .abortSq _ ch d => ch.wf && d.wf ch
  | .nop _ ch d => ch.wf && d.wf ch
  | .ownClaim _ ch d => ch.wf && d.wf ch
  | .ownHeartbeat _ ch d => ch.wf && d.wf ch
  | .ownHandover _ ch d => ch.wf && d.wf ch
  | .ownAccept _ ch d => ch.wf && d.wf ch
  | .ownRelease _ ch d => ch.wf && d.wf ch
  | .profileSelect _ ch d => ch.wf && d.wf ch
  | .profileRead _ ch d => ch.wf && d.wf ch
  | .profileWrite _ ch d => ch.wf && d.wf ch
  | .profileRestore _ ch d => ch.wf && d.wf ch
  | .regRead _ ch d => ch.wf && d.wf ch
  | .regWrite _ ch d => ch.wf && d.wf ch
  | .timeSelect _ ch d => ch.wf && d.wf ch
  | .timeSet _ ch d => ch.wf && d.wf ch
  | .setLaunchPeriod _ ch d => ch.wf && d.wf ch
  | .timeStatus _ ch d => ch.wf && d.wf ch
  | .sensorInject _ ch d => ch.wf && d.wf ch
  | .sensorEnable _ ch d => ch.wf && d.wf ch
  | .slotRead _ ch d => ch.wf && d.wf ch
  | .frameGrab _ ch d => ch.wf && d.wf ch
  | .gnssSend _ ch d => ch.wf && d.wf ch
  | .rectLoad _ ch d => ch.wf && d.wf ch
  | .stereoStored _ ch d => ch.wf && d.wf ch
  | .vpParams _ ch d => ch.wf && d.wf ch
  | .vpMove _ ch d => ch.wf && d.wf ch
  | .stereoGrab _ ch d => ch.wf && d.wf ch
  | .modelInstall _ ch d => ch.wf && d.wf ch
  | .modelRemove _ ch d => ch.wf && d.wf ch
  | .modelLoad _ ch d => ch.wf && d.wf ch
  | .modelUnload _ ch d => ch.wf && d.wf ch
  | .infer _ ch d => ch.wf && d.wf ch
  | .modelQuery _ ch d => ch.wf && d.wf ch
  | .stateReset _ ch d => ch.wf && d.wf ch
  | .modelBind _ ch d => ch.wf && d.wf ch
  | .modelUnbind _ ch d => ch.wf && d.wf ch
  | .solverLoad _ ch d => ch.wf && d.wf ch
  | .solve _ ch d => ch.wf && d.wf ch
  | .solverFree _ ch d => ch.wf && d.wf ch
  | .solverQuery _ ch d => ch.wf && d.wf ch
  | .estConfig _ ch d => ch.wf && d.wf ch
  | .estStart _ ch d => ch.wf && d.wf ch
  | .estStop _ ch d => ch.wf && d.wf ch
  | .estStatus _ ch d => ch.wf && d.wf ch
  | .keyframeRead _ ch d => ch.wf && d.wf ch
  | .fusionStart _ ch d => ch.wf && d.wf ch
  | .fusionStop _ ch d => ch.wf && d.wf ch
  | .fusionBounds _ ch d => ch.wf && d.wf ch
  | .fusionReset _ ch d => ch.wf && d.wf ch
  | .fusionStatus _ ch d => ch.wf && d.wf ch
  | .indexCreate _ ch d => ch.wf && d.wf ch
  | .indexLoad _ ch d => ch.wf && d.wf ch
  | .indexDrop _ ch d => ch.wf && d.wf ch
  | .placeInsert _ ch d => ch.wf && d.wf ch
  | .placeDelete _ ch d => ch.wf && d.wf ch
  | .placeQuery _ ch d => ch.wf && d.wf ch
  | .indexMerge _ ch d => ch.wf && d.wf ch
  | .indexQuery _ ch d => ch.wf && d.wf ch
  | .walkerSet _ ch d => ch.wf && d.wf ch
  | .tierQuery _ ch d => ch.wf && d.wf ch
  | .tierPromote _ ch d => ch.wf && d.wf ch
  | .tierEvict _ ch d => ch.wf && d.wf ch
  | .tierUnpin _ ch d => ch.wf && d.wf ch
  | .tierUsage _ ch d => ch.wf && d.wf ch
  | .slowAttach _ ch d => ch.wf && d.wf ch
  | .ipmChannel _ ch d => ch.wf && d.wf ch
  | .fleetConfig _ ch d => ch.wf && d.wf ch
  | .fleetEnrol _ ch d => ch.wf && d.wf ch
  | .fleetJoin _ ch d => ch.wf && d.wf ch
  | .fleetFrame _ ch d => ch.wf && d.wf ch
  | .shardTable _ ch d => ch.wf && d.wf ch
  | .shardHost _ ch d => ch.wf && d.wf ch
  | .shardDrop _ ch d => ch.wf && d.wf ch
  | .shardHandover _ ch d => ch.wf && d.wf ch
  | .shardPromote _ ch d => ch.wf && d.wf ch
  | .fleetQuery _ ch d => ch.wf && d.wf ch
  | .shardStatus _ ch d => ch.wf && d.wf ch
  | .fltStatus _ ch d => ch.wf && d.wf ch
  | .unitFence _ ch d => ch.wf && d.wf ch
  | .unitReturn _ ch d => ch.wf && d.wf ch
  | .assayRun _ ch d => ch.wf && d.wf ch
  | .baseEnter _ ch d => ch.wf && d.wf ch
  | .baseExit _ ch d => ch.wf && d.wf ch
  | .fltLog _ ch d => ch.wf && d.wf ch
  | .hmIdentity _ ch d => ch.wf && d.wf ch
  | .hmAttest _ ch d => ch.wf && d.wf ch
  | .updateKeyInstall _ ch d => ch.wf && d.wf ch
  | .updateStage _ ch d => ch.wf && d.wf ch
  | .updateActivate _ ch d => ch.wf && d.wf ch
  | .updateCancel _ ch d => ch.wf && d.wf ch
  | .updateConfirm _ ch d => ch.wf && d.wf ch
  | .acceptDefaults _ ch d => ch.wf && d.wf ch
  | .updateRevert _ ch d => ch.wf && d.wf ch
  | .updateStatus _ ch d => ch.wf && d.wf ch
  | .settingsExport _ ch d => ch.wf && d.wf ch
  | .sqTailDoorbell _ n _ => ringIx n
  | .cqHeadDoorbell _ n _ => ringIx n
  | .eventRingHeadDoorbell _ _ => true
  | .bar2InvalidWrite _ _ _ _ => true
  | .registerWrite _ m _ _ _ => master12 m
  | .abiRequest _ _ => true
  | .abiNegotiationDone _ => true
  | .adminRingEnable _ _ => true
  | .adminRingDisable _ _ => true
  | .eventRingEnable _ _ => true
  | .eventRingDisable _ _ => true
  | .counterSnap _ m _ => master12 m
  | .counterRelease _ m _ => master12 m
  | .timeSnapLatch _ m => master12 m
  | .msixUnmask _ v => decide (v < 128)
  | .tmrArm _ m _ _ => master12 m
  | .tmrDisarm _ m _ _ => master12 m
  | .trackEnable _ m _ _ => master12 m
  | .trackDisable _ m _ _ => master12 m
  | .holdMaxSWrite _ m _ => master12 m
  | .ethPortEnable _ m _ _ => master12 m
  | .ethPortDisable _ m _ _ => master12 m
  | .csiPortEnable _ m _ => master12 m
  | .csiPortDisable _ m _ => master12 m
  | .canConfigApply _ _ => true
  | .tsArm _ m _ _ => master12 m
  | .tsDisarm _ m _ => master12 m
  | .powerUp _ => true
  | .vinLoss _ => true
  | .resetNAssert _ => true
  | .hostInterfaceReset _ _ => true
  | .strapSample _ _ _ => true
  | .loaderMeasured _ _ _ => true
  | .startupProfileRead _ => true
  | .safetyIslandRunning _ => true
  | .controlComplexRunning _ => true
  | .ipmTrained _ => true
  | .startupReady _ => true
  | .pcieLinkTrain _ => true
  | .descriptorFetchFail _ n => ringIx n
  | .descriptorStart _ ch _ => ch.wf
  | .timedLaunchStart _ ch _ => ch.wf
  | .launchMissed _ ch _ => ch.wf
  | .msixCoalesceTimeout _ n => ringIx n
  | .partReadyTimeout _ => true
  | .arbitrationWindowEnd _ => true
  | .leaseLapse _ => true
  | .handoverExpire _ => true
  | .profileApplyDone _ => true
  | .i3cDescriptorWrite _ w => decide (64 ≤ w.bytes.length)
  | .i3cCompletionRead _ => true
  | .safeSpiFrame _ mosi => decide (mosi.length ≤ 288)
  | .safeReqAssert _ => true
  | .safeReqDeassert _ => true
  | .baseMetalBlocksGated _ => true
  | .ptpSyncRx _ _ _ _ _ _ _ _ => true
  | .ptpAnnounceRx _ _ _ _ _ => true
  | .ptpDelayMsgRx _ _ _ _ _ _ _ _ => true
  | .ptpSyncTx _ _ => true
  | .ptpEventForward _ _ _ _ _ _ _ => true
  | .ppsInPulse _ => true
  | .trackLostTimeout _ _ => true
  | .holdoverExpire _ => true
  | .holdErrUpdate _ _ => true
  | .ethLinkChange _ _ _ _ _ => true
  | .ethFrameRx _ _ _ => true
  | .tmrCaptureEdge _ _ _ => true
  | .tmrPulseEdge _ _ => true
  | .ppsOutPulse _ => true
  | .csiFrameStart _ _ _ _ _ => true
  | .csiLongPacket _ _ _ _ _ _ _ _ => true
  | .csiFrameEnd _ _ _ _ _ => true
  | .imuDrdyEdge _ _ _ _ => true
  | .imuReadDone _ _ _ => true
  | .canFrameRx _ _ _ _ _ _ _ _ _ => true
  | .gnssSentenceRx _ _ _ => true
  | .lidarDatagramRx _ _ _ _ _ _ _ => true
  | .lidarSweepTimeout _ _ => true
  | .sensorSilenceTimeout _ _ => true
  | .pairTimeout _ _ => true
  | .vpBandReady _ _ => true
  | .vpAdmissionWindow _ _ => true
  | .vpFault _ _ => true
  | .taskDispatch _ _ _ => true
  | .taskCommit _ _ _ _ => true
  | .taskOverrun _ _ _ => true
  | .engineMessageRx _ _ _ => true
  | .roleRebuildDone _ _ _ => true
  | .reductionRoundDone _ _ => true
  | .copyDone _ _ _ _ _ _ _ _ _ _ _ => true
  | .upcUpdate _ => true
  | .ceilingHoldClear _ _ => true
  | .sramPatrolScrub _ _ => true
  | .sramUncorrectable _ _ _ => true
  | .flagUncorrExpire _ _ => true
  | .ipmPatrolScrub _ _ _ => true
  | .ipmUncorrectable _ _ _ _ => true
  | .ipmChannelFault _ _ => true
  | .ipmResyncDone _ _ => true
  | .nvmeDeviceDetect _ _ _ _ => true
  | .nvmeCmdTimeout _ _ _ => true
  | .promotionDone _ _ => true
  | .evictionDone _ _ => true
  | .slowReadFail _ _ _ => true
  | .tierRepairDone _ _ _ => true
  | .waveStart _ _ _ _ => true
  | .bindBandReady _ _ _ _ => true
  | .fusionTick _ _ => true
  | .fusionTickCommit _ _ => true
  | .poseTakeoverTimeout _ => true
  | .imuGapTimeout _ => true
  | .imuSwitchTimeout _ => true
  | .frameUpdateStart _ _ => true
  | .frameUpdateDone _ _ => true
  | .windowBaDone _ _ => true
  | .loopQueryDone _ _ => true
  | .poseGraphDone _ _ => true
  | .mapEpochCommit _ _ => true
  | .estLostTimeout _ => true
  | .placeQueryAdmit _ _ => true
  | .placeQueryDone _ _ _ => true
  | .indexMergeCommit _ _ => true
  | .walkerFault _ _ => true
  | .sxpInit _ _ => true
  | .sxpReply _ _ => true
  | .sxpConfirm _ _ _ => true
  | .sxpDatagramRx _ _ => true
  | .publish _ => true
  | .publishAck _ => true
  | .revision _ => true
  | .revisionAck _ => true
  | .query _ => true
  | .queryResult _ => true
  | .roleNotice _ => true
  | .noticeAck _ => true
  | .syncReq _ => true
  | .syncData _ => true
  | .handoverReq _ => true
  | .handoverAck _ => true
  | .bounce _ => true
  | .adminDesc _ => true
  | .ipControlRx _ _ _ _ _ => true
  | .sxpReassemblyTimeout _ _ _ => true
  | .sxpResendTimeout _ _ => true
  | .replyCacheExpire _ _ _ => true
  | .sessionRekey _ _ => true
  | .sessionOldKeyExpire _ _ => true
  | .sessionIdleTimeout _ _ => true
  | .fleetQueryTimeout _ _ _ => true
  | .publishLateTimeout _ _ => true
  | .sxpPortFailover _ => true
  | .sxpPortReturn _ => true
  | .claimTimeout _ _ => true
  | .shardHandoverTimeout _ _ => true
  | .engineFault _ _ _ _ _ _ => true
  | .controlCoreFault _ _ _ => true
  | .fabricFault _ _ => true
  | .fatalFault _ _ => true
  | .fatalResetTimeout _ => true
  | .assayDone _ _ _ _ => true
  | .assayRotation _ => true
  | .tsStreamEnd _ _ => true
  | .safeStopCheck _ => true
  | .heartbeatToggle _ _ => true
  | .hmViolation _ _ _ _ => true
  | .cardInsertRemove _ _ _ _ => true
  | .stagingDone _ _ => true
  | .unstagingDone _ => true
  | .activationDone _ _ => true
  | .healthConfirm _ _ => true
  | .confirmationTimerExpire _ => true
  | .fallbackDone _ _ => true
  | .powerLoopTick _ _ _ _ _ => true
  | .thermalLoopTick _ _ _ => true
  | .environmentFault _ _ => true
  | .environmentClear _ => true
  | .thermalTrip _ _ => true
  | .resetNRelease _ => true
  | .thermalTripRelease _ => true
  | .pcieLinkDown _ => true
  | .busMasteringChange _ _ => true
  | .canBusError _ _ _ _ => true
  | .canBusOffRecovery _ _ => true
  | .i3cCommonCommand _ _ => true
  | .profileWriteDone _ => true
  | .csiDeskewCalibration _ _ => true
  | .slowTierFailure _ _ => true
  | .ssdHealthWarning _ _ => true

end Sys2Proof
end

