-- ==== Sys2Proof/Tests/Slice0.lean ====
section
/-! SUPPORT. A few small tests (their expected values are the spec's), and for every statement with hypotheses a state and operands that
meet them together: `meets_<Statement>`. -/

section

open Sys2Proof Sys2Proof.Machine
-- one test at a time, so that their memory does not add up
set_option Elab.async false

/-! Ill-formed commands are refused: a ring that does not exist, a body that is not 40 bytes, an inline payload on a ring, a master that
reaches no register, a vector past the table, a mailbox write without a descriptor, a SAFE_SPI frame that is too long. -/

theorem test_wf_ring : (Instr.sqTailDoorbell 0 64 0).wf = false ∧ (Instr.sqTailDoorbell 0 63 0).wf = true := by decide
theorem test_wf_channel : (Instr.descriptorStart 0 (.sq 64) 0).wf = false ∧ (Instr.descriptorStart 0 .net 0).wf = true := by decide
theorem test_wf_body : (Instr.nop 0 (.sq 1) { body := List.replicate 39 0 }).wf = false
    ∧ (Instr.nop 0 (.sq 1) { body := List.replicate 40 0 }).wf = true := by decide
theorem test_wf_payload : (Instr.nop 0 (.sq 1) { body := List.replicate 40 0, payload := [0] }).wf = false
    ∧ (Instr.nop 0 .i3c { body := List.replicate 40 0, payload := [0] }).wf = true := by decide
theorem test_wf_master : (Instr.registerWrite 0 3 0 4 0).wf = false ∧ (Instr.registerWrite 0 2 0 4 0).wf = true := by decide
theorem test_wf_vector : (Instr.msixUnmask 0 128).wf = false ∧ (Instr.msixUnmask 0 127).wf = true := by decide
theorem test_wf_mailbox : (Instr.i3cDescriptorWrite 0 ⟨false, List.replicate 63 0⟩).wf = false := by decide
theorem test_wf_frame : (Instr.safeSpiFrame 0 (List.replicate 289 0)).wf = false := by
  show decide ((List.replicate 289 (0 : Byte)).length ≤ 288) = false
  rw [List.length_replicate]; decide

/-- spec/opcode_table.json gives no row any bits. -/
theorem test_no_word_spells_a_command : decodeTableWord 512 0x0001 = none ∧ State.reset.withFetchWord 512 0x0001 = State.reset := ⟨rfl, rfl⟩

/-- The first descriptor of "A submission worked through" (spec/02): opcode 0x002 with format 1 and IRQ, host_tag 0xA0. -/
theorem test_descriptor_bytes :
    let x := parseDesc ([0x02, 0x10, 0x01, 0x00, 0xA0, 0x00, 0x00, 0x00] ++ List.replicate 56 0)
    x.1 = .createCq ∧ x.2.fmtVer = 1 ∧ x.2.irq = true ∧ x.2.depWait = false ∧ x.2.hostTag = 0xA0 := by decide

/-- Its third completion (spec/02): host_tag 0xA2, count 16, sq_head 1, sq_id 0, ST_STATE_CONFLICT 0x0102, phase 0. -/
theorem test_completion_bytes :
    (Cpl.entry (Cpl.conflict 0x0102) 0xA2 16 1 0 false).take 14 = [0xA2, 0, 0, 0, 16, 0, 0, 0, 1, 0, 0, 0x10, 0x02, 0x01]
    ∧ (Cpl.entry (Cpl.conflict 0x0102) 0xA2 16 1 0 false).length = 32 := by decide

/-- HIF_ABI_ACT of that example: TOP_MAJOR 3, RESULT 1, MAJOR 3, MINOR 2. -/
theorem test_abi_act : ({ actMajor := 3, actMinor := 2, actResult := 1 } : Iface).abiAct = 0x03010302 := by decide

/-- The check values of *Touchstone polynomials* (spec/15). -/
theorem test_touchstone_check_values :
    let b : Bytes := [0x31, 0x32, 0x33, 0x34, 0x35, 0x36, 0x37, 0x38, 0x39]
    crcOf 0 b = 0xE3069283 ∧ crcOf 1 b = 0xCBF43926 ∧ crcOf 2 b = 0x29B1 ∧ crcOf 3 b = 0x6C40DF5F0B497347 := by decide +kernel

/-- Offset 4,096 of spec/08's example: group 1, word 8, check member 1, on PC17 at position 1 and channel address 72. -/
theorem test_ipm_place :
    let p := ipmPlace 4096
    p.group = 1 ∧ p.s = 1 ∧ p.word = 8 ∧ p.check = 1 ∧ p.member = 2 ∧ p.channel = 17 ∧ p.position = 1 ∧ p.address = 72 := by decide

/-- A waiting command is taken and the queue's rest stays; the power-up of an unpowered part releases its reset (R101). -/
theorem test_power_up :
    let s : State := { dev := { start := .held, vinUp := false }, pending := [.powerUp 5, .powerUp 6] }
    ∃ t, step s = .next t ∧ t.pending = [.powerUp 6] ∧ t.dev.start = .released ∧ t.dev.vinUp = true ∧ t.dev.now = 5 :=
  ⟨_, rfl, rfl, by decide +kernel, by decide +kernel, by decide +kernel⟩

/-! The statements that join parts have a witness for each part: StartUpCommandsComplete (meets_StartUpStepsComplete,
meets_SafetyIslandStarts); FullResetsComplete (meets_FullResetsComplete, meets_FullResetLeaves); HostLinkAndReadyComplete
(meets_HostLinkCommandsComplete, meets_ReadyAppliesStrappedProfile); HostInterfaceWritesComplete (meets_DoorbellsComplete,
meets_HostInterfaceControlsComplete); BlockControlsComplete (meets_TimerPinControlsComplete, meets_TimeControlsComplete,
meets_PortControlsComplete); TrackAndTimeBaseCommandsComplete (meets_TrackMessagesComplete, meets_TimeBaseInstantsComplete);
EthernetAndPinCommandsComplete (meets_EthernetCommandsComplete, meets_PinEdgesComplete); CameraAndInertialCommandsComplete
(meets_CameraPacketsComplete, meets_InertialCommandsComplete); CanReceiverAndLidarCommandsComplete (meets_CanCommandsComplete,
meets_ReceiverAndLidarCommandsComplete); MemoryCheckAndChannelCommandsComplete (meets_MemoryCheckCommandsComplete,
meets_ChannelCommandsComplete); TierCommandsComplete (meets_SlowTierCommandsComplete, meets_TierMovesComplete);
NeuralAndFusionCommandsComplete (meets_NeuralCommandsComplete, meets_FusionCommandsComplete); FleetMessagesAndTimersComplete (meets_FleetMessagesComplete,
meets_FleetTimersComplete); TrustAndUpdateOpcodesComplete (meets_TrustOpcodesComplete, meets_UpdateOpcodesComplete). -/

/-- A part in READY with its host link up, owned by the PCIe host. -/
def part : Dev :=
  { start := .done, part := .ready, hif := { linkUp := true, busMaster := true, crs := false }, own := { st := .owned, owner := 1 } }
/-- Bytes with the values `l` gives, 0 elsewhere. -/
def bytesOf (n : Nat) (l : List (Nat × Nat)) : Bytes := (List.range n).map fun k => BitVec.ofNat 8 ((l.lookup k).getD 0)
/-- A record whose sensor entry 0 has the bytes `l`. -/
def entry0 (l : List (Nat × Nat)) : Bytes := List.replicate 512 0 ++ bytesOf 112 l
/-- The state whose part is `d`, at the instant 0 of its clock. -/
def at0 (d : Dev) : State := { dev := d }
theorem at0_devAt (d : Dev) : (at0 d).devAt 0 = d := by simp [at0, State.devAt, advance]

/-- A part whose rings 0 and 1 are active, each with one descriptor to fetch and room for its completion. -/
def ringed (d : Dev) : Dev := { d with hif := { d.hif with
  sq := upd (upd d.hif.sq 1 fun r => { r with st := .active, cq := 1, tail := 1, log2 := 4, base := 0x1000 }) 0 fun r => { r with
    st := .active, cq := 0, tail := 1, log2 := 4, base := 0x2000 }
  cq := upd (upd d.hif.cq 1 fun q => { q with st := .active, log2 := 4, base := 0x3000, phase := true }) 0 fun q => { q with
    st := .active, log2 := 4, base := 0x4000, phase := true } } }
/-- The state with that part, major 3 minor 2 in force. -/
def atRing (d : Dev) : State := { iface := { actMajor := 3, actMinor := 2, actResult := 1 }, dev := d }
theorem atRing_devAt (d : Dev) : (atRing d).devAt 0 = d := by simp [atRing, State.devAt, advance]
/-- A descriptor whose bytes 24-63 have the values `l` gives, with an inline payload. -/
def desc (l : List (Nat × Nat)) (p : Bytes := []) : Desc := { body := bytesOf 40 (l.map fun q => (q.1 - 24, q.2)), payload := p }
def acceptsB (d : Dev) (ch : Chan) (op : Op) (x : Desc) : Bool :=
  d.canFetch ch && decide (judge (atRing d).iface ch op x (d.chan ch).nextCount d = none) && decide (x.launchAt = 0) && !x.depWait && !x.epochWait
    && (d.chan ch).pend.isEmpty && (d.chan ch).closers.isEmpty && d.kick.isEmpty && !inputFails op ((atRing d).opCtx d ch x) (d.begun ch op x)
theorem accepts_of {d : Dev} {ch : Chan} {op : Op} {x : Desc} (h : acceptsB d ch op x = true) : (atRing d).Accepts d ch op x := by
  simp [acceptsB] at h
  obtain ⟨⟨⟨⟨⟨⟨⟨⟨h1, h2⟩, h3⟩, h4⟩, h5⟩, h6⟩, h7⟩, h8⟩, h9⟩ := h
  exact ⟨h1, h2, h3, h4, h5, h6, h7, h8, h9⟩
def servesB (d : Dev) (ch : Chan) (op : Op) (x : Desc) : Bool :=
  acceptsB d ch op x && channels.contains ch && decide (settleParts (d.readied ch op x) = d.readied ch op x) && (d.readied ch op x).room ch
def keepsB (d : Dev) (ch : Chan) (op : Op) (x : Desc) (f : Dev) : Bool :=
  decide ((f.chan ch).pend = ((d.begun ch op x).chan ch).pend) && (f.chan ch).closers.isEmpty && f.room ch
/-- The hypotheses of a statement's clause about an opcode that begins hold of a part and a descriptor: the clause applies to them. -/
theorem Sys2Proof.Machine.Starts.meets {mk : Nat → Chan → Desc → Instr} {op : Op} {can : OpCtx → Dev → Prop} {eff : OpCtx → Dev → Dev} (h : Starts mk op can eff)
    (d : Dev) (ch : Chan) (x : Desc) (ha : acceptsB d ch op x = true) (hc : can ((atRing d).opCtx d ch x) (d.begun ch op x)) :
    Completes (exec (mk 0 ch x) (atRing d)) := ⟨_, h _ _ _ _ _ (atRing_devAt d) (accepts_of ha) hc⟩
theorem serves_of {d : Dev} {ch : Chan} {op : Op} {x : Desc} (h : servesB d ch op x = true) : (atRing d).Serves d ch op x := by
  simp [servesB] at h
  obtain ⟨⟨⟨h1, h2⟩, h3⟩, h4⟩ := h
  exact ⟨accepts_of h1, by simpa using h2, h3, h4⟩
theorem keeps_of {d : Dev} {ch : Chan} {op : Op} {x : Desc} {f : Dev} (h : keepsB d ch op x f = true) : d.Keeps ch op x f := by
  simp [keepsB] at h
  exact ⟨h.1.1, h.1.2, h.2⟩
/-- The same for an opcode in the ring order. -/
theorem Sys2Proof.Machine.Runs.meets {mk : Nat → Chan → Desc → Instr} {op : Op} {can : OpCtx → Dev → Prop} {eff : OpCtx → Dev → Dev × Cpl}
    (h : Runs mk op can eff) (d : Dev) (ch : Chan) (x : Desc) (ha : servesB d ch op x = true) (hc : can ((atRing d).opCtx d ch x) (d.begun ch op x))
    (hk : keepsB d ch op x (eff ((atRing d).opCtx d ch x) (d.begun ch op x)).1 = true) : Completes (exec (mk 0 ch x) (atRing d)) :=
  ⟨_, h _ _ _ _ _ (atRing_devAt d) (serves_of ha) hc (keeps_of hk)⟩
theorem Sys2Proof.Machine.Turns.meets {mk : Nat → Chan → Desc → Instr} {op : Op} {can : OpCtx → Dev → Prop} {eff : OpCtx → Dev → Dev} (h : Turns mk op can eff)
    (d : Dev) (ch : Chan) (x : Desc) (ha : servesB d ch op x = true) (hc : can ((atRing d).opCtx d ch x) (d.begun ch op x)) :
    Completes (exec (mk 0 ch x) (atRing d)) := ⟨_, h _ _ _ _ _ (atRing_devAt d) (serves_of ha) hc⟩
theorem Sys2Proof.Machine.Ends.meets {mk : Nat → Chan → Desc → Instr} {op : Op} {can : OpCtx → Dev → Prop} {eff : OpCtx → Dev → Dev × Cpl}
    (h : Ends mk op can eff) (d : Dev) (ch : Chan) (x : Desc) (ha : servesB d ch op x = true) (hc : can ((atRing d).opCtx d ch x) (d.begun ch op x))
    (hk : keepsB d ch op x (eff ((atRing d).opCtx d ch x) (d.begun ch op x)).1 = true := by decide +kernel) : Completes (exec (mk 0 ch x) (atRing d)) :=
  Runs.meets h d ch x ha hc hk
/-- The owner's part at its rings. -/
def own1 : Dev := ringed part
/-- A part whose master 1 may claim, its ownership in state `x`. -/
def claimPart (x : OwnSt) (o : Nat) : Dev := { own1 with own := { own1.own with st := x, owner := o, successor := 1, prio := 0x1111 } }
theorem leNat_zeros (l : Bytes) (k : Nat) : leNat (l ++ List.replicate k 0) = leNat l := by
  induction l with
  | nil =>
    induction k with
    | zero => rfl
    | succ k ih => exact (congrArg (fun n => 0 + 256 * n) ih : _)
  | cons b r ih => simp only [List.cons_append, leNat, ih]
/-- A record reads the same with zeros behind it. -/
theorem fld_pad (b : Bytes) (m : Nat) : fld (b ++ List.replicate m 0) = fld b := by
  funext lo n
  simp only [fld, List.drop_append, List.take_append, List.drop_replicate, List.take_replicate]
  exact leNat_zeros _ _
/-- A record without a sensor map is at fault in its head alone. -/
theorem recordFault_flat (fmt p : Nat) (r : Bytes) (hs : ∀ i o n, sef r i o n = 0) (hh : headFaults fmt p r = []) : recordFault fmt p r = none := by
  have h2 : ∀ i, entryFaults r i = [] := by
    intro i
    have hz : ∀ k, fld r (entryAt i + k) 1 = 0 := fun k => hs i k 1
    simp [entryFaults, hs, notZero, hz, failAt]
  have h3 : ∀ i, clashFaults r i = [] := by intro i; simp only [clashFaults, hs]
  have h4 : ∀ i, visionFaults r i = [] := by intro i; simp [visionFaults, routedIn, hs]
  have h5 : storageFaults r = [] := by simp [storageFaults, hs]; decide
  simp [recordFault, hh, h2, h3, h4, h5]; rfl
theorem recordOk : recordFault 6 1 (padTo 4096 (defaultRecord 1)) = none := by
  have hl : (defaultRecord 1).length = 56 := by decide
  have e : padTo 4096 (defaultRecord 1) = defaultRecord 1 ++ List.replicate 4040 0 := by
    unfold padTo; rw [hl, List.take_of_length_le (by rw [hl]; decide)]
  have hn : nameField (defaultRecord 1 ++ List.replicate 4040 0) = nameField (defaultRecord 1) := by
    unfold nameField
    rw [List.drop_append_of_le_length (by rw [hl]; decide), List.take_append_of_le_length (by rw [List.length_drop, hl]; decide)]
  rw [e]
  apply recordFault_flat
  · intro i o n
    unfold sef
    rw [fld_pad, fld, List.drop_eq_nil_of_le (by rw [hl]; unfold entryAt; omega)]; simp [leNat]
  · have : headFaults 6 1 (defaultRecord 1) = [] := by decide +kernel
    rw [← this]
    unfold headFaults notZero within minEnvelope
    rw [fld_pad, hn]
theorem record1Ok (fmt p : Nat) (r : Bytes) (h1 : fmt = 6) (h2 : p = 1) (h3 : r = padTo 4096 (padTo 4096 (defaultRecord 1))) : recordFault fmt p r = none := by
  have hl : (padTo 4096 (defaultRecord 1)).length = 4096 := by unfold padTo; rw [List.length_append, List.length_take, List.length_replicate]; decide
  have : padTo 4096 (padTo 4096 (defaultRecord 1)) = padTo 4096 (defaultRecord 1) := by
    have pad : ∀ b : Bytes, b.length = 4096 → padTo 4096 b = b := by intro b hb; unfold padTo; rw [hb, List.take_of_length_le (Nat.le_of_eq hb)]; simp
    exact pad _ hl
  rw [h1, h2, h3, this, recordOk]
theorem recordBad (fmt p : Nat) (r : Bytes) (h : (fld r 0 2 == fmt) = false) : recordFault fmt p r = some 0 := by
  have hf : ∀ l : List Nat, l.foldl (fun m o => some (match m with
      | none => o
      | some x => min x o)) (some 0) = some 0 := by
    intro l
    induction l with
    | nil => rfl
    | cons a l ih => simpa using ih
  have : ∃ l, headFaults fmt p r = 0 :: l := by
    unfold headFaults
    rw [show failAt 0 (fld r 0 2 == fmt) = [0] by rw [h]; rfl]
    simp only [List.cons_append, List.nil_append]
    exact ⟨_, rfl⟩
  obtain ⟨l, hl⟩ := this
  unfold recordFault
  rw [hl]
  exact hf _

/-! The parts of this section stand at their clock's instant (at0_devAt). -/
def startPart (st : StartSt) : Dev := { start := st, vinUp := true }
theorem meets_StartUpStepsComplete :
    (let d : Dev := { start := .held, vinUp := false }; d.vinUp = false ∧ d.start = .held ∧ d.resetLow = false ∧ d.tripped = false)
    ∧ (let d : Dev := { start := .held, resetLow := true }; d.start = .held ∧ d.vinUp = true ∧ d.tripped = false)
    ∧ (let d : Dev := { start := .held, tripped := true }; d.start = .held ∧ d.vinUp = true ∧ d.resetLow = false)
    ∧ (startPart .strapsSampled).trust.loaderOk = true ∧ (startPart .strapsSampled).trust.st = .idle
    ∧ (startPart .loaderMeasured).prof.stored.getD (startPart .loaderMeasured).prof.strap [] ≠ []
    ∧ ∀ st, (startPart st).start = st := by
  refine ⟨?_, ?_, ?_, ?_, ?_, ?_, fun _ => rfl⟩ <;> decide +kernel
theorem meets_SafetyIslandStarts :
    let d := startPart .profileRead
    let e := { d with
      start := .safetyRunning, time := { d.time with running := true, tb := 0, st := .freeRun }
      flt := { d.flt with beatAt := d.now, rotateAt := d.now }, est := { d.est with wroteAt := d.now } }
    (at0 d).devAt 0 = d ∧ d.start = .profileRead ∧ (∀ i, i < 32 → d.safetySensor i = false)
    ∧ fld (((d.est.saved.find? fun x => x.1 == d.prof.activeId).map (·.2)).getD e.estDefaults) 2 1 = 0xFF :=
  ⟨at0_devAt _, rfl, by decide +kernel, by decide +kernel⟩
theorem meets_FullResetsComplete :
    (at0 part).devAt 0 = part ∧ part.vinUp = true ∧ part.resetLow = false ∧ part.tripped = false ∧ (if part.grade = 0 then (115 : Int) else 125) ≤ 115
    ∧ ({ part with vinUp := false } : Dev).vinUp = false
    ∧ (let d := { part with flt := { part.flt with fatal := some (4, 0) } }; d.flt.fatal = some (4, 0) ∧ 0 ≤ d.now) :=
  ⟨at0_devAt _, by decide, by decide, by decide, by decide, rfl, rfl, by decide⟩
theorem meets_FullResetLeaves : part.flt.fatalEv = none := rfl
theorem meets_HostLinkCommandsComplete :
    (at0 part).devAt 0 = part ∧ 5 ≤ part.start.rank ∧ part.hostReach = true ∧ part.hif.crs = false := ⟨at0_devAt _, by decide, by decide, rfl⟩
theorem meets_ReadyAppliesStrappedProfile :
    (at0 (startPart .ipmTrained)).devAt 0 = startPart .ipmTrained ∧ (startPart .ipmTrained).start = .ipmTrained ∧ (startPart .ipmTrained).part = .starting :=
  ⟨at0_devAt _, rfl, rfl⟩
/-- The part with its event ring of 16 entries; its rings 0 and 1 are active (ringed). -/
def eventPart : Dev := { own1 with hif := { own1.hif with evr := { on := true, log2 := 4, tail := 15 } } }
theorem meets_DoorbellsComplete :
    (at0 eventPart).devAt 0 = eventPart ∧ eventPart.hostReach = true ∧ (eventPart.chan (.sq 1)).st = .active ∧ (eventPart.cq 1).st ≠ .absent
    ∧ 0 % 65536 < 2 ^ (eventPart.cq 1).log2 ∧ (0 + 16 - (eventPart.cq 1).head) % 16 ≤ ((eventPart.cq 1).tail + 16 - (eventPart.cq 1).head) % 16
    ∧ eventPart.hif.evr.on = true ∧ eventPart.hif.evr.lost = 0 ∧ 15 < 2 ^ eventPart.hif.evr.log2
    ∧ (15 + 16 - eventPart.hif.evr.head) % 16 ≤ (eventPart.hif.evr.tail + 16 - eventPart.hif.evr.head) % 16 := by
  refine ⟨at0_devAt _, ?_⟩; decide +kernel
theorem meets_HostInterfaceControlsComplete :
    (at0 part).devAt 0 = part ∧ part.hostReach = true ∧ ({} : Iface).locked = false ∧ (abiMinor 3).isSome = true ∧ abiMinor 255 = none
    ∧ (let i : Iface := { negotiating := some (3, 0) }; i.negotiating = some (3, 0))
    ∧ (let i : Iface := { actResult := 1 }; i.admEnable = false ∧ i.evrEnable = false ∧ i.actResult = 1)
    ∧ sizeOk ((4 + 32 * 16) % 32) = true ∧ sizeOk ((4 + 32 * 16) / 32 % 32) = true
    ∧ (let i : Iface := { admEnable := true, evrEnable := true }; i.admEnable = true ∧ i.evrEnable = true) := by
  refine ⟨at0_devAt _, ?_⟩; decide +kernel
theorem meets_RegisterAccessesComplete :
    (at0 part).devAt 0 = part ∧ part.Reaches 1 ∧ part.Reaches 2 ∧ 0x20030 ∈ snapRegs ∧ 0x20030 ≠ 0x1030 ∧ 127 < 128 ∧ part.hostReach = true :=
  ⟨at0_devAt _, .inl ⟨rfl, by decide⟩, .inr ⟨rfl, by decide⟩, by decide, by decide, by decide, by decide⟩
/-- Pins with the settings p, the last of them too; tracks with the settings x. -/
def pinPart (p : TmrPin) : Dev := { part with time := { part.time with running := true, tb := 100 * 65536, tmr := List.replicate 16 p } }
def trackPart (x : Track) : Dev := { part with
  now := sNs, time := { part.time with running := true, tb := 2000000000 * 65536, trk := [x, {}] }, eth := List.replicate 4 { link := true } }
theorem meets_TimerPinControlsComplete :
    (∀ p, (at0 (pinPart p)).devAt 0 = pinPart p ∧ (pinPart p).Reaches 1 ∧ (pinPart p).own.isOwner 1 = true ∧ (pinPart p).time.tmr[15]? = some p)
    ∧ (let p : TmrPin := { start := 2100, width := 10, period := 200 * 65536 }
      p.arm = false ∧ 5 % 8 = 5 ∧ 10 ≤ p.width.toNat ∧ 200 * 65536 ≤ p.period.toNat ∧ p.width.toNat * 65536 < p.period.toNat
      ∧ (pinPart p).time.tb + 2000 * 65536 ≤ p.start.toNat * 65536)
    ∧ (let p : TmrPin := { width := 9 }; p.arm = false ∧ p.width.toNat < 10) ∧ ({ arm := true } : TmrPin).arm = true :=
  ⟨fun p => ⟨at0_devAt _, .inl ⟨rfl, rfl⟩, rfl, rfl⟩, by decide +kernel, by decide, rfl⟩
theorem meets_TimeControlsComplete :
    (∀ x, (at0 (trackPart x)).devAt 0 = trackPart x ∧ (trackPart x).Reaches 1 ∧ (trackPart x).own.isOwner 1 = true ∧ (trackPart x).time.trk[0]? = some x
      ∧ (trackPart x).time.trk[1]? = some ({} : Track) ∧ (trackPart x).time.st ≠ .holdover)
    ∧ ({} : Track).st = .disabled ∧ ({} : Track).cfg.getLsbD 0 = false
    ∧ ({ st := .locked, cfg := 1 } : Track).st ≠ .disabled ∧ ({ st := .locked, cfg := 1 } : Track).cfg.getLsbD 0 = true :=
  ⟨fun x => ⟨at0_devAt _, .inl ⟨rfl, rfl⟩, rfl, rfl, rfl, show TbSt.freeRun ≠ TbSt.holdover by decide⟩, rfl, rfl, by decide, rfl⟩
/-- The ports, camera ports and Touchstone units enabled, or not. -/
def openPart (on : Bool) : Dev := { part with
  eth := List.replicate 4 { enable := on }, sens := { part.sens with csi := List.replicate 12 { enable := on } }
  ts := List.replicate 12 { st := if on then .running else .idle } }
theorem meets_PortControlsComplete :
    (∀ on, (at0 (openPart on)).devAt 0 = openPart on ∧ (openPart on).Reaches 1 ∧ (openPart on).own.isOwner 1 = true
      ∧ (openPart on).eth[3]? = some { enable := on } ∧ ((openPart on).csi 11).enable = on ∧ ((openPart on).ts.getD 11 {}).busy = on
      ∧ ((openPart on).ts.getD 11 {}).st ≠ .fenced) ∧ 13 % 32 ≠ 14 ∧ 13 % 32 ≠ 15 :=
  ⟨fun on => ⟨at0_devAt _, .inl ⟨rfl, rfl⟩, rfl, rfl, by cases on <;> rfl, by cases on <;> rfl, by cases on <;> decide⟩, by decide, by decide⟩
/-- Ring 1 with a descriptor held in it. -/
def waitPart (p : Pend) : Dev := { own1 with
  now := sNs, time := { own1.time with tb := 60 * usNs * 65536 }
  hif := { own1.hif with sq := upd own1.hif.sq 1 fun r => { r with pend := [p] } } }
def heldPend (op : Op) (x : Desc) (launch : Nat) : Pend := { op := op, d := x, count := 1, stage := .held, launch := launch }
theorem meets_DescriptorProgressCompletes :
    (∀ p, (at0 (waitPart p)).devAt 0 = waitPart p)
    ∧ (own1.controlUp = true ∧ (own1.chan (.sq 1)).st = .active ∧ (own1.chan (.sq 1)).head ≠ (own1.chan (.sq 1)).tail)
    ∧ (∀ op ∈ [Op.nop, .frameGrab], let p := heldPend op {} 0; (waitPart p).heldAt { ch := .sq 1, count := BitVec.ofNat 32 1 } = some p
      ∧ p.launch = 0 ∧ condOf { ch := .sq 1, count := p.count } p.d (waitPart p) = .met) ∧ (opInfo .nop).async = false
    ∧ (beginPend (.sq 1) (heldPend .frameGrab {} 0) ({}, waitPart (heldPend .frameGrab {} 0))).isNone = true
    ∧ (let p := heldPend .gnssSend (desc [(24, 1)]) 0
      (waitPart p).heldAt { ch := .sq 1, count := BitVec.ofNat 32 1 } = some p ∧ p.launch = 0
      ∧ condOf { ch := .sq 1, count := p.count } p.d (waitPart p) = .met ∧ (beginPend (.sq 1) p ({}, waitPart p)).isSome = true)
    ∧ (let p := heldPend .nop { depWait := true, depSq := 5 } 0
      (waitPart p).heldAt { ch := .sq 1, count := BitVec.ofNat 32 1 } = some p ∧ depCond p.d (waitPart p) = .failed)
    ∧ (own1.heldAt { ch := .sq 1, count := BitVec.ofNat 32 (own1.chan (.sq 1)).nextCount.toNat } = none
      ∧ own1.mayFetch (.sq 1) (own1.slotDesc 1 (own1.chan (.sq 1)).head).2 = true)
    ∧ (let p := heldPend .nop { launchAt := 10000 } 10000; let d := waitPart p
      d.heldAt { ch := .sq 1, count := BitVec.ofNat 32 1 } = some p ∧ p.launch ≠ 0 ∧ p.moved = 0 ∧ p.launch ≤ d.tb64
      ∧ d.tb64 ≤ p.launch + d.time.tolUs.toNat * usNs ∧ condOf { ch := .sq 1, count := BitVec.ofNat 32 1 } p.d d = .met
      ∧ ∀ x ∈ d.launchReady, launchBefore x (.sq 1, p) = false)
    ∧ (let p := heldPend .nop { launchAt := 9999 } 9999; let d := waitPart p
      d.startAhead { ch := .sq 1, count := BitVec.ofNat 32 1 } = some p ∧ p.launch + d.time.tolUs.toNat * usNs < d.tb64 ∧ p.d.repeatNext = false)
    ∧ (let p := heldPend .nop { launchAt := 9999, repeatNext := true } 9999
      let d := (waitPart p).setChan (.sq 1) fun r => { r with grid := some (0, 3333) }
      (at0 d).devAt 0 = d ∧ d.startAhead { ch := .sq 1, count := BitVec.ofNat 32 1 } = some p ∧ p.launch + d.time.tolUs.toNat * usNs < d.tb64
      ∧ p.d.repeatNext = true ∧ p.stage = .held ∧ (d.chan (.sq 1)).grid = some (0, 3333) ∧ d.onGrid (.sq 1) p.launch = true)
    ∧ (let d := own1.setCq 1 fun q => { q with batch := 1, coalTimeUs := 1 }
      let d := { d with now := 1000 }
      (d.cq 1).batch ≠ 0 ∧ (d.cq 1).coalTimeUs ≠ 0 ∧ (d.cq 1).batchAt + (d.cq 1).coalTimeUs * usNs ≤ d.now)
    ∧ (let d := { part with part := .running }; d.part = .running ∧ d.busy = false) := by
  refine ⟨fun p => at0_devAt _, ?_, ?_, ?_, ?_, ?_, ?_, ?_, ?_, ?_, ⟨at0_devAt _, ?_⟩, ?_, ?_⟩ <;> decide +kernel
/-- A SAFE_SPI frame of a command, with its check value; the part with the interface driven. -/
def spiHead (cmd : Nat) : Bytes := bytesOf 284 [(0, 0xFE), (1, 0x5A), (2, cmd)]
def spiFrame (cmd : Nat) : Bytes := spiHead cmd ++ leBytes 4 (crcOf 0 (spiHead cmd))
def spiPart (l r : List Bytes) : Dev := { part with
  own := { part.own with outen := 0xFFFFFFFF }, hif := { part.hif with i3c := { part.hif.i3c with replies := l } }, spi := { part.spi with resp := r } }
set_option maxRecDepth 1000000 in
theorem meets_MailboxAndSafeSpiComplete :
    (∀ l r, (at0 (spiPart l r)).devAt 0 = spiPart l r ∧ 6 ≤ (spiPart l r).start.rank ∧ (spiPart l r).hif.i3c.replies = l ∧ (spiPart l r).spi.resp = r)
    ∧ ((spiPart [] []).mayFetch .i3c (parseDesc (List.replicate 64 0)).2 = true ∧ (spiPart [] []).driven 26 = true ∧ 64 ≤ (List.replicate 64 (0 : Byte)).length)
    ∧ (spiFrameOk (spiFrame 0) = true ∧ fld (spiFrame 0) 2 1 = 0 ∧ spiFrameOk (spiFrame 3) = true ∧ fld (spiFrame 3) 2 1 = 3 ∧ spiFrameOk [] = false) ∧ ([[]] : List Bytes) ≠ [] := by
  refine ⟨fun l r => ⟨at0_devAt _, by show 6 ≤ part.start.rank; decide, rfl, rfl⟩, ?_, ?_, ?_⟩ <;> decide +kernel
theorem meets_OwnershipAndProfileInstantsComplete :
    (∀ x o, (at0 (claimPart x o)).devAt 0 = claimPart x o ∧ (claimPart x o).leasesRun = true ∧ (claimPart x o).own.st = x ∧ (claimPart x o).own.leaseEnd ≤ (claimPart x o).now
      ∧ (claimPart x o).own.windowEnd ≤ (claimPart x o).now ∧ (claimPart x o).own.handoverEnd ≤ (claimPart x o).now)
    ∧ (let d := claimPart .arbitrating 0
       let e := { d with own := { d.own with claims := [(1, { ch := .sq 0, count := 1 })] } }; e.own.winner ≠ 0)
    ∧ (let d := { part with prof := { part.prof with applying := some (2, .command { ch := .sq 0, count := 1 }) } }
      d.prof.applying = some (2, .command { ch := .sq 0, count := 1 }))
    ∧ (let d := { part with prof := { part.prof with writing := some (1, [], { ch := .sq 0, count := 1 }) } }
      d.prof.writing = some (1, [], { ch := .sq 0, count := 1 }))
    ∧ 5 ≤ part.start.rank ∧ (startPart .profileRead).start.rank < 5 ∧ ({ part with part := .baseMetal } : Dev).part = .baseMetal :=
  ⟨fun x o => ⟨at0_devAt _, rfl, rfl, Nat.le_refl 0, Nat.le_refl 0, Nat.le_refl 0⟩, by decide +kernel, rfl, rfl, by decide, by decide, rfl⟩
/-- A track of PTP on port 0, domain 0; the same with a master heard; and a dated sentence for the pulses. -/
def ptpTrack : Track := { st := .locked, cfg := 1 }
def master : ClockSet := { priority1 := 0, cls := 6, accuracy := 0, variance := 0, priority2 := 0, identity := 5, steps := 0 }
def heardTrack : Track := { ptpTrack with foreign := some master, foreignUntil := 2 * sNs }
def datedPart : Dev := { trackPart ptpTrack with sens := { part.sens with dated := some { stamp := 2000000000, utcNs := 0 } } }
/-- An IEEE 1588 Sync over Ethernet to the IEEE 1588 multicast address. -/
def syncFrame : Bytes := bytesOf 60 [(0, 1), (1, 0x1B), (2, 0x19), (12, 0x88), (13, 0xF7)]
theorem follows_of : (trackPart heardTrack).follows 0 5 = true := by
  have h : clockBetter ((trackPart heardTrack).ownClockSet 0) master = false := by
    unfold clockBetter; split
    · rfl
    · rfl
  have hm : ((trackPart heardTrack).trk 0).master (trackPart heardTrack).now = some master := by decide +kernel
  simp only [Dev.follows, Dev.transmits, hm, h, Bool.and_false]
  decide +kernel
theorem meets_TrackMessagesComplete :
    (∀ x, (at0 (trackPart x)).devAt 0 = trackPart x) ∧ (at0 datedPart).devAt 0 = datedPart ∧ (trackPart ptpTrack).islandUp = true ∧ datedPart.islandUp = true
    ∧ (let e := trackPart heardTrack
      e.islandUp = true ∧ e.hasTrack 0 = true ∧ (e.trk 0).source = 0 ∧ (e.trk 0).port = 0 ∧ (e.trk 0).domain = 0 ∧ (e.trk 0).transport = 0
      ∧ (e.eth.getD 0 {}).link = true ∧ e.hasTrack 1 = false ∧ e.time.trk[0]? = some heardTrack) ∧ (trackPart heardTrack).follows 0 5 = true
    ∧ (let e := trackPart ptpTrack
      e.hasTrack 0 = true ∧ e.time.trk[0]? = some ptpTrack ∧ ptpTrack.master e.now = none ∧ ptpTrack.source = 0 ∧ ptpTrack.port = 0 ∧ ptpTrack.domain = 0
      ∧ e.hasTrack 1 = false ∧ e.transmits 0 = true)
    ∧ (let e := { trackPart {} with eth := List.replicate 4 { link := true, tc := true } }
      (at0 e).devAt 0 = e ∧ e.islandUp = true ∧ (e.eth.getD 0 {}).link = true ∧ (e.eth.getD 3 {}).link = true ∧ (e.eth.getD 0 {}).tc = true
      ∧ (e.eth.getD 3 {}).tc = true ∧ ptpHeader syncFrame = some (14, none) ∧ beAt syncFrame 14 1 / 16 ≠ 1 ∧ multicast syncFrame = true
      ∧ beAt syncFrame 14 1 % 16 < 2)
    ∧ (let e := { trackPart {} with eth := List.replicate 4 { link := true, tc := false } }
      (at0 e).devAt 0 = e ∧ e.islandUp = true ∧ (e.eth.getD 0 {}).link = true ∧ (e.eth.getD 3 {}).link = true ∧ (e.eth.getD 0 {}).tc = false)
    ∧ ((trackPart {}).time.running = true ∧ (trackPart {}).pulseLabel (trackPart {}).tb64 = none ∧ (trackPart {}).islandUp = true)
    ∧ (datedPart.time.running = true ∧ (datedPart.pulseLabel datedPart.tb64).isSome = true) := by
  refine ⟨fun x => at0_devAt _, at0_devAt _, ?_, ?_, ?_, follows_of, ?_, ⟨at0_devAt _, ?_⟩, ⟨at0_devAt _, ?_⟩, ?_, ?_⟩ <;> decide +kernel
def holdPart : Dev := { part with now := 1800 * sNs, time := { part.time with running := true, st := .holdover } }
theorem meets_TimeBaseInstantsComplete :
    (at0 (trackPart ptpTrack)).devAt 0 = trackPart ptpTrack ∧ (trackPart ptpTrack).islandUp = true ∧ (at0 holdPart).devAt 0 = holdPart ∧ holdPart.islandUp = true
    ∧ (let d := trackPart ptpTrack; d.hasTrack 0 = true ∧ (d.trk 0).lastInput + (d.trk 0).timeout ≤ d.now ∧ (d.trk 0).st = .locked)
    ∧ (holdPart.time.st = .holdover ∧ holdPart.time.holdSince + holdPart.time.holdMaxS.toNat * sNs ≤ holdPart.now
      ∧ holdPart.time.holdErrAt + 10 * msNs ≤ holdPart.now) := by
  refine ⟨at0_devAt _, ?_, at0_devAt _, ?_, ?_, ?_⟩ <;> decide +kernel
theorem meets_EthernetCommandsComplete :
    (∀ p : EthPort, let d := { part with eth := List.replicate 4 p }
      (at0 d).devAt 0 = d ∧ d.booted = true ∧ d.eth[3]? = some p)
    ∧ (let p : EthPort := { enable := true }; p.enable = true ∧ p.link = false ∧ 0 < linkRate 3 p.mode.toNat false)
    ∧ ({ link := true } : EthPort).link = true ∧ ({ len := 9216 } : EthFrame).len ≤ 9216 ∧ ({} : EthFrame).etherType ≠ 0x8808 ∧ isGptp {} = false := by
  refine ⟨fun p => ⟨at0_devAt _, rfl, rfl⟩, ?_, ?_, ?_, ?_, ?_⟩ <;> decide +kernel
theorem meets_PinEdgesComplete :
    (∀ p, (at0 (pinPart p)).devAt 0 = pinPart p ∧ (pinPart p).islandUp = true ∧ (pinPart p).time.tmr[15]? = some p)
    ∧ (let p : TmrPin := { mode := 3 }; p.mode = 3 ∧ p.capAny = false)
    ∧ (let p : TmrPin := { mode := 3, capAny := true }; p.mode = 3 ∧ p.capAny = true ∧ (pinPart p).time.mono < p.capMono + 100 * 65536)
    ∧ (let p : TmrPin := { pending := true }; p.pulseEnd = none ∧ p.pending = true ∧ p.pulseAt p.next ≤ (pinPart p).time.tb)
    ∧ (let p : TmrPin := { pulseEnd := some 6553600 }; p.pulseEnd = some 6553600 ∧ 6553600 ≤ (pinPart p).time.tb ∧ p.pending = false)
    ∧ (let d := trackPart {}; d.islandUp = true ∧ d.time.running = true ∧ d.time.ppsEnd = none ∧ d.time.ppsLast < d.time.tb / (65536 * sNs)) := by
  refine ⟨fun p => ⟨at0_devAt _, rfl, rfl⟩, ?_, ?_, ?_, ?_, ?_⟩ <;> decide +kernel

/-- A camera of 2 columns and 3 lines on port 1, channel 0, RAW8, its frame open with one line stored. -/
def camPart : Dev := { part with
  prof := { part.prof with active := entry0 [(0, 1), (1, 1), (57, 0x2A), (58, 1), (60, 2), (62, 3), (64, 0xFF), (65, 7)] }
  sens := { part.sens with
    s := upd part.sens.s 0 fun q => { q with enabled := true }
    csi := upd part.sens.csi 1 fun c => { c with enable := true, rx := [{ sensor := 0, vc := 0, lines := 1, firstLine := some 5, lastLine := 9 }] } } }
theorem meets_CameraPacketsComplete :
    (at0 camPart).devAt 0 = camPart ∧ camPart.full = true ∧ (camPart.csi 1).enable = true ∧ camPart.cameraOf 1 0 = some 0
    ∧ (∃ r, (camPart.csi 1).rx.find? (fun r => r.vc == 0) = some r ∧ 0x2A = camPart.se r.sensor 57 1 ∧ camPart.routed r.sensor = false
      ∧ camPart.se r.sensor 3 1 = 0 ∧ (pixels8 0x2A [1, 2]).length = camPart.se r.sensor 60 2 ∧ r.lines < camPart.se r.sensor 62 2)
    ∧ (let e := (tsEnd 1 (csiSel 0 none) camPart).setCsi 1 fun c => { c with frames := c.frames + 1 }
      ∃ r, (e.csi 1).rx.find? (fun r => r.vc == 0) = some r ∧ r.firstLine = some 5 ∧ e.routed r.sensor = false ∧ e.se r.sensor 3 1 = 0)
    ∧ camPart.kind 0 = 1 ∧ camPart.se 0 1 1 = 1 ∧ 1500 < camPart.se 0 64 2 :=
  ⟨at0_devAt _, rfl, rfl, by decide +kernel, ⟨{ sensor := 0, vc := 0, lines := 1, firstLine := some 5, lastLine := 9 }, by decide +kernel⟩,
    ⟨{ sensor := 0, vc := 0, lines := 1, firstLine := some 5, lastLine := 9 }, by decide +kernel⟩, by decide +kernel, by decide +kernel, by decide +kernel⟩
/-- An inertial sensor on port 0, line 0, rising edges, registers 6 from address 0x20. -/
def imuPart : Dev := { part with
  prof := { part.prof with active := entry0 [(0, 2), (1, 0), (57, 0x20), (60, 6)] }
  sens := { part.sens with s := upd part.sens.s 0 fun q => { q with enabled := true } } }
theorem meets_InertialCommandsComplete :
    (at0 imuPart).devAt 0 = imuPart ∧ imuPart.islandUp = true ∧ imuPart.imuOf 0 = some 0 ∧ ((bitsOf 2 2 (imuPart.se 0 2 1) == 1) = false)
    ∧ (∃ q, imuPart.sens.imu[0]? = some q ∧ q.busy = none)
    ∧ (let d := { imuPart with sens := { imuPart.sens with imu := upd imuPart.sens.imu 0 fun m => { m with busy := some { sensor := 0, stamp := 0 } } } }
      (at0 d).devAt 0 = d ∧ d.islandUp = true ∧ d.imuOf 0 = some 0 ∧ ∃ q, d.sens.imu[0]? = some q ∧ q.busy = some { sensor := 0, stamp := 0 }) :=
  ⟨at0_devAt _, rfl, by decide +kernel, by decide +kernel, ⟨_, rfl, rfl⟩, at0_devAt _, rfl, by decide +kernel, _, rfl, rfl⟩

/-- A CAN map entry on port 1 for the identifier 0x123; the port drives its bus. -/
def canPart : Dev := { part with
  own := { part.own with outen := 0xFFFFFFFF }
  prof := { part.prof with active := entry0 [(0, 3), (1, 1), (58, 0x23), (59, 1), (62, 0xFF), (63, 7)] }
  sens := { part.sens with s := upd part.sens.s 0 fun q => { q with enabled := true } } }
theorem meets_CanCommandsComplete :
    (at0 canPart).devAt 0 = canPart ∧ canPart.islandUp = true ∧ canPart.canMonitor 1 = false ∧ canPart.canMatches 1 0x123 false 0 = true
    ∧ (∃ c, canPart.sens.can[1]? = some c ∧ c.state ≠ 2)
    ∧ (let d := { canPart with sens := { canPart.sens with can := upd canPart.sens.can 1 fun c => { c with state := 2, live := 0 } } }
      (at0 d).devAt 0 = d ∧ d.islandUp = true ∧ d.canMonitor 1 = false ∧ ∃ c, d.sens.can[1]? = some c ∧ c.state = 2 ∧ c.live.getLsbD 4 = false) :=
  ⟨at0_devAt _, rfl, by decide +kernel, by decide +kernel, ⟨_, rfl, by decide⟩, at0_devAt _, rfl, by decide +kernel, _, rfl, rfl, rfl⟩

/-- The bytes of "$GNZDA,120000,01,01,2026*" and its checksum. -/
def zda : Bytes := [0x24, 0x47, 0x4E, 0x5A, 0x44, 0x41, 0x2C, 0x31, 0x32, 0x30, 0x30, 0x30, 0x30, 0x2C, 0x30, 0x31, 0x2C, 0x30, 0x31, 0x2C,
  0x32, 0x30, 0x32, 0x36, 0x2A, 0x35, 0x33]
/-- The bytes of "$GNGGA*" and its checksum. -/
def gga : Bytes := [0x24, 0x47, 0x4E, 0x47, 0x47, 0x41, 0x2A, 0x34, 0x38]
/-- A lidar on port 0, UDP port 0x0900, IPv4 10.0.0.1, 4 datagrams a sweep, 1 KiB of ring; a sweep is being filled at entry 0. -/
def lidarPart : Dev := { part with
  now := 100 * msNs
  prof := { part.prof with active := entry0 [(0, 5), (1, 0), (8, 1), (56, 4), (58, 0), (59, 9), (60, 10), (63, 1), (76, 4), (80, 1)] }
  eth := upd part.eth 0 fun p => { p with link := true }
  sens := { part.sens with s := upd part.sens.s 0 fun q => { q with enabled := true, filling := some { start := 0, first := 0, count := 1, bytes := 20 } } } }
theorem meets_ReceiverAndLidarCommandsComplete :
    (at0 part).devAt 0 = part ∧ part.islandUp = true ∧ nmeaFields [] = none
    ∧ ((nmeaFields zda).map nmeaType = some [0x5A, 0x44, 0x41] ∧ ((nmeaFields zda).bind sentenceUtc).isSome = true)
    ∧ (nmeaFields gga).map nmeaType = some [0x47, 0x47, 0x41]
    ∧ (at0 lidarPart).devAt 0 = lidarPart ∧ lidarPart.islandUp = true ∧ lidarPart.full = true ∧ (lidarPart.eth.getD 0 {}).link = true
    ∧ lidarPart.lidarOf 0x0900 4 [10, 0, 0, 1] = some 0 ∧ lidarPart.lidarOf 0x0901 4 [10, 0, 0, 1] = none
    ∧ (∃ q w, lidarPart.sens.s[0]? = some q ∧ q.held = none ∧ q.enabledAt + 0 / 65536 ≤ lidarPart.now ∧ q.filling = some w ∧ w.bytes + 16 + 4 ≤ lidarPart.se 0 80 2 * 1024
      ∧ w.count + 1 < lidarPart.se 0 76 2 ∧ w.lastAt + 100 * msNs ≤ lidarPart.now)
    ∧ (lidarPart.sensor 0).enabled = true ∧ lidarPart.kind 0 ≠ 0 ∧ lidarPart.se 0 8 4 ≠ 0 ∧ (lidarPart.sensor 0).silent = false
    ∧ (lidarPart.sensor 0).lastAt + 4 * lidarPart.se 0 8 4 * 1000 ≤ lidarPart.now :=
  ⟨at0_devAt _, rfl, rfl, ⟨by decide +kernel, by decide +kernel⟩, by decide +kernel, at0_devAt _, rfl, rfl, by decide +kernel,
    by decide +kernel, by decide +kernel, ⟨_, _, rfl, rfl, by decide +kernel, rfl, by decide +kernel, by decide +kernel, by decide +kernel⟩, by decide +kernel,
    by decide +kernel, by decide +kernel, by decide +kernel, by decide +kernel⟩

/-- A camera of 2 columns, 4 lines and bands of 2 lines on pipe 0, whose frame has ended. -/
def stereoPart (f : VpRing → VpRing) : Dev := { part with
  prof := { part.prof with active := entry0 [(0, 1), (3, 1), (60, 2), (62, 4), (75, 2), (76, 2), (92, 1)] }
  vision := { part.vision with pipe := [{ st := .hosting }, {}], ring := upd part.vision.ring 0 f } }
def frame : VpFrame := { seq := 1, first := 0, left := { ended := true }, right := { ended := true } }
def waitL : Dev := { stereoPart fun r => { r with waitL := some frame } with time := { part.time with tb := 65536000 } }
def waitR : Dev := { stereoPart fun r => { r with waitR := some (0, {}) } with time := { part.time with tb := 65536000 } }
def inBand : Dev := stereoPart fun r => { r with cur := [frame] }
def flagged : Dev := inBand.setFlag 0 5
def waiting : Dev := stereoPart fun r => { r with paired := [frame] }
/-- The same on a pipe whose ring alone asks for more than its line buffers hold. -/
def tooWide : Dev := { waiting with
  prof := { part.prof with active := entry0 [(0, 1), (3, 1), (60, 0xFF), (61, 0xFF), (62, 4), (75, 2), (76, 2), (92, 1)] } }
theorem meets_StereoCommandsComplete :
    (∀ d ∈ [waitL, waitR, inBand, flagged, waiting, tooWide], (at0 d).devAt 0 = d ∧ d.full = true ∧ d.islandUp = true)
    ∧ ((waitL.ring 0).waitL = some frame ∧ frame.first + waitL.se 0 92 2 * 1000 * 65536 ≤ waitL.time.tb ∧ ((leftUnpaired 0 frame waitL).ring 0).waitR = none)
    ∧ ((waitR.ring 0).waitL = none ∧ (waitR.ring 0).waitR = some (0, {}) ∧ 0 + waitR.se 0 92 2 * 1000 * 65536 ≤ waitR.time.tb)
    ∧ (∀ d ∈ [inBand, flagged], (d.ring 0).cur = [frame] ∧ frame.nextBand + 1 < d.vBands 0 ∧ frame.grab = none)
    ∧ inBand.flag 0 = 0 ∧ flagged.flag 0 ≠ 0
    ∧ (∀ d ∈ [waiting, tooWide], (d.vp 0).st = .hosting ∧ byAge d (d.served 0) = [0] ∧ (d.ring 0).paired = [frame])
    ∧ ((waiting.termsNow 0).add (waiting.ringTerms 0)).fits = true ∧ ((tooWide.termsNow 0).add (tooWide.ringTerms 0)).fits = false
    ∧ (waiting.assayOf 2 0 = none ∧ (waiting.vp 0).st ≠ .gated ∧ (waiting.vp 0).st ≠ .fenced) := by
  refine ⟨fun d h => ⟨at0_devAt d, ?_⟩, ?_, ?_, ?_, ?_, ?_, ?_, ?_, ?_, ?_⟩
  · revert d; decide +kernel
  all_goals decide +kernel

/-- Cluster 0 on, its engines 0 and 1 live, task 7 of work 3. -/
def compPart (f : Cluster → Cluster) (g : Comp → Comp) : Dev := { part with
  comp := g { part.comp with cl := upd part.comp.cl 0 fun q => f { q with on := true, eng := upd (upd q.eng 0 fun e => { e with st := .live }) 1 fun e => { e with st := .live } } } }
def job : Task := { id := 7, work := 3, st := .queued, readyAt := 0, affinity := 3, cycles := 1 }
def ownJob : Dev := compPart (fun q => { q with eng := upd q.eng 0 fun e => { e with deque := [7] } }) fun c => { c with tasks := [job] }
def nearJob : Dev := compPart (fun q => { q with eng := upd q.eng 1 fun e => { e with deque := [7] } }) fun c => { c with tasks := [job] }
/-- Pose-critical work that names engine 1 waits there. -/
def poseJob : Dev := compPart (fun q => { q with eng := upd q.eng 1 fun e => { e with deque := [7] } }) fun c => { c with tasks := [{ job with cls := 0 }] }
def farJob : Dev := { compPart (fun q => q) (fun c => { c with tasks := [job], cl := upd c.cl 1 fun q => { q with on := true, ready := [7] } }) with now := 1000000 }
def runJob : Dev := { compPart (fun q => { q with eng := upd q.eng 0 fun e => { e with running := some 7 } })
  (fun c => { c with tasks := [job], works := [{ id := 3, kind := .est 0 }] }) with now := 1000000 }
def inFlight : MsgFlight := { fromC := 0, fromE := 1, toC := 0, toE := 0, msg := { kind := 1, obj := 0, epoch := 1 } }
def mailJob : Dev := compPart (fun q => { q with eng := upd q.eng 0 fun e => { e with kind := 1, epoch := 1, rebuilding := true } }) fun c => { c with net := [inFlight] }
/-- A tensor holder of slot 0, whose set is RESIDENT. -/
def holderJob : Dev := { compPart (fun q => { q with eng := upd q.eng 0 fun e => { e with kind := 2, epoch := 1, rebuilding := true } }) id with
  tier := { part.tier with objs := [{ id := setObjId 0, kind := 2, size := 0, slow := false, mirrored := false, st := .resident }] } }
def round2 : Round := { id := 4, parts := 1, got := [(0, [3])], target := 2 }
def roundJob : Dev := compPart (fun q => q) fun c => { c with rounds := [round2] }
theorem meets_ComputeCommandsComplete :
    (∀ d ∈ [poseJob, ownJob, nearJob, farJob, runJob, mailJob, holderJob, roundJob], (at0 d).devAt 0 = d ∧ d.full = true)
    ∧ (poseJob.idleEngine 0 0 = true ∧ poseJob.poseSteal 0 0 = some { job with cls := 0 })
    ∧ (∀ d ∈ [ownJob, nearJob, farJob], d.poseSteal 0 0 = none)
    ∧ (ownJob.idleEngine 0 0 = true ∧ ownJob.nextTask 0 0 = some job)
    ∧ (nearJob.idleEngine 0 0 = true ∧ nearJob.nextTask 0 0 = none ∧ nearJob.localSteal 0 0 = some job)
    ∧ (farJob.idleEngine 0 0 = true ∧ farJob.nextTask 0 0 = none ∧ farJob.localSteal 0 0 = none
      ∧ farJob.remoteSteal 0 0 = some job)
    ∧ ((runJob.eng 0 0).running = some 7 ∧ runJob.task 7 = some job ∧ runJob.waitsCopy job = false ∧ runJob.work 3 = some { id := 3, kind := .est 0 }
      ∧ runJob.overrun 0 0 = some 1)
    ∧ (mailJob.comp.net.find? (fun f => f.toC == 0 && f.toE == 0) = some inFlight ∧ (mailJob.eng 0 0).kind ≠ 0
      ∧ (mailJob.eng 0 0).kind.toNat = inFlight.msg.kind ∧ (mailJob.eng 0 0).obj.toNat = inFlight.msg.obj
      ∧ (mailJob.eng 0 0).epoch.toNat = inFlight.msg.epoch ∧ (mailJob.eng 0 0).inbox.length < 32
      ∧ (mailJob.eng 0 0).rebuilding = true ∧ (mailJob.eng 0 0).movedFrom = none ∧ (mailJob.eng 0 0).kind ≠ 2)
    ∧ ((holderJob.eng 0 0).rebuilding = true ∧ (holderJob.eng 0 0).movedFrom = none ∧ (holderJob.eng 0 0).kind = 2
      ∧ holderJob.setReady ((holderJob.eng 0 0).obj.toNat / 0x100) = true)
    ∧ (roundJob.comp.rounds.find? (fun r => r.id == 4) = some round2 ∧ roundJob.comp.complete round2 = true) := by
  refine ⟨fun d h => ⟨at0_devAt d, ?_⟩, ?_, ?_, ?_, ?_, ?_, ?_, ?_, ?_, ?_⟩
  · revert d; decide +kernel
  all_goals decide +kernel

def heldPart : Dev := { compPart (fun q => { q with held := true, withinAt := some 0, ceiling := 100 }) id with now := 100 * msNs }
/-- A copy of 4 bytes from cluster 0's shared memory into the exchange memory waits in copy engine 0's queue. -/
def queued : CopyJob := { ce := 0, cls := 1, cluster := 0, engine := 0, src := 0, dst := exchBase, len := 4 }
def copyPart : Dev := { part with comp := { part.comp with copyq := [queued] } }
theorem meets_CopyAndCeilingCommandsComplete :
    (∀ d ∈ [part, copyPart, heldPart], ((at0 d).devAt 0 = d ∧ d.full = true ∧ d.controlUp = true) ∧ d.inBase = false)
    ∧ (part.queuedCopy 0 0 exchBase 4 (.engine 0 0) = none ∧ part.copyTurn 0 0 exchBase 4 false false (.engine 0 0) = true
      ∧ copyValid false false 0 exchBase 4 = true)
    ∧ (copyPart.queuedCopy 0 0 exchBase 4 (.engine 0 0) = some queued ∧ copyPart.copyTurn 0 0 exchBase 4 false false (.engine 0 0) = true)
    ∧ (part.queuedCopy 15 exchBase 0x1000 4 .other = none ∧ part.copyTurn 15 exchBase 0x1000 4 false true .other = true
      ∧ copyValid false true exchBase 0x1000 4 = true)
    ∧ (∃ q, heldPart.comp.cl[0]? = some q ∧ q.held = true ∧ q.withinAt = some 0) ∧ 0 + 100 * msNs ≤ heldPart.now
    ∧ heldPart.overCeiling 0 0 (heldPart.liveIn 0) = false := by
  refine ⟨fun d h => ⟨⟨at0_devAt d, ?_⟩, ?_⟩, ?_, ?_, ?_, ⟨_, rfl, rfl, rfl⟩, ?_, ?_⟩
  · revert d; decide +kernel
  · revert d; decide +kernel
  all_goals decide +kernel

def badFlag : Dev := { part with tier := { part.tier with flagBad := [(3, 0)] } }
theorem meets_MemoryCheckCommandsComplete :
    (∀ d ∈ [part, badFlag], (at0 d).devAt 0 = d ∧ d.islandUp = true ∧ d.full = true)
    ∧ (exchBase ≤ exchBase ∧ exchBase < flagBase) ∧ (exchBase ≤ flagBase - 1 ∧ flagBase - 1 < flagBase)
    ∧ badFlag.tier.flagBad.find? (fun x => x.1 == 3) = some (3, 0) ∧ 0 ≤ badFlag.now
    ∧ (∀ r ∈ [({ offset := 0, poisoned := [2] } : IpmRead), { offset := 0, bursts := [(2, 3)] }], part.ipmBad r = false ∧ part.ipmMarked r = [2]
      ∧ (part.ipmCh (8 * 2 + (ipmPlace 0).group)).rebuilt = [])
    ∧ (∀ r ∈ [({ offset := 0, poisoned := [2, 3] } : IpmRead), { offset := 0, flips := [(2, 1)] }], part.ipmBad r = true) := by
  refine ⟨fun d h => ⟨at0_devAt d, ?_⟩, ?_, ?_, ?_, ?_, ?_, ?_⟩
  · revert d; decide +kernel
  all_goals decide +kernel

def chPart (n : Nat) (s : ChSt) : Dev := { part with ipm := { part.ipm with ch := upd part.ipm.ch n fun c => { c with st := s } } }
theorem meets_ChannelCommandsComplete :
    (∀ d ∈ [part, chPart 0 .failed, chPart 63 .resync], (at0 d).devAt 0 = d ∧ d.controlUp = true ∧ d.full = true)
    ∧ (∃ c, part.ipm.ch[0]? = some c ∧ c.st = .online) ∧ part.groupOut (0 % 8) = []
    ∧ (∃ c, (chPart 0 .failed).ipm.ch[8]? = some c ∧ c.st = .online) ∧ (chPart 0 .failed).groupOut (8 % 8) = [0]
    ∧ (∃ c, (chPart 63 .resync).ipm.ch[63]? = some c ∧ c.st = .resync ∧ c.returning = []) := by
  refine ⟨fun d h => ⟨at0_devAt d, ?_⟩, ⟨_, rfl, rfl⟩, ?_, ⟨_, rfl, rfl⟩, ?_, ⟨_, rfl, rfl, rfl⟩⟩
  · revert d; decide +kernel
  all_goals decide +kernel

def space : Namespace := { nsid := 1, bytes := 64 * 1073741824, labelled := true }
def tierPart (o : TierObj) : Dev := { part with
  now := 2 ^ 32 * msNs, tier := { part.tier with objs := [o], serving := [5] }, nvme := { part.nvme with st := .attached } }
def promoting : TierObj := { id := 5, kind := 9, size := 65536, slow := true, mirrored := true, st := .promoting }
def retried : TierObj := { promoting with bad := [(0, false)] }
/-- A block's second read gives it: its checksum is in the directory. -/
def readWell : TierObj := { retried with crcs := [crcOf 0 [1]] }
theorem meets_SlowTierCommandsComplete :
    (∀ d ∈ [tierPart promoting, tierPart retried], (at0 d).devAt 0 = d ∧ d.controlUp = true ∧ d.full = true ∧ d.nvme.st ≠ .absent ∧ d.nvme.st ≠ .failed)
    ∧ chooseNamespace [space] = some space ∧ chooseNamespace [{ space with bytes := 64 * 1073741824 - 1 }] = none
    ∧ (∃ o, (tierPart promoting).obj 5 = some o ∧ o.st = .promoting ∧ o.slow = true ∧ o.bad.find? (fun x => x.1 == 0) = none)
    ∧ (∃ o, (tierPart retried).obj 5 = some o ∧ o.st = .promoting ∧ o.bad.find? (fun x => x.1 == 0) = some (0, false) ∧ o.mirrored = true)
    ∧ (at0 (tierPart readWell)).devAt 0 = tierPart readWell ∧ (tierPart readWell).full = true
    ∧ (∃ o, (tierPart readWell).obj 5 = some o ∧ (if o.crcs.isEmpty then blockCrcs ((tierPart readWell).objData o) else o.crcs)[0]? = some (crcOf 0 [1]))
    ∧ promoting.readAt + (tierPart promoting).nvme.timeoutMs.toNat * msNs ≤ (tierPart promoting).now := by
  refine ⟨fun d h => ⟨at0_devAt d, ?_⟩, ?_, ?_, ⟨_, rfl, rfl, rfl, rfl⟩, ⟨_, rfl, rfl, rfl, rfl⟩, at0_devAt _, ?_, ⟨readWell, rfl, rfl⟩, ?_⟩
  · revert d; decide +kernel
  all_goals decide +kernel
def evicting : TierObj := { promoting with st := .evicting }
def mending : TierObj := { promoting with st := .resident, repair := [2] }
theorem meets_TierMovesComplete :
    (∀ o ∈ [promoting, evicting, mending], (at0 (tierPart o)).devAt 0 = tierPart o ∧ (tierPart o).full = true ∧ (tierPart o).obj 5 = some o
      ∧ o.wants = [] ∧ o.evict = [] ∧ o.rewrite = [] ∧ (tierPart o).tier.serving.contains 5 = true)
    ∧ mending.repair.isEmpty = false ∧ (tierPart promoting).ipmUsed ≤ ipmUnits := by
  refine ⟨fun o h => ⟨at0_devAt _, ?_⟩, ?_, ?_⟩
  · revert o; decide +kernel
  all_goals decide +kernel

def slotPart (f : Slot → Slot) (g : Dev → Dev) : Dev := g { part with
  prof := { part.prof with active := entry0 [(0, 1), (3, 1), (75, 2)] }
  neural := { part.neural with slot := upd part.neural.slot 0 fun x => f { x with st := .loaded, mask := 1, wave := [2, 0, 0, 0, 0, 0], insts := [{}] } } }
def infReq : InferReq := { tok := { ch := .sq 1, count := 1 }, seq := 1, ready := true }
def wavePart : Dev := slotPart (fun x => { x with reqs := [infReq] }) id
/-- A band of a binding that waits for a wave, one that runs, and a binding whose ring has flagged its first band. -/
def bandJob : BandJob := { k := 0, inFlag := 1, tag := 0x80000000 }
def binding : Binding := { id := 0, slot := 0, sensor := 0, outFlag := 40, outSlots := 2, outBase := 0 }
def jobPart (j : List BandJob) : Dev := slotPart id fun d => { d with neural := { d.neural with binds := [{ binding with jobs := j }] } }
def bandPart (j : List BandJob) : Dev := { jobPart j with vision := { part.vision with ring := upd part.vision.ring 0 fun r =>
  { r with bandCount := 1, tags := [(0, 0x80000000)] } } }.setFlag 0 0x80000000
def ready0 : BandJob := { k := 0, inFlag := 0, tag := 0x80000000 }
theorem meets_NeuralCommandsComplete :
    (∀ d ∈ [wavePart, jobPart [bandJob], (jobPart [bandJob]).setFlag 40 1, bandPart [], (bandPart []).setFlag 40 1,
        bandPart [{ bandJob with started := true }]], (at0 d).devAt 0 = d ∧ d.full = true ∧ (d.slot 0).st = .loaded ∧ 0 < (d.slot 0).wave.getD 0 0)
    ∧ (wavePart.waveBusy 0 0 = 0 ∧ wavePart.waveReady 0 0 = [.inl infReq])
    ∧ (∀ d ∈ [jobPart [bandJob], (jobPart [bandJob]).setFlag 40 1], d.waveBusy 0 0 = 0 ∧ d.waveReady 0 0 = [.inr (0, bandJob)])
    ∧ ((jobPart [bandJob]).outHeld 0 bandJob = false ∧ ((jobPart [bandJob]).setFlag 40 1).outHeld 0 bandJob = true)
    ∧ (∀ d ∈ [bandPart [], (bandPart []).setFlag 40 1], d.bind 0 = some binding ∧ binding.ending = none ∧ d.freeCluster binding.slot = 0
      ∧ d.nextBand binding = some (0, 0, 0x80000000)
      ∧ (let e := d.setBind 0 fun x => { x with pos := 0 + 1, k := x.k + 1, jobs := x.jobs ++ [ready0] }
        e.waveBusy 0 0 = 0 ∧ e.waveReady 0 0 = [.inr (0, ready0)] ∧ e.outHeld 0 ready0 = d.outHeld 0 ready0))
    ∧ ((bandPart []).outHeld 0 ready0 = false ∧ ((bandPart []).setFlag 40 1).outHeld 0 ready0 = true)
    ∧ (let d := bandPart [{ bandJob with started := true }]
      let x : Binding := { binding with jobs := [{ bandJob with started := true }] }
      d.bind 0 = some x ∧ x.ending = none ∧ d.freeCluster x.slot = 0 ∧ d.nextBand x = some (0, 0, 0x80000000) ∧ (d.slot 0).mode = 0
      ∧ 0 < (d.setBind 0 fun x => { x with pos := 0 + 1, k := x.k + 1, jobs := x.jobs ++ [ready0] }).waveBusy 0 0) := by
  refine ⟨fun d h => ⟨at0_devAt d, ?_⟩, ?_, ?_, ?_, ?_, ?_, ?_⟩
  · revert d; decide +kernel
  all_goals decide +kernel
def fusPart (f : Fusion → Fusion) : Dev := slotPart id fun d => { d with fusion := f { d.fusion with st := .running, slot := 0 } }
def tickOver : FusTick := { seq := 1, at64 := 0, done := some { id := 0, kind := .tick 1 } }
def overPart : Dev := fusPart fun f => { f with running := some tickOver }
theorem meets_FusionCommandsComplete :
    (∀ d ∈ [fusPart id, overPart, fusPart fun f => { f with st := .checking }], (at0 d).devAt 0 = d ∧ d.full = true ∧ d.fusion.st ≠ .idle
      ∧ d.fusion.next ≤ d.tb64 ∧ d.tb64 < d.fusion.next + d.fusion.periodUs * usNs ∧ d.fusion.asked = [] ∧ d.fusion.stepTo = none
      ∧ (d.fusSnapshot d.fusion.next d.fusion.seq).1.conflicts = [] ∧ d.fusion.waiting = none)
    ∧ ((fusPart id).fusion.st = .running ∧ (fusPart id).fusion.running = none) ∧ (overPart.fusion.st = .running ∧ overPart.fusion.running ≠ none)
    ∧ (overPart.fusion.running = some tickOver ∧ tickOver.done = some { id := 0, kind := .tick 1 } ∧ tickOver.reset = false ∧ tickOver.resetToks = []
      ∧ overPart.fusion.waiting = none ∧ overPart.fusion.maxTracks = 0 ∧ overPart.pk overPart.fusion.slot 64 4 = 0) := by
  refine ⟨fun d h => ⟨at0_devAt d, ?_⟩, ?_, ?_, ?_⟩
  · revert d; decide +kernel
  all_goals decide +kernel

def estPart (f : Est → Est) : Dev := { part with
  now := 10000000
  time := { part.time with tb := 120 * usNs * 65536 }
  est := f { part.est with st := .tracking, cfg := bytesOf 4 [(3, 1)], imu := [(1, [(10000000, 0)])] } }
def sample0 : Sample := { stamp := 0, sensor := 0, kind := 2, arrival := 0, tov := 0, payload := [] }
def duePart : Dev := estPart fun e => { e with due := some sample0 }
theorem meets_EstimatorInstantsComplete :
    (at0 duePart).devAt 0 = duePart ∧ duePart.islandUp = true ∧ duePart.full = true
    ∧ duePart.est.due = some sample0 ∧ sample0.stamp + 120 * usNs * 65536 ≤ duePart.time.tb
    ∧ duePart.est.st ≠ .off ∧ duePart.est.secondary = false ∧ 4 * duePart.imuPeriodUs (duePart.ec 2 1) * 1000 ≤ duePart.imuQuiet (duePart.ec 2 1)
    ∧ 2 * duePart.imuPeriodUs (duePart.ec 2 1) * 1000 ≤ duePart.imuQuiet (duePart.ec 2 1) ∧ duePart.ec 3 1 ≠ 0xFF
    ∧ duePart.imuLog (duePart.ec 3 1) ≠ [] ∧ duePart.imuQuiet (duePart.ec 3 1) ≤ 2 * duePart.imuPeriodUs (duePart.ec 3 1) * 1000
    ∧ duePart.est.st = .tracking ∧ duePart.est.lastOk + duePart.ec 22 2 * msNs ≤ duePart.now := by
  refine ⟨at0_devAt _, ?_⟩
  decide +kernel

def framePart : Dev := { estPart fun e => { e with bands := [(2, 50)] } with
  comp := { part.comp with cl := upd part.comp.cl 0 fun q => { q with on := true, ceiling := 100, eng := upd q.eng 0 fun e => { e with st := .live } } }
  neural := { part.neural with binds := [{ id := 8, slot := 0, sensor := 2, outFlag := 0, outSlots := 1, outBase := 0, est := true }] } }
/-- A frame of the set has a failed band; and an update of the receiver's is under way. -/
def spoiltPart : Dev := framePart.setEst fun e => { e with spoilt := [(2, 50)] }
def gnssPart : Dev := estPart fun e => { e with upd := some (true, 5), ran := [0] }
def kept : Nat × Nat × Bytes := (0, 0, [])
/-- Updates, the window's and the pose graph's problems are under way; the window's newest keyframe is where the part stands, or far off. -/
def solvedPart (n : Nat) : Dev := estPart fun e => { e with
  cfg := bytesOf 24 [(3, 1), (10, n)], upd := some (false, 5), ran := [0, 1, 2], ba := true, pg := [(1, 2, 3)], window := [0], fresh := [kept] }
def loopJob : PlaceJob := { id := 0, owner := .loop 7, index := 0, k := 1, vecs := [[]] }
def loopPart : Dev := (estPart fun e => { e with asked := [(7, [])] }).setPlace fun p => { p with
  ended := [(loopJob, true)], ix := upd p.ix 0 fun x => { x with st := .ready, sideCap := 9, idCap := 9 } }
def epochPart : Dev := estPart fun e => { e with commit := some { cause := 1 } }
theorem meets_EstimatorCommandsComplete :
    (∀ d ∈ [framePart, spoiltPart, gnssPart, solvedPart 0, solvedPart 1, loopPart, epochPart], (at0 d).devAt 0 = d ∧ d.full = true)
    ∧ (framePart.estLive = true ∧ framePart.est.upd = none ∧ framePart.frameSet = some (50, [])
      ∧ framePart.poseCluster 0 (clustersOf framePart.clusterEn) = some 0 ∧ framePart.spoiltSet 50 = false)
    ∧ (spoiltPart.estLive = true ∧ spoiltPart.est.upd = none ∧ spoiltPart.frameSet = some (50, [])
      ∧ spoiltPart.poseCluster 0 (clustersOf spoiltPart.clusterEn) = some 0 ∧ spoiltPart.spoiltSet 50 = true)
    ∧ (gnssPart.est.upd = some (true, 5) ∧ gnssPart.est.ran.contains 0 = true)
    ∧ (∀ d ∈ [solvedPart 0, solvedPart 1], d.est.upd = some (false, 5) ∧ d.est.ran.contains 0 = true ∧ d.est.ba = true
      ∧ d.est.ran.contains 1 = true ∧ d.est.pg ≠ [] ∧ d.est.ran.contains 2 = true)
    ∧ (let o : EstOutcome := { status := 0 }
       let good (d : Dev) := estSuccess 5 (estCorrect o 5 false (estOutcome 0 o (d.setEst fun e => { e with upd := none, ran := e.ran.filter (· != 0), drawn := [] })))
       (good (solvedPart 1)).kfDue { o with turned := 0 } 5 = true
       ∧ (good { solvedPart 0 with est := { (solvedPart 0).est with cfg := bytesOf 24 [(3, 1), (10, 1), (12, 1), (14, 1), (16, 1)] } }).kfDue o 5 = false)
    ∧ (∀ o ∈ [({ status := 0 } : EstOutcome), { status := 0x33 }],
      let e := estOutcome 1 o ((solvedPart 0).setEst fun e => { e with
        ba := false, ran := e.ran.filter (· != 1), baDrawn := []
        retained := if o.status ≤ 1 || o.status = 0x32 then some (o.poses.filter fun x => e.baWindow.contains x.1) else e.retained })
      let f := estOutcome 2 o ((solvedPart 0).setEst fun e => { e with pg := [], ran := e.ran.filter (· != 2) })
      e.est.baAgain = false ∧ e.est.commit = none ∧ e.epochWaits 1 = false ∧ e.est.commits.getD 1 0 = e.est.baFrom
      ∧ f.est.commit = none ∧ f.epochWaits 0 = false ∧ f.est.commits.getD 0 0 = f.est.pgFrom)
    ∧ (loopPart.place.ended.reverse.find? (fun x => match x.1.owner with
        | .loop _ => true
        | _ => false) = some (loopJob, true) ∧ loopJob.owner = .loop 7 ∧ loopPart.est.asked.find? (fun a => a.1 == 7) = some (7, []))
    ∧ (let e := ((loopPart.setPlace fun p => { p with ended := p.ended.filter fun x => x != (loopJob, true) }).setEst fun e => { e with
        asked := e.asked.filter fun b => b.1 != 7 }).setEst fun e => { e with reloc := false }
      (loopPart.ix 0).st = .ready ∧ (appendVecs 0 [[]] e).2 = .inl 0 ∧ ((appendVecs 0 [[]] e).1.ix 0).side < 4096)
    ∧ (epochPart.est.commit = some { cause := 1 } ∧ epochPart.est.fresh = [] ∧ epochPart.est.baAgain = false) := by
  refine ⟨fun d h => ⟨at0_devAt d, ?_⟩, ?_, ?_, ?_, ?_, ?_, ?_, ?_, ?_, ?_⟩
  · revert d; decide +kernel
  all_goals decide +kernel

def query : PlaceJob := { id := 3, owner := .fleet 1, index := 0, k := 1, vecs := [[]], waiting := [0] }
def placePart (j : PlaceJob) (l : List PlaceCtx) : Dev := part.setPlace fun p => { p with
  wk := upd p.wk 7 fun k => { k with st := .online }, jobs := [j], ctx := l
  ix := upd p.ix 15 fun x => { x with st := .merging, merge := some { tok := none, idEnd := 0, te := 0 } } }
def askPart : Dev := placePart query []
def openQuery : PlaceJob := { query with waiting := [], snap := some { version := 0, gEnd := 0, wm := 0, te := 0, at64 := 0 } }
def endPart : Dev := placePart openQuery [{ walker := 7, slot := 0, job := 3, query := 0 }]
theorem meets_PlaceCommandsComplete :
    (∀ d ∈ [askPart, endPart], (at0 d).devAt 0 = d ∧ d.full = true ∧ d.islandUp = true)
    ∧ ((askPart.wk 7).st = .online ∧ askPart.waitingJobs = [query] ∧ askPart.fits 7 query = true)
    ∧ (endPart.place.ctx.find? (fun c => c.walker == 7 && c.slot == 0) = some { walker := 7, slot := 0, job := 3, query := 0 }
      ∧ endPart.jobOf 3 = some openQuery ∧ (∃ v, openQuery.snap = some v ∧ endPart.readsRewrite openQuery v (openQuery.vecs.getD 0 []) = false))
    ∧ ((askPart.ix 15).st = .merging ∧ (askPart.ix 15).merge = some { tok := none, idEnd := 0, te := 0 })
    ∧ (askPart.assayOf 1 7 = none ∧ (askPart.wk 7).st ≠ .gated ∧ (askPart.wk 7).st ≠ .fenced) := by
  refine ⟨fun d h => ⟨at0_devAt d, ?_⟩, ?_, ?_, ?_, ?_⟩
  · revert d; decide +kernel
  all_goals decide +kernel

/-- A part that has joined its fleet as device 0, its SXP on port 0 with port 1 as the other one. -/
def fleetPart (f : Fleet → Fleet) : Dev := { part with
  now := 86400 * sNs
  eth := upd part.eth 1 fun p => { p with enable := true, link := true }
  fleet := f { part.fleet with st := .joined, cfg := bytesOf 40 [(2, 4), (3, 0x14)] } }
def hello : SxpHello := { credential := List.replicate 7283 0 }
def session (st : SesSt) : Session := { id := 4, peer := 0, st := st, expire := if st == .opened then none else some 0 }
def oldSession : Session := { id := 5, peer := 0, st := .opened, expire := some 0 }
def talk (st : SesSt) : Dev := fleetPart fun f => { f with sessions := [session st, oldSession] }
def otherPort : Dev := { fleetPart (fun f => { f with alt := true, cfg := bytesOf 40 [(2, 4), (3, 1)] }) with now := 86400 * sNs }
/-- A session that has had the datagram's sequence already. -/
def repeated : Session := { session .opened with seen := [0], high := some 0 }
def gram : SxpDgram := { session := 4, seq := 0, msg := { kind := 0x11, src := 0, dst := 0, msgId := 1 } }
theorem meets_SessionCommandsComplete :
    (∀ d ∈ [fleetPart id, talk .inited, talk .replied, talk .opened, otherPort], (at0 d).devAt 0 = d ∧ d.controlUp = true ∧ d.full = true
      ∧ d.fleetOn = true)
    ∧ ((fleetPart id).answers hello.udp = true ∧ (fleetPart id).answers 47811 = true ∧ hello.udp = 47811
      ∧ (fleetPart id).helloFault { hello with cred := 2 } (setupFields { hello with cred := 2 }) = some 5 ∧ (fleetPart id).fleet.refusedAt = none)
    ∧ (talk .inited).fleet.sessions.find? (fun s => s.id == hello.sid + 4 && s.st == .inited && s.peer == hello.srcDev) = some (session .inited)
    ∧ (talk .replied).fleet.sessions.find? (fun s => s.id == 4 && s.st == .replied) = some (session .replied)
    ∧ ((talk .opened).fleet.sessions.find? (fun s => s.id == gram.session && s.st == .opened) = some (session .opened)
      ∧ gram.len ≤ 8952 ∧ gram.frag = 0 ∧ gram.count = 1 ∧ { gram with count := 2 }.count = 2 ∧ (talk .opened).fleet.reasm = [])
    ∧ (let d := fleetPart fun f => { f with sessions := [repeated] }
      ((at0 d).devAt 0 = d ∧ d.controlUp = true ∧ d.fleetOn = true)
      ∧ d.fleet.sessions.find? (fun s => s.id == gram.session && s.st == .opened) = some repeated ∧ repeated.seen.contains gram.seq = true)
    ∧ ((talk .opened).fleet.sessions.find? (fun s => s.id == 4 && s.st == .opened && s.expire.isNone && !s.admin) = some (session .opened)
      ∧ (session .opened).madeAt + 86400 * sNs ≤ (talk .opened).now)
    ∧ ((talk .opened).fleet.sessions.find? (fun s => s.id == 5) = some oldSession ∧ 0 ≤ (talk .opened).now
      ∧ oldSession.usedAt + 120 * sNs ≤ (talk .opened).now)
    ∧ (let b := (fleetPart id).fcf 27 1
      (fleetPart id).fleet.st ≠ .off ∧ (fleetPart id).fleet.alt = false ∧ b.testBit 4 = true ∧ (fleetPart id).portUp (bitsOf 1 0 b) = false
        ∧ (fleetPart id).portUp (bitsOf 3 2 b) = true)
    ∧ (let p := bitsOf 1 0 (otherPort.fcf 27 1)
      otherPort.fleet.alt = true ∧ otherPort.portUp p = true ∧ (otherPort.eth.getD p {}).linkAt + 10 * sNs ≤ otherPort.now)
    ∧ ((fleetPart id).fcf 26 1 ≠ 6) ∧ (fleetPart fun f => { f with cfg := bytesOf 40 [(2, 6)] }).fcf 26 1 = 6 := by
  refine ⟨fun d h => ⟨at0_devAt d, ?_⟩, ?_, ?_, ?_, ?_, ?_, ?_, ?_, ?_, ?_, ?_⟩
  · revert d; decide +kernel
  all_goals decide +kernel

/-- Shard 2, hosted in slot 0 in a state `st`, and a message that waits. -/
def shard (st : ShSt) : Hosted := { shard := 2, st := st, rev := 6 }
def mail (kind : Nat) (body : SxpBody) : SxpMsg := { kind := kind, src := 9, dst := 0, shard := 2, epoch := 1, msgId := 30, replyTo := 20, body := body }
def mailed (m : SxpMsg) (h : Hosted) (f : Fleet → Fleet) : Dev :=
  (fleetPart fun x => f { x with hosted := [h], table := [bytesOf 64 [(0, 2), (4, 1)]], inbox := [m] }).setIx 0 fun x => { x with st := .ready, sideCap := 9, idCap := 9 }
/-- The part without its message. -/
def unread (m : SxpMsg) (h : Hosted) (f : Fleet → Fleet) : Dev := (mailed m h f).setFleet fun f => { f with inbox := [] }
def pubOut : PubOut := { shard := 2, msgIds := [20], out := some 7 }
def ask : FleetQ := { id := 1, tok := { ch := .sq 1, count := 1 }, k := 1, n := 1, rerank := 0, len := 1, timeoutMs := 10, shards := [{ shard := 2, holders := [9], msgIds := [20] }] }
def waits (id : Nat) : OutReq := { msg := mail 0x32 .empty, peer := 9, sends := 1, firstAt := id }
theorem meets_FleetMessagesComplete :
    (∀ k body st f, (at0 (mailed (mail k body) (shard st) f)).devAt 0 = mailed (mail k body) (shard st) f)
    ∧ (∀ k ∈ [0x10, 0x11, 0x12, 0x13, 0x20, 0x21, 0x30, 0x31, 0x32, 0x33, 0x34, 0x35, 0x40, 0x50],
      (mailed (mail k .empty) (shard .replica) id).full = true
      ∧ (takeMsg k (mailed (mail k .empty) (shard .replica) id)).isSome = true)
    ∧ (let m := mail 0x10 (.publish 1 0 []); takeMsg 0x10 (mailed m (shard .primary) id) = some (m, unread m (shard .primary) id)
      ∧ (unread m (shard .primary) id).host m.shard = some (shard .primary) ∧ (unread m (shard .primary) id).actsOn m = true)
    ∧ (let f := fun x : Fleet => { x with pubs := [pubOut] }; let m := mail 0x11 (.publishAck 7)
      takeMsg 0x11 (mailed m (shard .replica) f) = some (m, unread m (shard .replica) f)
      ∧ (unread m (shard .replica) f).fleet.pubs = [pubOut] ∧ pubOut.msgIds = [m.replyTo] ∧ pubOut.out = some 7)
    ∧ (let r : Revision := { num := 6, pub := 9, mapEpoch := 1, items := [] }; let m := mail 0x12 (.revision r)
      takeMsg 0x12 (mailed m (shard .replica) id) = some (m, unread m (shard .replica) id)
      ∧ (unread m (shard .replica) id).host m.shard = some (shard .replica) ∧ (unread m (shard .replica) id).actsOn m = true
      ∧ (shard .replica).fullSync = false ∧ r.num ≤ (shard .replica).rev)
    ∧ (let r : Revision := { num := 7, pub := 9, mapEpoch := 1, items := [] }; let m := mail 0x12 (.revision r)
      takeMsg 0x12 (mailed m (shard .replica) id) = some (m, unread m (shard .replica) id)
      ∧ r.num = (shard .replica).rev + 1 ∧ (applyRevision m.shard r (unread m (shard .replica) id)).isSome = true)
    ∧ (let m := mail 0x20 (.query 1 8 0 [[]])
      takeMsg 0x20 (mailed m (shard .replica) id) = some (m, unread m (shard .replica) id)
      ∧ (unread m (shard .replica) id).host m.shard = some (shard .replica) ∧ (unread m (shard .replica) id).actsOn m = true ∧ ((unread m (shard .replica) id).ix (shard .replica).slot).st = .ready)
    ∧ (let f := fun x : Fleet => { x with queries := [ask] }; let m := mail 0x21 (.queryResult [])
      takeMsg 0x21 (mailed m (shard .replica) f) = some (m, unread m (shard .replica) f)
      ∧ (unread m (shard .replica) f).fleet.queries.find? (fun q => q.shards.any fun s => s.msgIds.contains m.replyTo) = some ask
      ∧ ask.shards.find? (fun s => s.msgIds.contains m.replyTo) = some { shard := 2, holders := [9], msgIds := [20] })
    ∧ (let b := bytesOf 64 [(0, 2), (4, 1)]; let m := mail 0x30 (.notice b); let e := unread m (shard .replica) id
      takeMsg 0x30 (mailed m (shard .replica) id) = some (m, e) ∧ e.shardEntry m.shard = some b ∧ newerEntry b b = false)
    ∧ (let m := mail 0x31 (.revisionAck 6 0x0903); let e := unread m (shard .primary) id
      takeMsg 0x31 (mailed m (shard .primary) id) = some (m, e) ∧ (dropReq m.replyTo e).host m.shard = some (shard .primary))
    ∧ (let m := mail 0x32 (.syncReq 0 0x0902); let e := unread m (shard .primary) id
      takeMsg 0x32 (mailed m (shard .primary) id) = some (m, e) ∧ e.host m.shard = some (shard .primary)
      ∧ e.actsOn m = true)
    ∧ (let f := fun x : Fleet => { x with reqs := [{ msg := { mail 0x32 .empty with msgId := 20 }, peer := 9 }] }
      let m := mail 0x33 (.syncData none [] 6 0x0904); let e := unread m (shard .syncing) f
      takeMsg 0x33 (mailed m (shard .syncing) f) = some (m, e) ∧ e.fleet.reqs.any (fun r => r.msg.msgId == m.replyTo) = true
      ∧ (dropReq m.replyTo e).host m.shard = some (shard .syncing) ∧ (shard .syncing).fullSync = false ∧ (shard .syncing).rev = 6)
    ∧ (let m := mail 0x34 (.handoverReq 6); let e := unread m (shard .replica) id
      takeMsg 0x34 (mailed m (shard .replica) id) = some (m, e) ∧ e.shardSt m.shard = .replica ∧ e.actsOn m = true)
    ∧ (let h := { shard .handingOver with handing := some ({ ch := .sq 1, count := 1 }, 9, 0) }
      let m := mail 0x35 (.handoverAck (bytesOf 64 [(0, 2), (4, 2)])); let e := unread m h id
      takeMsg 0x35 (mailed m h id) = some (m, e) ∧ (dropReq m.replyTo e).host m.shard = some h
      ∧ (dropReq m.replyTo e).shardEntry m.shard = some (bytesOf 64 [(0, 2), (4, 1)]) ∧ 9 = m.src ∧ h.pubs = [])
    ∧ (let b := bytesOf 64 [(0, 2), (4, 1)]; let m := mail 0x40 (.bounce b 20); let e := unread m (shard .replica) id
      takeMsg 0x40 (mailed m (shard .replica) id) = some (m, e) ∧ e.shardEntry m.shard = some b ∧ newerEntry b b = false
      ∧ (takeEntry m.shard b 1 (e.setFleet fun f => { f with bounceRecv := satInc f.bounceRecv })).fleet.reqs.find? (fun r => r.msg.msgId == 20) = none)
    ∧ (let f := fun x : Fleet => { x with sessions := [{ id := 5, peer := 0xFFFF, admin := true, st := .opened }] }
      let m := mail 0x50 (.adminDesc [] []); let e := unread m (shard .replica) f
      takeMsg 0x50 (mailed m (shard .replica) f) = some (m, e) ∧ e.mayFetch .net (parseDesc (padTo 64 [])).2 = true) := by
  refine ⟨fun k b st f => at0_devAt _, ?_, ?_, ?_, ?_, ?_, ?_, ?_, ?_, ?_, ?_, ?_, ?_, ?_, ?_, ?_⟩ <;> decide +kernel

def resend : Dev := mailed (mail 0x11 .empty) (shard .claiming) fun f => { f with
  reqs := [{ msg := mail 0x12 .empty, peer := 9, sends := 4 }], queries := [ask, { ask with id := 2, shards := [{ shard := 2, holders := [9], asked := 2 }] }]
  pubs := [pubOut] }
def handing : Dev := mailed (mail 0x11 .empty) { shard .handingOver with handing := some ({ ch := .sq 1, count := 1 }, 9, 0) } id
theorem meets_FleetTimersComplete :
    (∀ d ∈ [resend, handing], (at0 d).devAt 0 = d ∧ d.full = true ∧ d.fleetOn = true)
    ∧ (∃ r, resend.fleet.reqs.find? (fun r => r.msg.msgId == 30) = some r ∧ 0 < r.sends ∧ r.sends < 5 ∧ r.nextAt ≤ resend.now ∧ r.msg.kind ≠ 0x20)
    ∧ (∃ x y, resend.fleet.queries.find? (fun y => y.id == 1) = some x ∧ x.shards.find? (fun s => s.shard == 2) = some y ∧ y.answer = none
      ∧ y.missing = false ∧ y.deadline ≤ resend.now ∧ y.asked < 2 ∧ y.asked < y.holders.length)
    ∧ (∃ x y, resend.fleet.queries.find? (fun y => y.id == 2) = some x ∧ x.shards.find? (fun s => s.shard == 2) = some y ∧ y.answer = none
      ∧ y.missing = false ∧ y.deadline ≤ resend.now ∧ 2 ≤ y.asked)
    ∧ (∃ p, resend.fleet.pubs.find? (fun p => p.shard == 2) = some p ∧ p.out = some 7 ∧ p.late = false
      ∧ p.firstAt + resend.fleet.publishTmoS.toNat * sNs ≤ resend.now)
    ∧ (∃ h, resend.host 2 = some h ∧ h.st = .claiming ∧ h.claimEnd ≤ resend.now)
    ∧ (∃ h, handing.host 2 = some h ∧ h.handing = some ({ ch := .sq 1, count := 1 }, 9, 0) ∧ 0 ≤ handing.now) := by
  refine ⟨fun d h => ⟨at0_devAt d, ?_⟩, ⟨_, rfl, ?_⟩, ⟨_, _, rfl, rfl, ?_⟩, ⟨_, _, rfl, rfl, ?_⟩, ⟨_, rfl, ?_⟩, ⟨_, rfl, ?_⟩, ⟨_, rfl, ?_⟩⟩
  · revert d; decide +kernel
  all_goals decide +kernel

/-- All clusters on with two engines live, an Assay of engine 5 under way, streams in Touchstone units 0 (its CRC is as expected) and 1. -/
def faultPart (f : Flt → Flt) : Dev := { part with
  now := 60 * sNs
  own := { part.own with outen := 0xFFFFFFFF }
  comp := { part.comp with cl := upd part.comp.cl 0 fun q => { q with on := true, ceiling := 100, eng := upd (upd q.eng 0 fun x => { x with st := .live }) 1 fun x => { x with st := .live } } }
  ts := upd (upd part.ts 0 fun u => { u with st := .running, expected := BitVec.ofNat 64 (crcDone 0 0) }) 1 fun u => { u with st := .running }
  flt := f { part.flt with assays := [{ kind := 0, unit := 5, why := .unitReturn { ch := .sq 1, count := 1 } }] } }
theorem meets_FaultCommandsComplete :
    (at0 (faultPart id)).devAt 0 = faultPart id ∧ (faultPart id).islandUp = true ∧ (faultPart id).full = true
    ∧ (((faultPart id).eng 0 0).st = .live ∧ ((faultPart id).eng 0 0).running = none ∧ ((faultPart id).eng 0 0).leaving = none)
    ∧ ((faultPart id).assayOf 3 3 = none ∧ (faultPart id).flt.core.getD 3 0 = 0)
    ∧ (faultPart id).flt.fatal = none
    ∧ (faultPart id).assayOf 0 5 = some { kind := 0, unit := 5, why := .unitReturn { ch := .sq 1, count := 1 } }
    ∧ (let d := faultPart id
      0 < d.flt.rotateS.toNat ∧ d.flt.rotateAt + d.flt.rotateS.toNat * sNs ≤ d.now ∧ (d.flt.assays.any fun a => a.why == .rotation) = false
      ∧ ((List.range 6).any fun c => (d.clus c).eng.any fun x => x.leaving == some (none, true)) = false
      ∧ ((List.range 144).map fun i => (d.flt.rotateNext + i) % 144).find? (fun n =>
        (d.clus (n / 24)).on && (d.eng (n / 24) (n % 24)).st == .live) = some 0
      ∧ d.flt.minLive.toNat < d.liveEngines ∧ d.overCeiling (0 / 24) 0 (d.liveIn (0 / 24) - 1) = false)
    ∧ (∃ u, (faultPart id).ts[0]? = some u ∧ u.st = .running ∧ u.matched = true) ∧ (∃ u, (faultPart id).ts[1]? = some u ∧ u.st = .running ∧ u.matched = false)
    ∧ ((faultPart id).driven 17 = true ∧ (faultPart id).driven 18 = true ∧ (faultPart id).flt.beatAt + (faultPart id).beatNs ≤ (faultPart id).now) := by
  refine ⟨at0_devAt _, by decide +kernel, by decide +kernel, ?_, ?_, ?_, ?_, ?_, ⟨_, rfl, ?_⟩, ⟨_, rfl, ?_⟩, ?_⟩ <;> decide +kernel

def tok0 : Tok := { ch := .sq 1, count := 1 }
def updatePart (f : Trust → Trust) : Dev := { part with trust := f part.trust }
def fallback (ok : Bool) : Dev := { updatePart (fun x => { x with st := .fallingBack, retainedValid := ok }) with part := .baseMetal }
theorem meets_UpdateCommandsComplete :
    (∀ f, (at0 (updatePart f)).devAt 0 = updatePart f) ∧ (∀ ok, (at0 (fallback ok)).devAt 0 = fallback ok)
    ∧ (∀ d ∈ [updatePart id, fallback true, fallback false], d.controlUp = true) ∧ (updatePart id).full = true
    ∧ ((updatePart id).stageFault false [] = some (2, stDataError)
      ∧ (updatePart fun x => { x with staging := some (tok0, [], 0) }).trust.staging = some (tok0, [], 0))
    ∧ (let d := updatePart fun x => { x with st := .unstaging }; d.trust.st = .unstaging ∧ d.trust.fromRecovery = false ∧ d.trust.cancels = [])
    ∧ (let d := updatePart fun x => { x with st := .activating }
      d.trust.st = .activating ∧ pkgReads d.trust.active ≤ d.trust.bankFmt ∧ d.trust.bankFmt ≤ pkgFmt d.trust.active ∧ d.trust.active = d.trust.running)
    ∧ (let d := updatePart fun x => { x with st := .trial, timerEnd := some 0 }
      d.trust.st = .trial ∧ d.trust.unreadable = false ∧ d.trust.ownerPending = false ∧ d.full = true ∧ d.trust.fromRecovery = false
      ∧ d.trust.timerEnd = some 0 ∧ 0 ≤ d.now)
    ∧ (∀ d ∈ [fallback true, fallback false], d.trust.st = .fallingBack ∧ d.part = .baseMetal ∧ d.start = .done ∧ d.trust.reverts = []
      ∧ d.trust.fromRecovery = false) ∧ (fallback true).trust.retainedValid = true := by
  refine ⟨fun f => at0_devAt _, fun ok => at0_devAt _, ?_, ?_, ?_, ?_, ⟨?_, ?_, ?_, rfl⟩, ?_, ?_, ?_⟩ <;> decide +kernel

/-- Cluster 0 on at step `n` of its top `n`. -/
def powerPart (n : Nat) : Dev := { part with
  comp := { part.comp with cl := upd part.comp.cl 0 fun q => { q with on := true, step := n, top := n } } }
theorem meets_PowerCommandsComplete :
    (∀ n, (at0 (powerPart n)).devAt 0 = powerPart n)
    ∧ (∀ n ∈ [0, 8], (powerPart n).booted = true ∧ (powerPart n).pw.powerAt = none ∧ (powerPart n).pw.thermAt = none
      ∧ ∀ c ∈ (powerPart n).clocked, ((powerPart n).clus c).top ≤ ((powerPart n).clus c).step)
    ∧ (powerPart 8).lowering = some 0 := by
  refine ⟨fun n => at0_devAt _, ?_, ?_⟩ <;> decide +kernel

/-- A part with a completion ring that no submission ring reports to. -/
def noSqPart : Dev := { own1 with hif := { own1.hif with sq := upd own1.hif.sq 1 fun _ => {} } }
theorem meets_AdminOpcodesComplete (h : Obligations.AdminOpcodesComplete) :
    Completes (exec (.nop 0 (.sq 0) (desc [])) (atRing own1))
    ∧ Completes (exec (.identify 0 (.sq 0) (desc [])) (atRing own1))
    ∧ Completes (exec (.createCq 0 (.sq 0) (desc [(24, 2), (25, 1), (26, 4)])) (atRing own1))
    ∧ Completes (exec (.createSq 0 (.sq 0) (desc [(24, 2), (25, 1), (26, 4)])) (atRing own1))
    ∧ Completes (exec (.deleteCq 0 (.sq 0) (desc [(24, 1)])) (atRing noSqPart))
    ∧ Completes (exec (.abortSq 0 (.sq 0) (desc [(24, 1)])) (atRing own1))
    ∧ Completes (exec (.deleteSq 0 (.sq 0) (desc [(24, 1)])) (atRing own1)) :=
  ⟨h.1.meets own1 (.sq 0) (desc []) (by decide +kernel) trivial (by decide +kernel),
    h.2.1.meets own1 (.sq 0) (desc []) (by decide +kernel) (by decide +kernel) (by decide +kernel),
    h.2.2.1.meets own1 (.sq 0) (desc [(24, 2), (25, 1), (26, 4)]) (by decide +kernel) (by decide +kernel) (by decide +kernel),
    h.2.2.2.1.meets own1 (.sq 0) (desc [(24, 2), (25, 1), (26, 4)]) (by decide +kernel) (by decide +kernel) (by decide +kernel),
    h.2.2.2.2.1.meets noSqPart (.sq 0) (desc [(24, 1)]) (by decide +kernel) (by decide +kernel) (by decide +kernel),
    h.2.2.2.2.2.1.meets own1 (.sq 0) (desc [(24, 1)]) (by decide +kernel) (by decide +kernel),
    h.2.2.2.2.2.2.meets own1 (.sq 0) (desc [(24, 1)]) (by decide +kernel) (by decide +kernel)⟩

theorem meets_OwnershipOpcodesComplete (h : Obligations.OwnershipOpcodesComplete) :
    Completes (exec (.ownClaim 0 (.sq 0) (desc [])) (atRing (claimPart .vacant 0)))
    ∧ Completes (exec (.ownClaim 0 (.sq 0) (desc [])) (atRing (claimPart .arbitrating 0)))
    ∧ Completes (exec (.ownClaim 0 (.sq 0) (desc [])) (atRing (claimPart .owned 1)))
    ∧ Completes (exec (.ownHeartbeat 0 (.sq 0) (desc [])) (atRing own1))
    ∧ Completes (exec (.ownHandover 0 (.sq 0) (desc [(24, 2)])) (atRing (claimPart .owned 1)))
    ∧ Completes (exec (.ownAccept 0 (.sq 0) (desc [])) (atRing (claimPart .handover 2)))
    ∧ Completes (exec (.ownRelease 0 (.sq 0) (desc [])) (atRing own1)) :=
  ⟨h.1.meets (claimPart .vacant 0) (.sq 0) (desc []) (by decide +kernel) (by decide +kernel),
    h.2.1.meets (claimPart .arbitrating 0) (.sq 0) (desc []) (by decide +kernel) (by decide +kernel),
    h.2.2.1.meets (claimPart .owned 1) (.sq 0) (desc []) (by decide +kernel) (by decide +kernel),
    h.2.2.2.1.meets own1 (.sq 0) (desc []) (by decide +kernel) (by decide +kernel) (by decide +kernel),
    h.2.2.2.2.1.meets (claimPart .owned 1) (.sq 0) (desc [(24, 2)]) (by decide +kernel) (by decide +kernel) (by decide +kernel),
    h.2.2.2.2.2.1.meets (claimPart .handover 2) (.sq 0) (desc []) (by decide +kernel) (by decide +kernel) (by decide +kernel),
    h.2.2.2.2.2.2.meets own1 (.sq 0) (desc []) (by decide +kernel) (by decide +kernel) (by decide +kernel)⟩

/-- A part whose last application replaced an empty record. -/
def prevPart : Dev := { own1 with prof := { own1.prof with previous := some [] } }
theorem meets_ProfileAndRegisterOpcodesComplete (h : Obligations.ProfileAndRegisterOpcodesComplete) :
    Completes (exec (.profileSelect 0 (.sq 0) (desc [(24, 3)])) (atRing own1))
    ∧ Completes (exec (.profileRead 0 (.sq 0) (desc [(24, 3)])) (atRing own1))
    ∧ Completes (exec (.profileRead 0 (.sq 0) (desc [(24, 3), (25, 1)])) (atRing prevPart))
    ∧ Completes (exec (.profileWrite 0 .i3c (desc [(24, 1)] (padTo 4096 (defaultRecord 1)))) (atRing (claimPart .owned 2)))
    ∧ Completes (exec (.profileWrite 0 (.sq 0) (desc [(24, 1)])) (atRing own1))
    ∧ Completes (exec (.profileRestore 0 (.sq 0) (desc [(24, 1)])) (atRing own1))
    ∧ Completes (exec (.regRead 0 (.sq 0) (desc [(28, 4)])) (atRing own1)) ∧ Completes (exec (.regWrite 0 (.sq 0) (desc [(28, 8), (25, 0x10)])) (atRing own1)) :=
  ⟨h.1.meets own1 (.sq 0) (desc [(24, 3)]) (by decide +kernel) (by decide +kernel),
    h.2.1.meets own1 (.sq 0) (desc [(24, 3)]) (by decide +kernel) (by decide +kernel) (by decide +kernel),
    (h.2.2.1 []).meets prevPart (.sq 0) (desc [(24, 3), (25, 1)]) (by decide +kernel) (by decide +kernel) (by decide +kernel),
    h.2.2.2.1.meets (claimPart .owned 2) .i3c (desc [(24, 1)] (padTo 4096 (defaultRecord 1))) (by decide +kernel) ⟨by decide +kernel, by decide +kernel, record1Ok _ _ _ (by decide +kernel) (by decide +kernel) rfl⟩,
    (h.2.2.2.2.1 0).meets own1 (.sq 0) (desc [(24, 1)]) (by decide +kernel) ⟨by decide +kernel, by decide +kernel, recordBad _ _ _ (by decide +kernel)⟩,
    h.2.2.2.2.2.1.meets own1 (.sq 0) (desc [(24, 1)]) (by decide +kernel) (by decide +kernel),
    ⟨⟨_, (h.2.2.2.2.2.2 _ _ _ _ _ (atRing_devAt own1)).1 (serves_of (by decide +kernel)) (by decide +kernel) (keeps_of (by decide +kernel))⟩,
      ⟨_, (h.2.2.2.2.2.2 _ _ _ _ _ (atRing_devAt own1)).2 (serves_of (by decide +kernel)) (by decide +kernel) (.inl (by decide +kernel)) (keeps_of (by decide +kernel))⟩⟩⟩

/-- A part whose tracks are in a state and whose time base is in another. -/
def trkPart (x : TbSt) (y : TrkSt) : Dev := { own1 with time := { own1.time with st := x, trk := [{ st := y }, { st := y }] } }
/-- A camera of 2 columns and 3 lines, at the rings; and one whose slot holds a sample. -/
def camRing : Dev := { own1 with prof := { own1.prof with active := entry0 [(0, 1), (1, 1), (57, 0x2A), (58, 1), (60, 2), (62, 3)] } }
def slotHeld : Dev := { camRing with sens := { camRing.sens with s := upd camRing.sens.s 0 fun q => { q with slot := some {} } } }
/-- An injected source that ring 1 feeds, with a sample of instant 9 before. -/
def injectPart (late : Bool) : Dev := { own1 with
  prof := { own1.prof with active := entry0 [(0, 6), (1, 1)] }
  sens := { own1.sens with s := upd own1.sens.s 0 fun q => { q with enabled := true, slot := if late then some { tov := 9 } else none } } }
theorem meets_TimeAndSensorOpcodesComplete (h : Obligations.TimeAndSensorOpcodesComplete) :
    Completes (exec (.timeSelect 0 (.sq 1) (desc [])) (atRing (trkPart .freeRun .lost)))
    ∧ Completes (exec (.timeSelect 0 (.sq 1) (desc [])) (atRing (trkPart .tracking .locked)))
    ∧ Completes (exec (.timeSet 0 (.sq 1) (desc [(32, 5)])) (atRing own1))
    ∧ Completes (exec (.setLaunchPeriod 0 (.sq 1) (desc [(24, 1), (32, 100)])) (atRing own1))
    ∧ Completes (exec (.timeStatus 0 (.sq 1) (desc [])) (atRing own1))
    ∧ Completes (exec (.sensorEnable 0 (.sq 1) (desc [(25, 1)])) (atRing camRing))
    ∧ Completes (exec (.slotRead 0 (.sq 1) (desc [])) (atRing camRing))
    ∧ Completes (exec (.slotRead 0 (.sq 1) (desc [])) (atRing slotHeld))
    ∧ Completes (exec (.frameGrab 0 (.sq 1) (desc [(40, 6)])) (atRing camRing))
    ∧ Completes (exec (.gnssSend 0 (.sq 1) (desc [(24, 4)])) (atRing own1))
    ∧ Completes (exec (.sensorInject 0 (.sq 1) (desc [(25, 4), (32, 7)])) (atRing (injectPart false)))
    ∧ Completes (exec (.sensorInject 0 (.sq 1) (desc [(25, 4), (32, 7)])) (atRing (injectPart true))) :=
  ⟨h.1.meets (trkPart .freeRun .lost) (.sq 1) (desc []) (by decide +kernel) (by decide +kernel) (by decide +kernel),
    h.2.1.meets (trkPart .tracking .locked) (.sq 1) (desc []) (by decide +kernel) (by decide +kernel) (by decide +kernel),
    h.2.2.1.meets own1 (.sq 1) (desc [(32, 5)]) (by decide +kernel) (by decide +kernel) (by decide +kernel),
    h.2.2.2.1.meets own1 (.sq 1) (desc [(24, 1), (32, 100)]) (by decide +kernel) (by decide +kernel) (by decide +kernel),
    h.2.2.2.2.1.meets own1 (.sq 1) (desc []) (by decide +kernel) trivial (by decide +kernel),
    h.2.2.2.2.2.1.meets camRing (.sq 1) (desc [(25, 1)]) (by decide +kernel) (by decide +kernel) (by decide +kernel),
    h.2.2.2.2.2.2.1.meets camRing (.sq 1) (desc []) (by decide +kernel) (by decide +kernel) (by decide +kernel),
    (h.2.2.2.2.2.2.2.1 {}).meets slotHeld (.sq 1) (desc []) (by decide +kernel) (by decide +kernel) (by decide +kernel),
    h.2.2.2.2.2.2.2.2.1.meets camRing (.sq 1) (desc [(40, 6)]) (by decide +kernel) (by decide +kernel),
    h.2.2.2.2.2.2.2.2.2.1.meets own1 (.sq 1) (desc [(24, 4)]) (by decide +kernel) (by decide +kernel),
    h.2.2.2.2.2.2.2.2.2.2.1.meets (injectPart false) (.sq 1) (desc [(25, 4), (32, 7)]) (by decide +kernel) (by decide +kernel),
    h.2.2.2.2.2.2.2.2.2.2.2.meets (injectPart true) (.sq 1) (desc [(25, 4), (32, 7)]) (by decide +kernel) (by decide +kernel)⟩

theorem getD_pad (l : Bytes) (m i : Nat) : (l ++ List.replicate m (0 : Byte)).getD i 0 = l.getD i 0 := by
  simp only [List.getD_eq_getElem?_getD, List.getElem?_append, List.getElem?_replicate]
  split
  · rfl
  · rename_i h
    rw [List.getElem?_eq_none (Nat.le_of_not_lt h)]; split <;> rfl
theorem zeroChecks_pad (l : Bytes) (m lo n : Nat) : zeroChecks (l ++ List.replicate m 0) lo n = zeroChecks l lo n := by
  unfold zeroChecks; simp only [getD_pad]
theorem firstFault_append {a b : List (Nat × Bool)} (ha : firstFault a = none) (hb : firstFault b = none) : firstFault (a ++ b) = none := by
  simp only [firstFault, Option.map_eq_none_iff, List.find?_eq_none, List.mem_append] at *
  rintro x (h | h)
  · exact ha x h
  · exact hb x h
theorem zeroChecks_past (l : Bytes) (lo n : Nat) (h : l.length ≤ lo) : firstFault (zeroChecks l lo n) = none := by
  simp only [firstFault, Option.map_eq_none_iff, List.find?_eq_none, zeroChecks, List.mem_map]
  rintro x ⟨i, _, rfl⟩
  simp [List.getD_eq_getElem?_getD, List.getElem?_eq_none (Nat.le_trans h (Nat.le_add_right _ _))]
/-- The payload of a package: one byte of 0, or nothing; and the package's first 1024 bytes: one input and one output and no sections. -/
def pkData (z : Bool) : Bytes := if z then [0] else []
def pkHead (z : Bool) : Bytes :=
  ([0x49, 0x4e, 0x47, 0x4b, 1, 0, 0, 0, 0, 0, 0, 0, 0, 0, 0, 0, 0, 0, 0, 0, 0, 0, 0, 0, 1, 1, 1, 1, 1] ++ List.replicate 419 0)
  ++ ((List.range 64).map fun k => (Config.sha3 (pkData z)).getD k 0)
  ++ ([0, 1, 0, 1, 1, 0, 0, 0, 1, 0, 0, 0, 1, 0, 0, 0, 1, 0, 0, 0, 0, 0, 0, 0, 0, 0, 0, 0, 0, 0, 0, 0, 1, 1, 0, 1, 1, 0, 0, 0, 1, 0, 0, 0, 1, 0, 0, 0, 1] ++ List.replicate 463 0)
theorem pkHead_len (z : Bool) : (pkHead z).length = 1024 := by simp [pkHead, -List.reduceReplicate]
/-- Its first 4096 bytes. -/
def pkPage (z : Bool) : Bytes := pkHead z ++ List.replicate 3072 0
theorem pkPage_len (z : Bool) : (pkPage z).length = 4096 := by rw [pkPage, List.length_append, pkHead_len, List.length_replicate]
theorem digest_of (x : Bytes) : (List.range 64).map (fun k => x.getD k 0) = padTo 64 x := by
  apply List.ext_getElem?
  intro i
  unfold padTo
  rw [List.getElem?_map, List.getElem?_append, List.getElem?_take, List.getElem?_replicate, List.length_take]
  by_cases h : i < 64
  · rw [List.getElem?_range h]
    by_cases g : i < x.length
    · simp [h, g, List.getD_eq_getElem?_getD]
    · (simp [h, g, List.getD_eq_getElem?_getD]; omega)
  · rw [List.getElem?_eq_none (by simpa using h)]; simp [h]; omega
theorem zeros_of (p : Bytes) (lo n : Nat) (h : ((p.drop lo).take n).all (· == 0) = true) : firstFault (zeroChecks p lo n) = none := by
  simp only [firstFault, Option.map_eq_none_iff, List.find?_eq_none, zeroChecks, List.mem_map, List.mem_range]
  rintro x ⟨i, hi, rfl⟩
  rw [List.all_eq_true] at h
  by_cases g : lo + i < p.length
  · have := h p[lo + i] (List.mem_take_iff_getElem.2 ⟨i, by simp; omega, by simp⟩)
    simpa [List.getD_eq_getElem?_getD, g] using this
  · simp [List.getD_eq_getElem?_getD, List.getElem?_eq_none (Nat.le_of_not_lt g)]
theorem firstFault_flatten {l : List (List (Nat × Bool))} (h : ∀ x ∈ l, firstFault x = none) : firstFault l.flatten = none := by
  simp only [firstFault, Option.map_eq_none_iff, List.find?_eq_none, List.mem_flatten] at *
  rintro x ⟨y, hy, hx⟩
  exact h y hy x hx
theorem pkOk (z : Bool) (feat free : Nat) : installFault (pkPage z ++ pkData z) (4096 + (pkData z).length) feat free = none := by
  have hz : pkData z = List.replicate (pkData z).length 0 := by cases z <;> rfl
  have e : pkPage z ++ pkData z = pkHead z ++ List.replicate (3072 + (pkData z).length) 0 := by
    rw [pkPage, List.append_assoc]; conv_lhs => rw [hz]
    exact congrArg (pkHead z ++ ·) List.replicate_append_replicate
  have hl : (pkPage z ++ pkData z).length = 4096 + (pkData z).length := by rw [List.length_append, pkPage_len]
  have hs : sectionsOf (pkHead z) = [] := by cases z <;> decide +kernel
  have hs' : sectionsOf (pkHead z ++ List.replicate (3072 + (pkData z).length) 0) = [] := by
    rw [← hs]; unfold sectionsOf; simp only [fld_pad]
  have hd : (pkPage z ++ pkData z).drop 4096 = pkData z := by rw [List.drop_append_of_le_length (Nat.le_of_eq (pkPage_len z).symm), List.drop_eq_nil_of_le (Nat.le_of_eq (pkPage_len z))]; rfl
  have hg : ((pkPage z ++ pkData z).drop 448).take 64 = padTo 64 (Config.sha3 (pkData z)) := by
    rw [e, ← digest_of, pkHead, List.append_assoc, List.append_assoc, List.drop_append_of_le_length (by simp [-List.reduceReplicate]), List.drop_eq_nil_of_le (by simp [-List.reduceReplicate]),
      List.nil_append, List.take_append_of_le_length (by simp), List.take_of_length_le (by simp)]
  unfold installFault
  rw [hl, hd, hg, e]
  have h3 : sectionFault (pkHead z ++ List.replicate (3072 + (pkData z).length) 0) = none := by unfold sectionFault; simp only [hs']; rfl
  have h4 : headerFault (pkHead z ++ List.replicate (3072 + (pkData z).length) 0) = none := by
    unfold headerFault ioChecks sectionOf
    simp only [fld_pad, zeroChecks_pad, hs']
    refine firstFault_append (firstFault_append (firstFault_append (firstFault_append (firstFault_append (firstFault_append (firstFault_append
      (firstFault_append (firstFault_append (firstFault_append (firstFault_append (zeros_of _ _ _ (by cases z <;> decide +kernel)) (by cases z <;> decide +kernel))
      (zeros_of _ _ _ (by cases z <;> decide +kernel))) (by cases z <;> decide +kernel)) (zeros_of _ _ _ (by cases z <;> decide +kernel))) (zeros_of _ _ _ (by cases z <;> decide +kernel)))
      (by cases z <;> decide +kernel)) (by cases z <;> decide +kernel)) (by cases z <;> decide +kernel)) (zeros_of _ _ _ (by cases z <;> decide +kernel)))
      (firstFault_flatten fun x hx => ?_)) (zeroChecks_past _ _ _ (Nat.le_of_eq (pkHead_len z)))
    obtain ⟨i, hi, rfl⟩ := List.mem_map.1 hx
    have h27 : fld (pkHead z) 27 1 = 1 := by cases z <;> decide +kernel
    have h28 : fld (pkHead z) 28 1 = 1 := by cases z <;> decide +kernel
    simp only [h27, h28]
    rw [List.mem_range] at hi
    interval_cases i
    · cases z <;> decide +kernel
    · cases z <;> decide +kernel
    all_goals exact zeros_of _ _ _ (by cases z <;> decide +kernel)
  have h5 : stepsFault (pkHead z ++ List.replicate (3072 + (pkData z).length) 0) = none := by
    unfold stepsFault; simp only [fld_pad]; cases z <;> decide +kernel
  have h6 : planFault (pkHead z ++ List.replicate (3072 + (pkData z).length) 0) = none := by
    unfold planFault sectionOf; simp only [hs']; rfl
  rw [h3, h4, h5, h6]
  simp only [fld_pad]
  have f0 : fld (pkHead z) 0 4 = 0x4B474E49 := by cases z <;> decide +kernel
  have f4 : fld (pkHead z) 4 2 = 1 := by cases z <;> decide +kernel
  have f16 : fld (pkHead z) 16 8 = 0 := by cases z <;> decide +kernel
  simp [f0, f4, f16]

/-- A pair of cameras of 2 columns and 3 lines whose ring is entry 0, both pipes at home; and with pipe 0's work at pipe 1. -/
def pairPart : Dev := { own1 with
  prof := { own1.prof with active := entry0 [(0, 1), (1, 1), (3, 1), (57, 0x2A), (58, 1), (60, 2), (62, 3), (72, 1), (73, 1)] }
  vision := { own1.vision with pipe := [{ st := .home }, { st := .home }] } }
def movedPart : Dev := { pairPart with vision := { pairPart.vision with pipe := [{ st := .off }, { st := .hosting }] } }
def storedL : StoredFrame := { tov := 4, first := 1000, addr := exchBase, lines := 3 }
def storedR : StoredFrame := { tov := 5, first := 2000, addr := exchBase + 0x1000, lines := 3 }
/-- Two cameras outside the rings, each with a stored frame, a microsecond's part apart. -/
def storedPart : Dev := { own1 with
  prof := { own1.prof with active := entry0 [(0, 1), (1, 1), (57, 0x2A), (60, 2), (62, 3)] ++ bytesOf 112 [(0, 1), (1, 2), (57, 0x2A), (60, 2), (62, 3)] }
  vision := { own1.vision with pipe := [{ st := .home }, {}] }
  sens := { own1.sens with s := upd (upd own1.sens.s 0 fun q => { q with stored := [storedL] }) 1 fun q => { q with stored := [storedR] } } }
/-- A stored pair taken, whose time has come. -/
def takenJob : StoredJob := { tok := { ch := .sq 1, count := 1 }, pipe := 0, w := 2, h := 3, frameL := storedL, frameR := storedR, eight := false, depth := 0
                              params := {}, tblL := none, tblR := none, need := 4096, due := some 0 }
def takenPart : Dev := { waitPart { op := .stereoStored, d := {}, count := 1, stage := .running } with vision := { own1.vision with jobs := [takenJob] } }
theorem meets_StereoOpcodesComplete (h : Obligations.StereoOpcodesComplete) :
    Completes (exec (.rectLoad 0 (.sq 1) (desc [])) (atRing camRing))
    ∧ Completes (exec (.rectLoad 0 (.sq 1) (desc [(40, 32)])) (atRing camRing))
    ∧ Completes (exec (.vpParams 0 (.sq 1) (desc [(25, 1), (26, 1)])) (atRing pairPart))
    ∧ Completes (exec (.vpMove 0 (.sq 1) (desc [(24, 0)])) (atRing pairPart))
    ∧ Completes (exec (.vpMove 0 (.sq 1) (desc [(25, 1)])) (atRing movedPart))
    ∧ Completes (exec (.stereoGrab 0 (.sq 1) (desc [(40, 24)])) (atRing pairPart))
    ∧ Completes (exec (.stereoStored 0 (.sq 1) (desc [(25, 1), (26, 4), (28, 1), (29, 1), (40, 24), (46, 1), (48, 16)])) (atRing storedPart))
    ∧ (takenPart.vision.jobs = [takenJob] ∧ takenJob.due = some 0 ∧ 0 ≤ takenPart.now ∧ (takenPart.pendOf takenJob.tok).isSome = true
      ∧ (takenPart.vp takenJob.pipe).moving = []) :=
  by
  unfold Obligations.StereoOpcodesComplete at h
  dsimp only at h
  exact ⟨h.1.1.meets camRing (.sq 1) (desc []) (by decide +kernel) (by decide +kernel) (by decide +kernel),
    h.1.2.meets camRing (.sq 1) (desc [(40, 32)]) (by decide +kernel) (by decide +kernel) (by decide +kernel),
    h.2.1.meets pairPart (.sq 1) (desc [(25, 1), (26, 1)]) (by decide +kernel) (by decide +kernel) (by decide +kernel),
    h.2.2.1.meets pairPart (.sq 1) (desc [(24, 0)]) (by decide +kernel) (by decide +kernel),
    h.2.2.2.1.meets movedPart (.sq 1) (desc [(25, 1)]) (by decide +kernel) (by decide +kernel),
    h.2.2.2.2.1.meets pairPart (.sq 1) (desc [(40, 24)]) (by decide +kernel) (by decide +kernel),
    (h.2.2.2.2.2.1 0 storedL storedR []).meets storedPart (.sq 1) (desc [(25, 1), (26, 4), (28, 1), (29, 1), (40, 24), (46, 1), (48, 16)]) (by decide +kernel) (by decide +kernel),
    by decide +kernel⟩

/-- Part with slot 0 in a state; with the first package page installed; with a package of one stateful instance, on a live cluster; and the same on a
ring of bands of 16 rows of 2 columns that its input takes. -/
def setPart (x : SlotSt) : Dev := { own1 with neural := { own1.neural with slot := upd own1.neural.slot 0 fun q => { q with st := x, insts := [{}] } } }
def installPart : Dev := { own1 with neural := { own1.neural with slot := upd own1.neural.slot 0 fun q => { q with
  st := .installing, chunks := pkPage true, total := 4097 } } }
def pkState : Bytes := upd (upd (pkHead true) 29 fun _ => 1) 52 fun _ => 64
def modelPart (x : SlotSt) : Dev := { setPart x with
  comp := { own1.comp with cl := upd own1.comp.cl 0 fun k => { k with on := true, eng := List.replicate 24 { st := .live } } }
  tier := { own1.tier with objs := [{ id := pkgObj 0, kind := 1, size := 4097, slow := false, mirrored := false, data := pkState }] } }
def bindPart : Dev := { modelPart .loaded with
  prof := { own1.prof with active := entry0 [(0, 1), (1, 1), (3, 1), (57, 0x2A), (58, 1), (60, 2), (62, 3), (72, 1), (73, 1), (76, 16)] }
  tier := { own1.tier with objs := [{
    id := pkgObj 0, kind := 1, size := 4097, slow := false, mirrored := false, data := [(514, 1), (515, 2), (516, 16), (520, 2)].foldl (fun b x => upd b x.1 fun _ => x.2) (pkHead true) }] } }
def boundPart : Dev := { bindPart with part := .running, neural := { bindPart.neural with
  binds := [{ id := 0, slot := 0, sensor := 0, outFlag := 0x400, outSlots := 2, outBase := 0x1000000 }] } }
def nextChunk : Desc := desc [(28, 0), (29, 0x10), (41, 0x10)]
def lastChunk : Desc := desc [(25, 2), (28, 1), (41, 0x10)]
def bindDesc : Desc := desc [(29, 4), (30, 2), (35, 1)]
set_option maxRecDepth 1000000 in
theorem nextStill : settleParts (installPart.readied (.sq 1) .modelInstall nextChunk) = installPart.readied (.sq 1) .modelInstall nextChunk := by
  with_unfolding_all rfl
set_option maxRecDepth 1000000 in
theorem lastStill : settleParts (installPart.readied (.sq 1) .modelInstall lastChunk) = installPart.readied (.sq 1) .modelInstall lastChunk := by
  with_unfolding_all rfl
set_option maxRecDepth 1000000 in
theorem bindStill : settleParts (bindPart.readied (.sq 1) .modelBind bindDesc) = bindPart.readied (.sq 1) .modelBind bindDesc := by
  with_unfolding_all rfl
/-- Bytes laid in memory from an address up. -/
def layAt : Nat → Bytes → List Host.Cell
  | _, [] => []
  | a, b :: r => (a, b) :: layAt (a + 1) r
theorem memGet_layAt (l : Bytes) (a i : Nat) (h : i < l.length) : memGet (layAt a l) (a + i) = l[i] := by
  induction l generalizing a i with
  | nil => simp at h
  | cons b r ih =>
    cases i with
    | zero => simp [layAt, memGet]
    | succ k =>
      have := ih (a + 1) k (by simpa using h)
      rw [show a + (k + 1) = a + 1 + k by omega, List.getElem_cons_succ, ← this]
      simp [layAt, memGet, show (a == a + 1 + k) = false by simp; omega]
theorem memRead_layAt (l : Bytes) (a : Nat) : memRead (layAt a l) a l.length = l := by
  apply List.ext_getElem
  · simp [memRead]
  · intro i h1 h2
    simp [memRead, memGet_layAt l a i h2]
/-- A slot with a package, and another that comes whole in one chunk. -/
def wholePart : Dev := { setPart .installed with hif := { own1.hif with mem := layAt 0x500000 (pkPage false) } }
def wholeChunk : Desc := desc [(25, 3), (29, 0x10), (34, 0x50), (45, 0x10)]
set_option maxRecDepth 1000000 in
theorem wholeStill : settleParts (wholePart.readied (.sq 1) .modelInstall wholeChunk) = wholePart.readied (.sq 1) .modelInstall wholeChunk := by
  with_unfolding_all rfl
/-- A state step waits behind a reset of its instance, fetched before it. -/
def resetPart : Dev := { modelPart .loaded with hif := { own1.hif with
  fetches := 1, sq := upd own1.hif.sq 2 fun r => { r with st := .active, pend := [{ op := .stateReset, d := desc [], count := 1, stage := .ready }] } } }
set_option maxRecDepth 1000000 in
theorem unloadStill : settleParts ((modelPart .loaded).readied (.sq 1) .modelUnload (desc [])) = (modelPart .loaded).readied (.sq 1) .modelUnload (desc []) := by
  with_unfolding_all rfl
set_option maxRecDepth 1000000 in
theorem resetStill : settleParts ((modelPart .loaded).readied (.sq 1) .stateReset (desc [(25, 0)])) = (modelPart .loaded).readied (.sq 1) .stateReset (desc [(25, 0)]) := by
  with_unfolding_all rfl
set_option maxRecDepth 1000000 in
theorem unbindStill : settleParts (boundPart.readied (.sq 1) .modelUnbind (desc [])) = boundPart.readied (.sq 1) .modelUnbind (desc []) := by
  with_unfolding_all rfl
theorem meets_NeuralOpcodesComplete (h : Obligations.NeuralOpcodesComplete) :
    Completes (exec (.modelInstall 0 (.sq 1) (desc [(25, 5), (28, 0), (29, 0x10), (44, 1), (45, 0x10)])) (atRing own1))
    ∧ Completes (exec (.modelInstall 0 (.sq 1) (desc [(25, 5), (28, 0), (29, 0x10), (44, 1), (45, 0x10)])) (atRing (setPart .disabled)))
    ∧ Completes (exec (.modelInstall 0 (.sq 1) wholeChunk) (atRing wholePart))
    ∧ Completes (exec (.modelInstall 0 (.sq 1) nextChunk) (atRing installPart))
    ∧ Completes (exec (.modelInstall 0 (.sq 1) lastChunk) (atRing installPart))
    ∧ Completes (exec (.modelRemove 0 (.sq 1) (desc [])) (atRing (setPart .installed)))
    ∧ Completes (exec (.modelLoad 0 (.sq 1) (desc [])) (atRing (modelPart .installed)))
    ∧ Completes (exec (.modelUnload 0 (.sq 1) (desc [])) (atRing (modelPart .loaded)))
    ∧ Completes (exec (.infer 0 (.sq 1) (desc [])) (atRing (modelPart .loaded)))
    ∧ Completes (exec (.infer 0 (.sq 1) (desc [(25, 4)])) (atRing (modelPart .loaded)))
    ∧ Completes (exec (.infer 0 (.sq 1) (desc [(25, 4)])) (atRing resetPart))
    ∧ Completes (exec (.modelQuery 0 (.sq 1) (desc [])) (atRing own1))
    ∧ Completes (exec (.stateReset 0 (.sq 1) (desc [(25, 0)])) (atRing (modelPart .loaded)))
    ∧ Completes (exec (.modelBind 0 (.sq 1) bindDesc) (atRing bindPart))
    ∧ Completes (exec (.modelUnbind 0 (.sq 1) (desc [])) (atRing boundPart)) :=
  by
  unfold Obligations.NeuralOpcodesComplete at h
  dsimp only at h
  obtain ⟨⟨i1, i2, i3, i4, i5⟩, rm, ld, ul, ⟨n1, n2, n3⟩, qu, sr, mb, ub⟩ := h
  exact ⟨i1.meets own1 (.sq 1) (desc [(25, 5), (28, 0), (29, 0x10), (44, 1), (45, 0x10)]) (by decide +kernel) (by decide +kernel),
    i2.meets (setPart .disabled) (.sq 1) (desc [(25, 5), (28, 0), (29, 0x10), (44, 1), (45, 0x10)]) (by decide +kernel) (by decide +kernel),
    i3.meets wholePart (.sq 1) wholeChunk (by unfold servesB; rw [decide_eq_true wholeStill]; decide +kernel) ⟨⟨by decide +kernel, by decide +kernel, by decide +kernel, by decide +kernel, by decide +kernel, by decide +kernel, by decide +kernel⟩, by decide +kernel, by decide +kernel, by decide +kernel, by
      show installFault (memRead (layAt 0x500000 (pkPage false)) 0x500000 4096) _ _ _ = none
      have r := memRead_layAt (pkPage false) 0x500000
      rw [pkPage_len] at r
      rw [r]; have := pkOk false; simp only [pkData, Bool.false_eq_true, if_false, List.append_nil] at this; exact this _ _⟩,
    i4.meets installPart (.sq 1) nextChunk (by unfold servesB; rw [decide_eq_true nextStill]; decide +kernel) ⟨⟨by decide +kernel, by decide +kernel, by decide +kernel, by decide +kernel, by decide +kernel, by decide +kernel, by decide +kernel⟩, by decide +kernel, by decide +kernel, (pkPage_len true).symm⟩,
    i5.meets installPart (.sq 1) lastChunk (by unfold servesB; rw [decide_eq_true lastStill]; decide +kernel) ⟨⟨by decide +kernel, by decide +kernel, by decide +kernel, by decide +kernel, by decide +kernel, by decide +kernel, by decide +kernel⟩, by decide +kernel, by decide +kernel, (pkPage_len true).symm, pkOk true _ _⟩,
    rm.meets (setPart .installed) (.sq 1) (desc []) (by decide +kernel) (by decide +kernel) (by decide +kernel),
    (ld (loadPlan pkState 0 0) 0).meets (modelPart .installed) (.sq 1) (desc []) (by decide +kernel) (by decide +kernel),
    ul.meets (modelPart .loaded) (.sq 1) (desc []) (by unfold servesB; rw [decide_eq_true unloadStill]; decide +kernel) (by decide +kernel),
    n1.meets (modelPart .loaded) (.sq 1) (desc []) (by decide +kernel) (by decide +kernel),
    n2.meets (modelPart .loaded) (.sq 1) (desc [(25, 4)]) (by decide +kernel) (by decide +kernel),
    n3.meets resetPart (.sq 1) (desc [(25, 4)]) (by decide +kernel) (by decide +kernel),
    qu.meets own1 (.sq 1) (desc []) (by decide +kernel) (by decide +kernel) (by decide +kernel),
    sr.meets (modelPart .loaded) (.sq 1) (desc [(25, 0)]) (by unfold servesB; rw [decide_eq_true resetStill]; decide +kernel) (by decide +kernel),
    mb.meets bindPart (.sq 1) bindDesc (by unfold servesB; rw [decide_eq_true bindStill]; decide +kernel) (by decide +kernel),
    (ub { id := 0, slot := 0, sensor := 0, outFlag := 0x400, outSlots := 2, outBase := 0x1000000 }).meets boundPart (.sq 1) (desc []) (by unfold servesB; rw [decide_eq_true unbindStill]; decide +kernel) (by decide +kernel)⟩

/-- A problem of one variable of one component, with 1 on the diagonal; and what it gives. -/
def probBytes : Bytes := bytesOf 288 [(0, 1), (13, 1), (32, 1), (272, 1)]
def probIn (b : Bytes) : Problem := match readProblem b 1 0 with
  | .ok (p, _) => p
  | .error _ => { cls := 0, kinds := [], pivot := 0, vars := [], sig := 0, mm := [], gk := [], e := 0, gg := 0, rows := [], b := [], cons := [], fixed := [], bounds := [], prec := [], flags := [] }
def prob0 : Problem := probIn probBytes
theorem okIs {ε α : Type} [DecidableEq α] {r : Except ε α} {y : α} (h : (match r with
    | .ok x => decide (x = y)
    | .error _ => false) = true) : r = .ok y := by
  cases r <;> simp_all
def liveCluster : Dev := { own1 with
  comp := { own1.comp with cl := upd own1.comp.cl 0 fun k => { k with on := true, eng := List.replicate 24 { st := .live } } } }
/-- The problem at host address 0x5000; and loaded in slot 0. -/
def loadPart : Dev := { liveCluster with hif := { liveCluster.hif with mem := memWrite 0x5000 probBytes [] } }
def solvePart : Dev := liveCluster.setPs 0 fun x => { x with st := .ready, prob := some prob0 }
theorem meets_SolverOpcodesComplete (h : Obligations.SolverOpcodesComplete) :
    Completes (exec (.solverLoad 0 (.sq 1) (desc [(33, 0x50), (40, 32), (41, 1)])) (atRing loadPart))
    ∧ Completes (exec (.solve 0 (.sq 1) (desc [(27, 1), (28, 1), (41, 2)])) (atRing solvePart))
    ∧ Completes (exec (.solverFree 0 (.sq 1) (desc [])) (atRing own1))
    ∧ Completes (exec (.solverFree 0 (.sq 1) (desc [])) (atRing solvePart))
    ∧ Completes (exec (.solverQuery 0 (.sq 1) (desc [])) (atRing solvePart)) :=
  by
  unfold Obligations.SolverOpcodesComplete at h
  dsimp only at h
  exact ⟨(h.1 prob0).meets loadPart (.sq 1) (desc [(33, 0x50), (40, 32), (41, 1)]) (by decide +kernel) ⟨by decide +kernel, by decide +kernel, by decide +kernel, by decide +kernel, okIs (by decide +kernel), by decide +kernel⟩,
    (h.2.1 prob0 none).meets solvePart (.sq 1) (desc [(27, 1), (28, 1), (41, 2)]) (by decide +kernel) ⟨by decide +kernel, .inl (by decide +kernel), by decide +kernel⟩,
    h.2.2.1.meets own1 (.sq 1) (desc []) (by decide +kernel) (by decide +kernel) (by decide +kernel),
    h.2.2.2.1.meets solvePart (.sq 1) (desc []) (by decide +kernel) (by decide +kernel) (by decide +kernel),
    h.2.2.2.2.meets solvePart (.sq 1) (desc []) (by decide +kernel) (by decide +kernel) (by decide +kernel)⟩

/-- A configuration of the estimator that names no sensor, at the host address 0x5000. -/
def cfgPart : Dev := { own1 with hif := { own1.hif with mem := memWrite 0x5000 (leBytes 2 own1.trust.bankFmt ++ bytesOf 56 [(0, 255), (1, 255), (2, 255), (3, 255),
  (4, 255), (5, 2), (6, 4), (8, 1), (10, 1), (12, 10), (14, 10), (16, 10), (18, 8), (20, 100), (48, 1), (50, 1), (51, 1), (52, 1), (54, 16)]) [] } }
/-- The estimator in TRACKING, its IMU the entry n, with a rate of the pose stream. -/
def estRing (n r : Nat) : Dev := { own1 with
  part := .running
  prof := { own1.prof with active := bytesOf 40 [(36, r)] }
  est := { own1.est with st := .tracking, cfg := bytesOf 8 [(2, n), (6, 0xFF)] } }
/-- A fusion package's header in slot 0, LOADED, its state role at engine 3; and fusion on it. -/
def fusHead : Bytes := bytesOf 600 [(27, 2), (28, 1), (29, 1), (60, 0x40), (61, 0x10), (513, 2), (516, 1), (520, 1), (524, 1), (528, 64), (545, 2), (548, 1),
  (552, 1), (556, 32), (560, 128), (564, 64), (577, 2), (580, 1), (584, 1), (588, 1), (592, 64)]
def fusRing : Dev := { own1 with
  neural := { own1.neural with slot := upd own1.neural.slot 0 fun q => { q with st := .loaded, insts := [{}] } }
  comp := { own1.comp with dir := [{ kind := 1, obj := holderObj 0 0, cluster := 0, engine := 3, epoch := 1 }] }
  tier := { own1.tier with objs := [{ id := pkgObj 0, kind := 1, size := 4097, slow := false, mirrored := false, data := fusHead }] } }
def fusRun : Dev := { own1 with fusion := { own1.fusion with st := .checking, slot := 0xFF } }
theorem meets_EstimatorAndFusionOpcodesComplete (h : Obligations.EstimatorAndFusionOpcodesComplete) :
    Completes (exec (.estConfig 0 (.sq 1) (desc [(33, 0x50)])) (atRing cfgPart))
    ∧ Completes (exec (.estConfig 0 (.sq 1) (desc [(24, 1), (33, 0x50)])) (atRing cfgPart))
    ∧ Completes (exec (.estStart 0 (.sq 1) (desc [])) (atRing (estRing 0xFF 0)))
    ∧ Completes (exec (.estStart 0 (.sq 1) (desc [])) (atRing (estRing 0 1)))
    ∧ Completes (exec (.estStart 0 (.sq 1) (desc [])) (atRing (estRing 0 0)))
    ∧ Completes (exec (.estStop 0 (.sq 1) (desc [])) (atRing (estRing 0 0)))
    ∧ Completes (exec (.estStatus 0 (.sq 1) (desc [])) (atRing own1))
    ∧ Completes (exec (.keyframeRead 0 (.sq 1) (desc [(24, 1)])) (atRing own1))
    ∧ Completes (exec (.fusionStart 0 (.sq 1) (desc [(24, 0xFF), (40, 0xE8), (41, 3)])) (atRing own1))
    ∧ Completes (exec (.fusionStart 0 (.sq 1) (desc [(26, 1), (27, 1), (28, 1), (40, 0xE8), (41, 3)])) (atRing fusRing))
    ∧ Completes (exec (.fusionStop 0 (.sq 1) (desc [])) (atRing fusRun))
    ∧ Completes (exec (.fusionReset 0 (.sq 1) (desc [])) (atRing fusRun))
    ∧ Completes (exec (.fusionBounds 0 (.sq 1) (desc [])) (atRing own1))
    ∧ Completes (exec (.fusionStatus 0 (.sq 1) (desc [])) (atRing own1)) :=
  by
  unfold Obligations.EstimatorAndFusionOpcodesComplete at h
  dsimp only at h
  exact ⟨h.1.meets cfgPart (.sq 1) (desc [(33, 0x50)]) (by decide +kernel) (by decide +kernel) (by decide +kernel),
    h.2.1.meets cfgPart (.sq 1) (desc [(24, 1), (33, 0x50)]) (by decide +kernel) (by decide +kernel) (by decide +kernel),
    h.2.2.1.1.meets (estRing 0xFF 0) (.sq 1) (desc []) (by decide +kernel) (by decide +kernel),
    h.2.2.1.2.1.meets (estRing 0 1) (.sq 1) (desc []) (by decide +kernel) (by decide +kernel),
    h.2.2.1.2.2.meets (estRing 0 0) (.sq 1) (desc []) (by decide +kernel) (by decide +kernel),
    h.2.2.2.1.meets (estRing 0 0) (.sq 1) (desc []) (by decide +kernel) (by decide +kernel) (by decide +kernel),
    h.2.2.2.2.1.meets own1 (.sq 1) (desc []) (by decide +kernel) trivial (by decide +kernel),
    h.2.2.2.2.2.1.meets own1 (.sq 1) (desc [(24, 1)]) (by decide +kernel) (by decide +kernel) (by decide +kernel),
    h.2.2.2.2.2.2.1.1.meets own1 (.sq 1) (desc [(24, 0xFF), (40, 0xE8), (41, 3)]) (by decide +kernel) (by decide +kernel) (by decide +kernel),
    (h.2.2.2.2.2.2.1.2 { kind := 1, obj := holderObj 0 0, cluster := 0, engine := 3, epoch := 1 }).meets fusRing (.sq 1) (desc [(26, 1), (27, 1), (28, 1), (40, 0xE8), (41, 3)]) (by decide +kernel) (by decide +kernel) (by decide +kernel),
    h.2.2.2.2.2.2.2.1.meets fusRun (.sq 1) (desc []) (by decide +kernel) (by decide +kernel),
    h.2.2.2.2.2.2.2.2.1.meets fusRun (.sq 1) (desc []) (by decide +kernel) (by decide +kernel),
    h.2.2.2.2.2.2.2.2.2.1.meets own1 (.sq 1) (desc []) (by decide +kernel) (by decide +kernel) (by decide +kernel),
    h.2.2.2.2.2.2.2.2.2.2.meets own1 (.sq 1) (desc []) (by decide +kernel) trivial (by decide +kernel)⟩

/-- All but the last byte of an index image of one node; the part that has taken it, and one with the index it gives. -/
def imageHead : Bytes := bytesOf 300 ([(0, 0x50), (1, 0x49), (2, 0x44), (3, 0x58), (4, 1), (6, 1), (7, 2), (8, 64), (10, 8), (11, 4), (12, 1), (16, 1), (21, 4), (24, 4), (25, 1)]
  ++ (List.range 60).map (fun k => (32 + k, 255)))
def imageBytes : Bytes := (putAt imageHead 92 (leBytes 4 (crcOf 0 []) ++ leBytes 4 (crcOf 0 (List.replicate 4 0)) ++ leBytes 4 (crcOf 0 (List.replicate 32 0))
  ++ leBytes 4 (crcOf 0 (List.replicate 8 0)))).take 299
def ixOf (st : IxSt) : PIndex := { imageBuild (imageBytes ++ [0]) with st := st, idCap := 9 }
def ixPart (st : IxSt) : Dev := (makeObjects 1 1 (ixOf st) own1).setIx 1 fun _ => ixOf st
def imagePart : Dev := (ixPart .loading).setIx 1 fun _ => { st := .loading, image := imageBytes, total := 300 }
/-- Walker 1 in a state, walker 0 online. -/
def walkPart (st : WkSt) : Dev := ({ own1 with prof := { own1.prof with active := bytesOf 40 [(22, 3)] } }.setWk 0 fun k => { k with st := .online }).setWk 1 fun k => { k with st := st }
theorem pairIs {α β : Type} {p : α × β} {y : β} (h : p.2 = y) : p = (p.1, y) := by cases p; simp_all
theorem reserve_ok {i : Nat} {d : Dev} (h : ((d.obj (ixObj i 3)).isSome || decide ((d.ix i).image.length < 256)) = true) : loadReserve i d = .ok d := by
  simp only [Bool.or_eq_true, decide_eq_true_eq] at h
  rcases h with h | h <;> simp [loadReserve, h]
theorem meets_PlaceOpcodesComplete (h : Obligations.PlaceOpcodesComplete) :
    Completes (exec (.indexCreate 0 (.sq 1) (desc [(24, 1), (25, 1), (26, 2), (27, 8), (28, 64), (30, 4), (31, 4), (41, 4), (44, 1)])) (atRing own1))
    ∧ Completes (exec (.indexLoad 0 (.sq 1) (desc [(24, 1), (25, 1), (28, 1), (48, 1)])) (atRing own1))
    ∧ Completes (exec (.indexLoad 0 (.sq 1) (desc [(24, 1), (28, 1), (40, 0x2B), (41, 1)])) (atRing imagePart))
    ∧ Completes (exec (.indexLoad 0 (.sq 1) (desc [(24, 1), (25, 2), (28, 1), (40, 0x2B), (41, 1)])) (atRing imagePart))
    ∧ Completes (exec (.indexDrop 0 (.sq 1) (desc [(24, 1)])) (atRing (ixPart .ready)))
    ∧ Completes (exec (.placeInsert 0 (.sq 1) (desc [(24, 1), (28, 1)])) (atRing (ixPart .ready)))
    ∧ Completes (exec (.placeDelete 0 (.sq 1) (desc [(24, 1), (28, 1)])) (atRing (ixPart .ready)))
    ∧ Completes (exec (.placeDelete 0 (.sq 1) (desc [(24, 1), (28, 2)])) (atRing (ixPart .merging)))
    ∧ Completes (exec (.placeQuery 0 (.sq 1) (desc [(24, 1), (25, 2), (26, 1), (48, 1)])) (atRing (ixPart .ready)))
    ∧ Completes (exec (.placeQuery 0 (.sq 1) (desc [(24, 1), (26, 1), (28, 16), (48, 1)])) (atRing (ixPart .merging)))
    ∧ Completes (exec (.indexMerge 0 (.sq 1) (desc [(24, 1)])) (atRing (ixPart .ready)))
    ∧ Completes (exec (.indexQuery 0 (.sq 1) (desc [(24, 1)])) (atRing (ixPart .ready)))
    ∧ Completes (exec (.walkerSet 0 (.sq 1) (desc [(24, 1)])) (atRing (walkPart .online)))
    ∧ Completes (exec (.walkerSet 0 (.sq 1) (desc [(24, 1), (25, 1)])) (atRing (walkPart .off)))
    ∧ Completes (exec (.walkerSet 0 (.sq 1) (desc [(24, 1), (25, 1)])) (atRing (walkPart .fenced))) :=
  by
  unfold Obligations.PlaceOpcodesComplete at h
  dsimp only at h
  exact ⟨h.1.meets own1 (.sq 1) (desc [(24, 1), (25, 1), (26, 2), (27, 8), (28, 64), (30, 4), (31, 4), (41, 4), (44, 1)]) (by decide +kernel) (by decide +kernel) (by decide +kernel),
    (h.2.1 true _).1.meets own1 (.sq 1) (desc [(24, 1), (25, 1), (28, 1), (48, 1)]) (by decide +kernel) ⟨by decide +kernel, by decide +kernel, by decide +kernel, reserve_ok (by decide +kernel)⟩ (by decide +kernel),
    (h.2.1 false _).1.meets imagePart (.sq 1) (desc [(24, 1), (28, 1), (40, 0x2B), (41, 1)]) (by decide +kernel) ⟨by decide +kernel, by decide +kernel, by decide +kernel, reserve_ok (by decide +kernel)⟩ (by decide +kernel),
    (h.2.1 false _).2.meets imagePart (.sq 1) (desc [(24, 1), (25, 2), (28, 1), (40, 0x2B), (41, 1)]) (by decide +kernel) ⟨by decide +kernel, by decide +kernel, by decide +kernel, reserve_ok (by decide +kernel)⟩ (by decide +kernel),
    h.2.2.1.meets (ixPart .ready) (.sq 1) (desc [(24, 1)]) (by decide +kernel) (by decide +kernel),
    (h.2.2.2.1.1 _ 1).meets (ixPart .ready) (.sq 1) (desc [(24, 1), (28, 1)]) (by decide +kernel) ⟨by decide +kernel, pairIs (by decide +kernel)⟩ (by decide +kernel),
    h.2.2.2.1.2.1.meets (ixPart .ready) (.sq 1) (desc [(24, 1), (28, 1)]) (by decide +kernel) (by decide +kernel) (by decide +kernel),
    h.2.2.2.1.2.2.meets (ixPart .merging) (.sq 1) (desc [(24, 1), (28, 2)]) (by decide +kernel) (by decide +kernel) (by decide +kernel),
    h.2.2.2.2.1.1.meets (ixPart .ready) (.sq 1) (desc [(24, 1), (25, 2), (26, 1), (48, 1)]) (by decide +kernel) (by decide +kernel),
    h.2.2.2.2.1.2.meets (ixPart .merging) (.sq 1) (desc [(24, 1), (26, 1), (28, 16), (48, 1)]) (by decide +kernel) (by decide +kernel),
    (h.2.2.2.2.2.1 _).meets (ixPart .ready) (.sq 1) (desc [(24, 1)]) (by decide +kernel) ⟨by decide +kernel, by decide +kernel, pairIs (by decide +kernel)⟩,
    h.2.2.2.2.2.2.1.meets (ixPart .ready) (.sq 1) (desc [(24, 1)]) (by decide +kernel) (by decide +kernel) (by decide +kernel),
    h.2.2.2.2.2.2.2.1.meets (walkPart .online) (.sq 1) (desc [(24, 1)]) (by decide +kernel) (by decide +kernel),
    h.2.2.2.2.2.2.2.2.1.meets (walkPart .off) (.sq 1) (desc [(24, 1), (25, 1)]) (by decide +kernel) (by decide +kernel),
    h.2.2.2.2.2.2.2.2.2.meets (walkPart .fenced) (.sq 1) (desc [(24, 1), (25, 1)]) (by decide +kernel) (by decide +kernel)⟩

/-- The object 0x30000000 in a state; an attached drive; a channel in a state. -/
def tierObj (st : ObjSt) (ch : Bool) (kind : Nat) (pins : List (Nat × Nat)) : TierObj :=
  { id := 0x30000000, kind := kind, size := 1, slow := false, mirrored := false, st := st, pins := pins, changed := ch }
def objPart (st : ObjSt) (ch : Bool) (kind : Nat) (pins : List (Nat × Nat)) : Dev := { own1 with
  tier := { own1.tier with objs := [tierObj st ch kind pins] } }
def nvPart : Dev := { objPart .home false 1 [] with nvme := { own1.nvme with st := .attached, capacity := 2 ^ 40 } }
def ipmPart (st : ChSt) : Dev := own1.setIpmCh 63 fun x => { x with st := st }
def ipmTried : Dev := { ipmPart .offline with flt := { own1.flt with assays := [{ kind := 4, unit := 63, why := .chapter { ch := .sq 1, count := 9 }, startAt := 0 }] } }
theorem meets_TierOpcodesComplete (h : Obligations.TierOpcodesComplete) :
    Completes (exec (.tierQuery 0 (.sq 1) (desc [(27, 0x30)])) (atRing (objPart .home false 1 [])))
    ∧ Completes (exec (.tierPromote 0 (.sq 1) (desc [(27, 0x30)])) (atRing (objPart .resident false 1 [])))
    ∧ Completes (exec (.tierPromote 0 (.sq 1) (desc [(27, 0x30)])) (atRing (objPart .home false 1 [])))
    ∧ Completes (exec (.tierEvict 0 (.sq 1) (desc [(27, 0x30)])) (atRing (objPart .resident true 1 [])))
    ∧ Completes (exec (.tierEvict 0 (.sq 1) (desc [(27, 0x30)])) (atRing (objPart .resident true 6 [])))
    ∧ Completes (exec (.tierUnpin 0 (.sq 1) (desc [(27, 0x30), (28, 2)])) (atRing (objPart .resident false 1 [(0xFF, 2)])))
    ∧ Completes (exec (.tierUsage 0 (.sq 1) (desc [])) (atRing own1))
    ∧ Completes (exec (.slowAttach 0 (.sq 1) (desc [])) (atRing nvPart))
    ∧ Completes (exec (.slowAttach 0 (.sq 1) (desc [(24, 1), (28, 0x46), (29, 0x52), (30, 0x4D), (31, 0x54)])) (atRing nvPart))
    ∧ Completes (exec (.ipmChannel 0 (.sq 1) (desc [(24, 63)])) (atRing own1))
    ∧ Completes (exec (.ipmChannel 0 (.sq 1) (desc [(24, 63), (25, 1)])) (atRing own1))
    ∧ Completes (exec (.ipmChannel 0 (.sq 1) (desc [(24, 63), (25, 1)])) (atRing (ipmPart .resync)))
    ∧ Completes (exec (.ipmChannel 0 (.sq 1) (desc [(24, 63), (25, 1)])) (atRing (ipmPart .offline)))
    ∧ Completes (exec (.ipmChannel 0 (.sq 1) (desc [(24, 63), (25, 1)])) (atRing ipmTried)) :=
  ⟨(h.1 (tierObj .home false 1 [])).1.meets (objPart .home false 1 []) (.sq 1) (desc [(27, 0x30)]) (by decide +kernel) (by decide +kernel) (by decide +kernel),
    ((h.1 (tierObj .resident false 1 [])).2.1 _).meets (objPart .resident false 1 []) (.sq 1) (desc [(27, 0x30)]) (by decide +kernel) ⟨by decide +kernel, pairIs (by decide +kernel)⟩,
    ((h.1 (tierObj .home false 1 [])).2.2.1 _).meets (objPart .home false 1 []) (.sq 1) (desc [(27, 0x30)]) (by decide +kernel) ⟨by decide +kernel, pairIs (by decide +kernel)⟩,
    (h.1 (tierObj .resident true 1 [])).2.2.2.1.meets (objPart .resident true 1 []) (.sq 1) (desc [(27, 0x30)]) (by decide +kernel) (by decide +kernel),
    (h.1 (tierObj .resident true 6 [])).2.2.2.2.1.meets (objPart .resident true 6 []) (.sq 1) (desc [(27, 0x30)]) (by decide +kernel) (by decide +kernel),
    (h.1 (tierObj .resident false 1 [(0xFF, 2)])).2.2.2.2.2.meets (objPart .resident false 1 [(0xFF, 2)]) (.sq 1) (desc [(27, 0x30), (28, 2)]) (by decide +kernel) (by decide +kernel) (by decide +kernel),
    h.2.1.meets own1 (.sq 1) (desc []) (by decide +kernel) trivial (by decide +kernel),
    h.2.2.1.meets nvPart (.sq 1) (desc []) (by decide +kernel) (by decide +kernel) (by decide +kernel),
    h.2.2.2.1.meets nvPart (.sq 1) (desc [(24, 1), (28, 0x46), (29, 0x52), (30, 0x4D), (31, 0x54)]) (by decide +kernel) (by decide +kernel) (by decide +kernel),
    h.2.2.2.2.1.meets own1 (.sq 1) (desc [(24, 63)]) (by decide +kernel) (by decide +kernel),
    h.2.2.2.2.2.1.meets own1 (.sq 1) (desc [(24, 63), (25, 1)]) (by decide +kernel) (by decide +kernel),
    h.2.2.2.2.2.2.1.meets (ipmPart .resync) (.sq 1) (desc [(24, 63), (25, 1)]) (by decide +kernel) (by decide +kernel),
    h.2.2.2.2.2.2.2.1.meets (ipmPart .offline) (.sq 1) (desc [(24, 63), (25, 1)]) (by decide +kernel) (by decide +kernel),
    h.2.2.2.2.2.2.2.2.meets ipmTried (.sq 1) (desc [(24, 63), (25, 1)]) (by decide +kernel) (by decide +kernel)⟩

/-- A member of the fleet in a state, device 0. -/
def member (st : FleetSt) : Dev := { own1 with fleet := { own1.fleet with st := st, cfg := bytesOf 40 [(2, 6)] } }
/-- All but the last byte of a fleet certificate for device 0 and the part's key, taken. -/
def certIn : Bytes := bytesOf 64 [(0, 0x46), (1, 0x4C), (2, 0x43), (3, 0x54), (4, 1)] ++ padTo 2592 (Config.identityKey 0) ++ List.replicate 4626 0
def certPart : Dev := { member .configured with fleet := { (member .configured).fleet with certIn := certIn } }
set_option maxRecDepth 1000000 in
theorem certStill : settleParts (certPart.readied (.sq 1) .fleetEnrol (desc [(24, 1), (25, 2), (28, 1), (40, 114), (41, 28)])) = certPart.readied (.sq 1) .fleetEnrol (desc [(24, 1), (25, 2), (28, 1), (40, 114), (41, 28)]) := by
  with_unfolding_all rfl
theorem padTo_length (n : Nat) (b : Bytes) : (padTo n b).length = n := by
  unfold padTo; rw [List.length_append, List.length_take, List.length_replicate]; omega
theorem certLen : certIn.length = 7282 := by
  simp only [certIn, List.length_append, padTo_length, List.length_replicate, bytesOf, List.length_map, List.length_range]
theorem certOk (d : Dev) (h1 : d.devId = 0) (h2 : d.serial = 0) (hv : Config.dsaVerify d.fleet.auth ((certIn ++ [0]).take 2656) ((certIn ++ [0]).drop 2656) = true) :
    d.certFault (certIn ++ [0]) = none := by
  have hk : sliceAt (certIn ++ [0]) 64 2592 = padTo 2592 (Config.identityKey d.serial.toNat) := by
    have h3 : (bytesOf 64 [(0, 0x46), (1, 0x4C), (2, 0x43), (3, 0x54), (4, 1)]).length = 64 := by simp [bytesOf]
    have h4 : ∀ b : Bytes, b.length = 2592 → padTo 2592 b = b := by intro b hb; unfold padTo; rw [hb, List.take_of_length_le (Nat.le_of_eq hb)]; simp
    rw [h2]
    unfold sliceAt certIn
    rw [List.append_assoc, List.append_assoc, List.drop_left' h3, List.take_left' (padTo_length _ _), h4 _ (padTo_length _ _)]; rfl
  have f : fld (certIn ++ [0]) 0 4 = 0x54434C46 ∧ fld (certIn ++ [0]) 4 2 = 1 ∧ fld (certIn ++ [0]) 6 2 = 0 ∧ leNat (sliceAt (certIn ++ [0]) 40 24) = 0 := by
    refine ⟨?_, ?_, ?_, ?_⟩ <;> decide +kernel
  unfold Dev.certFault
  rw [hk, f.1, f.2.1, f.2.2.1, f.2.2.2, h1, hv]
  simp
/-- The entry of shard 2, whose primary is device p and whose replica is device 1 - p; the parts that take it, and have it with the holdings l. -/
def tile (p : Nat) : Bytes := bytesOf 64 ([(0, 2), (4, 1), (8, p), (10, 1 - p), (24, 1), (25, 2), (26, 64), (28, 8), (29, 4), (56, 1)] ++ (List.range 12).map fun k => (12 + k, 255))
def tablePart : Dev := { member .joined with hif := { (member .joined).hif with mem := memWrite 0x5000 (tile 1) [] } }
def tiled (p : Nat) (l : List Hosted) : Dev := { member .joined with fleet := { (member .joined).fleet with table := [tile p], hosted := l } }
def holding (st : ShSt) : Hosted := { shard := 2, slot := 1, st := st, peers := [(1, 0x0903)] }
def hosting (p : Nat) (st : ShSt) : Dev := { ixPart .ready with fleet := (tiled p [holding st]).fleet }
theorem meets_FleetOpcodesComplete (h : Obligations.FleetOpcodesComplete)
    (hv : Config.dsaVerify [] ((certIn ++ [0]).take 2656) ((certIn ++ [0]).drop 2656) = true) :
    Completes (exec (.fleetConfig 0 (.sq 1) (desc [(26, 6)])) (atRing (member .off)))
    ∧ Completes (exec (.fleetConfig 0 (.sq 1) (desc [(26, 4), (33, 0x40)])) (atRing (member .configured)))
    ∧ Completes (exec (.fleetConfig 0 (.sq 1) (desc [(26, 6), (24, 1)])) (atRing (member .enrolled)))
    ∧ Completes (exec (.fleetConfig 0 (.sq 1) (desc [(26, 6)])) (atRing (member .enrolled)))
    ∧ Completes (exec (.fleetEnrol 0 (.sq 1) (desc [(25, 1), (28, 1)])) (atRing own1))
    ∧ Completes (exec (.fleetEnrol 0 (.sq 1) (desc [(24, 1), (25, 1), (28, 1)])) (atRing own1))
    ∧ Completes (exec (.fleetEnrol 0 (.sq 1) (desc [(24, 1), (25, 2), (28, 1), (40, 0x72), (41, 0x1C)])) (atRing certPart))
    ∧ Completes (exec (.fleetJoin 0 (.sq 1) (desc [(24, 1)])) (atRing (member .enrolled)))
    ∧ Completes (exec (.fleetJoin 0 (.sq 1) (desc [])) (atRing (member .joined)))
    ∧ Completes (exec (.fleetFrame 0 (.sq 1) (desc [(51, 0x40)])) (atRing own1))
    ∧ Completes (exec (.shardTable 0 (.sq 1) (desc [(24, 1), (28, 1)])) (atRing (member .joined)))
    ∧ Completes (exec (.shardTable 0 (.sq 1) (desc [(24, 3), (28, 1), (33, 0x50)])) (atRing tablePart))
    ∧ Completes (exec (.shardHost 0 (.sq 1) (desc [(24, 2), (28, 1), (29, 2), (33, 4)])) (atRing (tiled 0 [])))
    ∧ Completes (exec (.shardHost 0 (.sq 1) (desc [(24, 2), (28, 1), (29, 2), (33, 4)])) (atRing (tiled 1 [])))
    ∧ Completes (exec (.shardDrop 0 (.sq 1) (desc [(24, 2)])) (atRing (hosting 1 .replica)))
    ∧ Completes (exec (.shardHandover 0 (.sq 1) (desc [(24, 2), (28, 1), (32, 1)])) (atRing (hosting 0 .primary)))
    ∧ Completes (exec (.shardPromote 0 (.sq 1) (desc [(24, 2), (32, 1)])) (atRing (hosting 1 .replica)))
    ∧ Completes (exec (.shardStatus 0 (.sq 1) (desc [(24, 2)])) (atRing (hosting 1 .replica)))
    ∧ Completes (exec (.fleetQuery 0 (.sq 1) (desc [(25, 1), (27, 1), (28, 16), (48, 1)])) (atRing (tiled 1 []))) :=
  by
  unfold Obligations.FleetOpcodesComplete at h
  dsimp only at h
  exact ⟨h.1.1.meets (member .off) (.sq 1) (desc [(26, 6)]) (by decide +kernel) (by decide +kernel) (by decide +kernel),
    h.1.2.1.meets (member .configured) (.sq 1) (desc [(26, 4), (33, 0x40)]) (by decide +kernel) (by decide +kernel) (by decide +kernel),
    h.1.2.2.1.meets (member .enrolled) (.sq 1) (desc [(26, 6), (24, 1)]) (by decide +kernel) (by decide +kernel) (by decide +kernel),
    h.1.2.2.2.meets (member .enrolled) (.sq 1) (desc [(26, 6)]) (by decide +kernel) (by decide +kernel) (by decide +kernel),
    h.2.1.1.meets own1 (.sq 1) (desc [(25, 1), (28, 1)]) (by decide +kernel) (by decide +kernel) (by decide +kernel),
    h.2.1.2.1.meets own1 (.sq 1) (desc [(24, 1), (25, 1), (28, 1)]) (by decide +kernel) (by decide +kernel) (by decide +kernel),
    h.2.1.2.2.meets certPart (.sq 1) (desc [(24, 1), (25, 2), (28, 1), (40, 0x72), (41, 0x1C)]) (by unfold servesB; rw [decide_eq_true certStill]; decide +kernel) ⟨by decide +kernel, by decide +kernel, by decide +kernel, by decide +kernel, ⟨certLen.symm, by decide +kernel, by decide +kernel⟩, certOk _ (by decide +kernel) (by decide +kernel) hv, by decide +kernel⟩ (by decide +kernel),
    h.2.2.1.meets (member .enrolled) (.sq 1) (desc [(24, 1)]) (by decide +kernel) (by decide +kernel) (by decide +kernel),
    h.2.2.2.1.meets (member .joined) (.sq 1) (desc []) (by decide +kernel) (by decide +kernel) (by decide +kernel),
    h.2.2.2.2.1.meets own1 (.sq 1) (desc [(51, 0x40)]) (by decide +kernel) (by decide +kernel) (by decide +kernel),
    h.2.2.2.2.2.1.1.meets (member .joined) (.sq 1) (desc [(24, 1), (28, 1)]) (by decide +kernel) (by decide +kernel) (by decide +kernel),
    h.2.2.2.2.2.1.2.meets tablePart (.sq 1) (desc [(24, 3), (28, 1), (33, 0x50)]) (by decide +kernel) (by decide +kernel) (by decide +kernel),
    (h.2.2.2.2.2.2.1 (tile 0)).1.1.meets (tiled 0 []) (.sq 1) (desc [(24, 2), (28, 1), (29, 2), (33, 4)]) (by decide +kernel) (by decide +kernel) (by decide +kernel),
    (h.2.2.2.2.2.2.1 (tile 1)).1.2.meets (tiled 1 []) (.sq 1) (desc [(24, 2), (28, 1), (29, 2), (33, 4)]) (by decide +kernel) (by decide +kernel) (by decide +kernel),
    (h.2.2.2.2.2.2.1 (tile 1)).2.1.meets (hosting 1 .replica) (.sq 1) (desc [(24, 2)]) (by decide +kernel) (by decide +kernel) (by decide +kernel),
    ((h.2.2.2.2.2.2.1 (tile 0)).2.2.1 (holding .primary)).meets (hosting 0 .primary) (.sq 1) (desc [(24, 2), (28, 1), (32, 1)]) (by decide +kernel) (by decide +kernel),
    (h.2.2.2.2.2.2.1 (tile 1)).2.2.2.1.meets (hosting 1 .replica) (.sq 1) (desc [(24, 2), (32, 1)]) (by decide +kernel) (by decide +kernel),
    (h.2.2.2.2.2.2.1 (tile 1)).2.2.2.2.meets (hosting 1 .replica) (.sq 1) (desc [(24, 2)]) (by decide +kernel) (by decide +kernel) (by decide +kernel),
    h.2.2.2.2.2.2.2.meets (tiled 1 []) (.sq 1) (desc [(25, 1), (27, 1), (28, 16), (48, 1)]) (by decide +kernel) (by decide +kernel)⟩

/-- Cluster 0 with engine 23 in a state; the control cores' states; Touchstone unit 11 in a state. -/
def engPart (st : EngSt) (r : Option Nat) : Dev := { own1 with
  comp := { own1.comp with cl := upd own1.comp.cl 0 fun k => { k with on := true, eng := upd k.eng 23 fun e => { e with st := st, running := r } } } }
def corePart (l : List Nat) : Dev := { own1 with flt := { own1.flt with core := l } }
def tsPart (st : TsSt) : Dev := own1.setTs 11 fun x => { x with st := st }
/-- Walkers 0 and 7 online; pipe 1 off; port 3 and the last camera port enabled; base-metal mode, with exits under way. -/
def walksPart : Dev := (own1.setWk 0 fun k => { k with st := .online }).setWk 7 fun k => { k with st := .online }
def pipeOff : Dev := { own1 with vision := { own1.vision with pipe := [{ st := .home }, { st := .off }] } }
def portsPart : Dev := { own1 with
  eth := upd own1.eth 3 fun p => { p with enable := true }
  sens := { own1.sens with csi := upd own1.sens.csi 11 fun c => { c with enable := true } } }
def basePart (l : List Tok) : Dev := { own1 with part := .baseMetal, flt := { own1.flt with exits := l } }
def logPart : Dev := { own1 with flt := { own1.flt with log := List.replicate 129 { time := 0, cls := 2, kind := 0, unit := 0, cause := 1, action := 1 } } }
theorem meets_FaultOpcodesComplete (h : Obligations.FaultOpcodesComplete) :
    Completes (exec (.fltStatus 0 (.sq 1) (desc [])) (atRing own1))
    ∧ Completes (exec (.fltLog 0 (.sq 1) (desc [(24, 1)])) (atRing own1))
    ∧ Completes (exec (.fltLog 0 .i3c (desc [(24, 129)])) (atRing logPart))
    ∧ Completes (exec (.unitFence 0 (.sq 1) (desc [(24, 0), (26, 23)])) (atRing (engPart .live none)))
    ∧ Completes (exec (.unitFence 0 (.sq 1) (desc [(24, 0), (26, 23)])) (atRing (engPart .live (some 3))))
    ∧ Completes (exec (.unitFence 0 (.sq 1) (desc [(24, 3), (26, 3)])) (atRing own1))
    ∧ Completes (exec (.unitFence 0 (.sq 1) (desc [(24, 5), (26, 11)])) (atRing own1))
    ∧ Completes (exec (.unitReturn 0 (.sq 1) (desc [(24, 0), (26, 23)])) (atRing (engPart .fenced none)))
    ∧ Completes (exec (.unitReturn 0 (.sq 1) (desc [(24, 3), (26, 0)])) (atRing (corePart [1, 0, 0, 0])))
    ∧ Completes (exec (.unitReturn 0 (.sq 1) (desc [(24, 5), (26, 11)])) (atRing (tsPart .fenced)))
    ∧ Completes (exec (.assayRun 0 (.sq 1) (desc [(24, 0), (26, 23)])) (atRing (engPart .fenced none)))
    ∧ Completes (exec (.assayRun 0 (.sq 1) (desc [(24, 0), (26, 23)])) (atRing (engPart .live none)))
    ∧ Completes (exec (.assayRun 0 (.sq 1) (desc [(24, 1), (26, 7)])) (atRing walksPart))
    ∧ Completes (exec (.assayRun 0 (.sq 1) (desc [(24, 2), (26, 1)])) (atRing pipeOff))
    ∧ Completes (exec (.assayRun 0 (.sq 1) (desc [(24, 3), (26, 3)])) (atRing own1))
    ∧ Completes (exec (.assayRun 0 (.sq 1) (desc [(24, 4), (26, 63)])) (atRing own1))
    ∧ Completes (exec (.assayRun 0 (.sq 1) (desc [(24, 5), (26, 11)])) (atRing (tsPart .idle)))
    ∧ Completes (exec (.assayRun 0 (.sq 1) (desc [(24, 6), (26, 3)])) (atRing portsPart))
    ∧ Completes (exec (.assayRun 0 (.sq 1) (desc [(24, 7), (26, 11)])) (atRing portsPart))
    ∧ Completes (exec (.baseEnter 0 (.sq 1) (desc [])) (atRing own1))
    ∧ Completes (exec (.baseExit 0 (.sq 1) (desc [])) (atRing (basePart [{ ch := .i3c, count := 9 }])))
    ∧ Completes (exec (.baseExit 0 (.sq 1) (desc [])) (atRing (basePart []))) :=
  by
  unfold Obligations.FaultOpcodesComplete at h
  dsimp only at h
  exact ⟨h.1.meets own1 (.sq 1) (desc []) (by decide +kernel) trivial (by decide +kernel),
    h.2.1.meets own1 (.sq 1) (desc [(24, 1)]) (by decide +kernel) (by decide +kernel) (by decide +kernel),
    h.2.2.1.meets logPart .i3c (desc [(24, 129)]) (by decide +kernel) (by decide +kernel) (by decide +kernel),
    h.2.2.2.1.1.meets (engPart .live none) (.sq 1) (desc [(24, 0), (26, 23)]) (by decide +kernel) (by decide +kernel),
    h.2.2.2.1.2.1.meets (engPart .live (some 3)) (.sq 1) (desc [(24, 0), (26, 23)]) (by decide +kernel) (by decide +kernel),
    h.2.2.2.1.2.2.1.meets own1 (.sq 1) (desc [(24, 3), (26, 3)]) (by decide +kernel) (by decide +kernel),
    h.2.2.2.1.2.2.2.1.meets own1 (.sq 1) (desc [(24, 5), (26, 11)]) (by decide +kernel) (by decide +kernel),
    h.2.2.2.1.2.2.2.2.1.meets (engPart .fenced none) (.sq 1) (desc [(24, 0), (26, 23)]) (by decide +kernel) (by decide +kernel),
    h.2.2.2.1.2.2.2.2.2.1.meets (corePart [1, 0, 0, 0]) (.sq 1) (desc [(24, 3), (26, 0)]) (by decide +kernel) (by decide +kernel),
    h.2.2.2.1.2.2.2.2.2.2.1.meets (tsPart .fenced) (.sq 1) (desc [(24, 5), (26, 11)]) (by decide +kernel) (by decide +kernel),
    h.2.2.2.1.2.2.2.2.2.2.2.1.meets (engPart .fenced none) (.sq 1) (desc [(24, 0), (26, 23)]) (by decide +kernel) (by decide +kernel),
    h.2.2.2.1.2.2.2.2.2.2.2.2.1.meets (engPart .live none) (.sq 1) (desc [(24, 0), (26, 23)]) (by decide +kernel) (by decide +kernel),
    h.2.2.2.1.2.2.2.2.2.2.2.2.2.1.meets walksPart (.sq 1) (desc [(24, 1), (26, 7)]) (by decide +kernel) (by decide +kernel),
    h.2.2.2.1.2.2.2.2.2.2.2.2.2.2.1.meets pipeOff (.sq 1) (desc [(24, 2), (26, 1)]) (by decide +kernel) (by decide +kernel),
    h.2.2.2.1.2.2.2.2.2.2.2.2.2.2.2.1.meets own1 (.sq 1) (desc [(24, 3), (26, 3)]) (by decide +kernel) (by decide +kernel),
    h.2.2.2.1.2.2.2.2.2.2.2.2.2.2.2.2.1.meets own1 (.sq 1) (desc [(24, 4), (26, 63)]) (by decide +kernel) (by decide +kernel),
    h.2.2.2.1.2.2.2.2.2.2.2.2.2.2.2.2.2.1.meets (tsPart .idle) (.sq 1) (desc [(24, 5), (26, 11)]) (by decide +kernel) (by decide +kernel),
    h.2.2.2.1.2.2.2.2.2.2.2.2.2.2.2.2.2.2.1.meets portsPart (.sq 1) (desc [(24, 6), (26, 3)]) (by decide +kernel) (by decide +kernel),
    h.2.2.2.1.2.2.2.2.2.2.2.2.2.2.2.2.2.2.2.meets portsPart (.sq 1) (desc [(24, 7), (26, 11)]) (by decide +kernel) (by decide +kernel),
    h.2.2.2.2.1.meets own1 (.sq 1) (desc []) (by decide +kernel) (by decide +kernel),
    h.2.2.2.2.2.1.meets (basePart [{ ch := .i3c, count := 9 }]) (.sq 1) (desc []) (by decide +kernel) (by decide +kernel),
    h.2.2.2.2.2.2.meets (basePart []) (.sq 1) (desc []) (by decide +kernel) (by decide +kernel)⟩

/-- A report is held for the nonce of zeros. -/
def reportPart : Dev := own1.setTrust fun t => { t with report := some (List.replicate 64 0, List.replicate 100 0) }
/-- The file "a" on the card, with a state of the update. -/
def trustPart (f : Trust → Trust) : Dev := { own1 with card := { own1.card with usable := true, files := [([0x61], [])] }, trust := f own1.trust }
theorem meets_TrustAndUpdateOpcodesComplete (h : Obligations.TrustAndUpdateOpcodesComplete) (seed : Bytes)
    (hp : Config.parcelSeed 0 (memRead [] 0 1676) = some seed) (hs : (Config.sha3 (Config.fleetUpdateKey seed)).take 16 = (memRead [] 0 1676).take 16) :
    Completes (exec (.hmIdentity 0 (.sq 1) (desc [(40, 0xB2), (41, 0x22), (44, 1)])) (atRing own1))
    ∧ Completes (exec (.hmAttest 0 (.sq 1) (desc [(44, 1)])) (atRing reportPart))
    ∧ Completes (exec (.hmAttest 0 (.sq 1) (desc [(44, 1)])) (atRing own1))
    ∧ Completes (exec (.updateKeyInstall 0 (.sq 1) (desc [(24, 1)])) (atRing own1))
    ∧ Completes (exec (.updateKeyInstall 0 (.sq 1) (desc [])) (atRing own1))
    ∧ Completes (exec (.updateStage 0 (.sq 1) (desc [(24, 1), (32, 0x61)])) (atRing (trustPart id)))
    ∧ Completes (exec (.settingsExport 0 (.sq 1) (desc [(24, 1), (32, 0x61)])) (atRing (trustPart id)))
    ∧ Completes (exec (.updateActivate 0 (.sq 1) (desc [])) (atRing (trustPart fun t => { t with st := .staged })))
    ∧ Completes (exec (.updateCancel 0 (.sq 1) (desc [])) (atRing (trustPart fun t => { t with st := .staged })))
    ∧ Completes (exec (.updateCancel 0 (.sq 1) (desc [])) (atRing own1))
    ∧ Completes (exec (.updateConfirm 0 (.sq 1) (desc [])) (atRing (trustPart fun t => { t with st := .trial })))
    ∧ Completes (exec (.acceptDefaults 0 (.sq 1) (desc [])) (atRing (trustPart fun t => { t with st := .trial })))
    ∧ Completes (exec (.acceptDefaults 0 (.sq 1) (desc [])) (atRing (trustPart fun t => { t with st := .trial, unreadable := true })))
    ∧ Completes (exec (.updateRevert 0 (.sq 1) (desc [])) (atRing (trustPart fun t => { t with st := .trial })))
    ∧ Completes (exec (.updateStatus 0 (.sq 1) (desc [])) (atRing own1)) :=
  by
  unfold Obligations.TrustAndUpdateOpcodesComplete at h
  dsimp only at h
  exact ⟨h.1.1.meets own1 (.sq 1) (desc [(40, 0xB2), (41, 0x22), (44, 1)]) (by decide +kernel) (by decide +kernel) (by decide +kernel),
    (h.1.2.1.1 (List.replicate 100 0)).meets reportPart (.sq 1) (desc [(44, 1)]) (by decide +kernel) (by decide +kernel) (by decide +kernel),
    h.1.2.1.2.meets own1 (.sq 1) (desc [(44, 1)]) (by decide +kernel) ⟨by decide +kernel, fun r h => nomatch (h : (none : Option (Bytes × Bytes)) = some _)⟩ (by decide +kernel),
    h.1.2.2.1.meets own1 (.sq 1) (desc [(24, 1)]) (by decide +kernel) (by decide +kernel) (by decide +kernel),
    (h.1.2.2.2 seed).meets own1 (.sq 1) (desc []) (by decide +kernel) ⟨by decide +kernel, by decide +kernel, hp, hs⟩ (by with_unfolding_all rfl),
    (h.2.1.1 ([0x61], [])).meets (trustPart id) (.sq 1) (desc [(24, 1), (32, 0x61)]) (by decide +kernel) (by decide +kernel),
    h.2.1.2.meets (trustPart id) (.sq 1) (desc [(24, 1), (32, 0x61)]) (by decide +kernel) (by decide +kernel) (by decide +kernel),
    h.2.2.1.meets (trustPart fun t => { t with st := .staged }) (.sq 1) (desc []) (by decide +kernel) (by decide +kernel),
    h.2.2.2.1.meets (trustPart fun t => { t with st := .staged }) (.sq 1) (desc []) (by decide +kernel) (by decide +kernel),
    h.2.2.2.2.1.meets own1 (.sq 1) (desc []) (by decide +kernel) (by decide +kernel),
    h.2.2.2.2.2.1.meets (trustPart fun t => { t with st := .trial }) (.sq 1) (desc []) (by decide +kernel) (by decide +kernel) (by decide +kernel),
    h.2.2.2.2.2.2.1.meets (trustPart fun t => { t with st := .trial }) (.sq 1) (desc []) (by decide +kernel) (by decide +kernel),
    h.2.2.2.2.2.2.2.1.meets (trustPart fun t => { t with st := .trial, unreadable := true }) (.sq 1) (desc []) (by decide +kernel) (by decide +kernel),
    h.2.2.2.2.2.2.2.2.1.meets (trustPart fun t => { t with st := .trial }) (.sq 1) (desc []) (by decide +kernel) (by decide +kernel),
    h.2.2.2.2.2.2.2.2.2.meets own1 (.sq 1) (desc []) (by decide +kernel) trivial (by decide +kernel)⟩

/-- The locked registers with the admin and the event ring enabled under major 3; under major 2. -/
def lockedIface : Iface := { actMajor := 3, actMinor := 2, actResult := 1, admEnable := true, admSqLog2 := 4, admCqLog2 := 16, evrEnable := true, evrLog2 := 4 }
def twoIface : Iface := { actMajor := 2, actResult := 1 }
theorem meets_StepTakesTheFrontCommand : State.reset.pending = [] := rfl
theorem meets_EveryStepAnswers : step State.reset = .next State.reset := rfl
theorem meets_InterfaceStaysSafe : lockedIface.Safe ∧ step { iface := lockedIface } = .next { iface := lockedIface } := ⟨by unfold Iface.Safe; decide, rfl⟩
theorem meets_LockedVersionStays : lockedIface.locked = true ∧ lockedIface.Safe ∧ step { iface := lockedIface } = .next { iface := lockedIface } :=
  ⟨rfl, by unfold Iface.Safe; decide, rfl⟩
theorem meets_AbiRequestStartsNegotiation : twoIface.locked = false := rfl
theorem meets_EnableNeedsVersionAndSize :
    (let i : Iface := {}
     i.admEnable = false ∧ i.evrEnable = false ∧ (0x10084).testBit 16 = true ∧ i.actResult ≠ 1)
    ∧ (twoIface.admEnable = false ∧ (0x10064).testBit 16 = true ∧ sizeOk (0x10064 % 32) = true ∧ sizeOk (0x10064 / 32 % 32) = false
      ∧ sizeOk (0x10011 % 32) = false) ∧ lockedIface.admEnable = true ∧ lockedIface.evrEnable = true
    ∧ 0x1000 ≤ 0x100F ∧ 0x100F < 0x1010 ∧ 0x1018 ≤ 0x101F ∧ 0x101F < 0x1020 := by decide
theorem meets_MajorTwoAcceptsItsClasses :
    twoIface.actMajor = 2 ∧ versionBad twoIface (.sq 1) .infer { fmtVer := 0 } = false ∧ ({ fmtVer := 0 } : Desc).fmtVer = 0 ∧ ¬ ((Op.cls .solve ≤ 6 ∨ Op.cls .solve = 8) ∧ ({} : Desc).fmtVer = 0) := by
  decide +kernel
theorem meets_MisplacedIsRefused :
    versionBad lockedIface (.sq 0) .infer {} = false ∧ 0x100 ≤ Op.code .timeSelect ∧ versionBad lockedIface (.sq 1) .nop {} = false ∧ Op.code .nop < 0x100
    ∧ versionBad lockedIface (.sq 1) .infer { flagsRes := 1 } = false ∧ ({ flagsRes := 1 } : Desc).flagsRes ≠ 0 := by decide +kernel
/-- A part that another master owns. -/
def othersPart : Dev := { own1 with own := { own1.own with owner := 2 } }
theorem meets_OwnerOnlyIsRefused (h : Obligations.OwnerOnlyIsRefused) :
    (let d := othersPart
     let x : Desc := {}
     (opInfo .timeSelect).ownerOnly = true ∧ d.own.isOwner (Chan.sq 1).master = false ∧ d.mayFetch (.sq 1) x = true
      ∧ versionBad lockedIface (.sq 1) .timeSelect x = false ∧ misplaced (.sq 1) .timeSelect = false ∧ reservedBad .timeSelect x = false
      ∧ inlineBad (.sq 1) .timeSelect x = false ∧ launchBad (.sq 1) x d = false ∧ depBad (.sq 1) x (d.chan (.sq 1)).nextCount d = false
      ∧ Op.timeSelect ≠ .ownHeartbeat ∧ 1 ≤ Op.code .nop ∧ Op.code .nop ≤ 15)
    ∧ Completes (exec (.ownHeartbeat 0 (.sq 0) (desc [])) (atRing othersPart))
    ∧ Completes (exec (.ownRelease 0 (.sq 0) (desc [])) (atRing othersPart))
    ∧ Completes (exec (.ownHandover 0 (.sq 0) (desc [(24, 2)])) (atRing othersPart)) := by
  unfold Obligations.OwnerOnlyIsRefused at h
  dsimp only at h
  exact ⟨by decide +kernel, h.2.2.1.meets othersPart (.sq 0) (desc []) (by decide +kernel) (by decide +kernel) (by decide +kernel),
    h.2.2.2.1.meets othersPart (.sq 0) (desc []) (by decide +kernel) (by decide +kernel) (by decide +kernel),
    h.2.2.2.2.meets othersPart (.sq 0) (desc [(24, 2)]) (by decide +kernel) (by decide +kernel) (by decide +kernel)⟩
/-- A pending descriptor of a ring in a stage; the completion ring of ring 1 full. -/
def stagePart (st : Stage) (t : Nat) : Dev := { own1 with hif := { own1.hif with
  sq := upd own1.hif.sq 1 fun r => { r with pend := [{ op := .nop, d := {}, count := 1, stage := st }] }
  cq := upd own1.hif.cq 1 fun q => { q with tail := t } } }
theorem meets_CompletionsInSubmissionOrder :
    (∀ st t, ((stagePart st t).chan (.sq 1)).pend = [{ op := .nop, d := {}, count := 1, stage := st }])
    ∧ (stagePart .ready 15).room (.sq 1) = false ∧ (stagePart (.finished .ok) 0).room (.sq 1) = true
    ∧ ((stagePart .running 0).chan (.sq 1)).closers.any ((stagePart .running 0).chan (.sq 1)).closed = false :=
  ⟨fun _ _ => rfl, by decide, by decide, by decide⟩
theorem meets_CompletionEntryWritten :
    own1.canWrite = true ∧ ({} : Desc).irq = false ∧ 1 < own1.hif.sq.length ∧ (own1.chan (.sq 1)).cq < own1.hif.cq.length
    ∧ ringFull (own1.cq 1).head (((own1.cq 1).tail + 1) % 2 ^ (own1.cq 1).log2) (own1.cq 1).log2 = false := by decide
theorem meets_PhaseInvertsAtEachWrap :
    1 < own1.hif.cq.length ∧ (own1.cq 1).tail = 0 ∧ (own1.cq 1).phase = true ∧ own1.hif.evr.tail = 0 ∧ own1.hif.evr.phase = true
    ∧ (createCqBad (desc [(24, 63), (25, 1), (26, 4)]) = false ∧ (own1.cq 63).st = .absent ∧ 63 < own1.hif.cq.length)
    ∧ own1.hif.evr.held = [] ∧ own1.hif.evr.lostOld = 0 ∧ own1.hif.evr.lost = 0 := by decide +kernel
/-- An event ring of 16 entries with its tail at `t` and `n` events lost. -/
def lostPart (t n : Nat) : Dev := { part with hif := { part.hif with evr := { on := true, log2 := 4, tail := t, lost := n } } }
theorem meets_FullEventRingCountsAndReports :
    (∀ t n, (lostPart t n).hif.evr.on = true) ∧ ringFull (lostPart 15 0).hif.evr.head (lostPart 15 0).hif.evr.tail (lostPart 15 0).hif.evr.log2 = true
    ∧ ringFull (lostPart 14 1).hif.evr.head (lostPart 14 1).hif.evr.tail (lostPart 14 1).hif.evr.log2 = false ∧ 0 < (lostPart 14 1).hif.evr.lost
    ∧ (lostPart 0 0).hif.evr.lost = 0 ∧ 15 < 2 ^ (lostPart 15 1).hif.evr.log2 ∧ (15 + 2 ^ 4 - 0) % 2 ^ 4 ≤ (15 + 2 ^ 4 - 0) % 2 ^ 4
    ∧ (2 ^ 32 - 1 : Nat) < 2 ^ 32 :=
  ⟨fun _ _ => rfl, by decide, by decide, by decide, rfl, by decide, by decide, by decide⟩
/-- The last vector masked or not, with its pending bit set or not. -/
def vectorPart (m p : Bool) : Dev := { part with hif := { part.hif with msix := List.replicate 128 { masked := m, pendingBit := p } } }
theorem meets_MaskedVectorWaits :
    (∀ m p, ((vectorPart m p).hif.msix.getD 127 {}).masked = m ∧ ((vectorPart m p).hif.msix.getD 127 {}).pendingBit = p ∧ (vectorPart m p).canWrite = true)
    ∧ (0xFFFFFFFF).testBit 32 = false ∧ 127 < 128 := by decide
/-- The stream 0x0500, which goes to the stream ring 1, full or not. -/
def streamPart (t : Nat) : Dev := { own1 with
  prof := { own1.prof with active := bytesOf 64 [(53, 1), (56, 0), (57, 5), (58, 1)] }
  hif := { own1.hif with cq := upd own1.hif.cq 1 fun q => { q with st := .stream, tail := t, recLog2 := 6 } } }
theorem meets_FullStreamRingDrops :
    (∀ t ∈ [0, 15], let d := streamPart t
      d.part ≠ .baseMetal ∧ routeOf d.prof.active 0x0500 = some 1 ∧ (d.cq 1).st = .stream ∧ (d.stream 0x0500).lastTov = none ∧ 64 ≤ 2 ^ (d.cq 1).recLog2)
    ∧ ringFull ((streamPart 15).cq 1).head ((streamPart 15).cq 1).tail ((streamPart 15).cq 1).log2 = true
    ∧ ringFull ((streamPart 0).cq 1).head ((streamPart 0).cq 1).tail ((streamPart 0).cq 1).log2 = false := by decide +kernel
/-- Where no capsule opens, the first clause's hypotheses hold; where one does, those of one of the other two (Config.parcelSeed says which: it is opaque). -/
theorem meets_KeyInstallChecksTheParcel (h : Obligations.KeyInstallChecksTheParcel) (hp : Config.parcelSeed 0 (memRead [] 0 1676) = none) :
    Completes (exec (.updateKeyInstall 0 (.sq 1) (desc [])) (atRing own1)) := by
  unfold Obligations.KeyInstallChecksTheParcel at h
  dsimp only at h
  exact h.1.meets own1 (.sq 1) (desc []) (by decide +kernel) ⟨by decide +kernel, hp⟩ (by decide +kernel)
theorem meets_KeyInstallChecksTheParcel_opened (h : Obligations.KeyInstallChecksTheParcel) (seed : Bytes)
    (hp : Config.parcelSeed 0 (memRead [] 0 1676) = some seed) : Completes (exec (.updateKeyInstall 0 (.sq 1) (desc [])) (atRing own1)) := by
  unfold Obligations.KeyInstallChecksTheParcel at h
  dsimp only at h
  by_cases hs : (Config.sha3 (Config.fleetUpdateKey seed)).take 16 = (memRead [] 0 1676).take 16
  · exact (h.2 seed).2.meets own1 (.sq 1) (desc []) (by decide +kernel) ⟨⟨by decide +kernel, hp⟩, hs⟩ (by with_unfolding_all rfl)
  · exact (h.2 seed).1.meets own1 (.sq 1) (desc []) (by decide +kernel) ⟨⟨by decide +kernel, hp⟩, hs⟩ (by decide +kernel)
theorem meets_OutputBallsDriveAsTabled :
    (∀ n ∈ [24, 23, 16, 26, 17, 18, 25, 19, 20, 21, 22, 0, 15], part.own.outen.getLsbD n = false)
    ∧ (({ part with own := { part.own with outen := 0xFFFFFFFF } } : Dev).own.outen.getLsbD 17 = true ∧ part.start = .done)
    ∧ ({ part with nvme := { part.nvme with trained := true } } : Dev).nvme.trained = true
    ∧ (part.nvme.trained = false ∧ 6 ≤ part.start.rank) ∧ (State.reset.dev.nvme.trained = false ∧ State.reset.dev.start.rank < 6)
    ∧ (part.hif.clkreq = false ∧ ({ part with hif := { part.hif with clkreq := true } } : Dev).hif.clkreq = true)
    ∧ (({ part with vinUp := false } : Dev).vinUp = false ∧ part.card.present = false) := by decide +kernel
theorem meets_HostMemoryReadsBack : Memory.wf [] = true ∧ Memory.wf [(1, 1), (2, 255)] = true := by decide
theorem meets_ClockNeverGoesBack : 0 ≤ part.now ∧ part.now < 1 := by decide

end
end

section
/-! PROOF. What the checks at a descriptor's fetch say of a descriptor on the wrong kind of ring or with a reserved field set (R12, R36). -/

namespace Sys2Proof.Machine

/-- Class 0, the admin opcodes, is the codes below 0x100 (*Opcode classes*). -/
theorem cls_eq_zero_iff_code_lt (op : Op) : op.cls = 0 ↔ op.code < 0x100 := by
  unfold Op.cls; omega

/-! ### Where an opcode belongs (R36) -/

/-- SQ00 takes admin opcodes alone. -/
theorem misplaced_adminRing {op : Op} (h : 0x100 ≤ op.code) : misplaced (.sq 0) op = true := by
  have hcls : op.cls ≠ 0 := by rw [Ne, cls_eq_zero_iff_code_lt]; omega
  simp [misplaced, hcls]

/-- SQ01-SQ63 take no admin opcode. -/
theorem misplaced_otherRing {n : Nat} {op : Op} (hn : n ≠ 0) (h : op.code < 0x100) : misplaced (.sq n) op = true := by
  have hcls : op.cls = 0 := (cls_eq_zero_iff_code_lt op).2 h
  obtain ⟨m, rfl⟩ := Nat.exists_eq_succ_of_ne_zero hn
  simp [misplaced, hcls]

/-! ### Reserved fields (R12) -/

/-- Reserved flags, reserved bits of the dependency, or a byte that the opcode does not use. -/
theorem reservedBad_of_field_set {op : Op} {x : Desc} (h : x.flagsRes ≠ 0 ∨ x.depRes ≠ 0 ∨ x.onlyUses (opInfo op).uses = false) :
    reservedBad op x = true := by
  obtain hflags | hdep | huses := h
  · simp only [reservedBad, bne_iff_ne.2 hflags, Bool.true_or]
  · simp only [reservedBad, bne_iff_ne.2 hdep, Bool.or_true, Bool.true_or]
  · simp only [reservedBad, huses, Bool.not_false, Bool.or_true, Bool.true_or]

/-! ### The checks behind the version's -/

/-- Of a version that is served, a misplaced descriptor and one with a reserved field set complete with ST_BAD_DESCRIPTOR, before the
owner and the part's state are asked (notes/assumptions/55.md). -/
theorem judge_bad {i : Iface} {ch : Chan} {op : Op} {x : Desc} {own : W32} {d : Dev} (hv : versionBad i ch op x = false)
    (h : misplaced ch op = true ∨ reservedBad op x = true) : judge i ch op x own d = some .bad := by
  obtain hplace | hres := h
  · simp [judge, hv, hplace]
  · simp [judge, hv, hres]

/-- Settles O49: each of the three faults is one that `judge_bad` names. -/
theorem misplacedIsRefused : Obligations.MisplacedIsRefused := by
  intro i n op x own d hv
  refine ⟨fun hn hcode => ?_, fun hn hcode => judge_bad hv (.inl (misplaced_otherRing hn hcode)),
    fun hfield => judge_bad hv (.inr (reservedBad_of_field_set hfield))⟩
  subst hn
  exact judge_bad hv (.inl (misplaced_adminRing hcode))

end Sys2Proof.Machine
end

section
/-! PROOF. The locked registers of the host interface: what one write of them can do, the invariant that every command keeps, and what a
write of HIF_ABI_REQ, of an ENABLE, and of a ring's fields does (R29-R31, R33). -/

namespace Sys2Proof.Machine

/-! ### Fields of a written value (R3) -/

/-- The 32 bits that a 4-byte access carries hold every field below bit 32. -/
theorem bitsOf_mod_word {hi lo : Nat} (v : Nat) (hlo : lo ≤ hi) (h : hi < 32) : bitsOf hi lo (v % 2 ^ 32) = bitsOf hi lo v := by
  have hsplit : (2 : Nat) ^ 32 = 2 ^ lo * 2 ^ (32 - lo) := by rw [← Nat.pow_add]; congr 1; omega
  unfold bitsOf
  rw [Nat.shiftRight_eq_div_pow, Nat.shiftRight_eq_div_pow, hsplit, Nat.mod_mul_right_div_self]
  exact Nat.mod_mod_of_dvd _ (Nat.pow_dvd_pow 2 (by omega))

theorem bitsOf_same_eq_one (n v : Nat) : (bitsOf n n v == 1) = v.testBit n := by
  rw [Nat.testBit_eq_decide_div_mod_eq, bitsOf, Nat.shiftRight_eq_div_pow, Nat.add_sub_cancel_left, pow_one]
  rfl

/-- A 5-bit field reads back as it was written. -/
theorem toNat_ofNat_bitsOf_five (lo v : Nat) : (BitVec.ofNat 5 (bitsOf (lo + 4) lo v)).toNat = bitsOf (lo + 4) lo v := by
  have h : bitsOf (lo + 4) lo v < 2 ^ 5 := by
    unfold bitsOf
    rw [show lo + 4 + 1 - lo = 5 by omega]
    exact Nat.mod_lt _ (by decide)
  rw [BitVec.toNat_ofNat, Nat.mod_eq_of_lt h]

/-! ### What one write can do to the locked registers -/

/-- The locked registers after one write of a host-interface register (R29-R31, R33). -/
inductive Iface.Wrote (i : Iface) : Iface → Prop
  | ignored : Wrote i i
  | request (m : Byte) (now : Nat) (h : i.locked = false) : Wrote i { i with abiReq := m, actResult := 0, negotiating := some (m, now) }
  | bases (sq cq evr : W64) : Wrote i { i with admSqBase := sq, admCqBase := cq, evrBase := evr }
  | admSizes (sq cq : BitVec 5) (h : i.admEnable = false) : Wrote i { i with admSqLog2 := sq, admCqLog2 := cq }
  | admOn (sq cq : BitVec 5) (hact : i.actResult = 1) (hsq : sizeOk sq.toNat = true) (hcq : sizeOk cq.toNat = true) :
      Wrote i { i with admSqLog2 := sq, admCqLog2 := cq, admEnable := true }
  | admOff : Wrote i i.reset33
  | evrSize (n : BitVec 5) (h : i.evrEnable = false) : Wrote i { i with evrLog2 := n }
  | evrOn (n : BitVec 5) (hact : i.actResult = 1) (hn : sizeOk n.toNat = true) : Wrote i { i with evrLog2 := n, evrEnable := true }
  | evrOff : Wrote i { i with evrEnable := false }

theorem writeAbiReq_wrote (now v : Nat) (i : Iface) : i.Wrote (writeAbiReq now v i) := by
  unfold writeAbiReq
  split
  case isTrue => exact .ignored
  case isFalse h => exact .request _ now (by simpa using h)

theorem admCtrl_wrote (v : Nat) (i : Iface) : i.Wrote (i.admCtrl v) := by
  simp only [Iface.admCtrl]
  split
  case isTrue =>
    split
    · exact .ignored
    · exact .admOff
  case isFalse hoff =>
    split
    · split
      case isTrue hok =>
        simp only [Bool.and_eq_true, beq_iff_eq] at hok
        obtain ⟨⟨hact, hsq⟩, hcq⟩ := hok
        exact .admOn _ _ hact (by rwa [toNat_ofNat_bitsOf_five 0]) (by rwa [toNat_ofNat_bitsOf_five 5])
      case isFalse => exact .ignored
    · exact .admSizes _ _ (by simpa using hoff)

theorem evrCtrl_wrote (v : Nat) (i : Iface) : i.Wrote (i.evrCtrl v) := by
  simp only [Iface.evrCtrl]
  split
  case isTrue =>
    split
    · exact .ignored
    · exact .evrOff
  case isFalse hoff =>
    split
    · split
      case isTrue hok =>
        simp only [Bool.and_eq_true, beq_iff_eq] at hok
        exact .evrOn _ hok.1 (by rw [toNat_ofNat_bitsOf_five 0]; exact hok.2)
      case isFalse => exact .ignored
    · exact .evrSize _ (by simpa using hoff)

@[simp] theorem writeAdmCtrl_fst (v : Nat) (i : Iface) (d : Dev) : (writeAdmCtrl v i d).1 = i.admCtrl v := by
  simp only [writeAdmCtrl]; split
  · rfl
  · split <;> rfl

@[simp] theorem writeEvrCtrl_fst (v : Nat) (i : Iface) (d : Dev) : (writeEvrCtrl v i d).1 = i.evrCtrl v := by
  simp only [writeEvrCtrl]; split
  · rfl
  · split <;> rfl

theorem writeHif_wrote (o v : Nat) (i : Iface) (d : Dev) : i.Wrote (writeHif o v i d).1 := by
  unfold writeHif
  split
  case h_1 => exact writeAbiReq_wrote _ _ _
  case h_2 => dsimp only; split; exacts [.ignored, .bases _ _ _]
  case h_3 => dsimp only; split; exacts [.ignored, .bases _ _ _]
  case h_4 => rw [writeAdmCtrl_fst]; exact admCtrl_wrote v i
  case h_5 => dsimp only; split; exacts [.ignored, .bases _ _ _]
  case h_6 => rw [writeEvrCtrl_fst]; exact evrCtrl_wrote v i
  all_goals exact .ignored

/-! ### The invariant of the locked registers (O44) -/

/-- A disable leaves no ring that the invariant could speak of. -/
theorem Iface.Safe.reset33 {i : Iface} (h : i.Safe) : i.reset33.Safe := by
  obtain ⟨_, hneg, _, _⟩ := h
  exact ⟨nofun, hneg, nofun, nofun⟩

theorem Iface.Safe.wrote {i j : Iface} (h : i.Safe) (hw : i.Wrote j) : j.Safe := by
  obtain ⟨hact, hneg, hadm, hevr⟩ := h
  cases hw with
  | ignored => exact ⟨hact, hneg, hadm, hevr⟩
  | request m now hopen =>
    simp only [Iface.locked, Bool.or_eq_false_iff] at hopen
    simp [Iface.Safe, Iface.locked, hopen]
  | bases => exact ⟨hact, hneg, hadm, hevr⟩
  | admSizes sq cq hoff => exact ⟨hact, hneg, by simp [hoff], hevr⟩
  | admOn sq cq hone hsq hcq => exact ⟨fun _ => hone, hneg, fun _ => ⟨hsq, hcq⟩, hevr⟩
  | admOff => exact Iface.Safe.reset33 ⟨hact, hneg, hadm, hevr⟩
  | evrSize n hoff => exact ⟨hact, hneg, hadm, by simp [hoff]⟩
  | evrOn n hone hn => exact ⟨fun _ => hone, hneg, hadm, fun _ => hn⟩
  | evrOff => exact ⟨fun hl => hact (by simp_all [Iface.locked]), hneg, hadm, nofun⟩

theorem Iface.Safe.via {i j : Iface} (h : i.Safe) (hv : i.Via j) : j.Safe := by
  induction hv with
  | refl => exact h
  | write o v d _ ih => exact ih.wrote (writeHif_wrote o v _ d)

theorem Iface.safe_empty : ({} : Iface).Safe := ⟨nofun, fun h => absurd rfl h, nofun, nofun⟩

theorem Iface.Safe.version {i : Iface} (h : i.Safe) (hl : i.locked = true) : i.actResult = 1 := h.1 hl

/-- A negotiation under way: no ring is enabled. -/
theorem Iface.Safe.unlocked {i : Iface} (h : i.Safe) (hn : i.negotiating ≠ none) : i.locked = false := by
  refine Bool.eq_false_iff.2 fun hl => ?_
  have hone := h.version hl
  obtain ⟨_, hneg, _, _⟩ := h
  rw [hneg hn] at hone
  exact absurd hone (by decide)

/-- The end of a negotiation comes while no ring is enabled. -/
theorem Iface.Safe.abiDone {i : Iface} (h : i.Safe) : (abiDone i).Safe := by
  unfold Machine.abiDone
  split
  case h_1 => exact h
  case h_2 m n hn =>
    have hoff := h.unlocked (by simp [hn])
    simp only [Iface.locked, Bool.or_eq_false_iff] at hoff
    split <;> simp [Iface.Safe, Iface.locked, hoff]

theorem Iface.Safe.next {i j : Iface} (h : i.Safe) (hn : i.Next j) : j.Safe := by
  obtain ⟨k, rfl | rfl | rfl | rfl, hv⟩ := hn
  · exact h.via hv
  · exact Iface.safe_empty.via hv
  · exact h.reset33.via hv
  · exact h.abiDone.via hv

/-- A step changes the locked registers as one command can, or not at all. -/
theorem step_next {s s' : State} (h : step s = .next s') : s.iface.Next s'.iface := by
  unfold step at h
  split at h
  case h_1 => cases h; exact ⟨_, .inl rfl, .refl _⟩
  case h_2 c rest _ =>
    obtain ⟨s₁, hs, _, hn⟩ := exec_leads c { s with pending := rest }
    rw [hs] at h
    cases h
    exact hn

/-- Settles O44: one command does to the locked registers what `Iface.Next` says, and each part of that keeps the invariant. -/
theorem interfaceStaysSafe : Obligations.InterfaceStaysSafe :=
  fun _ _ hs h => hs.next (step_next h)

/-! ### The version in force (O45) -/

/-- Writes leave the version, and its result but for the start of a negotiation. -/
def Iface.SameVersion (i j : Iface) : Prop :=
  j.actMajor = i.actMajor ∧ j.actMinor = i.actMinor ∧ (j.actResult = i.actResult ∨ j.actResult = 0)

theorem Iface.Wrote.sameVersion {i j : Iface} (h : i.Wrote j) : i.SameVersion j := by
  cases h with
  | request => exact ⟨rfl, rfl, .inr rfl⟩
  | _ => exact ⟨rfl, rfl, .inl rfl⟩

theorem Iface.Via.sameVersion {i j : Iface} (h : i.Via j) : i.SameVersion j := by
  induction h with
  | refl => exact ⟨rfl, rfl, .inl rfl⟩
  | @write j o v d _ ih =>
    obtain ⟨hmajor, hminor, hresult⟩ := ih
    obtain ⟨hmajor', hminor', hresult'⟩ := (writeHif_wrote o v j d).sameVersion
    refine ⟨hmajor'.trans hmajor, hminor'.trans hminor, ?_⟩
    rcases hresult' with e | e
    · exact hresult.imp e.trans e.trans
    · exact .inr e

/-- Where the registers are locked again after writes, the version they began with is in force. -/
theorem Iface.Via.version_of_locked {i j : Iface} (h : i.Via j) (hj : j.Safe) (hl : j.locked = true) :
    j.actMajor = i.actMajor ∧ j.actMinor = i.actMinor ∧ j.actResult = i.actResult := by
  obtain ⟨hmajor, hminor, hresult⟩ := h.sameVersion
  refine ⟨hmajor, hminor, hresult.resolve_right fun hzero => ?_⟩
  have hone := hj.version hl
  rw [hzero] at hone
  exact absurd hone (by decide)

theorem Iface.Safe.abiDone_of_locked {i : Iface} (h : i.Safe) (hl : i.locked = true) : Machine.abiDone i = i := by
  have hn : i.negotiating = none := by
    by_contra hn
    rw [h.unlocked hn] at hl
    cases hl
  simp [Machine.abiDone, hn]

/-- One command leaves a locked version as it is, unless it opens the lock: after a full reset no ring can be enabled, as no version
is in force. -/
theorem Iface.Next.version_of_locked {i j : Iface} (h : i.Next j) (hi : i.Safe) (hl : i.locked = true) (hl' : j.locked = true) :
    j.actMajor = i.actMajor ∧ j.actMinor = i.actMinor ∧ j.actResult = i.actResult := by
  have hj := hi.next h
  obtain ⟨k, rfl | rfl | rfl | rfl, hv⟩ := h
  · exact hv.version_of_locked hj hl'
  · obtain ⟨_, _, hzero⟩ := hv.version_of_locked hj hl'
    rw [hj.version hl'] at hzero
    exact absurd hzero (by decide)
  · exact hv.version_of_locked hj hl'
  · rw [hi.abiDone_of_locked hl] at hv
    exact hv.version_of_locked hj hl'

/-! ### Accesses to the host interface's registers (R25) -/

/-- A 4-byte write of a 4-byte register of the host interface. -/
theorem regWrite_hif {o x : Nat} {i : Iface} {d : Dev} (h : regAt i d o = some (4, x)) (ho : o < 0x10000) (ha : o % 4 = 0) (m v : Nat) :
    regWrite m o 4 v i d = writeHif o (v % 2 ^ 32) i d := by
  have hr : regReach i d o 4 = some (o, 0) := by simp [regReach, h, ha]
  simp [regWrite, hr, regPut, ho]

/-- A 4-byte read of a 4-byte register. -/
theorem regRead_word {o x : Nat} {i : Iface} {d : Dev} (h : regAt i d o = some (4, x)) (ha : o % 4 = 0) : regRead i d o 4 = x := by
  have hr : regReach i d o 4 = some (o, 0) := by simp [regReach, h, ha]
  simp [regRead, hr, h]

/-- An access reaches a register of its own 8 bytes. -/
theorem regReach_near {i : Iface} {d : Dev} {off width o k : Nat} (h : regReach i d off width = some (o, k)) : o / 8 = off / 8 ∧ o % 4 = 0 := by
  unfold regReach at h
  split at h
  case isTrue => cases h
  case isFalse hw =>
    simp only [Bool.or_eq_true, Bool.not_eq_true', decide_eq_false_iff_not, not_or, bne_iff_ne, ne_eq, not_not,
      Bool.or_eq_false_iff, not_and_or] at hw
    obtain ⟨hwidth, halign⟩ := hw
    have h4 : off % 4 = 0 := by rcases hwidth with rfl | rfl <;> omega
    split at h
    · split at h
      · cases h; exact ⟨rfl, h4⟩
      · split at h
        · cases h; exact ⟨rfl, h4⟩
        · cases h
    · split at h
      case isTrue hhigh =>
        simp only [Bool.and_eq_true, decide_eq_true_eq] at hhigh
        split at h
        · cases h; omega
        · cases h
      case isFalse => cases h

/-- Settles O46: HIF_ABI_REQ is a 4-byte register, and where no ring is enabled its write is taken. -/
theorem abiRequestStartsNegotiation : Obligations.AbiRequestStartsNegotiation := by
  intro m v i d hopen
  have hm : BitVec.ofNat 8 (v % 2 ^ 32) = BitVec.ofNat 8 v := by
    apply BitVec.eq_of_toNat_eq
    simp only [BitVec.toNat_ofNat]
    omega
  rw [regWrite_hif (x := _) rfl (by decide) (by decide)]
  simp only [writeHif, writeAbiReq, hopen, hm, Bool.false_eq_true, if_false]

/-- Settles O45: the first clause is the lock's own test; the second follows from what one command can do to the locked registers. -/
theorem lockedVersionStays : Obligations.LockedVersionStays := by
  refine ⟨fun m v i d hl => ?_, fun s s' hs hl h hl' => (step_next h).version_of_locked hs hl hl'⟩
  rw [regWrite_hif (x := _) rfl (by decide) (by decide)]
  simp only [writeHif, writeAbiReq, hl, if_true]

/-! ### ENABLE and the fields of a ring (O47) -/

/-- An ENABLE of the admin rings without a version in force or with a size out of range is ignored (R31). -/
theorem admCtrl_refused {i : Iface} {v : Nat} (hoff : i.admEnable = false) (hset : v.testBit 16 = true)
    (h : i.actResult ≠ 1 ∨ sizeOk (bitsOf 4 0 v) = false ∨ sizeOk (bitsOf 9 5 v) = false) : i.admCtrl v = i := by
  have hbad : (i.actResult == 1 && sizeOk (bitsOf 4 0 v) && sizeOk (bitsOf 9 5 v)) = false := by
    rcases h with h | h | h
    · rw [beq_false_of_ne h]; rfl
    · rw [h, Bool.and_false]; rfl
    · rw [h, Bool.and_false]
  simp only [Iface.admCtrl, hoff, bitsOf_same_eq_one, hset, hbad, Bool.false_eq_true, if_false, if_true]

/-- The same of the event ring. -/
theorem evrCtrl_refused {i : Iface} {v : Nat} (hoff : i.evrEnable = false) (hset : v.testBit 16 = true)
    (h : i.actResult ≠ 1 ∨ sizeOk (bitsOf 4 0 v) = false) : i.evrCtrl v = i := by
  have hbad : (i.actResult == 1 && sizeOk (bitsOf 4 0 v)) = false := by
    rcases h with h | h
    · rw [beq_false_of_ne h]; rfl
    · rw [h, Bool.and_false]
  simp only [Iface.evrCtrl, hoff, bitsOf_same_eq_one, hset, hbad, Bool.false_eq_true, if_false, if_true]

/-- Where the write changes no register, the rings stay too. -/
theorem writeAdmCtrl_ignored {i : Iface} {v : Nat} (d : Dev) (h : i.admCtrl v = i) : writeAdmCtrl v i d = (i, d) := by
  simp [writeAdmCtrl, h]

theorem writeEvrCtrl_ignored {i : Iface} {v : Nat} (d : Dev) (h : i.evrCtrl v = i) : writeEvrCtrl v i d = (i, d) := by
  simp [writeEvrCtrl, h]

/-- While ENABLE is 1, a write of its register can only clear it, with that of the event ring (R33). -/
theorem admCtrl_enabled {i : Iface} (v : Nat) (h : i.admEnable = true) : i.admCtrl v = i ∨ i.admCtrl v = i.reset33 := by
  simp only [Iface.admCtrl, h, if_true]
  split
  · exact .inl rfl
  · exact .inr rfl

theorem evrCtrl_enabled {i : Iface} (v : Nat) (h : i.evrEnable = true) : i.evrCtrl v = i ∨ i.evrCtrl v = { i with evrEnable := false } := by
  simp only [Iface.evrCtrl, h, if_true]
  split
  · exact .inl rfl
  · exact .inr rfl

/-- The fields that a 4-byte access of HIF_ADM_CTRL or HIF_EVR_CTRL carries. -/
theorem ctrl_fields (v : Nat) :
    (v % 2 ^ 32).testBit 16 = v.testBit 16 ∧ bitsOf 4 0 (v % 2 ^ 32) = v % 32 ∧ bitsOf 9 5 (v % 2 ^ 32) = v / 32 % 32 := by
  refine ⟨by rw [Nat.testBit_mod_two_pow]; rfl, ?_, ?_⟩ <;> rw [bitsOf_mod_word v (by decide) (by decide)] <;>
    simp [bitsOf, Nat.shiftRight_eq_div_pow]

theorem regWrite_admCtrl (m v : Nat) (i : Iface) (d : Dev) : regWrite m 0x1010 4 v i d = writeAdmCtrl (v % 2 ^ 32) i d :=
  regWrite_hif rfl (by decide) (by decide) m v

theorem regWrite_evrCtrl (m v : Nat) (i : Iface) (d : Dev) : regWrite m 0x1020 4 v i d = writeEvrCtrl (v % 2 ^ 32) i d :=
  regWrite_hif rfl (by decide) (by decide) m v

/-- A write in a register's own 8 bytes that the register ignores. -/
theorem regWrite_ignored {off : Nat} {i : Iface} {d : Dev} (hoff : off < 0x10000) (m width v : Nat)
    (h : ∀ o v, o / 8 = off / 8 → o % 4 = 0 → writeHif o v i d = (i, d)) : regWrite m off width v i d = (i, d) := by
  unfold regWrite
  split
  case h_1 => rfl
  case h_2 o k hr =>
    obtain ⟨hnear, halign⟩ := regReach_near hr
    have ho : o < 0x10000 := by omega
    simp only [regPut, ho, if_true]
    exact h o _ hnear halign

/-- While the admin rings are enabled, writes of their bases are ignored (R31). -/
theorem writeHif_admBase {i : Iface} (h : i.admEnable = true) {o : Nat} (hlo : 0x1000 ≤ o) (hhi : o < 0x1010) (ha : o % 4 = 0) (v : Nat)
    (d : Dev) : writeHif o v i d = (i, d) := by
  obtain rfl | rfl | rfl | rfl : o = 0x1000 ∨ o = 0x1004 ∨ o = 0x1008 ∨ o = 0x100C := by omega
  all_goals simp only [writeHif, h, if_true]

theorem writeHif_evrBase {i : Iface} (h : i.evrEnable = true) {o : Nat} (hlo : 0x1018 ≤ o) (hhi : o < 0x1020) (ha : o % 4 = 0) (v : Nat)
    (d : Dev) : writeHif o v i d = (i, d) := by
  obtain rfl | rfl : o = 0x1018 ∨ o = 0x101C := by omega
  all_goals simp only [writeHif, h, if_true]

/-- An ENABLE bit that is 0 reads 0: below it stand size fields of five bits. -/
theorem admCtrl_reads_off {i : Iface} (d : Dev) (h : i.admEnable = false) : (regRead i d 0x1010 4).testBit 16 = false := by
  rw [regRead_word (x := pack [(0, 5, i.admSqLog2.toNat), (5, 5, i.admCqLog2.toNat), (16, 1, bit i.admEnable)]) rfl (by decide)]
  have hsizes : pack [(0, 5, i.admSqLog2.toNat), (5, 5, i.admCqLog2.toNat), (16, 1, bit i.admEnable)]
      = i.admSqLog2.toNat % 32 + i.admCqLog2.toNat % 32 * 32 := by simp [pack, atBit, h, bit, Nat.shiftLeft_eq]
  exact Nat.testBit_lt_two_pow (by omega)

theorem evrCtrl_reads_off {i : Iface} (d : Dev) (h : i.evrEnable = false) : (regRead i d 0x1020 4).testBit 16 = false := by
  rw [regRead_word (x := pack [(0, 5, i.evrLog2.toNat), (16, 1, bit i.evrEnable)]) rfl (by decide)]
  have hsize : pack [(0, 5, i.evrLog2.toNat), (16, 1, bit i.evrEnable)] = i.evrLog2.toNat % 32 := by simp [pack, atBit, h, bit]
  exact Nat.testBit_lt_two_pow (by omega)

/-- Settles O47: for the admin rings and for the event ring, with ENABLE at 0 the refused write and the bit as it reads, with ENABLE at 1
the fields that every write leaves. -/
theorem enableNeedsVersionAndSize : Obligations.EnableNeedsVersionAndSize := by
  intro m v i d
  obtain ⟨hset, hsq, hcq⟩ := ctrl_fields v
  refine ⟨fun hoff => ⟨fun hv hbad => ?_, admCtrl_reads_off d hoff⟩, fun hoff => ⟨fun hv hbad => ?_, evrCtrl_reads_off d hoff⟩,
    fun hon => ⟨fun off width hlo hhi => ?_, ?_⟩, fun hon => ⟨fun off width hlo hhi => ?_, ?_⟩⟩
  · rw [regWrite_admCtrl]
    exact writeAdmCtrl_ignored d (admCtrl_refused hoff (hset.trans hv) (by rwa [hsq, hcq]))
  · rw [regWrite_evrCtrl]
    exact writeEvrCtrl_ignored d (evrCtrl_refused hoff (hset.trans hv) (by rwa [hsq]))
  · exact regWrite_ignored (by omega) m width v fun o v hnear ha => writeHif_admBase hon (by omega) (by omega) ha v d
  · rw [regWrite_admCtrl, writeAdmCtrl_fst]
    rcases admCtrl_enabled (v % 2 ^ 32) hon with e | e <;> rw [e] <;> exact ⟨rfl, rfl⟩
  · exact regWrite_ignored (by omega) m width v fun o v hnear ha => writeHif_evrBase hon (by omega) (by omega) ha v d
  · rw [regWrite_evrCtrl, writeEvrCtrl_fst]
    rcases evrCtrl_enabled (v % 2 ^ 32) hon with e | e <;> rw [e]

/-! ### The registers and rings right after reset (O43) -/

/-- Settles O43: the reset state lists every value, and its 64 rings of each kind are copies of one. -/
theorem resetLeaves : Obligations.ResetLeaves := by
  refine ⟨Iface.safe_empty, rfl, rfl, rfl, fun n hn => ?_, rfl, rfl, rfl, rfl, rfl⟩
  have hsq : (List.replicate 64 ({} : SubRing)).getD n {} = {} := List.getD_replicate _ hn
  have hcq : (List.replicate 64 ({} : CqRing)).getD n {} = {} := List.getD_replicate _ hn
  exact ⟨congrArg SubRing.st hsq, congrArg CqRing.st hcq⟩

end Sys2Proof.Machine
end

section
/-! PROOF. What the checks at a descriptor's fetch say of its version and of its sender (R34, R61). -/

namespace Sys2Proof.Machine

/-! ### The version in force (R34, O48) -/

/-- Under major 2 the classes present are 0-6 and 8 (*Opcode classes*). -/
theorem fmtVer_two_class {k : Nat} (hk : k < 12) : (fmtVer 2).testBit (48 + k) = decide (k ≤ 6 ∨ k = 8) := by
  revert k
  decide

/-- Under major 2 every class has format version 0. -/
theorem fmtVer_two_format {k : Nat} (hk : k < 12) : bitsOf (4 * k + 3) (4 * k) (fmtVer 2) = 0 := by
  revert k
  decide

/-- R34, as the check of the version at a fetch from a submission ring. -/
theorem versionBad_two {i : Iface} (hi : i.actMajor = 2) (n : Nat) (op : Op) (x : Desc) :
    versionBad i (.sq n) op x = false ↔ (op.cls ≤ 6 ∨ op.cls = 8) ∧ x.fmtVer = 0 := by
  have habi : (abiOf i (.sq n)).1 = 2 := by simp [abiOf, hi]
  have hformat : x.fmtVer.toNat = 0 ↔ x.fmtVer = 0 := by rw [← BitVec.toNat_inj]; rfl
  simp only [versionBad, habi, Bool.or_eq_false_iff, decide_eq_false_iff_not, Bool.not_eq_false', not_le, not_lt]
  constructor
  · rintro ⟨⟨hk, hclass⟩, hfmt⟩
    rw [fmtVer_two_class hk, decide_eq_true_eq] at hclass
    rw [fmtVer_two_format hk, Nat.le_zero] at hfmt
    exact ⟨hclass, hformat.1 hfmt⟩
  · rintro ⟨hclass, hfmt⟩
    have hk : op.cls < 12 := by omega
    exact ⟨⟨hk, by rwa [fmtVer_two_class hk, decide_eq_true_eq]⟩, by rw [hformat.2 hfmt]; exact Nat.zero_le _⟩

/-- The version is judged before anything else (notes/assumptions/55.md). -/
theorem judge_version {i : Iface} {ch : Chan} {op : Op} {x : Desc} (h : versionBad i ch op x = true) (own : W32) (d : Dev) :
    judge i ch op x own d = some (.of stVersion) := by
  simp [judge, h]

/-- Settles O48: what the check of the version refuses under major 2, which is judged first. -/
theorem majorTwoAcceptsItsClasses : Obligations.MajorTwoAcceptsItsClasses := fun i n op x own d hi =>
  ⟨versionBad_two hi n op x, fun hbad => judge_version (by rwa [← Bool.not_eq_false, versionBad_two hi]) own d⟩

/-! ### The owner (R61, O50) -/

/-- No opcode of 0x001-0x00F asks for the owner. -/
theorem ownerOnly_admin {op : Op} (h : op.code ≤ 0x00F) : (opInfo op).ownerOnly = false := by
  cases op
  case reserved => rfl
  all_goals revert h; decide

/-- A descriptor without another fault whose opcode is judged at its fetch completes with ST_NOT_OWNER for any but the owner. -/
theorem judge_notOwner {i : Iface} {ch : Chan} {op : Op} {x : Desc} {own : W32} {d : Dev} (hv : versionBad i ch op x = false)
    (hplace : misplaced ch op = false) (hres : reservedBad op x = false) (hinl : inlineBad ch op x = false)
    (hlaunch : launchBad ch x d = false) (hdep : depBad ch x own d = false) (howned : ownedAtFetch op = true)
    (ho : d.own.isOwner ch.master = false) : judge i ch op x own d = some (.of stNotOwner) := by
  simp [judge, hv, hplace, hres, hinl, hlaunch, hdep, howned, ho]

/-- The owner-only opcodes but the three that are judged as they take effect are judged at their fetch (R61, R85). -/
theorem ownedAtFetch_of_ownerOnly {op : Op} (h : (opInfo op).ownerOnly = true)
    (hnot : ¬ (op = .ownHeartbeat ∨ op = .ownRelease ∨ op = .ownHandover)) : ownedAtFetch op = true := by
  obtain ⟨h1, h2, h3⟩ := not_or.1 hnot |>.imp_right not_or.1
  simp [ownedAtFetch, h, h1, h2, h3]

/-- A descriptor that is judged at its fetch takes its place with that result, counted where its sender is not the owner. -/
theorem fetchRow_judged {i : Iface} {ch : Chan} {op : Op} {x : Desc} {k : Cpl} {d : Dev} (hf : d.mayFetch ch x = true)
    (hj : judge i ch op x (d.chan ch).nextCount d = some k) :
    fetchRow ch op x (i, d) =
      (let e := addPend ch op x (.finished k) (if k.status = stNotOwner then countNotOwner d else d)
       (i, { e with kick := ch :: e.kick })) := by
  simp [fetchRow, hf, fetchDesc, hj]

/-- Settles O50: most owner-only opcodes are judged at their fetch, the other three as their turn comes. -/
theorem ownerOnlyIsRefused : Obligations.OwnerOnlyIsRefused := by
  refine ⟨fun op _ h => ownerOnly_admin h, ?_, ?_⟩
  · intro i d ch op x hown hnot hf hv hplace hres hinl hlaunch hdep hop
    have hj := judge_notOwner (i := i) hv hplace hres hinl hlaunch hdep (ownedAtFetch_of_ownerOnly hown hop) hnot
    rw [fetchRow_judged hf hj]
    rfl
  · refine ⟨runs_of (fun _ _ _ _ => rfl) (by decide) ?_, runs_of (fun _ _ _ _ => rfl) (by decide) ?_,
      runs_of (fun _ _ _ _ => rfl) (by decide) ?_⟩
    all_goals intro i c e hbarred
    · simp [runOp, opFn, opOwnHeartbeat, hbarred, opDone, countNotOwner]
    · simp [runOp, opFn, opOwnRelease, hbarred, opDone, countNotOwner]
    · simp [runOp, opFn, opOwnHandover, hbarred, opDone, countNotOwner]

end Sys2Proof.Machine
end

section
/-! PROOF. The host's writes, interrupts and events seen from the rings: what each leaves of the completion rings and of the event ring, and
what writing a slot does to a ring's tail and phase (R51, R52, R56, R58). -/

namespace Sys2Proof.Machine

/-! ### What the host's writes leave of the rings -/

/-- The part with other host memory. -/
def Dev.putMem (d : Dev) (m : List Host.Cell) : Dev := { d with hif := { d.hif with mem := m } }

theorem hostWrite_of_canWrite {d : Dev} (h : d.canWrite = true) (a : Nat) (b : Bytes) : hostWrite a b d = d.putMem (memWrite a b d.hif.mem) := by
  simp [hostWrite, h, Dev.putMem]

@[simp] theorem hostWrite_cqs (a : Nat) (b : Bytes) (d : Dev) : (hostWrite a b d).hif.cq = d.hif.cq := by
  unfold hostWrite; split <;> rfl

@[simp] theorem hostWrite_evr (a : Nat) (b : Bytes) (d : Dev) : (hostWrite a b d).hif.evr = d.hif.evr := by
  unfold hostWrite; split <;> rfl

@[simp] theorem msixSend_cqs (v : Nat) (d : Dev) : (msixSend v d).hif.cq = d.hif.cq := by
  simp only [msixSend]
  split
  · rfl
  · split
    · exact hostWrite_cqs _ _ d
    · rfl

@[simp] theorem msixSend_evr (v : Nat) (d : Dev) : (msixSend v d).hif.evr = d.hif.evr := by
  simp only [msixSend]
  split
  · rfl
  · split
    · exact hostWrite_evr _ _ d
    · rfl

@[simp] theorem evWrite_cqs (e : Event) (d : Dev) : (evWrite e d).hif.cq = d.hif.cq := by
  simp [evWrite]

/-- An event's entry moves the tail by one slot; the phase inverts at the wrap (R56, R58). -/
@[simp] theorem evWrite_evr (e : Event) (d : Dev) :
    (evWrite e d).hif.evr = { d.hif.evr with
      tail := (d.hif.evr.tail + 1) % 2 ^ d.hif.evr.log2
      phase := if (d.hif.evr.tail + 1) % 2 ^ d.hif.evr.log2 = 0 then !d.hif.evr.phase else d.hif.evr.phase } := by
  simp [evWrite]

@[simp] theorem evLose_cqs (d : Dev) : (evLose d).hif.cq = d.hif.cq := rfl

@[simp] theorem evFlushLost_cqs (d : Dev) : (evFlushLost d).hif.cq = d.hif.cq := by
  simp only [evFlushLost]
  split
  · rfl
  · exact evWrite_cqs _ _

@[simp] theorem evPost_cqs (e : Event) (d : Dev) : (evPost e d).hif.cq = d.hif.cq := by
  simp only [evPost]
  split
  · split <;> simp
  · split <;> rfl

@[simp] theorem ev_cqs (code sev : Nat) (b : Bytes) (d : Dev) : (ev code sev b d).hif.cq = d.hif.cq := evPost_cqs _ d

/-! ### One slot of a completion ring written -/

theorem Dev.setCq_cq {d : Dev} {n : Nat} (h : n < d.hif.cq.length) (f : CqRing → CqRing) : (d.setCq n f).cq n = f (d.cq n) := by
  simp [Dev.cq, upd, h]

/-- A completion ring with one more slot written: the next slot, and the phase inverted at the wrap (R56). -/
def CqRing.advanced (q : CqRing) : CqRing :=
  { q with tail := (q.tail + 1) % 2 ^ q.log2, phase := if (q.tail + 1) % 2 ^ q.log2 = 0 then !q.phase else q.phase }

/-- EV_CQ_FULL follows the slot that fills the ring (R52). -/
theorem cqAdvance_eq (n : Nat) (d : Dev) :
    cqAdvance n d =
      let f := d.setCq n CqRing.advanced
      if ringFull (f.cq n).head (f.cq n).tail (f.cq n).log2 && (f.cq n).st == .active && !(f.cq n).fullPosted then
        ev 0x0002 0 (det [(16, [BitVec.ofNat 8 n])]) (f.setCq n fun q => { q with fullPosted := true })
      else f := rfl

@[simp] theorem cqAdvance_length (n : Nat) (d : Dev) : (cqAdvance n d).hif.cq.length = d.hif.cq.length := by
  simp only [cqAdvance_eq]
  split <;> simp [upd]

/-- Whether EV_CQ_FULL is posted or not, the ring itself has advanced by one slot. -/
theorem cqAdvance_cq {d : Dev} {n : Nat} (h : n < d.hif.cq.length) :
    ∃ full, (cqAdvance n d).cq n = { (d.cq n).advanced with fullPosted := full } := by
  have hcq := Dev.setCq_cq h CqRing.advanced
  have hlen : n < (d.setCq n CqRing.advanced).hif.cq.length := by simpa [upd] using h
  simp only [cqAdvance_eq]
  split
  · refine ⟨true, ?_⟩
    rw [Dev.cq, ev_cqs, ← Dev.cq, Dev.setCq_cq hlen, hcq]
  · exact ⟨(d.cq n).fullPosted, hcq⟩

/-- Where the ring does not become full, nothing else happens. -/
theorem cqAdvance_of_room {d : Dev} {n : Nat} (h : n < d.hif.cq.length)
    (hroom : ringFull (d.cq n).head (((d.cq n).tail + 1) % 2 ^ (d.cq n).log2) (d.cq n).log2 = false) :
    cqAdvance n d = d.setCq n CqRing.advanced := by
  simp [cqAdvance_eq, Dev.setCq_cq h, CqRing.advanced, hroom]

/-! ### A ring after `k` slots (R56) -/

/-- The tail and the phase of a ring of 2^log2 slots, which began at slot 0 with phase 1, after `k` slots: phase 1 in every second pass. -/
def AfterSlots (k log2 tail : Nat) (phase : Bool) : Prop := tail = k % 2 ^ log2 ∧ phase = decide (k / 2 ^ log2 % 2 = 0)

theorem AfterSlots.start (log2 : Nat) : AfterSlots 0 log2 0 true := by simp [AfterSlots]

/-- One more slot: a new pass begins exactly where the tail comes back to slot 0. -/
theorem AfterSlots.next {k log2 tail : Nat} {phase : Bool} (h : AfterSlots k log2 tail phase) :
    AfterSlots (k + 1) log2 ((tail + 1) % 2 ^ log2) (if (tail + 1) % 2 ^ log2 = 0 then !phase else phase) := by
  obtain ⟨rfl, rfl⟩ := h
  have htail : (k % 2 ^ log2 + 1) % 2 ^ log2 = (k + 1) % 2 ^ log2 := Nat.mod_add_mod k _ 1
  refine ⟨htail, ?_⟩
  rw [htail, Nat.succ_div]
  by_cases hwrap : (k + 1) % 2 ^ log2 = 0
  · rw [if_pos hwrap, if_pos (Nat.dvd_of_mod_eq_zero hwrap), ← decide_not]
    exact decide_eq_decide.2 (by omega)
  · rw [if_neg hwrap, if_neg (mt Nat.mod_eq_zero_of_dvd hwrap), Nat.add_zero]

/-- `k` entries of a completion ring. -/
theorem cqAdvance_times {n : Nat} {d : Dev} (hn : n < d.hif.cq.length) (h0 : (d.cq n).tail = 0) (h1 : (d.cq n).phase = true) (k : Nat) :
    let f := (List.range k).foldl (fun f _ => cqAdvance n f) d
    n < f.hif.cq.length ∧ (f.cq n).log2 = (d.cq n).log2 ∧ AfterSlots k (d.cq n).log2 (f.cq n).tail (f.cq n).phase := by
  induction k with
  | zero =>
    refine ⟨hn, rfl, ?_⟩
    simpa [h0, h1] using AfterSlots.start _
  | succ k ih =>
    obtain ⟨hlen, hlog, hafter⟩ := ih
    rw [List.range_succ, List.foldl_append]
    obtain ⟨full, hcq⟩ := cqAdvance_cq hlen
    rw [← hlog] at hafter ⊢
    refine ⟨by simpa using hlen, ?_, ?_⟩
    · simp only [List.foldl_cons, List.foldl_nil, hcq]; rfl
    · simp only [List.foldl_cons, List.foldl_nil, hcq]; exact hafter.next

/-- The entries of a list of events. -/
theorem evWrite_times {d : Dev} (h0 : d.hif.evr.tail = 0) (h1 : d.hif.evr.phase = true) (l : List Event) :
    let f := l.foldl (fun f e => evWrite e f) d
    f.hif.evr.log2 = d.hif.evr.log2 ∧ AfterSlots l.length d.hif.evr.log2 f.hif.evr.tail f.hif.evr.phase := by
  induction l using List.reverseRecOn with
  | nil =>
    refine ⟨rfl, ?_⟩
    simpa [h0, h1] using AfterSlots.start _
  | append_singleton l e ih =>
    obtain ⟨hlog, hafter⟩ := ih
    rw [List.foldl_append, List.length_append]
    simp only [List.foldl_cons, List.foldl_nil, evWrite_evr]
    rw [← hlog] at hafter ⊢
    exact ⟨rfl, hafter.next⟩

/-! ### Where an entry holds its phase (R51, R58) -/

@[simp] theorem leBytes_length (n v : Nat) : (leBytes n v).length = n := by
  induction n generalizing v with
  | zero => rfl
  | succ n ih => simp [leBytes, ih]

@[simp] theorem padTo_length (n : Nat) (b : Bytes) : (padTo n b).length = n := by
  simp only [padTo, List.length_append, List.length_take, List.length_replicate]
  omega

theorem cplEntry_length (k : Cpl) (tag count head n : Nat) (phase : Bool) : (k.entry tag count head n phase).length = 32 := by
  simp [Cpl.entry]

/-- The last byte of an entry of 32. -/
theorem getD_last_of_length {l : Bytes} (h : l.length = 31) (b : Byte) : (l ++ [b]).getD 31 0 = b := by
  rw [List.getD_append_right _ _ _ _ h.le, h]
  rfl

theorem cplEntry_phase (k : Cpl) (tag count head n : Nat) (phase : Bool) :
    (k.entry tag count head n phase).getD 31 0 = BitVec.ofNat 8 (bit phase) := by
  have hsplit : k.entry tag count head n phase = (leBytes 4 tag ++ leBytes 4 count ++ leBytes 2 head ++ [BitVec.ofNat 8 n, k.status]
      ++ leBytes 2 k.stateCode.toNat ++ leBytes 2 k.flags.toNat ++ leBytes 8 k.result0.toNat ++ leBytes 4 k.result1.toNat ++ [0, 0, 0])
      ++ [BitVec.ofNat 8 (bit phase)] := by
    simp [Cpl.entry]
  rw [hsplit]
  exact getD_last_of_length (by simp) _

theorem eventEntry_phase (e : Event) (phase : Bool) : (e.entry phase).getD 31 0 = BitVec.ofNat 8 (bit phase) := by
  have hsplit : e.entry phase = (leBytes 8 e.time.toNat ++ leBytes 2 e.code.toNat ++ [e.source, e.severity] ++ leBytes 4 e.unit.toNat
      ++ padTo 14 e.detail ++ [0]) ++ [BitVec.ofNat 8 (bit phase)] := by
    simp [Event.entry]
  rw [hsplit]
  exact getD_last_of_length (by simp) _

/-! ### Rings that begin (R31, R40, R103) -/

theorem opCreateCq_cq {c : OpCtx} {e : Dev} (hx : createCqBad c.d = false) (hst : (e.cq (c.d.u8 24)).st = .absent)
    (hn : c.d.u8 24 < e.hif.cq.length) :
    ((opCreateCq c e).1.cq (c.d.u8 24)).tail = 0 ∧ ((opCreateCq c e).1.cq (c.d.u8 24)).phase = true := by
  simp [opCreateCq, hx, hst, opDone, Dev.setCq_cq hn]

theorem adminRings_cq (i : Iface) {d : Dev} (h : 0 < d.hif.cq.length) :
    ((adminRings i d).cq 0).tail = 0 ∧ ((adminRings i d).cq 0).phase = true := by
  simp [adminRings, Dev.cq, upd, h]

/-- With nothing held and nothing lost, the event ring begins empty. -/
theorem eventRingOn_evr (base log2 : Nat) {d : Dev} (hheld : d.hif.evr.held = []) (hold : d.hif.evr.lostOld = 0) (hlost : d.hif.evr.lost = 0) :
    (eventRingOn base log2 d).hif.evr.tail = 0 ∧ (eventRingOn base log2 d).hif.evr.phase = true := by
  simp [eventRingOn, hheld, hold, hlost, evFlushLost]

/-- Settles O53: both kinds of ring keep `AfterSlots` at every entry. -/
theorem phaseInvertsAtEachWrap : Obligations.PhaseInvertsAtEachWrap :=
  ⟨fun _ k _ hn h0 h1 => (cqAdvance_times hn h0 h1 k).2.2, fun l _ h0 h1 => (evWrite_times h0 h1 l).2, fun _ _ => opCreateCq_cq,
    fun i _ => adminRings_cq i, fun base log2 _ => eventRingOn_evr base log2, cplEntry_phase, eventEntry_phase⟩

end Sys2Proof.Machine
end

section
/-! PROOF. The completions of a channel: their order, their room, and what one of them writes (R51, R52, R67, R69). -/

namespace Sys2Proof.Machine

/-! ### What a channel does next (R52, R67) -/

/-- Where the channel can do nothing, the part stays as it is. -/
theorem pump_of_none {ch : Chan} {w : Whole} (h : pumpOne ch w = none) (k : Nat) : pump ch k w = w := by
  cases k <;> simp [pump, h]

section
variable {ch : Chan} {i : Iface} {d : Dev} {p : Pend} {rest : List Pend} (hpend : (d.chan ch).pend = p :: rest)
  (hclosers : (d.chan ch).closers.any (d.chan ch).closed = false)
include hpend hclosers

/-- A full completion ring holds back whatever the channel has. -/
theorem pumpOne_full (h : d.room ch = false) : pumpOne ch (i, d) = none := by
  simp [pumpOne, hpend, hclosers, h]

/-- The oldest descriptor, once finished, is completed and leaves the channel. -/
theorem pumpOne_finished {k : Cpl} (h : d.room ch = true) (hstage : p.stage = .finished k) :
    pumpOne ch (i, d) =
      (let e := d.setChan ch fun r => { r with pend := rest }
       let k := p.withReport ch (p.final k e) e
       some (i, writeCpl ch p k (p.keepReport k e))) := by
  simp [pumpOne, hpend, hclosers, h, hstage]

/-- While the oldest descriptor is held or under way, nothing behind it moves. -/
theorem pumpOne_unfinished (h : p.stage = .held ∨ p.stage = .running ∨ p.stage = .committed) : pumpOne ch (i, d) = none := by
  rcases h with h | h | h <;> simp [pumpOne, hpend, hclosers, h]

end

/-- Settles O51: the channel looks at its oldest descriptor alone. -/
theorem completionsInSubmissionOrder : Obligations.CompletionsInSubmissionOrder := fun _ _ _ _ _ hpend hclosers =>
  ⟨fun h => pump_of_none (pumpOne_full hpend hclosers h), fun h _ => pumpOne_finished hpend hclosers h,
    fun h => pump_of_none (pumpOne_unfinished hpend hclosers h)⟩

/-! ### What a completion writes (O52) -/

/-- Only the ring itself decides what a change of it gives. -/
theorem Dev.setCq_congr {d : Dev} {n : Nat} {f g : CqRing → CqRing} (h : f (d.cq n) = g (d.cq n)) : d.setCq n f = d.setCq n g := by
  have hupd : upd d.hif.cq n f = upd d.hif.cq n g := by
    simp only [upd, List.modify_eq_set_getElem?]
    cases hq : d.hif.cq[n]? with
    | none => rfl
    | some q =>
      have hcq : d.cq n = q := by simp [Dev.cq, hq]
      simp [hcq ▸ h]
  simp only [Dev.setCq, hupd]

theorem Dev.setCq_putMem (d : Dev) (m : List Host.Cell) (n : Nat) (f : CqRing → CqRing) : (d.putMem m).setCq n f = (d.setCq n f).putMem m := rfl

/-- Host memory with a completion's result payload, where it goes there (R69). -/
def Cpl.putPayload (k : Cpl) (m : List Host.Cell) : List Host.Cell :=
  match k.dest with
  | some a => memWrite a k.payload m
  | none => m

/-- A completion's result payload sent to the host. -/
def Cpl.sendPayload (k : Cpl) (d : Dev) : Dev :=
  match k.dest with
  | some a => hostWrite a k.payload d
  | none => d

theorem Cpl.sendPayload_of_canWrite {d : Dev} (h : d.canWrite = true) (k : Cpl) : k.sendPayload d = d.putMem (k.putPayload d.hif.mem) := by
  unfold Cpl.sendPayload Cpl.putPayload
  cases k.dest with
  | none => rfl
  | some a => exact hostWrite_of_canWrite h a _

/-- The submission ring keeps a descriptor's status for those that depend on its count (R46). -/
def SubRing.keepStatus (p : Pend) (k : Cpl) (r : SubRing) : SubRing :=
  { r with failed := if k.status16 then p.count :: r.failed else r.failed.filter (· != p.count) }

/-- A completion's entry as ring `n` writes it. -/
def Dev.cplEntry (d : Dev) (n : Nat) (p : Pend) (k : Cpl) : Bytes :=
  k.entry p.d.hostTag.toNat p.count.toNat (d.chan (.sq n)).head n (d.cq (d.chan (.sq n)).cq).phase

/-- A completion that asks for no interrupt: its status is kept, the payload and then the entry are sent, and the slot is taken. -/
theorem writeCpl_sq {p : Pend} (hirq : p.d.irq = false) (n : Nat) (k : Cpl) (d : Dev) :
    writeCpl (.sq n) p k d =
      cqAdvance (d.chan (.sq n)).cq
        (hostWrite ((d.cq (d.chan (.sq n)).cq).base + 32 * (d.cq (d.chan (.sq n)).cq).tail) (d.cplEntry n p k)
          (k.sendPayload (d.setChan (.sq n) (SubRing.keepStatus p k)))) := by
  simp only [writeCpl, hirq, Bool.false_eq_true, if_false]
  rfl

/-- Where the host can be written, both writes reach its memory. -/
theorem writeCpl_sq_of_canWrite {n : Nat} {p : Pend} {d : Dev} (hwrite : d.canWrite = true) (hirq : p.d.irq = false) (k : Cpl) :
    writeCpl (.sq n) p k d =
      cqAdvance (d.chan (.sq n)).cq ((d.setChan (.sq n) (SubRing.keepStatus p k)).putMem
        (memWrite ((d.cq (d.chan (.sq n)).cq).base + 32 * (d.cq (d.chan (.sq n)).cq).tail) (d.cplEntry n p k) (k.putPayload d.hif.mem))) := by
  have hkept : (d.setChan (.sq n) (SubRing.keepStatus p k)).canWrite = true := hwrite
  have hsent : ((d.setChan (.sq n) (SubRing.keepStatus p k)).putMem (k.putPayload d.hif.mem)).canWrite = true := hwrite
  rw [writeCpl_sq hirq, Cpl.sendPayload_of_canWrite hkept]
  exact congrArg _ (hostWrite_of_canWrite hsent _ _)

/-- Settles O52: the two writes of `writeCpl_sq_of_canWrite`, and a slot taken in a ring that does not become full. -/
theorem completionEntryWritten : Obligations.CompletionEntryWritten := by
  intro n p k d hwrite hirq _ hcq r q tail hroom f m
  refine ⟨?_, cplEntry_length _ _ _ _ _ _⟩
  rw [writeCpl_sq_of_canWrite hwrite hirq]
  have hslot := cqAdvance_of_room (d := (d.setChan (.sq n) (SubRing.keepStatus p k)).putMem
    (memWrite (q.base + 32 * q.tail) (d.cplEntry n p k) (k.putPayload d.hif.mem))) hcq hroom
  have hf : (d.setChan (.sq n) (SubRing.keepStatus p k)).setCq r.cq CqRing.advanced = f := Dev.setCq_congr rfl
  refine (hslot.trans ?_ : _ = f.putMem (memWrite (q.base + 32 * q.tail) (d.cplEntry n p k) m))
  rw [Dev.setCq_putMem, hf]
  rfl

end Sys2Proof.Machine
end

section
/-! PROOF. The event ring that is full, the masked vector and the full stream ring (R53, R59, R76). -/

namespace Sys2Proof.Machine

/-! ### The full event ring (R59, O54) -/

theorem evFlushLost_full {d : Dev} (h : ringFull d.hif.evr.head d.hif.evr.tail d.hif.evr.log2 = true) : evFlushLost d = d := by
  simp [evFlushLost, h]

theorem evFlushLost_none {d : Dev} (h : d.hif.evr.lost = 0) : evFlushLost d = d := by
  simp [evFlushLost, h]

/-- With a free slot and events lost, EV_EVENTS_LOST takes the slot. -/
theorem evFlushLost_some {d : Dev} (hroom : ringFull d.hif.evr.head d.hif.evr.tail d.hif.evr.log2 = false) (hlost : 0 < d.hif.evr.lost) :
    evFlushLost d = evWrite (d.evLost d.hif.evr.lost) { d with hif := { d.hif with evr := { d.hif.evr with lost := 0 } } } := by
  simp [evFlushLost, hroom, Nat.ne_of_gt hlost]

/-- On an enabled ring an event goes behind EV_EVENTS_LOST, and is lost where that left no slot. -/
theorem evPost_on {d : Dev} (hon : d.hif.evr.on = true) (e : Event) :
    evPost e d = if ringFull (evFlushLost d).hif.evr.head (evFlushLost d).hif.evr.tail (evFlushLost d).hif.evr.log2
      || decide (0 < (evFlushLost d).hif.evr.lost) then evLose (evFlushLost d) else evWrite e (evFlushLost d) := by
  simp [evPost, hon]

theorem evPost_full {d : Dev} (hon : d.hif.evr.on = true) (h : ringFull d.hif.evr.head d.hif.evr.tail d.hif.evr.log2 = true) (e : Event) :
    evPost e d = evLose d := by
  simp [evPost_on hon, evFlushLost_full h, h]

theorem evPost_room {d : Dev} (hon : d.hif.evr.on = true) (hroom : ringFull d.hif.evr.head d.hif.evr.tail d.hif.evr.log2 = false)
    (hlost : d.hif.evr.lost = 0) (e : Event) : evPost e d = evWrite e d := by
  simp [evPost_on hon, evFlushLost_none hlost, hroom, hlost]

/-- A head doorbell that releases entries the ring holds lets EV_EVENTS_LOST go (R55, R59). -/
theorem evrDoorbell_accepted {d : Dev} {h : Nat} (hon : d.hif.evr.on = true) (hsize : h < 2 ^ d.hif.evr.log2) (hword : h < 65536)
    (hused : (h + 2 ^ d.hif.evr.log2 - d.hif.evr.head) % 2 ^ d.hif.evr.log2
      ≤ (d.hif.evr.tail + 2 ^ d.hif.evr.log2 - d.hif.evr.head) % 2 ^ d.hif.evr.log2) :
    evrDoorbell h d = evFlushLost { d with hif := { d.hif with evr := { d.hif.evr with head := h } } } := by
  simp [evrDoorbell, Nat.mod_eq_of_lt hword, hon, Nat.not_le.2 hsize, Nat.not_lt.2 hused]

/-- Settles O54: a full ring, a ring with a free slot that has lost events, and one that has lost none. -/
theorem fullEventRingCountsAndReports : Obligations.FullEventRingCountsAndReports := by
  intro e d hon r unlost
  refine ⟨fun hfull => evPost_full hon hfull e, fun hroom hlost => ?_, fun hroom hlost => evPost_room hon hroom hlost e,
    fun h hsize hword hused => evrDoorbell_accepted hon hsize hword hused, fun n hn => ⟨rfl, ?_⟩⟩
  · have hflush : evFlushLost d = evWrite (d.evLost r.lost) unlost := evFlushLost_some hroom hlost
    have hzero : (evWrite (d.evLost r.lost) unlost).hif.evr.lost = 0 := by rw [evWrite_evr]
    refine ⟨hflush, ?_⟩
    rw [evPost_on hon, hflush, hzero]
    simp
  · exact congrArg (leBytes 4) (Nat.min_eq_left (by omega))

/-! ### The masked vector (R76, O55) -/

/-- An entry of the MSI-X table changed. -/
def Dev.setMsix (d : Dev) (v : Nat) (f : MsixEntry → MsixEntry) : Dev := { d with hif := { d.hif with msix := upd d.hif.msix v f } }

theorem Dev.setMsix_setMsix (d : Dev) (v : Nat) (f g : MsixEntry → MsixEntry) : (d.setMsix v f).setMsix v g = d.setMsix v fun e => g (f e) := by
  simp [Dev.setMsix, upd, List.modify_modify_eq, Function.comp_def]

theorem Dev.setMsix_entry {d : Dev} {v : Nat} (h : v < d.hif.msix.length) (f : MsixEntry → MsixEntry) :
    (d.setMsix v f).hif.msix.getD v {} = f (d.hif.msix.getD v {}) := by
  simp [Dev.setMsix, upd, h]

theorem msixSend_masked {d : Dev} {v : Nat} (h : (d.hif.msix.getD v {}).masked = true) :
    msixSend v d = d.setMsix v fun e => { e with pendingBit := true } := by
  simp only [msixSend, h, if_true]
  rfl

theorem msixSend_unmasked {d : Dev} {v : Nat} (h : (d.hif.msix.getD v {}).masked = false) (hwrite : d.canWrite = true) :
    msixSend v d = emit (.msix v) (hostWrite (d.hif.msix.getD v {}).addr.toNat (leBytes 4 (d.hif.msix.getD v {}).data.toNat) d) := by
  simp only [msixSend, h, hwrite, Bool.false_eq_true, if_false, if_true]

/-- An entry's change decides what its message carries. -/
theorem msixSend_setMsix {d : Dev} {v : Nat} {f : MsixEntry → MsixEntry} (hv : v < d.hif.msix.length)
    (h : (f (d.hif.msix.getD v {})).masked = false) (hwrite : d.canWrite = true) :
    msixSend v (d.setMsix v f) = emit (.msix v)
      (hostWrite (f (d.hif.msix.getD v {})).addr.toNat (leBytes 4 (f (d.hif.msix.getD v {})).data.toNat) (d.setMsix v f)) := by
  have hwrite' : (d.setMsix v f).canWrite = true := hwrite
  rw [← Dev.setMsix_entry hv f] at h ⊢
  exact msixSend_unmasked h hwrite'

/-- A vector whose pending bit is set has an entry in the table. -/
theorem msix_lt_of_pending {d : Dev} {v : Nat} (h : (d.hif.msix.getD v {}).pendingBit = true) : v < d.hif.msix.length := by
  by_contra hv
  rw [List.getD_eq_default _ _ (Nat.le_of_not_lt hv)] at h
  cases h

/-- The upper half of a table entry written with MASK 0: the message goes where the pending bit is set (R76). -/
theorem writeMsix_unmask {v w : Nat} (hv : v < 128) (hw : w.testBit 32 = false) (d : Dev) :
    writeMsix (16 * v + 8) w d =
      let f := d.setMsix v fun e => { e with data := BitVec.ofNat 32 w, masked := false }
      if (d.hif.msix.getD v {}).pendingBit then msixSend v (f.setMsix v fun e => { e with pendingBit := false }) else f := by
  have hin : ¬ 0x800 ≤ 16 * v + 8 := by omega
  have hentry : (16 * v + 8) / 16 = v := by omega
  have hhalf : (16 * v + 8) % 16 ≠ 0 := by omega
  have hmask : (bitsOf 32 32 w == 1) = false := (bitsOf_same_eq_one 32 w).trans hw
  simp only [writeMsix, hin, hentry, hhalf, hmask, Bool.not_false, Bool.true_and, if_false]
  rfl

/-- Settles O55: the entry's MASK decides at a send, its pending bit at an unmask. -/
theorem maskedVectorWaits : Obligations.MaskedVectorWaits := by
  intro v w d hv e put
  refine ⟨msixSend_masked, msixSend_unmasked, fun hpending hw hwrite => ?_, fun hpending hw => ?_⟩
  · rw [writeMsix_unmask hv hw, if_pos hpending, Dev.setMsix_setMsix]
    exact msixSend_setMsix (msix_lt_of_pending hpending) rfl hwrite
  · rw [writeMsix_unmask hv hw, if_neg (by rw [hpending]; decide)]
    rfl

/-! ### The full stream ring (R53, O56) -/

/-- A record whose tov lies after the last one sent is not stale. -/
theorem Stream.stale_of_later {s : Stream} {tov : Nat} (h : ∀ last, s.lastTov = some last → last.toNat < tov) (same : Bool) :
    s.stale tov same = false := by
  unfold Stream.stale
  split
  case h_1 last hlast => simp [Nat.not_le.2 (h last hlast)]
  case h_2 => rfl

/-- A record of a stream that runs, that is not stale and fits its slot: the room of its ring alone decides (R53). -/
theorem streamRecord_routed {id tov n : Nat} {rec : Bytes} {d : Dev} (hpart : d.part ≠ .baseMetal)
    (hroute : routeOf d.prof.active id = some n) (hst : (d.cq n).st = .stream)
    (hnew : ∀ last, (d.stream id).lastTov = some last → last.toNat < tov) (hfits : rec.length ≤ 2 ^ (d.cq n).recLog2) :
    streamRecord id tov false rec d =
      let q := d.cq n
      let s := d.stream id
      if ringFull q.head q.tail q.log2 then
        let f := d.setStream { s with seq := s.seq + 1, dropped := s.dropped + 1, overrun := true }
        let f := { f with hif := { f.hif with streamDrop := satInc f.hif.streamDrop } }
        if s.overrun then f else ev 0x0003 1 (det [(16, [BitVec.ofNat 8 n]), (17, leBytes 2 id)]) f
      else
        let f := d.setStream { s with seq := s.seq + 1, dropped := 0, overrun := false, lastTov := some (BitVec.ofNat 64 tov) }
        let f := hostWrite (q.recBase + 2 ^ q.recLog2 * q.tail) (padTo (2 ^ q.recLog2) rec) f
        coalesce n (cqAdvance n
          (hostWrite (q.base + 32 * q.tail) (streamEntry tov s.seq.toNat rec.length id s.dropped.toNat q.phase) f)) := by
  have hpart' : (d.part == .baseMetal) = false := beq_false_of_ne hpart
  have hst' : ((d.cq n).st != .stream) = false := by rw [hst]; rfl
  have hlong : ¬ 2 ^ (d.cq n).recLog2 < rec.length := Nat.not_lt.2 hfits
  simp only [streamRecord, hpart', hroute, hst', Stream.stale_of_later hnew, hlong, Bool.false_and, Bool.false_eq_true, if_false]

/-- Settles O56: the two cases of `streamRecord_routed`. -/
theorem fullStreamRingDrops : Obligations.FullStreamRingDrops := by
  intro id tov n rec d hpart hroute hst hnew hfits q s
  refine ⟨fun hfull => ?_, fun hroom => ?_⟩
  · rw [streamRecord_routed hpart hroute hst hnew hfits]
    exact if_pos hfull
  · rw [streamRecord_routed hpart hroute hst hnew hfits]
    exact if_neg (by rw [hroom]; decide)

end Sys2Proof.Machine
end

section
/-! PROOF. The installation of a fleet update key: what its parcel's checks decide (R488). -/

namespace Sys2Proof.Machine

/-! ### The checks of a key parcel (R488, O58) -/

/-- The key_id that a key parcel must name: that of the key pair which the seed gives (*Key parcel*). -/
def fleetKeyId (seed : Bytes) : Bytes := (Config.sha3 (Config.fleetUpdateKey seed)).take 16

/-- A key parcel judged: what the part becomes, and the result (R488). -/
def installParcel (parcel : Bytes) (d : Dev) : Dev × OpResult :=
  match Config.parcelSeed d.serial.toNat parcel with
  | none => opDone d { Cpl.bad with result1 := 1 }
  | some seed =>
    if fleetKeyId seed != parcel.take 16 then opDone d { Cpl.bad with result1 := 2 }
    else opDone (d.setTrust fun t => { t with fleetKey := some (fleetKeyId seed, seed) }) .ok

/-- A failed tag: no seed opens. -/
theorem installParcel_unopened {parcel : Bytes} {d : Dev} (h : Config.parcelSeed d.serial.toNat parcel = none) :
    installParcel parcel d = opDone d { Cpl.bad with result1 := 1 } := by
  simp [installParcel, h]

/-- The parcel opens, and its key_id is another key pair's. -/
theorem installParcel_mismatch {parcel seed : Bytes} {d : Dev} (h : Config.parcelSeed d.serial.toNat parcel = some seed)
    (hid : fleetKeyId seed ≠ parcel.take 16) : installParcel parcel d = opDone d { Cpl.bad with result1 := 2 } := by
  simp [installParcel, h, hid]

/-- Both checks pass. -/
theorem installParcel_match {parcel seed : Bytes} {d : Dev} (h : Config.parcelSeed d.serial.toNat parcel = some seed)
    (hid : fleetKeyId seed = parcel.take 16) :
    installParcel parcel d = opDone (d.setTrust fun t => { t with fleetKey := some (fleetKeyId seed, seed) }) .ok := by
  simp [installParcel, h, hid]

/-- Without REMOVE, in a state of the update that lets keys change (R513), the parcel alone decides. -/
theorem opUpdateKeyInstall_eq {c : OpCtx} {d : Dev} (hop : c.d.u8 24 = 0) (hst : d.trust.st = .idle ∨ d.trust.st = .recovery) :
    opUpdateKeyInstall c d = installParcel (c.input d 32 1676) d := by
  have hfree : (d.trust.st != .idle && d.trust.st != .recovery) = false := by
    obtain h | h := hst <;> rw [h] <;> rfl
  simp only [opUpdateKeyInstall, hop, hfree]
  rfl

/-- UPDATE_KEY_INSTALL, in the ring order, does what its parcel decides. -/
theorem runs_updateKeyInstall {can : OpCtx → Dev → Prop} {eff : OpCtx → Dev → Dev × Cpl}
    (h : ∀ c e, can c e → (c.d.u8 24 = 0 ∧ (e.trust.st = .idle ∨ e.trust.st = .recovery))
      ∧ installParcel (c.input e 32 1676) e = opDone (eff c e).1 (eff c e).2) : Runs .updateKeyInstall .updateKeyInstall can eff := by
  refine runs_of (fun _ _ _ _ => rfl) (by decide) fun i c e hcan => ?_
  obtain ⟨⟨hop, hst⟩, heff⟩ := h c e hcan
  have hrun : opUpdateKeyInstall c e = opDone (eff c e).1 (eff c e).2 := (opUpdateKeyInstall_eq hop hst).trans heff
  simp only [runOp, opFn, hrun, opDone]

/-- Settles O58: the three outcomes of a key parcel. -/
theorem keyInstallChecksTheParcel : Obligations.KeyInstallChecksTheParcel :=
  ⟨runs_updateKeyInstall fun _ _ ⟨hready, hnone⟩ => ⟨hready, installParcel_unopened hnone⟩, fun _ =>
    ⟨runs_updateKeyInstall fun _ _ ⟨⟨hready, hsome⟩, hid⟩ => ⟨hready, installParcel_mismatch hsome hid⟩,
      runs_updateKeyInstall fun _ _ ⟨⟨hready, hsome⟩, hid⟩ => ⟨hready, installParcel_match hsome hid⟩⟩⟩

end Sys2Proof.Machine
end

section
/-! PROOF. What a step takes from the queue and what it answers, what the clock does, and host memory read back. -/

namespace Sys2Proof.Machine

/-! ### Steps (O41, O42) -/

/-- Settles O41: the two arms of `step`. -/
theorem stepTakesTheFrontCommand : Obligations.StepTakesTheFrontCommand :=
  ⟨fun _ _ _ => rfl, fun s h => by simp only [step, h]⟩

/-- A step answers a next state, and one command is gone from the queue. -/
theorem step_answers (s : State) : ∃ s', step s = .next s' ∧ s'.pending = s.pending.tail := by
  cases hq : s.pending with
  | nil => exact ⟨s, by simp only [step, hq], hq⟩
  | cons c rest =>
    obtain ⟨s', hexec, hrest, _⟩ := exec_leads c { s with pending := rest }
    exact ⟨s', by simp only [step, hq, hexec], hrest⟩

/-- Settles O42: every command leads to a next state with the rest of the queue. -/
theorem everyStepAnswers : Obligations.EveryStepAnswers := by
  refine ⟨fun s => ?_, fun s s' h => ?_⟩
  · obtain ⟨s', hs, _⟩ := step_answers s
    exact ⟨s', hs⟩
  · obtain ⟨_, hs, htail⟩ := step_answers s
    cases hs.symm.trans h
    exact htail

/-! ### The clock (O59) -/

/-- A run of emissions only adds to the trace. -/
theorem foldl_emit {α : Type} (g : α → Emission) (l : List α) (d : Dev) :
    l.foldl (fun d x => emit (g x) d) d = { d with out := (l.map g).reverse ++ d.out } := by
  induction l generalizing d with
  | nil => rfl
  | cons x l ih => rw [List.foldl_cons, ih]; simp [emit]

/-- The frames that leave the switch take neither the clock nor the time base along. -/
theorem ethDrain_clock (d : Dev) : (ethDrain d).now = d.now ∧ (ethDrain d).time = d.time := by
  refine List.foldlRecOn (motive := fun e : Dev => e.now = d.now ∧ e.time = d.time) _ _ ⟨rfl, rfl⟩ fun e he i _ => ?_
  simp only [foldl_emit]
  split <;> exact he

theorem ethInner_clock (d : Dev) : (ethInner d).now = d.now ∧ (ethInner d).time = d.time := by
  unfold ethInner
  refine List.foldlRecOn (motive := fun e : Dev => e.now = d.now ∧ e.time = d.time) _ _ ⟨rfl, rfl⟩ fun e he i _ => ?_
  simp only [foldl_emit]
  exact he

/-- An instant not after the clock moves nothing. -/
theorem advance_of_le {t : Nat} {d : Dev} (h : t ≤ d.now) : advance t d = d := if_pos h

/-- A later instant is where the clock then stands, and the time base has run up to it. -/
theorem advance_clock {t : Nat} {d : Dev} (h : d.now < t) : (advance t d).now = t ∧ (advance t d).time = d.time.run (t - d.now) := by
  rw [advance, if_neg (Nat.not_le.2 h)]
  obtain ⟨hnow, htime⟩ := ethInner_clock (ethDrain { d with now := t, time := d.time.run (t - d.now) })
  obtain ⟨hnow', htime'⟩ := ethDrain_clock { d with now := t, time := d.time.run (t - d.now) }
  exact ⟨hnow.trans hnow', htime.trans htime'⟩

theorem advance_now (t : Nat) (d : Dev) : (advance t d).now = max d.now t := by
  obtain h | h := Nat.lt_or_ge d.now t
  · rw [(advance_clock h).1, Nat.max_eq_right h.le]
  · rw [advance_of_le h, Nat.max_eq_left h]

/-- Settles O59: an instant up to the clock moves nothing, a later one moves the clock to it. -/
theorem clockNeverGoesBack : Obligations.ClockNeverGoesBack := fun s t =>
  ⟨advance_now t s.dev, advance_of_le, fun h => (advance_clock h).2,
    fun _ hu => advance_of_le (by rw [State.devAt, advance_now]; omega)⟩

/-! ### Host memory (O57) -/

/-- Settles O57: byte by byte, from the last one written to the first. -/
theorem hostMemoryReadsBack : Obligations.HostMemoryReadsBack := by
  intro a x b m hw
  induction b generalizing a m with
  | nil => simp only [memWrite, List.length_nil]; exact (if_neg (by omega)).symm
  | cons y b ih =>
    rw [memWrite, ih (a + 1) (memPut a y m) (memPut_wf a y m hw), memPut_get a x y m hw, List.length_cons]
    obtain hlt | rfl | hgt := Nat.lt_trichotomy x a
    · rw [if_neg (by omega), if_neg (by omega), if_neg (by omega)]
    · rw [if_neg (by omega), if_pos rfl, if_pos (by omega), Nat.sub_self, List.getD_cons_zero]
    · obtain ⟨k, rfl⟩ := Nat.exists_eq_add_of_lt hgt
      rw [if_neg (by omega : ¬ a + k + 1 = a), show a + k + 1 - a = k + 1 by omega, show a + k + 1 - (a + 1) = k by omega, List.getD_cons_succ]
      congr 1
      exact propext ⟨fun h => ⟨by omega, by omega⟩, fun h => ⟨by omega, by omega⟩⟩

end Sys2Proof.Machine
end

section
/-! PROOF. The opcodes of the rings, of ownership, of profiles and registers, and of time and sensors: what the function of each gives where its
checks pass, and so what its descriptor leaves. -/

namespace Sys2Proof.Machine

/-! ### Opcodes whose work is a function of their context and the part -/

/-- The opcodes that need the locked registers, and INFER, whose fetch has an effect of its own. -/
def runsApart : Op → Bool
  | .regRead | .regWrite | .identify | .infer => true
  | _ => false

/-- Every other opcode runs as its function says, and leaves the locked registers alone. -/
theorem runOp_eq_opFn {op : Op} (h : runsApart op = false) (i : Iface) (c : OpCtx) (d : Dev) :
    runOp i op c d = ((i, (opFn op c d).1), (opFn op c d).2) := by
  unfold runOp
  split
  case h_4 => rfl
  all_goals cases h

section
variable {mk : Nat → Chan → Desc → Instr} {op : Op} {can : OpCtx → Dev → Prop} (f : OpFn) (hf : opFn op = f)
  (hm : ∀ t ch x s, exec (mk t ch x) s = onWhole t (fetchRow ch op x) s) (hop : runsApart op = false)
include hf hm hop

/-- An opcode whose function has its result in the ring order. -/
theorem runs_opFn {eff : OpCtx → Dev → Dev × Cpl} (h : ∀ c e, can c e → f c e = opDone (eff c e).1 (eff c e).2) : Runs mk op can eff :=
  runs_of hm (by rintro rfl; cases hop) fun i c e hc => by rw [runOp_eq_opFn hop, hf, h c e hc]; rfl

/-- An asynchronous opcode whose function begins its work. -/
theorem starts_opFn (ha : (opInfo op).async = true) {eff : OpCtx → Dev → Dev} (h : ∀ c e, can c e → f c e = (eff c e, .later)) :
    Starts mk op can eff :=
  starts_of hm (by rintro rfl; cases hop) ha fun i c e hc => by rw [runOp_eq_opFn hop, hf, h c e hc]

/-- An opcode in the ring order whose function begins its work at its turn. -/
theorem turns_opFn (ha : (opInfo op).async = false) {eff : OpCtx → Dev → Dev} (h : ∀ c e, can c e → f c e = (eff c e, .later)) :
    Turns mk op can eff := by
  intro s t d ch x hd hs hc
  have hrun : runOp s.iface op (s.opCtx d ch x) (d.begun ch op x) = ((s.iface, eff (s.opCtx d ch x) (d.begun ch op x)), .later) := by
    rw [runOp_eq_opFn hop, hf, h _ _ hc]
  rw [hm]
  exact exec_turn hd hs (by rintro rfl; cases hop) ha hrun

end

section
variable {c : OpCtx} {d : Dev}

theorem aligned4k_iff {a : Nat} : aligned4k a = true ↔ a % 4096 = 0 := by simp [aligned4k]

theorem ringNo_iff {n : Nat} : ringNo n = true ↔ 1 ≤ n ∧ n ≤ 63 := by simp [ringNo]

/-! ### The admin opcodes (R38-R44) -/

theorem opIdentify_aligned (h : c.d.f 32 8 % 4096 = 0) : opIdentify c d = opDone d (c.output 32 (identifyBlock c d) .ok) := by
  simp [opIdentify, aligned4k_iff.2 h]

theorem opCreateCq_absent (hbody : createCqBad c.d = false) (hst : (d.cq (c.d.u8 24)).st = .absent) :
    opCreateCq c d = opDone (d.setCq (c.d.u8 24) fun _ => {
      st := if c.d.u8 27 = 1 then .stream else .active, vector := c.d.u8 25, phase := true, log2 := c.d.u8 26, base := c.d.f 32 8
      recBase := c.d.f 40 8, recLog2 := c.d.u8 28, coalCount := max (c.d.u8 29) 1, coalTimeUs := c.d.f 30 2 }) .ok := by
  simp [opCreateCq, hbody, hst]

theorem opCreateSq_absent (hn : ringNo (c.d.u8 24) = true) (hq : ringNo (c.d.u8 25) = true) (hsize : sizeOk (c.d.u8 26) = true)
    (hbase : c.d.f 32 8 % 4096 = 0) (hst : (d.chan (.sq (c.d.u8 24))).st = .absent) (hcq : (d.cq (c.d.u8 25)).st = .active) :
    opCreateSq c d
      = opDone (d.setChan (.sq (c.d.u8 24)) fun _ => { st := .active, cq := c.d.u8 25, log2 := c.d.u8 26, base := c.d.f 32 8 }) .ok := by
  simp [opCreateSq, hn, hq, hsize, aligned4k_iff.2 hbase, hst, hcq]

/-- A completion ring that no submission ring reports to is deleted. -/
theorem opDeleteCq_active (hn : ringNo (c.d.u8 24) = true) (hst : (d.cq (c.d.u8 24)).st = .active)
    (hfree : ∀ n < 64, (d.chan (.sq n)).st = .absent ∨ (d.chan (.sq n)).cq ≠ c.d.u8 24) :
    opDeleteCq c d = opDone (d.setCq (c.d.u8 24) fun _ => {}) .ok := by
  have hserves : ((List.range 64).any fun s => (d.chan (.sq s)).st != .absent && (d.chan (.sq s)).cq == c.d.u8 24) = false := by
    simpa [List.any_eq_false, or_iff_not_imp_left] using hfree
  simp [opDeleteCq, hn, hst, hserves]

/-- What a ring is left as by the ABORT_SQ or DELETE_SQ that takes it (R41, R43). -/
def closing (delete : Bool) (c : OpCtx) (e : Dev) : Dev :=
  let f := (commitPoint c.tok (takeRing (c.d.u8 24) c.upTo e)).setChan (.sq (c.d.u8 24)) fun r => { r with
    st := if r.st = .active then .aborting else r.st, closers := r.closers ++ [(c.tok, delete, c.upTo)] }
  { f with kick := .sq (c.d.u8 24) :: f.kick }

theorem closeRing_taken {delete : Bool} (hn : ringNo (c.d.u8 24) = true) (hst : (d.chan (.sq (c.d.u8 24))).st ≠ .absent)
    (hact : delete = true ∨ (d.chan (.sq (c.d.u8 24))).st = .active) : closeRing delete c d = (closing delete c d, .later) := by
  obtain rfl | h := hact <;> simp_all [closeRing, closing]

/-- Settles O28: one lemma for each opcode. -/
theorem adminOpcodesComplete : Obligations.AdminOpcodesComplete :=
  ⟨runs_opFn opNop rfl (fun _ _ _ _ => rfl) rfl fun _ _ _ => rfl,
    runs_of (fun _ _ _ _ => rfl) (by decide) fun _ _ _ h => by simp only [runOp, opIdentify_aligned h, opDone],
    runs_opFn opCreateCq rfl (fun _ _ _ _ => rfl) rfl fun _ _ ⟨hbody, hst⟩ => opCreateCq_absent hbody hst,
    runs_opFn opCreateSq rfl (fun _ _ _ _ => rfl) rfl fun _ _ ⟨hn, hn', hq, hq', hsize, hbase, hst, hcq⟩ =>
      opCreateSq_absent (ringNo_iff.2 ⟨hn, hn'⟩) (ringNo_iff.2 ⟨hq, hq'⟩) hsize hbase hst hcq,
    runs_opFn opDeleteCq rfl (fun _ _ _ _ => rfl) rfl fun _ _ ⟨hn, hn', hst, hfree⟩ => opDeleteCq_active (ringNo_iff.2 ⟨hn, hn'⟩) hst hfree,
    starts_opFn opAbortSq rfl (fun _ _ _ _ => rfl) rfl rfl fun _ _ ⟨hn, hn', hst⟩ => closeRing_taken (ringNo_iff.2 ⟨hn, hn'⟩) (by simp [hst]) (.inr hst),
    starts_opFn opDeleteSq rfl (fun _ _ _ _ => rfl) rfl rfl fun _ _ ⟨hn, hn', hst⟩ => closeRing_taken (ringNo_iff.2 ⟨hn, hn'⟩) hst (.inl rfl)⟩

/-! ### Ownership (R81-R86) -/

theorem opOwnClaim_vacant (hprio : d.own.prioOf c.master ≠ 0) (hst : d.own.st = .vacant) :
    opOwnClaim c d = ({ d with own := { d.own with st := .arbitrating, windowEnd := d.now + 2 * msNs, claims := [(c.master, c.tok)] } }, .later) := by
  simp [opOwnClaim, hprio, hst]

theorem opOwnClaim_arbitrating (hprio : d.own.prioOf c.master ≠ 0) (hst : d.own.st = .arbitrating) :
    opOwnClaim c d = ({ d with own := { d.own with claims := d.own.claims ++ [(c.master, c.tok)] } }, .later) := by
  simp [opOwnClaim, hprio, hst]

/-- The owner's own claim renews its lease. -/
theorem opOwnClaim_owner (hprio : d.own.prioOf c.master ≠ 0) (hst : d.own.st = .owned) (how : d.own.owner = c.master) :
    opOwnClaim c d = opDone (renewLease d) (.ok c.master) := by
  simp [opOwnClaim, hprio, hst, how]

/-- The clock and the time base are apart from the ownership state. -/
theorem Dev.own_tb64 (d : Dev) (o : Own) : ({ d with own := o } : Dev).tb64 = d.tb64 := rfl

/-- A lease renewed ends its whole length from now, on either clock. -/
theorem leaseEndTb_renewLease (d : Dev) : (renewLease d).leaseEndTb = d.tb64 + d.own.leaseMs.toNat * msNs := by
  unfold Dev.leaseEndTb renewLease
  generalize d.own.leaseMs.toNat * msNs = lease
  rw [Dev.own_tb64, Nat.add_sub_cancel_left]

theorem opOwnHeartbeat_owner (h : d.own.isOwner c.master = true) :
    opOwnHeartbeat c d = opDone (renewLease d) (.ok (d.tb64 + d.own.leaseMs.toNat * msNs)) := by
  simp [opOwnHeartbeat, h, leaseEndTb_renewLease]

theorem opOwnHandover_owner (howner : d.own.isOwner c.master = true) (hlo : 1 ≤ c.d.u8 24) (hhi : c.d.u8 24 ≤ 4)
    (hother : c.d.u8 24 ≠ c.master) (hprio : d.own.prioOf (c.d.u8 24) ≠ 0) (hst : d.own.st ≠ .handover) :
    opOwnHandover c d = opDone { d with own := { d.own with
      st := .handover, successor := c.d.u8 24
      handoverEnd := d.now + (if c.d.f 26 2 = 0 then d.own.handoverMs.toNat else c.d.f 26 2) * msNs } } .ok := by
  have hrange : ¬ (c.d.u8 24 = 0 ∨ 4 < c.d.u8 24) := by omega
  simp_all [opOwnHandover]

theorem opOwnAccept_successor (hst : d.own.st = .handover) (hsucc : d.own.successor = c.master) :
    opOwnAccept c d = opDone (renewLease (setOwner c.master 1 d)) (.ok (renewLease (setOwner c.master 1 d)).leaseEndTb) := by
  simp [opOwnAccept, hst, hsucc]

theorem opOwnRelease_owner (h : d.own.isOwner c.master = true) : opOwnRelease c d = opDone (setOwner 0 2 d) .ok := by
  simp [opOwnRelease, h]

/-- Settles O29: each opcode of the owner, the claimant and the successor. -/
theorem ownershipOpcodesComplete : Obligations.OwnershipOpcodesComplete :=
  ⟨starts_opFn opOwnClaim rfl (fun _ _ _ _ => rfl) rfl rfl fun _ _ ⟨hprio, hst⟩ => opOwnClaim_vacant hprio hst,
    starts_opFn opOwnClaim rfl (fun _ _ _ _ => rfl) rfl rfl fun _ _ ⟨hprio, hst⟩ => opOwnClaim_arbitrating hprio hst,
    runs_opFn opOwnClaim rfl (fun _ _ _ _ => rfl) rfl fun _ _ ⟨hprio, hst, how⟩ => opOwnClaim_owner hprio hst how,
    runs_opFn opOwnHeartbeat rfl (fun _ _ _ _ => rfl) rfl fun _ _ h => opOwnHeartbeat_owner h,
    runs_opFn opOwnHandover rfl (fun _ _ _ _ => rfl) rfl fun _ _ ⟨how, hlo, hhi, hother, hprio, hst⟩ => opOwnHandover_owner how hlo hhi hother hprio hst,
    runs_opFn opOwnAccept rfl (fun _ _ _ _ => rfl) rfl fun _ _ ⟨hst, hsucc⟩ => (opOwnAccept_successor hst hsucc).trans (by rw [leaseEndTb_renewLease]; rfl),
    runs_opFn opOwnRelease rfl (fun _ _ _ _ => rfl) rfl fun _ _ h => opOwnRelease_owner h⟩

/-! ### Profiles and registers (R93-R100) -/

theorem opProfileSelect_applied (hp : c.d.u8 24 ≤ 3) (hsafe : d.own.safeLevel = false) (hpart : d.part = .ready) (hst : d.prof.st = .applied) :
    opProfileSelect c d
      = ({ d with prof := { d.prof with st := .applying, applying := some (c.d.u8 24, .command c.tok), applyEnd := d.now + 250 * msNs } }, .later) := by
  simp [opProfileSelect, Nat.not_lt.2 hp, hsafe, hpart, hst]

theorem opProfileRead_stored (hp : c.d.u8 24 ≤ 3) (hold : c.d.u8 25 = 0) (hdest : c.d.f 32 8 % 4096 = 0) :
    opProfileRead c d = opDone d (c.output 32 (padTo 4096 (d.prof.stored.getD (c.d.u8 24) [])) .ok) := by
  simp [opProfileRead, Nat.not_lt.2 hp, hold, aligned4k_iff.2 hdest]

theorem opProfileRead_previous {l : List Bytes} (hp : c.d.u8 24 ≤ 3) (hold : c.d.u8 25 = 1) (hdest : c.d.f 32 8 % 4096 = 0)
    (hprev : d.prof.previous = some l) : opProfileRead c d = opDone d (c.output 32 (padTo 4096 (l.getD (c.d.u8 24) [])) .ok) := by
  simp [opProfileRead, Nat.not_lt.2 hp, hold, aligned4k_iff.2 hdest, hprev]

theorem opProfileWrite_good (hp : c.d.u8 24 ≤ 3) (hlock : d.profLocked = none)
    (hrec : recordFault d.trust.bankFmt (c.d.u8 24) (c.input d 32 4096) = none) :
    opProfileWrite c d = startWrite (c.d.u8 24) (c.input d 32 4096) c d := by
  simp [opProfileWrite, Nat.not_lt.2 hp, hlock, hrec]

theorem opProfileWrite_bad {o : Nat} (hp : c.d.u8 24 ≤ 3) (hlock : d.profLocked = none)
    (hrec : recordFault d.trust.bankFmt (c.d.u8 24) (c.input d 32 4096) = some o) :
    opProfileWrite c d = opDone d { Cpl.bad with result0 := BitVec.ofNat 64 o } := by
  simp [opProfileWrite, Nat.not_lt.2 hp, hlock, hrec]

theorem opProfileRestore_unlocked (hp : c.d.u8 24 ≤ 3) (hlock : d.profLocked = none) :
    opProfileRestore c d
      = startWrite (c.d.u8 24) (putAt (padTo 4096 (defaultRecord (c.d.u8 24))) 0 (leBytes 2 d.trust.bankFmt)) c d := by
  simp [opProfileRestore, Nat.not_lt.2 hp, hlock]

/-- REG_READ of an aligned register reads it (R100). -/
theorem runOp_regRead (i : Iface) (h : regOperandsBad c.d = false) :
    runOp i .regRead c d = ((i, d), .done (.ok (regRead i d (c.d.f 24 4) (c.d.u8 28)))) := by
  simp [runOp, h]

/-- REG_WRITE of an aligned register is the sending master's own write (R100). -/
theorem runOp_regWrite (i : Iface) (h : regOperandsBad c.d = false) (hres : c.d.u8 28 = 8 ∨ c.d.f 36 4 = 0) :
    runOp i .regWrite c d = (regWrite c.master (c.d.f 24 4) (c.d.u8 28) (c.d.f 32 8) i d, .done .ok) := by
  obtain h8 | h0 := hres
  · simp [runOp, h, h8]
  · simp [runOp, h, h0]

/-- Settles O30: each profile opcode, and the two of the registers. -/
theorem profileAndRegisterOpcodesComplete : Obligations.ProfileAndRegisterOpcodesComplete :=
  ⟨starts_opFn opProfileSelect rfl (fun _ _ _ _ => rfl) rfl rfl fun _ _ ⟨hp, hsafe, hpart, hst⟩ => opProfileSelect_applied hp hsafe hpart hst,
    runs_opFn opProfileRead rfl (fun _ _ _ _ => rfl) rfl fun _ _ ⟨hp, hold, hdest⟩ => opProfileRead_stored hp hold hdest,
    fun _ => runs_opFn opProfileRead rfl (fun _ _ _ _ => rfl) rfl fun _ _ ⟨hp, hold, hdest, hprev⟩ => opProfileRead_previous hp hold hdest hprev,
    starts_opFn opProfileWrite rfl (fun _ _ _ _ => rfl) rfl rfl fun _ _ ⟨hp, hlock, hrec⟩ => opProfileWrite_good hp hlock hrec,
    fun _ => runs_opFn opProfileWrite rfl (fun _ _ _ _ => rfl) rfl fun _ _ ⟨hp, hlock, hrec⟩ => opProfileWrite_bad hp hlock hrec,
    starts_opFn opProfileRestore rfl (fun _ _ _ _ => rfl) rfl rfl fun _ _ ⟨hp, hlock⟩ => opProfileRestore_unlocked hp hlock,
    fun s _ _ ch x hd =>
      ⟨fun hs hok hk => exec_served hd hs (by decide) (runOp_regRead (c := s.opCtx _ ch x) s.iface hok) hk,
        fun hs hok hres hk => exec_served hd hs (by decide) (runOp_regWrite (c := s.opCtx _ ch x) s.iface hok hres) hk⟩⟩

/-! ### Time and sensors (R107, R135-R163) -/

/-- A free-running time base, and a track that is neither DISABLED nor LOCKED: it is selected. -/
theorem opTimeSelect_freeRun (hk : c.d.u8 24 ≤ 1) (hallow : c.d.u8 25 ≤ 1) (hst : d.time.st = .freeRun)
    (hen : (d.trk (c.d.u8 24)).st ≠ .disabled) (hun : (d.trk (c.d.u8 24)).st ≠ .locked) :
    opTimeSelect c d = opDone { d with time := { d.time with sel := c.d.u8 24 } } .ok := by
  have hk' : ¬ 2 ≤ c.d.u8 24 := by omega
  have hallow' : ¬ 2 ≤ c.d.u8 25 := by omega
  have hzero : toNs 0 = 0 := rfl
  simp [opTimeSelect, hst, hen, hun, hk', hallow', hzero, sNat]

/-- A time base that follows a source, and a LOCKED track within the step limit: the part switches to it. -/
theorem opTimeSelect_switches (hk : c.d.u8 24 ≤ 1) (hallow : c.d.u8 25 ≤ 1) (hst : d.time.st ≠ .freeRun)
    (hlock : (d.trk (c.d.u8 24)).st = .locked) (hlim : withinLimit d (c.d.u8 24) = true) :
    opTimeSelect c d = opDone (switchTo (c.d.u8 24) d) (
      let off := (d.trk (c.d.u8 24)).offset
      let step := atLeastZero d.time.tb (max (-ns20) (min off ns20))
      .ok (sNat 64 (toNs step)) (sNat 32 (toNs (off - step)))) := by
  have hbody : ¬ (2 ≤ c.d.u8 24 ∨ 2 ≤ c.d.u8 25) := by omega
  cases h : d.time.st <;> simp_all [opTimeSelect]

theorem opTimeSet_freeRun (hst : d.time.st = .freeRun) :
    opTimeSet c d = opDone (stepBy (((c.d.f 32 8 * 65536 : Nat) : Int) - d.time.tb) true d) (.ok d.tb64) := by
  simp [opTimeSet, hst]

theorem opSetLaunchPeriod_present (hn : 1 ≤ c.d.u8 24 ∧ c.d.u8 24 ≤ 63)
    (hst : (d.chan (.sq (c.d.u8 24))).st = .active ∨ (d.chan (.sq (c.d.u8 24))).st = .aborting) :
    opSetLaunchPeriod c d = opDone (d.setChan (.sq (c.d.u8 24)) fun r => { r with
      grid := if c.d.f 32 8 = 0 then none else some (c.d.f 40 8, c.d.f 32 8) }) .ok := by
  have hbody : ¬ (c.d.u8 24 = 0 ∨ 64 ≤ c.d.u8 24) := by omega
  obtain h | h := hst <;> simp_all [opSetLaunchPeriod]

theorem opSensorEnable_known (hkind : d.kind (c.d.u8 24) ≠ 0) (hon : c.d.u8 25 ≤ 1) :
    opSensorEnable c d = opDone (if c.d.u8 25 = 1 then enableSensor (c.d.u8 24) d else sensorOff (c.d.u8 24) d) .ok := by
  have hbody : ¬ 2 ≤ c.d.u8 25 := by omega
  by_cases h : c.d.u8 25 = 1 <;> simp [opSensorEnable, hkind, hbody, h]

theorem opSlotRead_empty (hkind : d.kind (c.d.u8 24) ≠ 0) (hslot : (d.sensor (c.d.u8 24)).slot = none) :
    opSlotRead c d = opDone d (.flagged 2 0 (d.sensor (c.d.u8 24)).accepted.toNat) := by
  simp [opSlotRead, hkind, hslot]

theorem opSlotRead_full {p : Sample} (hkind : d.kind (c.d.u8 24) ≠ 0) (hslot : (d.sensor (c.d.u8 24)).slot = some p) :
    opSlotRead c d = opDone d (c.output 32 p.record (.ok p.tov.toNat (d.sensor (c.d.u8 24)).accepted.toNat)) := by
  simp [opSlotRead, hkind, hslot]

theorem opFrameGrab_free (hkind : d.kind (c.d.u8 24) = 1) (hroom : d.se (c.d.u8 24) 60 2 * d.se (c.d.u8 24) 62 2 ≤ c.d.f 40 4)
    (hfree : (d.sensor (c.d.u8 24)).grab = none) :
    opFrameGrab c d = (d.setSensor (c.d.u8 24) fun s => { s with grab := some c.tok }, .later) := by
  simp [opFrameGrab, hkind, Nat.not_lt.2 hroom, hfree]

theorem opGnssSend_sized (hlo : 1 ≤ c.d.f 24 2) (hhi : c.d.f 24 2 ≤ 4096) :
    opGnssSend c d = (
      let ends := d.sens.gnssTx.foldl (fun a x => max a x.2) d.now + c.d.f 24 2 * 10 * sNs / max d.sens.gnssBaud.toNat 1
      commitPoint c.tok (emit (.gnssTx (c.input d 32 (c.d.f 24 2)) (d.driven 23))
        { d with sens := { d.sens with gnssTx := d.sens.gnssTx ++ [(c.tok, ends)] } }), .later) := by
  have hbody : ¬ (c.d.f 24 2 = 0 ∨ 4096 < c.d.f 24 2) := by omega
  simp_all [opGnssSend]

/-- The sample that a SENSOR_INJECT carries. -/
def OpCtx.injected (c : OpCtx) : Sample :=
  { stamp := c.d.f 32 8 * 65536, sensor := c.d.u8 24, kind := 6, flags := 1, arrival := BitVec.ofNat 64 c.fetchedAt
    tov := BitVec.ofNat 64 (c.d.f 32 8), payload := padTo 40 (padTo 24 ((c.d.bytes 40 24).take (c.d.u8 25))) }

theorem opSensorInject_named (hkind : d.kind (c.d.u8 24) = 6) (hring : Chan.sq (d.se (c.d.u8 24) 1 1) = c.ch) (hlo : 1 ≤ c.d.u8 25)
    (hhi : c.d.u8 25 ≤ 24) (htov : c.d.f 32 8 ≤ c.fetchedAt + 10 * msNs) :
    opSensorInject c d = opDone (acceptSample c.injected d)
      (if (d.sensor (c.d.u8 24)).enabled && d.isLate (c.d.u8 24) (c.d.f 32 8) then .flagged 1 c.fetchedAt else .ok c.fetchedAt) := by
  have hbody : ¬ (c.d.u8 25 = 0 ∨ 24 < c.d.u8 25) := by omega
  simp only [not_or] at hbody
  simp [opSensorInject, hkind, ← hring, hbody.1, hbody.2, Nat.not_lt.2 htov, OpCtx.injected]

/-- Settles O31: each time opcode, then each sensor opcode. -/
theorem timeAndSensorOpcodesComplete : Obligations.TimeAndSensorOpcodesComplete :=
  ⟨runs_opFn opTimeSelect rfl (fun _ _ _ _ => rfl) rfl fun _ _ ⟨hk, hallow, hst, hen, hun⟩ => opTimeSelect_freeRun hk hallow hst hen hun,
    runs_opFn opTimeSelect rfl (fun _ _ _ _ => rfl) rfl fun _ _ ⟨hk, hallow, hst, hlock, hlim⟩ => opTimeSelect_switches hk hallow hst hlock hlim,
    runs_opFn opTimeSet rfl (fun _ _ _ _ => rfl) rfl fun _ _ h => opTimeSet_freeRun h,
    runs_opFn opSetLaunchPeriod rfl (fun _ _ _ _ => rfl) rfl fun _ _ ⟨hlo, hhi, hst⟩ => opSetLaunchPeriod_present ⟨hlo, hhi⟩ hst,
    runs_opFn opTimeStatus rfl (fun _ _ _ _ => rfl) rfl fun _ _ _ => rfl,
    runs_opFn opSensorEnable rfl (fun _ _ _ _ => rfl) rfl fun _ _ ⟨hkind, hon⟩ => opSensorEnable_known hkind hon,
    runs_opFn opSlotRead rfl (fun _ _ _ _ => rfl) rfl fun _ _ ⟨hkind, hslot⟩ => opSlotRead_empty hkind hslot,
    fun _ => runs_opFn opSlotRead rfl (fun _ _ _ _ => rfl) rfl fun _ _ ⟨hkind, hslot⟩ => opSlotRead_full hkind hslot,
    starts_opFn opFrameGrab rfl (fun _ _ _ _ => rfl) rfl rfl fun _ _ ⟨hkind, hroom, hfree⟩ => opFrameGrab_free hkind hroom hfree,
    starts_opFn opGnssSend rfl (fun _ _ _ _ => rfl) rfl rfl fun _ _ ⟨hlo, hhi⟩ => opGnssSend_sized hlo hhi,
    runs_opFn opSensorInject rfl (fun _ _ _ _ => rfl) rfl fun _ _ ⟨hkind, hring, hlo, hhi, htov, hlate⟩ => (opSensorInject_named hkind hring hlo hhi htov).trans (by rw [hlate]; rfl),
    runs_opFn opSensorInject rfl (fun _ _ _ _ => rfl) rfl fun _ _ ⟨hkind, hring, hlo, hhi, htov, hlate⟩ => (opSensorInject_named hkind hring hlo hhi htov).trans (by rw [hlate]; rfl)⟩

end

end Sys2Proof.Machine
end

section
/-! PROOF. The opcodes of the stereo pipes: what the function of each gives where its checks pass, and what a stored pair leaves as its time
comes. -/

namespace Sys2Proof.Machine

section
variable {c : OpCtx} {d : Dev}

theorem opRectLoad_removes (hkind : d.kind (c.d.u8 24) = 1) (hlen : c.d.f 40 4 = 0) :
    opRectLoad c d
      = opDone { d with vision := { d.vision with tables := d.vision.tables.filter fun t => t.1 != c.d.u8 24 } } .ok := by
  simp [opRectLoad, hkind, hlen]

/-- A table of the sensor's size whose points lie within reach, where the tables' memory holds it. -/
theorem opRectLoad_keeps (hkind : d.kind (c.d.u8 24) = 1) (hlen : c.d.f 40 4 ≠ 0)
    (hsize : c.d.f 40 4 = 8 * nodeCount (d.vW (c.d.u8 24)) (d.vH (c.d.u8 24)))
    (hreach : d.routed (c.d.u8 24) = true →
      tableFault (d.vW (c.d.u8 24)) (d.vH (c.d.u8 24)) (d.rectLines (c.d.u8 24)) (c.input d 32 (c.d.f 40 4)) = none)
    (hroom : ((d.vision.tables.filter fun t => t.1 != c.d.u8 24).map fun t => t.2.length).sum + c.d.f 40 4 ≤ 2097152) :
    opRectLoad c d = opDone { d with vision := { d.vision with
      tables := (c.d.u8 24, c.input d 32 (c.d.f 40 4)) :: d.vision.tables.filter fun t => t.1 != c.d.u8 24 } } .ok := by
  have hfault : (if d.routed (c.d.u8 24) = true then
      tableFault (d.vW (c.d.u8 24)) (d.vH (c.d.u8 24)) (d.rectLines (c.d.u8 24)) (c.input d 32 (c.d.f 40 4)) else none) = none := by
    split
    · exact hreach ‹_›
    · rfl
  unfold opRectLoad
  simp only [hfault]
  simp [hkind, hlen, ← hsize, Nat.not_lt.2 hroom]

/-- What VP_PARAMS carries. -/
def OpCtx.vpParams (c : OpCtx) : VpParams := { p1 := c.d.u8 25, p2 := c.d.u8 26, uniq := c.d.u8 27, tex := c.d.u8 28, lrTol := c.d.u8 29 }

theorem opVpParams_inRange (hrouted : d.routed (c.d.u8 24) = true) (hrole : d.vrole (c.d.u8 24) = 1) (hp1 : 1 ≤ c.d.u8 25 ∧ c.d.u8 25 ≤ 63)
    (hp2 : c.d.u8 25 ≤ c.d.u8 26) (huniq : c.d.u8 27 ≤ 50) (htol : c.d.u8 29 ≤ 7)
    (hon : d.servedBy (c.d.u8 24) ≠ none ∨ (d.vp (d.homePipe (c.d.u8 24))).st ≠ .gated) :
    opVpParams c d = opDone (d.setRing (c.d.u8 24) fun r => { r with params := some c.vpParams }) .ok := by
  grind [opVpParams, OpCtx.vpParams]

theorem opVpMove_away (hp : c.d.u8 24 ≤ 1) (hback : c.d.u8 25 = 0) (hst : (d.vp (c.d.u8 24)).st = .home) (hother : (d.vp (1 - c.d.u8 24)).st ≠ .gated) :
    opVpMove c d = (moveCheck (c.d.u8 24) (d.setVp (c.d.u8 24) fun v => { v with moving := v.moving ++ [(c.tok, false)] }), .later) := by
  have hp' : ¬ 2 ≤ c.d.u8 24 := by omega
  simp [opVpMove, hp', hback, hst, hother]

/-- A pipe that is off comes back from the one that hosts its rings. -/
theorem opVpMove_back (hp : c.d.u8 24 ≤ 1) (hback : c.d.u8 25 = 1) (hst : (d.vp (c.d.u8 24)).st = .off)
    (hother : (d.vp (1 - c.d.u8 24)).st = .hosting) :
    opVpMove c d = opDone (
      let f := (admissionWindow (1 - c.d.u8 24) d).setVp (c.d.u8 24) fun v => { v with st := .home, movedAt := some d.time.tb }
      let f := if (f.vp (1 - c.d.u8 24)).st == .hosting then f.setVp (1 - c.d.u8 24) fun v => { v with st := .home } else f
      evVp (c.d.u8 24) 0x0702 0 (det [(16, [BitVec.ofNat 8 (c.d.u8 24)])]) f) .ok := by
  have hp' : ¬ 2 ≤ c.d.u8 24 := by omega
  simp [opVpMove, hp', hback, hst, hother]

theorem opStereoGrab_free (howns : d.ownsRing (c.d.u8 24) = true)
    (hroom : (if d.isPair (c.d.u8 24) then 4 else 1) * d.vW (c.d.u8 24) * d.vH (c.d.u8 24) ≤ c.d.f 40 4)
    (hon : (d.vp (d.homePipe (c.d.u8 24))).st ≠ .gated) (hring : (d.ring (c.d.u8 24)).grab = none)
    (hframes : ∀ f ∈ (d.ring (c.d.u8 24)).cur ++ (d.ring (c.d.u8 24)).closing, f.grab = none) :
    opStereoGrab c d = (d.setRing (c.d.u8 24) fun r => { r with grab := some c.tok }, .later) := by
  have hany : (((d.ring (c.d.u8 24)).cur ++ (d.ring (c.d.u8 24)).closing).any fun f => f.grab.isSome) = false := by
    simpa only [List.any_eq_false, Bool.not_eq_true, Option.isSome_eq_false_iff, Option.isNone_iff_eq_none] using hframes
  grind [opStereoGrab]

/-! ### STEREO_STORED (R191-R194) -/

/-- A pipe chosen for stored frames is live, and would be chosen by its own number. -/
theorem storedPipe_self {sel pipe : Nat} (hsel : sel ≤ 1 ∨ sel = 0xFF) (h : d.storedPipe sel = some pipe) : d.storedPipe pipe = some pipe := by
  have hpipe : pipe ≤ 1 ∧ ((d.vp pipe).st = .home ∨ (d.vp pipe).st = .hosting) := by grind [Dev.storedPipe]
  obtain ⟨hlt, hlive⟩ := hpipe
  have hnum : pipe ≠ 0xFF := by omega
  obtain hlive | hlive := hlive <;> simp [Dev.storedPipe, hnum, hlive]

/-- A job with room on its pipe starts there. -/
theorem storedStart_of_room {j : StoredJob} (hpipe : d.storedPipe j.pipe = some j.pipe) (hroom : j.need ≤ d.freeLines j.pipe) :
    storedStart j d = { j with due := some (d.now + d.storedTime j j.pipe) } := by
  simp [storedStart, hpipe, Nat.not_lt.2 hroom]

/-- A camera whose frames the part stores. -/
def Dev.storesFrames (d : Dev) (s : Nat) : Prop := d.kind s = 1 ∧ d.se s 3 1 = 0

/-- The body of a STEREO_STORED is in range. -/
def storedOk (c : OpCtx) (d : Dev) : Prop :=
  d.storesFrames (c.d.u8 24) ∧ d.storesFrames (c.d.u8 25) ∧ c.d.u8 24 ≠ c.d.u8 25 ∧ d.vW (c.d.u8 25) = d.vW (c.d.u8 24)
  ∧ d.vH (c.d.u8 25) = d.vH (c.d.u8 24) ∧ (c.d.u8 26 = 4 ∨ c.d.u8 26 = 8) ∧ c.d.u8 27 ≤ 4 ∧ 1 ≤ c.d.u8 28 ∧ c.d.u8 28 ≤ 63 ∧ c.d.u8 28 ≤ c.d.u8 29
  ∧ c.d.u8 30 ≤ 50 ∧ c.d.u8 44 ≤ 7 ∧ 1 ≤ c.d.f 46 2 ∧ c.d.f 46 2 ≤ 1000 ∧ 16 ≤ c.d.f 48 2 ∧ c.d.f 48 2 ≤ 256 ∧ c.d.f 48 2 % 16 = 0
  ∧ (c.d.u8 45 ≤ 1 ∨ c.d.u8 45 = 0xFF) ∧ 4 * d.vW (c.d.u8 24) * d.vH (c.d.u8 24) ≤ c.d.f 40 4

/-- The line buffer that a STEREO_STORED needs. -/
def storedNeed (c : OpCtx) (d : Dev) : Nat := up4k (d.vW (c.d.u8 24) * (2 * c.d.f 48 2 + if c.d.u8 26 = 8 then 480 else 240))

/-- The job of a STEREO_STORED on a pipe, before it starts. -/
def storedJob (pipe : Nat) (a b : StoredFrame) (c : OpCtx) (d : Dev) : StoredJob :=
  let tbl (s : Nat) := (d.vision.tables.find? fun t => t.1 == s).map (·.2)
  { tok := c.tok, pipe := pipe, w := d.vW (c.d.u8 24), h := d.vH (c.d.u8 24), frameL := a, frameR := b, eight := c.d.u8 26 == 8
    depth := c.d.u8 27, params := { p1 := c.d.u8 28, p2 := c.d.u8 29, uniq := c.d.u8 30, tex := c.d.u8 31, lrTol := c.d.u8 44 }
    tblL := tbl (c.d.u8 24), tblR := tbl (c.d.u8 25), need := storedNeed c d }

/-- A well-formed STEREO_STORED with both frames stored and room on its pipe puts its job there. -/
theorem opStereoStored_starts {pipe : Nat} {a b : StoredFrame} {more : List StoredFrame} (hbody : storedOk c d)
    (hpipe : d.storedPipe (c.d.u8 45) = some pipe) (hl : (d.sensor (c.d.u8 24)).stored = a :: more)
    (hr : (d.sensor (c.d.u8 25)).stored.find? (fun x => decide (((x.first : Int) - a.first).natAbs ≤ c.d.f 46 2 * 1000 * 65536)) = some b)
    (hroom : storedNeed c d ≤ d.freeLines pipe) :
    opStereoStored c d = ({ d with vision := { d.vision with
      jobs := d.vision.jobs ++ [{ storedJob pipe a b c d with due := some (d.now + d.storedTime (storedJob pipe a b c d) pipe) }] } }, .later) := by
  obtain ⟨⟨hkl, hml⟩, ⟨hkr, hmr⟩, hne, hw, hh, hn, hdepth, hp1, hp1', hp2, huniq, htol, hsync, hsync', hrl, hrl', hmod, hsel, hdest⟩ := hbody
  have hstart := storedStart_of_room (j := storedJob pipe a b c d) (storedPipe_self hsel hpipe) hroom
  unfold opStereoStored
  rw [if_neg (by simp [hkl, hml, hkr, hmr, hne, hw, hh]; omega)]
  simp only [hpipe, hl, hr]
  exact (if_neg (Nat.not_lt.2 hroom)).trans
    (congrArg (fun j => ({ d with vision := { d.vision with jobs := d.vision.jobs ++ [j] } }, OpResult.later)) hstart)

/-- The planes of a job: disparity, confidence and flags of each pixel. -/
def StoredJob.planes (j : StoredJob) (d : Dev) : List (List (Nat × Nat × Nat)) :=
  stereo j.eight j.depth j.params (rectify (d.storedImage j.w j.h j.frameL) j.tblL) (rectify (d.storedImage j.w j.h j.frameR) j.tblR)

/-- What a job's descriptor completes with. -/
def StoredJob.result (j : StoredJob) (p : Pend) (d : Dev) : Cpl :=
  { (Cpl.ok j.frameL.tov (validOf (j.planes d))) with
    dest := some (p.d.f 32 8), payload := (planesOf (j.planes d)).1 ++ (planesOf (j.planes d)).2.1 ++ (planesOf (j.planes d)).2.2 }

/-- The only job leaves the pipe and completes. -/
theorem storedDone_only {j : StoredJob} {p : Pend} (hjobs : d.vision.jobs = [j]) (hpend : d.pendOf j.tok = some p) :
    storedDone j d = finish j.tok (j.result p d) { d with vision := { d.vision with jobs := [] } } := by
  have hleft : (d.vision.jobs.filter fun x => x.tok != j.tok) = [] := by simp [hjobs]
  have hpend' : ({ d with vision := { d.vision with jobs := [] } } : Dev).pendOf j.tok = some p := hpend
  unfold storedDone
  rw [hleft]
  simp only [hpend']
  rfl

/-- A pipe that nothing asks to move stays. -/
theorem moveCheck_still {p : Nat} (h : (d.vp p).moving = []) : moveCheck p d = d := by
  simp [moveCheck, h]

/-- A completion is no matter of the stereo pipes. -/
@[simp] theorem finish_vision (t : Tok) (k : Cpl) (d : Dev) : (finish t k d).vision = d.vision := by
  simp [finish]

/-- The only job ends as its time comes. -/
theorem storedStep_due {j : StoredJob} {p : Pend} {due : Nat} (hjobs : d.vision.jobs = [j]) (hdue : j.due = some due) (hnow : due ≤ d.now)
    (hpend : d.pendOf j.tok = some p) (hstill : (d.vp j.pipe).moving = []) :
    storedStep d = finish j.tok (j.result p d) { d with vision := { d.vision with jobs := [] } } := by
  have hv := finish_vision j.tok (j.result p d) { d with vision := { d.vision with jobs := [] } }
  have hmove : ((finish j.tok (j.result p d) { d with vision := { d.vision with jobs := [] } }).vp j.pipe).moving = [] := by
    rw [Dev.vp, hv]; exact hstill
  simp only [storedStep, hjobs, List.filter_cons, hdue, hnow, decide_true, if_true, List.filter_nil, List.foldl_cons, List.foldl_nil,
    storedDone_only hjobs hpend, moveCheck_still hmove, hv]

/-- Settles O32: each opcode of the pipes, and a stored pair at its start and at its end. -/
theorem stereoOpcodesComplete : Obligations.StereoOpcodesComplete :=
  ⟨⟨runs_opFn opRectLoad rfl (fun _ _ _ _ => rfl) rfl fun _ _ ⟨hkind, hlen⟩ => opRectLoad_removes hkind hlen,
      runs_opFn opRectLoad rfl (fun _ _ _ _ => rfl) rfl fun _ _ ⟨hkind, hlen, hsize, hreach, hroom⟩ =>
        opRectLoad_keeps hkind hlen hsize hreach hroom⟩,
    runs_opFn opVpParams rfl (fun _ _ _ _ => rfl) rfl fun _ _ ⟨hrouted, hrole, hlo, hhi, hp2, huniq, htol, hon⟩ =>
      opVpParams_inRange hrouted hrole ⟨hlo, hhi⟩ hp2 huniq htol hon,
    starts_opFn opVpMove rfl (fun _ _ _ _ => rfl) rfl rfl fun _ _ ⟨hp, hback, hst, hother⟩ => opVpMove_away hp hback hst hother,
    runs_opFn opVpMove rfl (fun _ _ _ _ => rfl) rfl fun _ _ ⟨hp, hback, hst, hother⟩ => opVpMove_back hp hback hst hother,
    starts_opFn opStereoGrab rfl (fun _ _ _ _ => rfl) rfl rfl fun _ _ ⟨howns, hroom, hon, hring, hframes⟩ =>
      opStereoGrab_free howns hroom hon hring hframes,
    fun _ _ _ _ => starts_opFn opStereoStored rfl (fun _ _ _ _ => rfl) rfl rfl fun _ _
      ⟨hl, hr, hne, hw, hh, hn, hdepth, hp1, hp1', hp2, huniq, htol, hsync, hsync', hrl, hrl', hmod, hsel, hdest, hpipe, hfl, hfr, hroom⟩ =>
        opStereoStored_starts ⟨hl, hr, hne, hw, hh, hn, hdepth, hp1, hp1', hp2, huniq, htol, hsync, hsync', hrl, hrl', hmod, hsel, hdest⟩
          hpipe hfl hfr hroom,
    fun _ _ _ _ hjobs hdue hnow hpend hstill => storedStep_due hjobs hdue hnow hpend hstill⟩

end

end Sys2Proof.Machine
end

section
/-! PROOF. The opcodes of the models: what the function of each gives where its checks pass. -/

namespace Sys2Proof.Machine

section
variable {c : OpCtx} {d : Dev}

theorem beq_one_of_eq_bit {n : Nat} {b : Bool} (h : n = bit b) : (n == 1) = b := by
  cases b <;> simp [h, bit]

/-! ### MODEL_INSTALL (R260-R262) -/

/-- The body of a MODEL_INSTALL is in range: the slot, the flags FIRST and FINAL, the chunk's length. -/
def installOk (c : OpCtx) (first final : Bool) : Prop :=
  c.d.u8 24 ≤ 15 ∧ c.d.u8 25 ≤ 7 ∧ c.d.u8 25 % 2 = bit first ∧ c.d.u8 25 / 2 % 2 = bit final ∧ 1 ≤ c.d.f 28 4 ∧ c.d.f 28 4 ≤ 67108864
  ∧ (final = false → c.d.f 28 4 % 4096 = 0)

/-- The tier that a package whose first chunk this is will stand in. -/
def installSlow (c : OpCtx) (d : Dev) : Bool := d.slowOn && c.d.u8 25 / 4 % 2 == 0

/-- The bytes it needs there: a mirrored copy in the slow tier. -/
def installNeed (c : OpCtx) (d : Dev) : Nat := if installSlow c d then 2 * ((c.d.f 44 4 + 4095) / 4096 * 4096) else c.d.f 44 4

/-- The slot as the first chunk leaves it. -/
def Slot.begun (c : OpCtx) (slow : Bool) (chunk : Bytes) (x : Slot) : Slot :=
  { x with prior := if x.st == .installing then x.prior else x.st, st := .installing, chunks := chunk, total := c.d.f 44 4, slow := slow }

/-- A chunk in range of a slot that may take it, FIRST or the one that is due, where the package fits: it is kept, and FINAL ends the package. -/
theorem opModelInstall_chunk {first final : Bool} {left : Dev} {slow : Bool} (hok : installOk c first final)
    (hst : (d.slot (c.d.u8 24)).st ≠ .loading ∧ (d.slot (c.d.u8 24)).st ≠ .loaded ∧ (d.slot (c.d.u8 24)).st ≠ .unloading)
    (hdue : if first then c.d.f 40 4 = 0 else c.d.f 44 4 = 0 ∧ (d.slot (c.d.u8 24)).st = .installing ∧ c.d.f 40 4 = (d.slot (c.d.u8 24)).chunks.length)
    (hslow : (if first then installSlow c d else (d.slot (c.d.u8 24)).slow) = slow)
    (hleft : (if first && (d.slot (c.d.u8 24)).st == .disabled then dropPackage (c.d.u8 24) d else d) = left)
    (hroom : first = true → installNeed c d ≤ left.homeFree (c.d.u8 24) slow) :
    opModelInstall c d = (
      let b := c.input d 32 (c.d.f 28 4)
      let d := if first then left.setSlot (c.d.u8 24) (Slot.begun c slow b) else left.setSlot (c.d.u8 24) fun x => { x with chunks := x.chunks ++ b }
      if !final then opDone d .ok else
      let x := d.slot (c.d.u8 24)
      let back (st : SlotSt) (d : Dev) : Dev := slotState (c.d.u8 24) st 0 (d.setSlot (c.d.u8 24) fun x => { x with chunks := [], total := 0 })
      match installFault x.chunks x.total d.feat d.freeVal with
      | some (code, status, o) =>
        opDone (back x.prior d.useFree) (if status == stVersion then .of stVersion
          else { Cpl.bad with result0 := BitVec.ofNat 64 o, result1 := BitVec.ofNat 32 code })
      | none => opDone (back .installed (putPackage (c.d.u8 24) x.chunks x.slow d.useFree)) (.ok x.chunks.length)) := by
  obtain ⟨hs, hfl, hfirst, hfinal, hlen, hlen', hwhole⟩ := hok
  have hfirst' := beq_one_of_eq_bit hfirst
  have hfinal' := beq_one_of_eq_bit hfinal
  obtain ⟨h1, h2, h3⟩ := hst
  have hlen0 : c.d.f 28 4 ≠ 0 := by omega
  unfold opModelInstall
  simp only [hfirst', hfinal']
  rw [if_neg (by cases first <;> simp_all), if_neg (by simp [h1, h2, h3]), if_neg (by cases first <;> simp_all),
    if_neg (by cases first <;> cases final <;> simp_all)]
  subst hslow hleft
  cases first
  case false => rfl
  case true => exact if_neg fun h => Nat.not_lt.2 (hroom rfl) (of_decide_eq_true h)

/-- The first chunk of several, of a slot whose package stays until the new one is whole. -/
theorem opModelInstall_begins (hok : installOk c true false) (hoff : c.d.f 40 4 = 0)
    (hst : (d.slot (c.d.u8 24)).st = .empty ∨ (d.slot (c.d.u8 24)).st = .installed ∨ (d.slot (c.d.u8 24)).st = .installing)
    (hroom : installNeed c d ≤ d.homeFree (c.d.u8 24) (installSlow c d)) :
    opModelInstall c d = opDone (d.setSlot (c.d.u8 24) (Slot.begun c (installSlow c d) (c.input d 32 (c.d.f 28 4)))) .ok := by
  refine opModelInstall_chunk (left := d) hok ?_ hoff rfl ?_ fun _ => hroom
  all_goals obtain h | h | h := hst <;> simp [h]

/-- The first chunk of several, of a DISABLED slot, whose package goes. -/
theorem opModelInstall_begins_disabled (hok : installOk c true false) (hoff : c.d.f 40 4 = 0) (hst : (d.slot (c.d.u8 24)).st = .disabled)
    (hroom : installNeed c d ≤ (dropPackage (c.d.u8 24) d).homeFree (c.d.u8 24) (installSlow c d)) :
    opModelInstall c d
      = opDone ((dropPackage (c.d.u8 24) d).setSlot (c.d.u8 24) (Slot.begun c (installSlow c d) (c.input d 32 (c.d.f 28 4)))) .ok :=
  opModelInstall_chunk hok (by simp [hst]) hoff rfl (by simp [hst]) fun _ => hroom

/-- A chunk that is due and not the last. -/
theorem opModelInstall_goes_on (hok : installOk c false false) (htotal : c.d.f 44 4 = 0) (hst : (d.slot (c.d.u8 24)).st = .installing)
    (hoff : c.d.f 40 4 = (d.slot (c.d.u8 24)).chunks.length) :
    opModelInstall c d = opDone (d.setSlot (c.d.u8 24) fun x => { x with chunks := x.chunks ++ c.input d 32 (c.d.f 28 4) }) .ok :=
  opModelInstall_chunk hok (by simp [hst]) ⟨htotal, hst, hoff⟩ rfl rfl nofun

/-- The whole package in one chunk, and well. -/
theorem opModelInstall_whole (hok : installOk c true true) (hoff : c.d.f 40 4 = 0)
    (hst : (d.slot (c.d.u8 24)).st = .installed ∨ (d.slot (c.d.u8 24)).st = .installing)
    (hroom : installNeed c d ≤ d.homeFree (c.d.u8 24) (installSlow c d))
    (hgood : installFault (c.input d 32 (c.d.f 28 4)) (c.d.f 44 4) d.feat d.freeVal = none) :
    opModelInstall c d = opDone (
      let b := c.input d 32 (c.d.f 28 4)
      slotState (c.d.u8 24) .installed 0
        ((putPackage (c.d.u8 24) b (installSlow c d) (d.setSlot (c.d.u8 24) (Slot.begun c (installSlow c d) b)).useFree).setSlot (c.d.u8 24)
          fun x => { x with chunks := [], total := 0 })) (.ok (c.input d 32 (c.d.f 28 4)).length) := by
  have hslot := Dev.setSlot_slot (Slot.begun c (installSlow c d) (c.input d 32 (c.d.f 28 4)))
    (Dev.slot_lt (by obtain h | h := hst <;> simp [h] : (d.slot (c.d.u8 24)).st ≠ .empty))
  have hchunk := opModelInstall_chunk (left := d) hok (by obtain h | h := hst <;> simp [h]) hoff rfl (by obtain h | h := hst <;> simp [h])
    fun _ => hroom
  rw [hchunk]
  simp only [Bool.not_true, Bool.false_eq_true, if_false, if_true, hslot, Slot.begun]
  have hgood' : installFault (c.input d 32 (c.d.f 28 4)) (c.d.f 44 4)
    (d.setSlot (c.d.u8 24) (Slot.begun c (installSlow c d) (c.input d 32 (c.d.f 28 4)))).feat
    (d.setSlot (c.d.u8 24) (Slot.begun c (installSlow c d) (c.input d 32 (c.d.f 28 4)))).freeVal = none := hgood
  rw [hgood']

/-- The last chunk, and the package is well. -/
theorem opModelInstall_ends (hok : installOk c false true) (htotal : c.d.f 44 4 = 0) (hst : (d.slot (c.d.u8 24)).st = .installing)
    (hoff : c.d.f 40 4 = (d.slot (c.d.u8 24)).chunks.length)
    (hgood : installFault ((d.slot (c.d.u8 24)).chunks ++ c.input d 32 (c.d.f 28 4)) (d.slot (c.d.u8 24)).total d.feat d.freeVal = none) :
    opModelInstall c d = opDone (
      let next := (d.slot (c.d.u8 24)).chunks ++ c.input d 32 (c.d.f 28 4)
      slotState (c.d.u8 24) .installed 0
        ((putPackage (c.d.u8 24) next (d.slot (c.d.u8 24)).slow
          (d.setSlot (c.d.u8 24) fun x => { x with chunks := x.chunks ++ c.input d 32 (c.d.f 28 4) }).useFree).setSlot (c.d.u8 24)
          fun x => { x with chunks := [], total := 0 })) (.ok ((d.slot (c.d.u8 24)).chunks ++ c.input d 32 (c.d.f 28 4)).length) := by
  have hslot := Dev.setSlot_slot (fun x => { x with chunks := x.chunks ++ c.input d 32 (c.d.f 28 4) })
    (Dev.slot_lt (by simp [hst] : (d.slot (c.d.u8 24)).st ≠ .empty))
  have hgood' : installFault ((d.slot (c.d.u8 24)).chunks ++ c.input d 32 (c.d.f 28 4)) (d.slot (c.d.u8 24)).total
    (d.setSlot (c.d.u8 24) fun x => { x with chunks := x.chunks ++ c.input d 32 (c.d.f 28 4) }).feat
    (d.setSlot (c.d.u8 24) fun x => { x with chunks := x.chunks ++ c.input d 32 (c.d.f 28 4) }).freeVal = none := hgood
  rw [opModelInstall_chunk (left := d) hok (by simp [hst]) ⟨htotal, hst, hoff⟩ rfl rfl nofun]
  simp only [Bool.not_true, Bool.false_eq_true, if_false, hslot, hgood']

/-! ### Slots removed, loaded and unloaded (R264-R277) -/

theorem opModelRemove_installed (hs : c.d.u8 24 ≤ 15) (hst : (d.slot (c.d.u8 24)).st = .installed) :
    opModelRemove c d = opDone (slotState (c.d.u8 24) .empty 0 ((dropPackage (c.d.u8 24) d).setSlot (c.d.u8 24) fun x =>
      { x with chunks := [], total := 0, prior := .empty })) .ok := by
  simp [opModelRemove, Nat.not_lt.2 hs, hst]

/-- The clusters that a load names, all that the profile enables where it names none. -/
def loadMask (c : OpCtx) (d : Dev) : Nat := if c.d.u8 25 = 0 then d.clusterEn else c.d.u8 25

/-- The slot's state and the part as a load with its plan leaves them. -/
def loadBegun (q : LoadPlan) (flags : Nat) (c : OpCtx) (d : Dev) : Dev :=
  let s := c.d.u8 24
  let p := d.pkg s
  let mask := loadMask c d
  let waves := (List.range 6).map fun k => if mask.testBit k then d.waveSize p k q else 0
  let f := loadSet s p q.mode (if fld p 56 1 = 0 then 0 else units (fld p 29 1 * fld p 52 4))
    (loadRoles s mask q ((d.stateCluster mask q).getD 0) d)
  slotState s .loading 0 (f.setSlot s fun x => { x with
    filled := false, mask := mask, mode := q.mode, step := q.step, flags := flags, wave := waves
    area := (List.range 6).map fun k => if mask.testBit k then q.window + waves.getD k 0 * q.act else 0
    loadTok := some c.tok, loadDest := c.d.f 32 8, report := loadReport d s .loaded p mask q flags 0 waves
    stateEngines := q.states, committed := 0
    insts := (List.range (fld p 29 1)).map fun i => { state := initialState p i }, reqs := [], fetched := [], win := [] })

/-- An INSTALLED package whose plan fits is loaded. -/
theorem opModelLoad_fits {q : LoadPlan} {flags : Nat} (hs : c.d.u8 24 ≤ 15) (hm : c.d.u8 25 ≤ 63) (hflags : c.d.u8 26 ≤ 1)
    (hmask : loadMask c d ≠ 0) (hen : loadMask c d &&& d.clusterEn = loadMask c d) (hst : (d.slot (c.d.u8 24)).st = .installed)
    (hplan : d.choosePlan (d.pkg (c.d.u8 24)) (loadMask c d) (d.pf 23 1) (c.d.u8 26 == 1) = (q, flags))
    (hroom : d.loadShort (loadMask c d) q = 0) (hhome : d.homeShort (c.d.u8 24) = 0) :
    opModelLoad c d = (loadBegun q flags c d, .later) := by
  unfold opModelLoad
  unfold loadMask at hmask hen hplan hroom
  rw [if_neg (by simp [Nat.not_lt.2 hs, Nat.not_lt.2 hm, Nat.not_lt.2 hflags, hmask]), if_neg (by simp [hen])]
  simp only [hst, hplan, hroom, hhome]
  rfl

theorem opModelUnload_loaded (hs : c.d.u8 24 ≤ 15) (hst : (d.slot (c.d.u8 24)).st = .loaded) (hbound : d.bound (c.d.u8 24) = false)
    (hfused : d.fusedOn (c.d.u8 24) = false) :
    opModelUnload c d = (unloadCheck (c.d.u8 24) (slotState (c.d.u8 24) .unloading 0 (d.setSlot (c.d.u8 24) fun x =>
      { x with unload := some (d.seqOf c.tok, c.tok) })), .later) := by
  simp [opModelUnload, Nat.not_lt.2 hs, hst, hbound, hfused]

theorem opModelQuery_slot (hs : c.d.u8 24 ≤ 15) :
    opModelQuery c d = opDone d (
      let x := d.slot (c.d.u8 24)
      c.optOutput 32 (padTo 256 x.report)
        (.ok (x.st.code % 256 + atBit 8 x.step + atBit 16 x.mode + atBit 24 x.mask + atBit 32 x.committed.toNat)
          (d.pk (c.d.u8 24) 8 8 % 2 ^ 32))) :=
  if_neg (Nat.not_lt.2 hs)

/-! ### Instances, slots bound to rings (R280, R293, R294) -/

theorem opStateReset_loaded (hs : c.d.u8 24 ≤ 15) (hst : (d.slot (c.d.u8 24)).st = .loaded) (hfused : d.fusedOn (c.d.u8 24) = false)
    (hinst : c.d.u8 25 = 255 ∨ c.d.u8 25 < (d.slot (c.d.u8 24)).insts.length) :
    opStateReset c d = (resetCheck (c.d.u8 24) (d.setSlot (c.d.u8 24) fun x =>
      { x with resets := x.resets ++ [(d.seqOf c.tok, c.tok, c.d.u8 25)] }), .later) := by
  have hnamed : ¬ (c.d.u8 25 ≠ 255 ∧ (d.slot (c.d.u8 24)).insts.length ≤ c.d.u8 25) := by omega
  simp only [opStateReset, hst, hfused, if_neg (Nat.not_lt.2 hs)]
  rw [if_neg (by simp), if_neg (by simp), if_neg (by simpa using hnamed)]

theorem opModelBind_free (hs : c.d.u8 24 ≤ 15) (hb : c.d.u8 25 ≤ 15) (howns : d.ownsRing (c.d.u8 26) = true)
    (hst : (d.slot (c.d.u8 24)).st = .loaded) (hfused : d.fusedOn (c.d.u8 24) = false)
    (hbad : d.bindBad (c.d.u8 24) (c.d.u8 26) (c.d.f 28 2) (c.d.u8 30) (c.d.f 32 4) = false)
    (hfree : ∀ b ∈ d.neural.binds, b.id ≠ c.d.u8 25 ∧ b.sensor ≠ c.d.u8 26) :
    opModelBind c d = opDone { d with neural := { d.neural with binds := d.neural.binds ++ [{
      id := c.d.u8 25, slot := c.d.u8 24, sensor := c.d.u8 26, outFlag := c.d.f 28 2, outSlots := c.d.u8 30, outBase := c.d.f 32 4
      pos := (d.ring (c.d.u8 26)).bandCount }] } } (.ok (d.bindStride (c.d.u8 24))) := by
  have hany : (d.neural.binds.any fun x => x.id == c.d.u8 25 || x.sensor == c.d.u8 26) = false := by
    simpa [List.any_eq_false] using hfree
  simp [opModelBind, Nat.not_lt.2 hs, Nat.not_lt.2 hb, howns, hst, hfused, hbad, hany]

theorem opModelUnbind_bound {x : Binding} (hb : c.d.u8 24 ≤ 15) (hbind : d.bind (c.d.u8 24) = some x) (hend : x.ending = none) :
    opModelUnbind c d = (bindEndCheck (c.d.u8 24) (d.setBind (c.d.u8 24) fun x => { x with ending := some (some c.tok) }), .later) := by
  simp [opModelUnbind, Nat.not_lt.2 hb, hbind, hend]

/-! ### INFER (R279, R280) -/

/-- The request of an INFER. -/
def inferReq (c : OpCtx) (d : Dev) (inst : Option Nat) (claimed : Bool) : InferReq :=
  { tok := c.tok, seq := d.seqOf c.tok, inst := inst, fleet := c.d.u8 25 / 16 % 2 == 1, release := c.d.u8 25 / 8 % 2 == 1, claimed := claimed
    watch := if c.d.f 26 2 / 2 ^ 15 = 1 then some { flag := c.d.f 26 2 % 4096, mask := c.d.f 28 4, value := c.d.f 56 4 } else none }

section
variable (hst : (d.slot (c.d.u8 24)).st = .loaded) (hbad : d.inferBad c = false)
include hst hbad

theorem opInfer_stateless (hfl : c.d.u8 25 / 4 % 2 = 0) :
    opInfer c d = (d.setSlot (c.d.u8 24) fun x => { x with reqs := x.reqs ++ [inferReq c d none true] }, .later) := by
  simp [opInfer, hst, hbad, hfl, inferReq]

/-- An instance that nobody else has claimed. -/
theorem opInfer_claims (hfl : c.d.u8 25 / 4 % 2 = 1) (hahead : d.resetAhead (c.d.u8 24) (c.d.u8 60) (d.seqOf c.tok) = false)
    (hfree : d.claimBusy (c.d.u8 24) (c.d.u8 60) c.ch = false) :
    opInfer c d = (d.setSlot (c.d.u8 24) fun x => { x with
      insts := upd x.insts (c.d.u8 60) fun q => { q with claim := some c.ch }
      reqs := x.reqs ++ [inferReq c d (some (c.d.u8 60)) true] }, .later) := by
  simp [opInfer, hst, hbad, hfl, hahead, hfree, inferReq, Slot.claim]

/-- An instance that a STATE_RESET ahead of it will reset: unclaimed until then. -/
theorem opInfer_behind_reset (hfl : c.d.u8 25 / 4 % 2 = 1) (hahead : d.resetAhead (c.d.u8 24) (c.d.u8 60) (d.seqOf c.tok) = true) :
    opInfer c d = (d.setSlot (c.d.u8 24) fun x => { x with reqs := x.reqs ++ [inferReq c d (some (c.d.u8 60)) false] }, .later) := by
  simp [opInfer, hst, hbad, hfl, hahead, inferReq]

end

/-- A descriptor that runs is found by its count. -/
theorem seqOf_begun {ch : Chan} {op : Op} {x : Desc} (hc : d.HasChan ch) (hl : x.launchAt = 0) (hp : (d.chan ch).pend = []) :
    (d.begun ch op x).seqOf { ch := ch, count := (d.chan ch).nextCount } = d.hif.fetches := by
  have hpend : ((d.begun ch op x).chan ch).pend = [d.fetched ch op x .running] := (addPend_chan hc hl hp).1
  simp [Dev.seqOf, Dev.pendOf, hpend, Dev.fetched]

/-- The part with INFERs entered in a slot's books. -/
def Dev.entered (d : Dev) (s : Nat) (l : List (Nat × Tok)) : Dev := d.setSlot s fun x => { x with fetched := x.fetched ++ l }

@[simp] theorem Dev.entered_resetAhead (d : Dev) (s : Nat) (l : List (Nat × Tok)) (k i n : Nat) : (d.entered s l).resetAhead k i n = d.resetAhead k i n := rfl
@[simp] theorem Dev.entered_seqOf (d : Dev) (s : Nat) (l : List (Nat × Tok)) (t : Tok) : (d.entered s l).seqOf t = d.seqOf t := rfl
@[simp] theorem Dev.entered_fusedOn (d : Dev) (s : Nat) (l : List (Nat × Tok)) (k : Nat) : (d.entered s l).fusedOn k = d.fusedOn k := rfl
@[simp] theorem Dev.entered_inferBad (d : Dev) (s : Nat) (l : List (Nat × Tok)) (c : OpCtx) : (d.entered s l).inferBad c = d.inferBad c := rfl

theorem Dev.entered_slot {d : Dev} {s : Nat} (l : List (Nat × Tok)) (h : (d.slot s).st = .loaded) :
    (d.entered s l).slot s = { d.slot s with fetched := (d.slot s).fetched ++ l } :=
  Dev.setSlot_slot _ (Dev.slot_lt (by rw [h]; decide))

/-- The condition that all three forms of INFER share. -/
def inferOk (c : OpCtx) (d : Dev) : Prop := c.d.u8 24 ≤ 15 ∧ (d.slot (c.d.u8 24)).st = .loaded ∧ d.inferBad c = false

section
variable (l : List (Nat × Tok)) (hok : inferOk c d)
include hok

theorem entered_ok : ((d.entered (c.d.u8 24) l).slot (c.d.u8 24)).st = .loaded ∧ (d.entered (c.d.u8 24) l).inferBad c = false := by
  obtain ⟨_, hst, hbad⟩ := hok
  exact ⟨by rw [Dev.entered_slot l hst]; exact hst, hbad⟩

theorem entered_claimBusy {i : Nat} {ch : Chan} (hfused : d.fusedOn (c.d.u8 24) = false)
    (hfree : ((d.slot (c.d.u8 24)).insts.getD i {}).claim = none ∨ ((d.slot (c.d.u8 24)).insts.getD i {}).claim = some ch) :
    (d.entered (c.d.u8 24) l).claimBusy (c.d.u8 24) i ch = false := by
  obtain ⟨_, hst, _⟩ := hok
  simp only [Dev.claimBusy, Dev.entered_slot l hst, Dev.entered_fusedOn, hfused]
  obtain h | h := hfree <;> rw [h] <;> simp

end

/-- An INFER of a LOADED slot begins as its function says of the part with its entry made. -/
theorem starts_infer {P : OpCtx → Dev → Prop} (f : OpCtx → Dev → Slot → Slot)
    (h : ∀ c e l, inferOk c e → P c e →
      opInfer c (e.entered (c.d.u8 24) l) = ((e.entered (c.d.u8 24) l).setSlot (c.d.u8 24) (f c e), .later)) :
    Starts .infer .infer (fun c e => inferOk c e ∧ P c e) fun c e => e.setSlot (c.d.u8 24) fun x =>
      f c e { x with fetched := x.fetched ++ [(e.seqOf c.tok, c.tok)] } := by
  intro s t d ch x hd hacc ⟨hok, hcan⟩
  obtain ⟨hs, hst, _⟩ := id hok
  have hseq : (d.begun ch .infer x).seqOf (s.opCtx d ch x).tok = d.hif.fetches :=
    seqOf_begun (canFetch_hasChan hacc.1) hacc.2.2.1 hacc.2.2.2.2.2.1
  have hst' : (d.slot (x.u8 24)).st = .loaded := by rw [← hst]; cases ch <;> rfl
  have hrun := h _ _ [(d.hif.fetches, (s.opCtx d ch x).tok)] hok hcan
  rw [← hseq, Dev.entered, Dev.setSlot_setSlot] at hrun
  refine exec_infer hd hacc hs hst' ?_
  rw [← hrun, hseq]
  rfl

theorem infer_stateless :
    Starts .infer .infer (fun c e => inferOk c e ∧ c.d.u8 25 / 4 % 2 = 0) fun c e => e.setSlot (c.d.u8 24) fun x => { x with
      fetched := x.fetched ++ [(e.seqOf c.tok, c.tok)], reqs := x.reqs ++ [inferReq c e none true] } :=
  starts_infer (fun c e x => { x with reqs := x.reqs ++ [inferReq c e none true] }) fun _ _ l hok hfl =>
    opInfer_stateless (entered_ok l hok).1 (entered_ok l hok).2 hfl

theorem infer_claims :
    Starts .infer .infer (fun c e => inferOk c e ∧ c.d.u8 25 / 4 % 2 = 1 ∧ e.resetAhead (c.d.u8 24) (c.d.u8 60) (e.seqOf c.tok) = false
        ∧ e.fusedOn (c.d.u8 24) = false
        ∧ (((e.slot (c.d.u8 24)).insts.getD (c.d.u8 60) {}).claim = none
          ∨ ((e.slot (c.d.u8 24)).insts.getD (c.d.u8 60) {}).claim = some c.ch)) fun c e => e.setSlot (c.d.u8 24) fun x => { x with
      fetched := x.fetched ++ [(e.seqOf c.tok, c.tok)], insts := upd x.insts (c.d.u8 60) fun q => { q with claim := some c.ch }
      reqs := x.reqs ++ [inferReq c e (some (c.d.u8 60)) true] } :=
  starts_infer (fun c e x => { x with
      insts := upd x.insts (c.d.u8 60) fun q => { q with claim := some c.ch }, reqs := x.reqs ++ [inferReq c e (some (c.d.u8 60)) true] })
    fun _ _ l hok ⟨hfl, hahead, hfused, hfree⟩ =>
      opInfer_claims (entered_ok l hok).1 (entered_ok l hok).2 hfl hahead (entered_claimBusy l hok hfused hfree)

theorem infer_behind_reset :
    Starts .infer .infer (fun c e => inferOk c e ∧ c.d.u8 25 / 4 % 2 = 1 ∧ e.resetAhead (c.d.u8 24) (c.d.u8 60) (e.seqOf c.tok) = true)
      fun c e => e.setSlot (c.d.u8 24) fun x => { x with
        fetched := x.fetched ++ [(e.seqOf c.tok, c.tok)], reqs := x.reqs ++ [inferReq c e (some (c.d.u8 60)) false] } :=
  starts_infer (fun c e x => { x with reqs := x.reqs ++ [inferReq c e (some (c.d.u8 60)) false] }) fun _ _ l hok ⟨hfl, hahead⟩ =>
    opInfer_behind_reset (entered_ok l hok).1 (entered_ok l hok).2 hfl hahead

/-- Settles O33: the chunks of a package, the slot's life, the three forms of INFER, and what is bound to a slot. -/
theorem neuralOpcodesComplete : Obligations.NeuralOpcodesComplete :=
  ⟨⟨runs_opFn opModelInstall rfl (fun _ _ _ _ => rfl) rfl fun _ _ ⟨hok, hoff, hst, hroom⟩ => opModelInstall_begins hok hoff hst hroom,
      runs_opFn opModelInstall rfl (fun _ _ _ _ => rfl) rfl fun _ _ ⟨hok, hoff, hst, hroom⟩ => opModelInstall_begins_disabled hok hoff hst hroom,
      runs_opFn opModelInstall rfl (fun _ _ _ _ => rfl) rfl fun _ _ ⟨hok, hoff, hst, hroom, hgood⟩ =>
        opModelInstall_whole hok hoff hst hroom hgood,
      runs_opFn opModelInstall rfl (fun _ _ _ _ => rfl) rfl fun _ _ ⟨hok, htotal, hst, hoff⟩ => opModelInstall_goes_on hok htotal hst hoff,
      runs_opFn opModelInstall rfl (fun _ _ _ _ => rfl) rfl fun _ _ ⟨hok, htotal, hst, hoff, hgood⟩ =>
        opModelInstall_ends hok htotal hst hoff hgood⟩,
    runs_opFn opModelRemove rfl (fun _ _ _ _ => rfl) rfl fun _ _ ⟨hs, hst⟩ => opModelRemove_installed hs hst,
    fun _ _ => starts_opFn opModelLoad rfl (fun _ _ _ _ => rfl) rfl rfl fun _ _ ⟨hs, hm, hflags, hmask, hen, hst, hplan, hroom, hhome⟩ =>
      opModelLoad_fits hs hm hflags hmask hen hst hplan hroom hhome,
    turns_opFn opModelUnload rfl (fun _ _ _ _ => rfl) rfl rfl fun _ _ ⟨hs, hst, hbound, hfused⟩ => opModelUnload_loaded hs hst hbound hfused,
    ⟨infer_stateless, infer_claims, infer_behind_reset⟩,
    runs_opFn opModelQuery rfl (fun _ _ _ _ => rfl) rfl fun _ _ hs => opModelQuery_slot hs,
    turns_opFn opStateReset rfl (fun _ _ _ _ => rfl) rfl rfl fun _ _ ⟨hs, hst, hfused, hinst⟩ => opStateReset_loaded hs hst hfused hinst,
    runs_opFn opModelBind rfl (fun _ _ _ _ => rfl) rfl fun _ _ ⟨hs, hb, howns, hst, hfused, hbad, hfree⟩ =>
      opModelBind_free hs hb howns hst hfused hbad hfree,
    fun _ => turns_opFn opModelUnbind rfl (fun _ _ _ _ => rfl) rfl rfl fun _ _ ⟨hb, hbind, hend⟩ => opModelUnbind_bound hb hbind hend⟩

end

end Sys2Proof.Machine
end

section
/-! PROOF. The opcodes of the solver: what the function of each gives where its checks pass. -/

namespace Sys2Proof.Machine

section
variable {c : OpCtx} {d : Dev}

/-! ### SOLVER_LOAD (R323-R343) -/

/-- The clusters that a SOLVER_LOAD names. -/
def namedClusters (c : OpCtx) (d : Dev) : Nat := if c.d.u8 25 = 0 then d.clusterEn else c.d.u8 25

/-- What a SOLVER_LOAD leaves whose problem reads well and fits. -/
def loadProblem (p : Problem) (c : OpCtx) (e : Dev) : Dev :=
  let s := c.d.u8 24
  let own := ((e.tier.allocs.find? fun a => a.1 == 0x1000 + s).map (·.2)).getD 0
  let r := solverReport p .ready none p.loadFlags none
  let f := (makeRoom (p.ipmBytes / 65536) 0xFFFFFFFF e).setAlloc (0x1000 + s) (own + p.ipmBytes / 65536)
  let f := (countLifts (firstCluster (namedClusters c e)) p.lifted.length f).setPs s fun x => { x with
    st := .loading, prior := (e.ps s).st, next := some (p, c.optOutput 48 r (loadCpl p none), c.tok, 0) }
  addWork (.load s) (firstCluster (namedClusters c e)) 1 (fun _ => none) [{ cycles := f.freeVal % 550000 + 1 }] f.useFree

theorem opSolverLoad_fits {p : Problem} (hs : c.d.u8 24 ≤ 31) (hm : c.d.u8 25 ≤ 63) (hen : namedClusters c d &&& d.clusterEn = namedClusters c d)
    (hst : (d.ps (c.d.u8 24)).st = .empty ∨ (d.ps (c.d.u8 24)).st = .ready)
    (hread : readProblem (c.input d 32 (c.d.f 40 4)) (namedClusters c d) d.freeVal = .ok (p, none)) (hroom : p.ipmBytes / 65536 ≤ d.ipmAvail) :
    opSolverLoad c d = (loadProblem p c d, .later) := by
  unfold opSolverLoad
  rw [if_neg (by simp [Nat.not_lt.2 hs, Nat.not_lt.2 hm]), if_neg (by simpa [namedClusters] using hen)]
  unfold namedClusters at hread
  obtain h | h := hst
  all_goals
    simp only [h, hread, if_neg (Nat.not_lt.2 hroom), loadProblem, namedClusters]

/-! ### SOLVE (R348-R353) -/

/-- The warm start that a SOLVE asks for: none, the retained result of a problem slot, or the records of host memory; `none` where those
records are not acceptable. -/
def solveSource (c : OpCtx) (d : Dev) (p : Problem) : Option (Option (List Warm × Bool)) :=
  if c.d.u8 25 / 2 % 2 == 1 then match (d.ps (c.d.u8 26)).retained with
    | some r => some (some (r.vals, r.sig != p.sig))
    | none => some (some ([], false))
  else if c.d.u8 25 / 4 % 2 == 1 then match warmRecords p (c.d.f 56 4 / 16 + 1) (c.input d 48 (c.d.f 56 4)) with
    | some l => if noRepeat (l.map (·.1)) then some (some (l, true)) else none
    | none => none
  else some none

/-- The flags of a SOLVE and the fields that go with them are in range: at most one source, and the fields of a source not named at 0. -/
def solveFlagsOk (c : OpCtx) : Prop :=
  c.d.u8 25 ≤ 5 ∧ (c.d.u8 25 / 2 % 2 = 1 → c.d.u8 26 ≤ 31) ∧ (c.d.u8 25 / 2 % 2 ≠ 1 → c.d.u8 26 = 0)
  ∧ (c.d.u8 25 / 4 % 2 ≠ 1 → c.d.f 48 8 = 0 ∧ c.d.f 56 4 = 0)

/-- The solution that a SOLVE begins. -/
def begunSolve (p : Problem) (src : Option (List Warm × Bool)) (c : OpCtx) : Solving :=
  let dest := match c.ch with
    | .sq _ => some (c.d.f 32 8)
    | _ => none
  beginSolve p c.tok dest (if c.d.u8 25 % 2 = 1 then 2 else 1) (c.d.u8 27) (c.d.f 28 2) src

theorem opSolve_ready {p : Problem} {src : Option (List Warm × Bool)} (hs : c.d.u8 24 ≤ 31) (hflags : solveFlagsOk c)
    (hsrc : solveSource c d p = some src) (htol : 1 ≤ c.d.u8 27) (htol' : c.d.u8 27 ≤ 30) (hiter : 1 ≤ c.d.f 28 2)
    (hst : (d.ps (c.d.u8 24)).st = .ready) (hprob : (d.ps (c.d.u8 24)).prob = some p) (hlen : p.resultLen ≤ c.d.f 40 4)
    (hgood : (d.ps (c.d.u8 24)).bad = false) (hroom : d.neverRoom p.mask = false) :
    opSolve c d = (solveAdmit (c.d.u8 24) (d.setPs (c.d.u8 24) fun x => { x with st := .solving, solving := some (begunSolve p src c) }), .later) := by
  obtain ⟨hfl, hslot, hnoslot, hnohost⟩ := hflags
  unfold solveSource at hsrc
  unfold opSolve
  rw [if_neg (by simp; grind)]
  simp only [hst, hprob, if_neg (Nat.not_lt.2 hlen), hgood]
  rw [if_neg (by decide)]
  erw [hsrc]
  exact if_neg (by simp [hroom])

section
variable {p : Problem}

theorem solveSource_cold (h : c.d.u8 25 ≤ 1) : solveSource c d p = some none := by
  have : c.d.u8 25 / 2 = 0 ∧ c.d.u8 25 / 4 = 0 := by omega
  simp [solveSource, this]

theorem solveSource_retained (h : c.d.u8 25 = 2 ∨ c.d.u8 25 = 3) :
    solveSource c d p = some (some (match (d.ps (c.d.u8 26)).retained with
      | some r => (r.vals, r.sig != p.sig)
      | none => ([], false))) := by
  have : c.d.u8 25 / 2 = 1 := by omega
  simp only [solveSource, this]
  cases (d.ps (c.d.u8 26)).retained <;> rfl

theorem solveSource_host {l : List Warm} (h : c.d.u8 25 = 4 ∨ c.d.u8 25 = 5)
    (hread : warmRecords p (c.d.f 56 4 / 16 + 1) (c.input d 48 (c.d.f 56 4)) = some l) (hone : noRepeat (l.map (·.1)) = true) :
    solveSource c d p = some (some (l, true)) := by
  have : c.d.u8 25 / 2 = 2 ∧ c.d.u8 25 / 4 = 1 := by omega
  simp [solveSource, this, hread, hone]

/-- What the statement says of the three sources, said by `solveSource`. -/
theorem solveSource_of_warm {src : Option (List Warm × Bool)}
    (h : (c.d.u8 25 ≤ 1 ∧ c.d.u8 26 = 0 ∧ c.d.f 48 8 = 0 ∧ c.d.f 56 4 = 0 ∧ src = none)
      ∨ ((c.d.u8 25 = 2 ∨ c.d.u8 25 = 3) ∧ c.d.u8 26 ≤ 31 ∧ c.d.f 48 8 = 0 ∧ c.d.f 56 4 = 0 ∧
        src = some (match (d.ps (c.d.u8 26)).retained with
          | some r => (r.vals, r.sig != p.sig)
          | none => ([], false)))
      ∨ ((c.d.u8 25 = 4 ∨ c.d.u8 25 = 5) ∧ c.d.u8 26 = 0 ∧ ∃ l, warmRecords p (c.d.f 56 4 / 16 + 1) (c.input d 48 (c.d.f 56 4)) = some l
        ∧ noRepeat (l.map (·.1)) = true ∧ src = some (l, true))) :
    solveFlagsOk c ∧ solveSource c d p = some src := by
  obtain ⟨hfl, hslot, h48, h56, rfl⟩ | ⟨hfl, hslot, h48, h56, rfl⟩ | ⟨hfl, hslot, l, hread, hone, rfl⟩ := h
  · exact ⟨⟨by omega, by omega, fun _ => hslot, fun _ => ⟨h48, h56⟩⟩, solveSource_cold hfl⟩
  · exact ⟨⟨by omega, fun _ => hslot, by omega, fun _ => ⟨h48, h56⟩⟩, solveSource_retained hfl⟩
  · exact ⟨⟨by omega, by omega, fun _ => hslot, by omega⟩, solveSource_host hfl hread hone⟩

end

/-! ### SOLVER_FREE and SOLVER_QUERY (R356-R360) -/

theorem opSolverFree_empty (hs : c.d.u8 24 ≤ 31) (hst : (d.ps (c.d.u8 24)).st = .empty) :
    opSolverFree c d = opDone (d.setPs (c.d.u8 24) fun x => { x with retained := none }) .ok := by
  simp only [opSolverFree, if_neg (Nat.not_lt.2 hs), hst]

theorem opSolverFree_ready (hs : c.d.u8 24 ≤ 31) (hst : (d.ps (c.d.u8 24)).st = .ready) :
    opSolverFree c d = opDone
      ((d.setAlloc (0x1000 + c.d.u8 24) 0).setPs (c.d.u8 24) fun x => { x with st := .empty, prob := none, retained := none, bad := false }) .ok := by
  simp only [opSolverFree, if_neg (Nat.not_lt.2 hs), hst]

theorem opSolverQuery_slot (hs : c.d.u8 24 ≤ 31) :
    opSolverQuery c d = opDone d (
      let x := d.ps (c.d.u8 24)
      c.optOutput 32 (padTo 256 x.report) (.ok
        (x.st.code % 256 + atBit 8 ((x.prob.map (·.cls)).getD 0) + atBit 32 ((x.prob.map fun p => p.vars.length).getD 0))
        ((x.prob.map (·.sig)).getD 0 % 2 ^ 32))) :=
  if_neg (Nat.not_lt.2 hs)

/-- Settles O34: a problem loaded, the three warm starts of a solution, and the slot freed and queried. -/
theorem solverOpcodesComplete : Obligations.SolverOpcodesComplete :=
  ⟨fun _ => starts_opFn opSolverLoad rfl (fun _ _ _ _ => rfl) rfl rfl fun _ _ ⟨hs, hm, hen, hst, hread, hroom⟩ =>
      opSolverLoad_fits hs hm hen hst hread hroom,
    fun _ _ => starts_opFn opSolve rfl (fun _ _ _ _ => rfl) rfl rfl
      fun _ _ ⟨hs, hwarm, htol, htol', hiter, hst, hprob, hlen, hgood, hroom⟩ =>
        opSolve_ready hs (solveSource_of_warm hwarm).1 (solveSource_of_warm hwarm).2 htol htol' hiter hst hprob hlen hgood hroom,
    runs_opFn opSolverFree rfl (fun _ _ _ _ => rfl) rfl fun _ _ ⟨hs, hst⟩ => opSolverFree_empty hs hst,
    runs_opFn opSolverFree rfl (fun _ _ _ _ => rfl) rfl fun _ _ ⟨hs, hst⟩ => opSolverFree_ready hs hst,
    runs_opFn opSolverQuery rfl (fun _ _ _ _ => rfl) rfl fun _ _ hs => opSolverQuery_slot hs⟩

end

end Sys2Proof.Machine
end

section
/-! PROOF. The opcodes of the estimator and of fusion: what the function of each gives where its checks pass. -/

namespace Sys2Proof.Machine

section
variable {c : OpCtx} {d : Dev}

/-! ### EST_CONFIG (R361-R363) -/

section
variable (hfault : d.estFault (c.input d 32 256) = none)
include hfault

theorem opEstConfig_next (h : c.d.u8 24 = 0) : opEstConfig c d = opDone (d.setEst fun x => { x with pendingCfg := some (c.input d 32 256) }) .ok := by
  simp [opEstConfig, h, hfault]

theorem opEstConfig_saved (h : c.d.u8 24 = 1) (hlock : d.settingsLocked = none) :
    opEstConfig c d = opDone (d.setEst fun x => { x with
      pendingCfg := some (c.input d 32 256)
      saved := (d.prof.activeId, c.input d 32 256) :: x.saved.filter fun y => y.1 != d.prof.activeId }) .ok := by
  simp only [opEstConfig, h, hfault, hlock]
  rfl

end

/-! ### EST_START, EST_STOP and the answers (R364, R365, R376, R392) -/

/-- What an EST_START asks for. -/
def askedStart (c : OpCtx) : EstStart :=
  { tok := c.tok, reloc := c.d.u8 24 / 2 == 1, pos := if c.d.u8 24 % 2 = 1 then c.d.bytes 32 24 else List.replicate 24 0
    yaw := if c.d.u8 24 % 2 = 1 then sInt 32 (c.d.f 56 4) else 0 }

/-- The part with the estimator's work ended and the configuration that waits taken. -/
def estEmptied (d : Dev) : Dev := estQuiet (d.setEst fun x => { x with cfg := x.pendingCfg.getD x.cfg, pendingCfg := none })

/-- What EST_START does once its fields are in range and the estimator is neither OFF nor in base-metal mode. -/
theorem opEstStart_eq (hfl : c.d.u8 24 ≤ 3) (hyaw : (sInt 32 (c.d.f 56 4)).natAbs ≤ 1686629713) (hoff : d.est.st ≠ .off) (hbase : d.est.st ≠ .baseMetal) :
    opEstStart c d =
      if (estEmptied d).ec 2 1 = 0xFF then opDone (estBegin (askedStart c) d) .ok
      else if (estEmptied d).bindsShort then opDone d { status := stResourceShort, stateCode := 4 }
      else if d.posing then (d.setEst fun e => { e with startToks := e.startToks ++ [askedStart c] }, .later)
      else opDone (estBegin (askedStart c) d).useFree (.ok (estBegin (askedStart c) d).freeVal) := by
  unfold opEstStart
  rw [if_neg (by simp [Nat.not_lt.2 hfl, Nat.not_lt.2 hyaw])]
  split
  case h_1 h => exact absurd h hoff
  case h_2 h => exact absurd h hbase
  case h_3 => rfl

section
variable (hfl : c.d.u8 24 ≤ 3) (hyaw : (sInt 32 (c.d.f 56 4)).natAbs ≤ 1686629713) (hoff : d.est.st ≠ .off) (hbase : d.est.st ≠ .baseMetal)
include hfl hyaw hoff hbase

/-- With no picture source configured the estimator goes OFF. -/
theorem opEstStart_off (hsrc : (estEmptied d).ec 2 1 = 0xFF) : opEstStart c d = opDone (estState .off (estEmptied d)) .ok := by
  rw [opEstStart_eq hfl hyaw hoff hbase, if_pos hsrc]
  exact congrArg (opDone · .ok) (if_pos hsrc)

variable (hsrc : (estEmptied d).ec 2 1 ≠ 0xFF) (hbinds : (estEmptied d).bindsShort = false)
include hsrc hbinds

theorem opEstStart_waits (hpose : d.posing = true) :
    opEstStart c d = (d.setEst fun x => { x with startToks := x.startToks ++ [askedStart c] }, .later) := by
  rw [opEstStart_eq hfl hyaw hoff hbase, if_neg hsrc, if_neg (by simp [hbinds]), if_pos hpose]

/-- With no pose stream there is no record to wait for. -/
theorem opEstStart_begins (hpose : d.posing = false) {opened : Dev}
    (hopened : (let nav := padTo 106 ((askedStart c).pos ++ levelWith (askedStart c).yaw)
      estBind (newMap (estState .initialising ((estEmptied d).setEst fun e => { e with
        nav := nav, sNav := nav, reloc := (askedStart c).reloc, raises := ({} : Est).raises, lastOk := (estEmptied d).now, updTov := none
        level := some ((estEmptied d).now, []), imuBuf := [] })))) = opened) :
    opEstStart c d = opDone opened.useFree (.ok opened.freeVal) := by
  have hbegun : estBegin (askedStart c) d = opened := (if_neg hsrc).trans hopened
  rw [opEstStart_eq hfl hyaw hoff hbase, if_neg hsrc, if_neg (by simp [hbinds]), if_neg (by simp [hpose]), hbegun]

end

theorem opEstStop_works (hoff : d.est.st ≠ .off) (hdead : d.est.st ≠ .deadReckoning) (hbase : d.est.st ≠ .baseMetal) :
    opEstStop c d = opDone (estState .deadReckoning (estQuiet d)) .ok := by
  unfold opEstStop
  split
  case h_1 h => exact absurd h hoff
  case h_2 h => exact absurd h hdead
  case h_3 h => exact absurd h hbase
  case h_4 => rfl

theorem opKeyframeRead_inRange (h : 1 ≤ c.d.f 24 4) (h' : c.d.f 24 4 ≤ 4096) :
    opKeyframeRead c d = opDone d (
      let l := (inOrder (d.est.kfs.filter fun k => decide (c.d.f 40 8 ≤ k.id)) fun a b => decide (a.id ≤ b.id)).take (c.d.f 24 4)
      c.output 32 (l.flatMap Keyframe.record) (.ok d.est.epoch l.length)) :=
  if_neg (by simp; omega)

/-! ### FUSION_START (R303, R307) -/

/-- The fusion that a FUSION_START starts on the part `d`. -/
def fusionBegun (c : OpCtx) (e : Dev) (st : FusSt) (rows : Nat) (d : Dev) : Dev :=
  fusState st 0 ((streamStart 0x0500 (streamStart 0x0501 d)).setFus fun f => { f with
    slot := c.d.u8 24, conflictRuns := if c.d.u8 25 = 0 then 8 else c.d.u8 25, createScore := c.d.u8 26, keepScore := c.d.u8 27
    maxTracks := c.d.f 28 2, rows := rows, phase := c.d.f 32 8, periodUs := c.d.f 40 4, sensorMask := c.d.f 44 4
    next := firstInstant (c.d.f 32 8) (c.d.f 40 4 * usNs) (e.tb64 + msNs), seq := 0
    runs := [], running := none, waiting := none, skippedSince := 0, tracks := [], nextId := 1, ckpt := []
    asked := [], lastTick := none, stepTo := none })

section
variable (hper : 1000 ≤ c.d.f 40 4) (hper' : c.d.f 40 4 ≤ 1000000) (hsensors : ∀ i < 32, (c.d.f 44 4).testBit i = true → d.kind i ≠ 0)
  (hidle : d.fusion.st = .idle)
include hper hper' hsensors hidle

theorem opFusionStart_checking (hs : c.d.u8 24 = 0xFF) (hcreate : c.d.u8 26 = 0) (hkeep : c.d.u8 27 = 0) (hmax : c.d.f 28 2 = 0) :
    opFusionStart c d = opDone (fusionBegun c d .checking 0 d) (.ok (firstInstant (c.d.f 32 8) (c.d.f 40 4 * usNs) (d.tb64 + msNs)) 0xF) := by
  unfold opFusionStart
  rw [if_neg (by simp_all [Nat.not_lt.2 hper, Nat.not_lt.2 hper']), if_neg (by simp [hidle]), if_pos (by simp [hs])]
  rfl

theorem opFusionStart_model {r : RoleEntry} (hs : c.d.u8 24 ≤ 15) (hkeep : 1 ≤ c.d.u8 27) (hcreate : c.d.u8 27 ≤ c.d.u8 26) (hmax : 1 ≤ c.d.f 28 2)
    (hst : (d.slot (c.d.u8 24)).st = .loaded) (hpkg : fusionPkgFault (d.pkg (c.d.u8 24)) = none) (hrows : c.d.f 28 2 ≤ d.pk (c.d.u8 24) 588 4)
    (hclaim : ∀ q ∈ (d.slot (c.d.u8 24)).insts, q.claim = none) (hbound : d.bound (c.d.u8 24) = false)
    (hrole : d.roleAt 1 (holderObj (c.d.u8 24) 0) = some r) (hcl : r.cluster < 6) :
    opFusionStart c d = opDone
      (fusionBegun c d .running (d.pk (c.d.u8 24) 588 4)
        (placeRole 4 (fusionObj (c.d.u8 24)) r.cluster r.engine none (freeRole 1 (holderObj (c.d.u8 24) 0) d)))
      (.ok (firstInstant (c.d.f 32 8) (c.d.f 40 4 * usNs) (d.tb64 + msNs)) r.cluster) := by
  have hmodel : (c.d.u8 24 == 0xFF) = false := by simp; omega
  have hnobad : ((List.range 32).any fun i => (c.d.f 44 4).testBit i && d.kind i == 0) = false := by
    simpa [List.any_eq_false] using hsensors
  have hfree : (d.slot (c.d.u8 24)).insts.any (fun q => q.claim.isSome) = false := by simp_all [List.any_eq_false]
  unfold opFusionStart
  simp only [hmodel, hnobad, hpkg, hrole, hst]
  rw [if_neg (by simp; omega), if_neg (by simp [hidle]), if_neg (by decide), if_neg (by decide), if_neg (Nat.not_lt.2 hrows),
    if_neg (by simp [hfree, hbound]), if_pos hcl, if_pos hcl]
  rfl

end

/-! ### FUSION_STOP, FUSION_RESET and FUSION_BOUNDS (R309, R310, R317) -/

theorem opFusionStop_busy (h : d.fusion.st ≠ .idle) : opFusionStop c d = (d.setFus fun f => { f with asked := f.asked ++ [(c.tok, true)] }, .later) :=
  if_neg (by simpa using h)

theorem opFusionReset_busy (h : d.fusion.st ≠ .idle) : opFusionReset c d = (d.setFus fun f => { f with asked := f.asked ++ [(c.tok, false)] }, .later) :=
  if_neg (by simpa using h)

theorem opFusionBounds_inRange (h : ∀ i < 6, c.d.f (24 + 4 * i) 4 < 2 ^ 31) :
    opFusionBounds c d = opDone (d.setFus fun f => { f with bounds := (List.range 6).map fun i => c.d.f (24 + 4 * i) 4, runs := [] }) .ok :=
  if_neg (by simpa [List.any_eq_true] using h)

/-- Settles O35: the configurations, the three ends of an EST_START, and the opcodes of fusion. -/
theorem estimatorAndFusionOpcodesComplete : Obligations.EstimatorAndFusionOpcodesComplete :=
  ⟨runs_opFn opEstConfig rfl (fun _ _ _ _ => rfl) rfl fun _ _ ⟨h, hfault⟩ => opEstConfig_next hfault h,
    runs_opFn opEstConfig rfl (fun _ _ _ _ => rfl) rfl fun _ _ ⟨h, hfault, hlock⟩ => opEstConfig_saved hfault h hlock,
    ⟨runs_opFn opEstStart rfl (fun _ _ _ _ => rfl) rfl fun _ _ ⟨⟨hfl, hyaw, hoff, hbase⟩, hsrc⟩ => opEstStart_off hfl hyaw hoff hbase hsrc,
      starts_opFn opEstStart rfl (fun _ _ _ _ => rfl) rfl rfl fun _ _ ⟨⟨hfl, hyaw, hoff, hbase⟩, hsrc, hbinds, hpose⟩ =>
        opEstStart_waits hfl hyaw hoff hbase hsrc hbinds hpose,
      runs_opFn opEstStart rfl (fun _ _ _ _ => rfl) rfl fun _ _ ⟨⟨hfl, hyaw, hoff, hbase⟩, hsrc, hbinds, hpose⟩ =>
        opEstStart_begins hfl hyaw hoff hbase hsrc hbinds hpose rfl⟩,
    runs_opFn opEstStop rfl (fun _ _ _ _ => rfl) rfl fun _ _ ⟨hoff, hdead, hbase⟩ => opEstStop_works hoff hdead hbase,
    runs_opFn opEstStatus rfl (fun _ _ _ _ => rfl) rfl fun _ _ _ => rfl,
    runs_opFn opKeyframeRead rfl (fun _ _ _ _ => rfl) rfl fun _ _ ⟨h, h'⟩ => opKeyframeRead_inRange h h',
    ⟨runs_opFn opFusionStart rfl (fun _ _ _ _ => rfl) rfl fun _ _ ⟨⟨hper, hper', hsensors, hidle⟩, hs, hcreate, hkeep, hmax⟩ =>
        opFusionStart_checking hper hper' hsensors hidle hs hcreate hkeep hmax,
      fun _ => runs_opFn opFusionStart rfl (fun _ _ _ _ => rfl) rfl
        fun _ _ ⟨⟨hper, hper', hsensors, hidle⟩, hs, hkeep, hcreate, hmax, hst, hpkg, hrows, hclaim, hbound, hrole, hcl⟩ =>
          opFusionStart_model hper hper' hsensors hidle hs hkeep hcreate hmax hst hpkg hrows hclaim hbound hrole hcl⟩,
    starts_opFn opFusionStop rfl (fun _ _ _ _ => rfl) rfl rfl fun _ _ h => opFusionStop_busy h,
    starts_opFn opFusionReset rfl (fun _ _ _ _ => rfl) rfl rfl fun _ _ h => opFusionReset_busy h,
    runs_opFn opFusionBounds rfl (fun _ _ _ _ => rfl) rfl fun _ _ h => opFusionBounds_inRange h,
    runs_opFn opFusionStatus rfl (fun _ _ _ _ => rfl) rfl fun _ _ _ => rfl⟩

end

end Sys2Proof.Machine
end

section
/-! PROOF. The opcodes of the place indices: what the function of each gives where its checks pass. -/

namespace Sys2Proof.Machine

section
variable {c : OpCtx} {d : Dev}

/-! ### INDEX_CREATE (R397-R400) -/

/-- The index that an INDEX_CREATE describes. -/
def describedIndex (c : OpCtx) (e : Dev) : PIndex :=
  let x : PIndex := { format := c.d.u8 25, metric := c.d.u8 26, deg := c.d.u8 27, dim := c.d.f 28 2, codeBytes := c.d.u8 30
                      fleet := c.d.u8 31 % 2 == 1, residency := c.d.u8 31 / 2, sideCap := c.d.f 40 4, idCap := c.d.f 44 4 }
  { x with proj := if x.format = 0 then c.input e 32 (8 * x.codeBytes * x.dim) else [] }

theorem opIndexCreate_fits (hi : 1 ≤ c.d.u8 24) (hi' : c.d.u8 24 ≤ 15) (hres : (describedIndex c d).residency ≤ 2)
    (hchecks : (ixChecks 25 26 28 27 30 (describedIndex c d)).all (fun p => p.2) = true) (hcaps : capsOk (describedIndex c d) = true)
    (hids : d.ixIdsFit (describedIndex c d) = true) (hproj : (describedIndex c d).format = 1 → c.d.f 32 8 = 0)
    (hst : (d.ix (c.d.u8 24)).st = .empty) (hroom : d.ixShort (describedIndex c d) = none) :
    opIndexCreate c d = (
      let f := makeObjects (c.d.u8 24) (if (describedIndex c d).fleet then 2 else 1) (describedIndex c d) d
      opDone (ixState (c.d.u8 24) .ready 0 (f.setIx (c.d.u8 24) fun _ => describedIndex c d))
        (.ok (describedIndex c d).ipmBytes (if f.slowOn then (describedIndex c d).slowBytes else 0))) := by
  have hpass : ((ixChecks 25 26 28 27 30 (describedIndex c d)).any fun p => !p.2) = false := by
    simpa [List.any_eq_false] using hchecks
  have hin : (c.d.u8 24 = 0 || 15 < c.d.u8 24 || 2 < (describedIndex c d).residency || (ixChecks 25 26 28 27 30 (describedIndex c d)).any (fun p => !p.2)
      || !capsOk (describedIndex c d) || !d.ixIdsFit (describedIndex c d) || ((describedIndex c d).format == 1 && c.d.f 32 8 != 0)) = false := by
    simp only [hpass, hcaps, hids]
    simp
    exact ⟨by omega, hproj⟩
  refine (if_neg (ne_true_of_eq_false hin)).trans ?_
  refine (if_neg (by simp [hst])).trans ?_
  erw [hroom]
  rfl

/-! ### INDEX_LOAD (R402, R403) -/

/-- The fields of an INDEX_LOAD are in range: the index, the flags FIRST and FINAL, the chunk's length. -/
def chunkOk (c : OpCtx) (first final : Bool) : Prop :=
  1 ≤ c.d.u8 24 ∧ c.d.u8 24 ≤ 15 ∧ c.d.u8 25 ≤ 3 ∧ c.d.u8 25 % 2 = bit first ∧ c.d.u8 25 / 2 % 2 = bit final ∧ 1 ≤ c.d.f 28 4
  ∧ c.d.f 28 4 ≤ 67108864 ∧ (first = false → c.d.f 48 8 = 0)

/-- The chunk is the one that the index waits for. -/
def chunkDue (c : OpCtx) (e : Dev) (first : Bool) : Prop :=
  if first then c.d.f 40 8 = 0 ∧ ((e.ix (c.d.u8 24)).st = .empty ∨ (e.ix (c.d.u8 24)).st = .loading)
  else (e.ix (c.d.u8 24)).st = .loading ∧ c.d.f 40 8 = (e.ix (c.d.u8 24)).image.length

/-- The image with the chunk. -/
def chunkImage (c : OpCtx) (e : Dev) (first : Bool) : Bytes := (if first then [] else (e.ix (c.d.u8 24)).image) ++ c.input e 32 (c.d.f 28 4)

/-- The length that the whole image is to have. -/
def chunkTotal (c : OpCtx) (e : Dev) (first : Bool) : Nat := if first then c.d.f 48 8 else (e.ix (c.d.u8 24)).total

/-- The part with the chunk kept. -/
def chunkHeld (c : OpCtx) (e : Dev) (first : Bool) : Dev :=
  let f := if first then ixState (c.d.u8 24) .loading 0 ((freeIndex (c.d.u8 24) e).setIx (c.d.u8 24) fun _ => { st := (e.ix (c.d.u8 24)).st }) else e
  f.setIx (c.d.u8 24) fun y => { y with image := chunkImage c e first, total := chunkTotal c e first }

/-- A chunk in range and due is kept; FINAL builds the index of its image. -/
theorem opIndexLoad_chunk {first final : Bool} {f : Dev} (hok : chunkOk c first final) (hdue : chunkDue c d first)
    (hroom : final = false → c.d.f 40 8 + c.d.f 28 4 ≤ chunkTotal c d first)
    (hgood : (if final then imageFault ((chunkHeld c d first).setIx (c.d.u8 24) fun _ => {}) (chunkImage c d first) (chunkTotal c d first) else none)
      = none)
    (hres : loadReserve (c.d.u8 24) (chunkHeld c d first) = .ok f) :
    opIndexLoad c d =
      if !final then opDone f .ok else
      let y := imageBuild (chunkImage c d first)
      opDone (ixState (c.d.u8 24) .ready 0 (storeIndex (c.d.u8 24) [3, 4, 5] (f.setIx (c.d.u8 24) fun z => { y with st := z.st }))) (.ok y.idEnd) := by
  obtain ⟨hi, hi', hfl, hfirst, hfinal, hlen, hlen', htotal⟩ := hok
  have hfirst' := beq_one_of_eq_bit hfirst
  have hfinal' := beq_one_of_eq_bit hfinal
  have hst : (d.ix (c.d.u8 24)).st = .loading ∨ first = true ∧ (d.ix (c.d.u8 24)).st = .empty := by
    cases first
    case false => exact .inl hdue.1
    case true => exact hdue.2.symm.imp_right fun h => ⟨rfl, h⟩
  simp only [chunkDue] at hdue
  unfold opIndexLoad
  simp only [hfirst', hfinal']
  rw [if_neg (by simp [Nat.not_lt.2 hi', Nat.not_lt.2 hfl, Nat.not_lt.2 hlen']; cases first <;> simp_all <;> omega),
    if_neg (by obtain h | ⟨rfl, h⟩ := hst <;> simp [h]), if_neg (by cases first <;> cases final <;> simp_all [chunkTotal])]
  erw [hgood]
  erw [hres]
  rfl

theorem opIndexLoad_kept {first : Bool} {f : Dev} (hok : chunkOk c first false) (hdue : chunkDue c d first)
    (hroom : c.d.f 40 8 + c.d.f 28 4 ≤ chunkTotal c d first) (hres : loadReserve (c.d.u8 24) (chunkHeld c d first) = .ok f) :
    opIndexLoad c d = opDone f .ok :=
  opIndexLoad_chunk hok hdue (fun _ => hroom) rfl hres

theorem opIndexLoad_built {first : Bool} {f : Dev} (hok : chunkOk c first true) (hdue : chunkDue c d first)
    (hgood : imageFault ((chunkHeld c d first).setIx (c.d.u8 24) fun _ => {}) (chunkImage c d first) (chunkTotal c d first) = none)
    (hres : loadReserve (c.d.u8 24) (chunkHeld c d first) = .ok f) :
    opIndexLoad c d = (
      let y := imageBuild (chunkImage c d first)
      opDone (ixState (c.d.u8 24) .ready 0 (storeIndex (c.d.u8 24) [3, 4, 5] (f.setIx (c.d.u8 24) fun z => { y with st := z.st }))) (.ok y.idEnd)) :=
  opIndexLoad_chunk hok hdue (by simp) hgood hres

/-! ### INDEX_DROP, INDEX_MERGE and INDEX_QUERY (R407-R409, R412) -/

theorem opIndexDrop_ready (hi : 1 ≤ c.d.u8 24) (hi' : c.d.u8 24 ≤ 15) (hst : (d.ix (c.d.u8 24)).st = .ready) (hdrop : (d.ix (c.d.u8 24)).drop = none) :
    opIndexDrop c d = (dropCheck (c.d.u8 24) (d.setIx (c.d.u8 24) fun x => { x with drop := some (d.seqOf c.tok, c.tok) }), .later) := by
  simp [opIndexDrop, hst, hdrop, Nat.not_lt.2 hi', Nat.pos_iff_ne_zero.1 hi]

theorem opIndexMerge_cut {f : Dev} (hi : c.d.u8 24 ≤ 15) (hst : (d.ix (c.d.u8 24)).st = .ready)
    (hcut : mergeCut (c.d.u8 24) (some c.tok) (((d.pendOf c.tok).map (·.cut)).getD ((d.ix (c.d.u8 24)).idEnd, (d.ix (c.d.u8 24)).te)) d = (f, none)) :
    opIndexMerge c d = (f, .later) := by
  simp only [opIndexMerge, if_neg (Nat.not_lt.2 hi), hst, hcut]

theorem opIndexQuery_index (hi : c.d.u8 24 ≤ 15) :
    opIndexQuery c d = opDone d (
      let x := d.ix (c.d.u8 24)
      .ok (x.st.code % 256 + atBit 8 x.residency + atBit 32 x.idEnd) (x.side + atBit 32 x.pending.length)) :=
  if_neg (Nat.not_lt.2 hi)

/-! ### PLACE_INSERT and PLACE_DELETE (R397, R400, R415, R416) -/

/-- An index that takes vectors, and a count of them in range. -/
def placesOk (c : OpCtx) (d : Dev) : Prop :=
  1 ≤ c.d.u8 24 ∧ c.d.u8 24 ≤ 15 ∧ 1 ≤ c.d.f 28 4 ∧ c.d.f 28 4 ≤ 4096 ∧ ((d.ix (c.d.u8 24)).st = .ready ∨ (d.ix (c.d.u8 24)).st = .merging)

/-- The identifiers that a PLACE_DELETE finds, each once. -/
def deleteHits (c : OpCtx) (e : Dev) : List Nat :=
  ((List.range (c.d.f 28 4)).map fun k => fld (c.input e 32 (4 * c.d.f 28 4)) (4 * k) 4).foldl (fun l k =>
    let x := e.ix (c.d.u8 24)
    if decide (k < x.idEnd) && !l.contains k && x.tombs.all (fun t => t.1 != k) && !x.cur.holes.contains k then l ++ [k] else l) []

/-- The part with their tombstones. -/
def hitsBuried (c : OpCtx) (e : Dev) (te : Nat) : Dev :=
  storeIndex (c.d.u8 24) [3] ((beforeCommit (c.d.u8 24) e).setIx (c.d.u8 24) fun x => { x with
    te := te, tombs := x.tombs ++ (deleteHits c e).map fun k => (k, te) })

section
variable (hok : placesOk c d)
include hok

theorem opPlaceInsert_appends {f : Dev} {id : Nat}
    (happ : appendVecs (c.d.u8 24) (pieces (d.ix (c.d.u8 24)).vecBytes (c.d.f 28 4) (c.input d 32 (c.d.f 28 4 * (d.ix (c.d.u8 24)).vecBytes))) d
      = (f, .inl id)) :
    opPlaceInsert c d = opDone f (.ok id) := by
  obtain ⟨hi, hi', hn, hn', hst⟩ := hok
  unfold opPlaceInsert
  rw [if_neg (by simp; omega), if_neg (by obtain h | h := hst <;> simp [h])]
  simp only [happ]

/-- What a PLACE_DELETE does with the identifiers that it finds. -/
theorem opPlaceDelete_eq :
    opPlaceDelete c d = (
      let te := if (deleteHits c d).isEmpty then (d.ix (c.d.u8 24)).te else (d.ix (c.d.u8 24)).te + 1
      let f := if (deleteHits c d).isEmpty then d else hitsBuried c d te
      if c.d.f 28 4 - (deleteHits c d).length = 0 then opDone f (.ok te (deleteHits c d).length)
      else opDone f { (Cpl.flagged 1 te (deleteHits c d).length) with
        stateCode := BitVec.ofNat 16 (min (c.d.f 28 4 - (deleteHits c d).length) 65535) }) := by
  obtain ⟨hi, hi', hn, hn', hst⟩ := hok
  unfold opPlaceDelete
  rw [if_neg (by simp; omega), if_neg (by obtain h | h := hst <;> simp [h])]
  rfl

theorem opPlaceDelete_all (hall : (deleteHits c d).length = c.d.f 28 4) :
    opPlaceDelete c d = opDone (hitsBuried c d ((d.ix (c.d.u8 24)).te + 1)) (.ok ((d.ix (c.d.u8 24)).te + 1) (c.d.f 28 4)) := by
  have hsome : (deleteHits c d).isEmpty = false := by
    obtain ⟨_, _, hn, _⟩ := hok
    rw [← hall] at hn
    simpa using List.ne_nil_of_length_pos hn
  simp [opPlaceDelete_eq hok, hall, hsome]

theorem opPlaceDelete_some (hsome : (deleteHits c d).length < c.d.f 28 4) :
    opPlaceDelete c d = (
      let te := if (deleteHits c d).isEmpty then (d.ix (c.d.u8 24)).te else (d.ix (c.d.u8 24)).te + 1
      opDone (if (deleteHits c d).isEmpty then d else hitsBuried c d te) { Cpl.flagged 1 te (deleteHits c d).length with
        stateCode := BitVec.ofNat 16 (min (c.d.f 28 4 - (deleteHits c d).length) 65535) }) :=
  (opPlaceDelete_eq hok).trans (if_neg (by omega))

end

/-! ### PLACE_QUERY (R419-R423) -/

/-- An index that answers queries, and the fields that every query has, in range. -/
def queryOk (c : OpCtx) (d : Dev) : Prop :=
  c.d.u8 24 ≤ 15 ∧ c.d.u8 25 ≤ 3 ∧ 1 ≤ c.d.u8 26 ∧ c.d.u8 26 ≤ 64 ∧ 1 ≤ c.d.f 48 2 ∧ c.d.f 48 2 ≤ 256
  ∧ ((d.ix (c.d.u8 24)).st = .ready ∨ (d.ix (c.d.u8 24)).st = .merging)

/-- The job that a PLACE_QUERY becomes. -/
def queryJob (c : OpCtx) (e : Dev) (ex : Bool) : PlaceJob :=
  let x := e.ix (c.d.u8 24)
  { id := 0, owner := .desc c.tok, seq := e.seqOf c.tok, index := c.d.u8 24, low := c.d.u8 25 % 2 == 1 || x.fleet, exhaustive := ex
    k := c.d.u8 26, rerank := c.d.u8 27, len := if ex then 16 else c.d.f 28 2, maxExp := c.d.f 30 2
    vecs := pieces x.vecBytes (c.d.f 48 2) (c.input e 32 (c.d.f 48 2 * x.vecBytes)), dest := c.d.f 40 8 }

section
variable (hok : queryOk c d)
include hok

theorem opPlaceQuery_exhaustive (hfl : 2 ≤ c.d.u8 25) : opPlaceQuery c d = (addJob (queryJob c d true) d, .later) := by
  obtain ⟨hi, hfl', hk, hk', hn, hn', hst⟩ := hok
  have hex : (c.d.u8 25 / 2 % 2 == 1) = true := by simp; omega
  unfold opPlaceQuery
  simp only [hex]
  rw [if_neg (by simp; omega), if_neg (by obtain h | h := hst <;> simp [h])]
  rfl

theorem opPlaceQuery_graph (hfl : c.d.u8 25 ≤ 1) (hrr : c.d.u8 27 ≤ 64) (hlen : 16 ≤ c.d.f 28 2) (hlen' : c.d.f 28 2 ≤ 256)
    (hmax : c.d.f 30 2 = 0 ∨ c.d.f 28 2 ≤ c.d.f 30 2) (hrank : c.d.u8 27 ≤ c.d.f 28 2) :
    opPlaceQuery c d = (addJob (queryJob c d false) d, .later) := by
  obtain ⟨hi, hfl', hk, hk', hn, hn', hst⟩ := hok
  have hex : (c.d.u8 25 / 2 % 2 == 1) = false := by simp; omega
  unfold opPlaceQuery
  simp only [hex]
  rw [if_neg (by simp; omega), if_neg (by obtain h | h := hst <;> simp [h])]
  rfl

end

/-! ### WALKER_SET -/

section
variable (hw : c.d.u8 24 ≤ 7) (hpf : (d.pf 22 1).testBit (c.d.u8 24) = true)
include hw hpf

theorem opWalkerSet_leaves (hback : c.d.u8 25 = 0) (hst : (d.wk (c.d.u8 24)).st = .online) (hlast : d.onlineWalkers.length ≠ 1) :
    opWalkerSet c d = opDone (moveContexts (c.d.u8 24) (wkState (c.d.u8 24) .off 0 d)) .ok := by
  simp [opWalkerSet, Nat.not_lt.2 hw, hpf, hback, hst, hlast]

theorem opWalkerSet_returns (hback : c.d.u8 25 = 1) (hst : (d.wk (c.d.u8 24)).st = .off) :
    opWalkerSet c d = opDone (wkState (c.d.u8 24) .online 0 d) .ok := by
  simp [opWalkerSet, Nat.not_lt.2 hw, hpf, hback, hst]

theorem opWalkerSet_tries (hback : c.d.u8 25 = 1) (hst : (d.wk (c.d.u8 24)).st = .fenced)
    (hassay : (d.flt.assays.any fun a => a.kind == 1 && a.unit == c.d.u8 24) = false) :
    opWalkerSet c d = (beginAssay 1 (c.d.u8 24) (.chapter c.tok) false d, .later) := by
  simp only [opWalkerSet, hback, hst, hassay, hpf]
  simp [Nat.not_lt.2 hw]

end

/-- Settles O36: an index created, loaded, dropped and merged, its vectors appended, deleted and queried, and a walker set. -/
theorem placeOpcodesComplete : Obligations.PlaceOpcodesComplete :=
  ⟨runs_opFn opIndexCreate rfl (fun _ _ _ _ => rfl) rfl fun _ _ ⟨hi, hi', hres, hchecks, hcaps, hids, hproj, hst, hroom⟩ =>
      opIndexCreate_fits hi hi' hres hchecks hcaps hids hproj hst hroom,
    fun _ _ => ⟨runs_opFn opIndexLoad rfl (fun _ _ _ _ => rfl) rfl fun _ _ ⟨hok, hdue, hroom, hres⟩ => opIndexLoad_kept hok hdue hroom hres,
      runs_opFn opIndexLoad rfl (fun _ _ _ _ => rfl) rfl fun _ _ ⟨hok, hdue, hgood, hres⟩ => opIndexLoad_built hok hdue hgood hres⟩,
    starts_opFn opIndexDrop rfl (fun _ _ _ _ => rfl) rfl rfl fun _ _ ⟨hi, hi', hst, hdrop⟩ => opIndexDrop_ready hi hi' hst hdrop,
    ⟨fun _ _ => runs_opFn opPlaceInsert rfl (fun _ _ _ _ => rfl) rfl fun _ _ ⟨hok, happ⟩ => opPlaceInsert_appends hok happ,
      runs_opFn opPlaceDelete rfl (fun _ _ _ _ => rfl) rfl fun _ _ ⟨hok, hall⟩ => opPlaceDelete_all hok hall,
      runs_opFn opPlaceDelete rfl (fun _ _ _ _ => rfl) rfl fun _ _ ⟨hok, hsome⟩ => opPlaceDelete_some hok hsome⟩,
    ⟨starts_opFn opPlaceQuery rfl (fun _ _ _ _ => rfl) rfl rfl fun _ _ ⟨hok, hfl⟩ => opPlaceQuery_exhaustive hok hfl,
      starts_opFn opPlaceQuery rfl (fun _ _ _ _ => rfl) rfl rfl fun _ _ ⟨hok, hfl, hrr, hlen, hlen', hmax, hrank⟩ =>
        opPlaceQuery_graph hok hfl hrr hlen hlen' hmax hrank⟩,
    fun _ => starts_opFn opIndexMerge rfl (fun _ _ _ _ => rfl) rfl rfl fun _ _ ⟨hi, hst, hcut⟩ => opIndexMerge_cut hi hst hcut,
    runs_opFn opIndexQuery rfl (fun _ _ _ _ => rfl) rfl fun _ _ hi => opIndexQuery_index hi,
    runs_opFn opWalkerSet rfl (fun _ _ _ _ => rfl) rfl fun _ _ ⟨hw, hpf, hback, hst, hlast⟩ => opWalkerSet_leaves hw hpf hback hst hlast,
    runs_opFn opWalkerSet rfl (fun _ _ _ _ => rfl) rfl fun _ _ ⟨hw, hpf, hback, hst⟩ => opWalkerSet_returns hw hpf hback hst,
    starts_opFn opWalkerSet rfl (fun _ _ _ _ => rfl) rfl rfl fun _ _ ⟨hw, hpf, hback, hst, hassay⟩ => opWalkerSet_tries hw hpf hback hst hassay⟩

end

end Sys2Proof.Machine
end

section
/-! PROOF. The opcodes of the memory tiers: what the function of each gives where its checks pass. -/

namespace Sys2Proof.Machine

section
variable {c : OpCtx} {d : Dev}

/-! ### Objects: TIER_QUERY, TIER_PROMOTE, TIER_EVICT, TIER_UNPIN (R249-R251) -/

section
variable {o : TierObj} (hobj : d.obj (c.d.f 24 4) = some o)
include hobj

theorem opTierQuery_found :
    opTierQuery c d = opDone d
      (.ok (o.st.code % 256 + atBit 8 o.kind + atBit 16 (o.pins.filter fun p => decide (0 < p.2)).length + atBit 32 (units o.size)) o.hostPins) := by
  simp only [opTierQuery, hobj]

theorem opTierPromote_done {f : Dev} (h : promote o.id 0xFF 1 (.host c.tok) d = (f, .done)) : opTierPromote c d = opDone f .ok := by
  simp only [opTierPromote, hobj, h]

theorem opTierPromote_waits {f : Dev} (h : promote o.id 0xFF 1 (.host c.tok) d = (f, .waits)) : opTierPromote c d = (f, .later) := by
  simp only [opTierPromote, hobj, h]

theorem opTierUnpin_held (hn : c.d.f 28 2 ≤ o.hostPins) :
    opTierUnpin c d = (
      let left := if c.d.f 28 2 = 0 then 0 else o.hostPins - c.d.f 28 2
      opDone (d.setObj o.id fun o => { o with pins := (o.pins.filter fun p => p.1 != 0xFF) ++ (if left = 0 then [] else [(0xFF, left)]) }) (.ok 0 left)) := by
  simp only [opTierUnpin, hobj, if_neg (Nat.not_lt.2 hn)]

variable (hst : o.st = .resident) (hpins : o.pinCount = 0)
include hst hpins

/-- An object whose home holds what it holds goes at once. -/
theorem opTierEvict_clean (h : ¬ (o.kind = 6 ∧ o.changed = true)) : opTierEvict c d = opDone (evictObj o d) .ok := by
  simp [opTierEvict, hobj, hst, hpins, h]

/-- Changed settings are written home first. -/
theorem opTierEvict_changed (hkind : o.kind = 6) (hch : o.changed = true) :
    opTierEvict c d = (evictObj o (d.setObj o.id fun o => { o with evict := [c.tok], evictor := some c.tok }), .later) := by
  simp [opTierEvict, hobj, hst, hpins, hkind, hch]

end

/-! ### SLOW_ATTACH (R245, R246) -/

theorem opSlowAttach_asks (hmode : c.d.u8 24 = 0) (hconf : c.d.f 28 4 = 0) (hst : d.nvme.st = .attached) :
    opSlowAttach c d = opDone d (.ok d.nvme.capacity) := by
  simp [opSlowAttach, hmode, hconf, hst]

/-- What a formatting SLOW_ATTACH leaves and answers: the models that stood in the tier LOST, its other objects gone, labels and homes written anew. -/
def slowFormatted (e : Dev) : Dev × Cpl :=
  let gone := (e.tier.objs.filter fun o => o.slow && decide (o.kind ≤ 2)).map (·.id)
  let f := dropObjs (fun o => o.slow && decide (2 < o.kind)) (gone.foldl (fun f id => loseObject id f) e)
  let keep := f.tier.objs.map fun o => if o.slow then { o with ext := [], mir := [], crcs := [] } else o
  let f := nvmeSend (classQueue 1) [.writeLabels, .flush] { f with tier := { f.tier with objs := keep } }
  (mapHomes (slowState .attached f), .ok f.nvme.capacity)

theorem opSlowAttach_formats (hmode : c.d.u8 24 = 1) (hconf : c.d.f 28 4 = 0x544D5246) (hst : d.nvme.st = .attached ∨ d.nvme.st = .unlabelled)
    (hpins : ∀ o ∈ d.tier.objs, o.slow = true → o.pinCount = 0) :
    opSlowAttach c d = opDone (slowFormatted d).1 (slowFormatted d).2 := by
  have hfree : ((d.tier.objs.filter (·.slow)).any fun o => decide (0 < o.pinCount)) = false := by
    simpa [List.any_eq_false, Nat.pos_iff_ne_zero] using hpins
  unfold opSlowAttach
  simp only [hmode, hconf]
  obtain h | h := hst
  all_goals
    simp only [h, hfree, slowFormatted]
    rfl

/-! ### IPM_CHANNEL (R239-R242) -/

section
variable (hn : c.d.u8 24 ≤ 63)
include hn

theorem opIpmChannel_leaves (hback : c.d.u8 25 = 0) (hst : (d.ipmCh (c.d.u8 24)).st = .online) (hout : (d.groupOut (c.d.u8 24 % 8)).isEmpty = true) :
    opIpmChannel c d = opDone (chChange (c.d.u8 24) .offline 0 d) .ok := by
  simp only [opIpmChannel, hback, hst, hout]
  simp [Nat.not_lt.2 hn]

variable (hback : c.d.u8 25 = 1)
include hback

theorem opIpmChannel_online (hst : (d.ipmCh (c.d.u8 24)).st = .online) : opIpmChannel c d = opDone d .ok := by
  simp [opIpmChannel, hback, hst, Nat.not_lt.2 hn]

theorem opIpmChannel_joins (hst : (d.ipmCh (c.d.u8 24)).st = .resync) :
    opIpmChannel c d = (d.setIpmCh (c.d.u8 24) fun x => { x with returning := c.tok :: x.returning }, .later) := by
  simp [opIpmChannel, hback, hst, Nat.not_lt.2 hn]

variable (hst : (d.ipmCh (c.d.u8 24)).st = .offline)
include hst

theorem opIpmChannel_tries (hassay : (d.flt.assays.any fun a => a.kind == 4 && a.unit == c.d.u8 24) = false) :
    opIpmChannel c d = (beginAssay 4 (c.d.u8 24) (.chapter c.tok) false d, .later) := by
  simp only [opIpmChannel, hback, hst, hassay]
  simp [Nat.not_lt.2 hn]

theorem opIpmChannel_waits (hassay : (d.flt.assays.any fun a => a.kind == 4 && a.unit == c.d.u8 24) = true) :
    opIpmChannel c d = (d.setIpmCh (c.d.u8 24) fun x => { x with waiting := x.waiting ++ [c.tok] }, .later) := by
  simp only [opIpmChannel, hback, hst, hassay]
  simp [Nat.not_lt.2 hn]

end

/-- Settles O37: an object asked for, promoted, evicted and unpinned, the slow tier attached, a channel of IPM leaving and returning. -/
theorem tierOpcodesComplete : Obligations.TierOpcodesComplete :=
  ⟨fun _ => ⟨runs_opFn opTierQuery rfl (fun _ _ _ _ => rfl) rfl fun _ _ hobj => opTierQuery_found hobj,
      fun _ => runs_opFn opTierPromote rfl (fun _ _ _ _ => rfl) rfl fun _ _ ⟨hobj, h⟩ => opTierPromote_done hobj h,
      fun _ => starts_opFn opTierPromote rfl (fun _ _ _ _ => rfl) rfl rfl fun _ _ ⟨hobj, h⟩ => opTierPromote_waits hobj h,
      runs_opFn opTierEvict rfl (fun _ _ _ _ => rfl) rfl fun _ _ ⟨hobj, hst, hpins, h⟩ => opTierEvict_clean hobj hst hpins h,
      starts_opFn opTierEvict rfl (fun _ _ _ _ => rfl) rfl rfl fun _ _ ⟨hobj, hst, hpins, hkind, hch⟩ => opTierEvict_changed hobj hst hpins hkind hch,
      runs_opFn opTierUnpin rfl (fun _ _ _ _ => rfl) rfl fun _ _ ⟨hobj, hn⟩ => opTierUnpin_held hobj hn⟩,
    runs_opFn opTierUsage rfl (fun _ _ _ _ => rfl) rfl fun _ _ _ => rfl,
    runs_opFn opSlowAttach rfl (fun _ _ _ _ => rfl) rfl fun _ _ ⟨hmode, hconf, hst⟩ => opSlowAttach_asks hmode hconf hst,
    runs_opFn (eff := fun _ e => slowFormatted e) opSlowAttach rfl (fun _ _ _ _ => rfl) rfl fun _ _ ⟨hmode, hconf, hst, hpins⟩ => opSlowAttach_formats hmode hconf hst hpins,
    runs_opFn opIpmChannel rfl (fun _ _ _ _ => rfl) rfl fun _ _ ⟨hn, hback, hst, hout⟩ => opIpmChannel_leaves hn hback hst hout,
    runs_opFn opIpmChannel rfl (fun _ _ _ _ => rfl) rfl fun _ _ ⟨hn, hback, hst⟩ => opIpmChannel_online hn hback hst,
    starts_opFn opIpmChannel rfl (fun _ _ _ _ => rfl) rfl rfl fun _ _ ⟨hn, hback, hst⟩ => opIpmChannel_joins hn hback hst,
    starts_opFn opIpmChannel rfl (fun _ _ _ _ => rfl) rfl rfl fun _ _ ⟨hn, hback, hst, hassay⟩ => opIpmChannel_tries hn hback hst hassay,
    starts_opFn opIpmChannel rfl (fun _ _ _ _ => rfl) rfl rfl fun _ _ ⟨hn, hback, hst, hassay⟩ => opIpmChannel_waits hn hback hst hassay⟩

end

end Sys2Proof.Machine
end

section
/-! PROOF. The opcodes of the fleet: what the function of each gives where its checks pass. -/

namespace Sys2Proof.Machine

section
variable {c : OpCtx} {d : Dev}

/-! ### FLEET_CONFIG (R424-R426) -/

/-- The fields of a FLEET_CONFIG are in range. -/
def configOk (c : OpCtx) : Prop :=
  c.d.f 24 2 ≤ 16383 ∧ c.d.u8 27 ≤ 31 ∧ bitsOf 14 12 (c.d.f 28 2) = 0 ∧ c.d.u8 30 ≤ 7 ∧ c.d.u8 31 ≤ 1
  ∧ (c.d.u8 26 = 6 ∨ (c.d.u8 26 = 4 ∧ beNat (c.d.bytes 32 4) % 16384 = 0 ∧ leNat (c.d.bytes 36 12) = 0 ∧ leNat (c.d.bytes 52 12) = 0))

/-- The part with the configuration taken: a new address of its own ends the session of administration. -/
def configTaken (c : OpCtx) (e : Dev) : Dev :=
  let f := e.setFleet fun f => { f with cfg := c.d.bytes 24 40, alt := false }
  if f.address f.devId == e.address e.devId then f else
    match f.fleet.sessions.find? (·.admin) with
    | some s => sessionClose s.id f
    | none => f

section
variable (hok : configOk c) (hlock : d.lockedCpl = none)
include hok hlock

/-- What FLEET_CONFIG does with a configuration that it takes. -/
theorem opFleetConfig_eq (hst : d.fleet.st ≠ .joined) :
    opFleetConfig c d = (match (configTaken c d).fleet.st with
      | .off => opDone (fleetState .configured (configTaken c d)) .ok
      | .enrolled => if (configTaken c d).devId = d.devId then opDone (configTaken c d) .ok else
          opDone (fleetState .configured ((configTaken c d).setFleet fun f => { f with enrolment := none })) .ok
      | _ => opDone (configTaken c d) .ok) := by
  obtain ⟨h24, h27, h28, h30, h31, hver⟩ := hok
  have hver4 : (c.d.u8 26 = 4 && (beNat (c.d.bytes 32 4) % 16384 != 0 || leNat (c.d.bytes 36 12) != 0 || leNat (c.d.bytes 52 12) != 0)) = false := by
    obtain h | ⟨h, h', h'', h'''⟩ := hver
    · simp [h]
    · simp [h, h', h'', h''']
  unfold opFleetConfig
  simp only [hver4]
  rw [if_neg (by simp [h28]; omega)]
  simp only [hlock]
  rw [if_neg (by simpa using hst)]
  rfl

theorem opFleetConfig_off (hst : d.fleet.st = .off) (hst' : (configTaken c d).fleet.st = .off) :
    opFleetConfig c d = opDone (fleetState .configured (configTaken c d)) .ok := by
  simp only [opFleetConfig_eq hok hlock (by simp [hst]), hst']

theorem opFleetConfig_configured (hst : d.fleet.st = .configured) (hst' : (configTaken c d).fleet.st = .configured) :
    opFleetConfig c d = opDone (configTaken c d) .ok := by
  simp only [opFleetConfig_eq hok hlock (by simp [hst]), hst']

variable (hst : d.fleet.st = .enrolled) (hst' : (configTaken c d).fleet.st = .enrolled)
include hst hst'

/-- A new device number ends the enrolment. -/
theorem opFleetConfig_renumbered (hid : (configTaken c d).devId ≠ d.devId) :
    opFleetConfig c d = opDone (fleetState .configured ((configTaken c d).setFleet fun f => { f with enrolment := none })) .ok := by
  simp only [opFleetConfig_eq hok hlock (by simp [hst]), hst', if_neg hid]

theorem opFleetConfig_enrolled (hid : (configTaken c d).devId = d.devId) : opFleetConfig c d = opDone (configTaken c d) .ok := by
  simp only [opFleetConfig_eq hok hlock (by simp [hst]), hst', if_pos hid]

end

/-! ### FLEET_ENROL (R429) -/

/-- The flags and the length of a chunk of an enrolment item are in range. -/
def enrolOk (c : OpCtx) : Prop := c.d.u8 25 ≤ 3 ∧ 1 ≤ c.d.f 28 4 ∧ c.d.f 28 4 ≤ 4096 ∧ (c.d.u8 25 % 2 = 1 → c.d.f 40 4 = 0)

/-- What the item held before the chunk. -/
def enrolHeld (c : OpCtx) (b : Bytes) : Bytes := if c.d.u8 25 % 2 = 1 then [] else b

/-- The chunk follows what is held, and the last one ends the item. -/
def enrolPlaced (c : OpCtx) (b : Bytes) (total : Nat) : Prop :=
  c.d.f 40 4 = (enrolHeld c b).length ∧ c.d.f 40 4 + c.d.f 28 4 ≤ total ∧ (c.d.u8 25 / 2 % 2 = 1 → c.d.f 40 4 + c.d.f 28 4 = total)

/-- The item with the chunk. -/
def enrolItem (c : OpCtx) (e : Dev) (b : Bytes) : Bytes := enrolHeld c b ++ c.input e 32 (c.d.f 28 4)

theorem testBit_one (n : Nat) : n.testBit 1 = (n / 2 % 2 == 1) := by simp [Nat.testBit, Nat.shiftRight_eq_div_pow]

section
variable (hok : enrolOk c) (hlock : d.lockedCpl = none)
include hok hlock

/-- A chunk of the authority's item. -/
theorem opFleetEnrol_authority (hitem : c.d.u8 24 = 0) (hplaced : enrolPlaced c d.fleet.authIn 2592) :
    opFleetEnrol c d = opDone (d.setFleet fun f =>
      if c.d.u8 25 / 2 % 2 = 1 then { f with auth := enrolItem c d d.fleet.authIn, authIn := [] } else { f with authIn := enrolItem c d d.fleet.authIn }) .ok := by
  obtain ⟨h25, hlen, hlen', hoff⟩ := hok
  obtain ⟨hat, hfits, hwhole⟩ := hplaced
  unfold enrolHeld at hat
  unfold opFleetEnrol
  simp only [hitem, testBit_one, hlock]
  rw [if_neg (by simp; grind), if_neg (by simp; grind), if_pos (by simp)]
  simp only [enrolItem, enrolHeld, beq_iff_eq, if_pos]

/-- A chunk of the certificate, short of its end. -/
theorem opFleetEnrol_certificate (hitem : c.d.u8 24 = 1) (hfl : c.d.u8 25 ≤ 1) (hplaced : enrolPlaced c d.fleet.certIn 7283) :
    opFleetEnrol c d = opDone (d.setFleet fun f => { f with certIn := enrolItem c d d.fleet.certIn }) .ok := by
  obtain ⟨h25, hlen, hlen', hoff⟩ := hok
  obtain ⟨hat, hfits, hwhole⟩ := hplaced
  have hnot : (c.d.u8 25 / 2 % 2 == 1) = false := by simp; omega
  unfold enrolHeld at hat
  unfold opFleetEnrol
  simp only [hitem, testBit_one, hlock, hnot]
  rw [if_neg (by simp; grind), if_neg (by simp; grind), if_pos (by decide)]
  simp only [enrolItem, enrolHeld, beq_iff_eq, one_ne_zero, if_false]

/-- The end of a certificate that verifies. -/
theorem opFleetEnrol_enrols (hitem : c.d.u8 24 = 1) (hfl : 2 ≤ c.d.u8 25) (hplaced : enrolPlaced c d.fleet.certIn 7283)
    (hcert : d.certFault (enrolItem c d d.fleet.certIn) = none) (hst : d.fleet.st = .configured ∨ d.fleet.st = .enrolled) :
    opFleetEnrol c d = opDone (fleetState .enrolled ((d.setFleet fun f => { f with certIn := enrolItem c d d.fleet.certIn }).setFleet fun f =>
      { f with enrolment := some (f.auth, enrolItem c d d.fleet.certIn) })) .ok := by
  obtain ⟨h25, hlen, hlen', hoff⟩ := hok
  obtain ⟨hat, hfits, hwhole⟩ := hplaced
  have hfinal : (c.d.u8 25 / 2 % 2 == 1) = true := by simp; omega
  unfold enrolHeld at hat
  simp only [enrolItem, enrolHeld] at hcert ⊢
  unfold opFleetEnrol
  simp only [hitem, testBit_one, hlock, hfinal]
  rw [if_neg (by simp; grind), if_neg (by simp; grind), if_neg (by decide)]
  simp only [beq_iff_eq, one_ne_zero, if_false, hcert]
  obtain h | h := hst <;> simp only [h]

end

/-! ### FLEET_JOIN and FLEET_FRAME (R430, R432, R437) -/

theorem opFleetJoin_joins (hjoin : c.d.u8 24 = 1) (hst : d.fleet.st = .enrolled) : opFleetJoin c d = opDone (restartShards (fleetState .joined d)) .ok := by
  simp only [opFleetJoin, hjoin, hst]

theorem opFleetJoin_leaves (hjoin : c.d.u8 24 = 0) (hst : d.fleet.st = .joined)
    (hidle : ∀ h ∈ d.fleet.hosted, h.st ≠ .primary ∧ h.st ≠ .handingOver ∧ h.st ≠ .claiming) :
    opFleetJoin c d = opDone (fleetLeave (fleetState .enrolled d)) .ok := by
  have hany : (d.fleet.hosted.any fun h => h.st == .primary || h.st == .handingOver || h.st == .claiming) = false := by
    simpa [List.any_eq_false, and_assoc] using hidle
  simp only [opFleetJoin, hjoin, hst, hany]
  rfl

/-- The frame's rotation has the length 1. -/
def unitRotation (c : OpCtx) : Prop :=
  let q (k : Nat) : Int := sInt 32 (c.d.f (48 + 4 * k) 4)
  (q 0 * q 0 + q 1 * q 1 + q 2 * q 2 + q 3 * q 3 - (2 ^ 60 : Nat)).natAbs ≤ 2 ^ 44

theorem opFleetFrame_unit (hq : unitRotation c) (hlock : d.lockedCpl = none) :
    opFleetFrame c d = opDone (d.setFleet fun f => { f with frame := c.d.bytes 24 40 }) .ok := by
  refine (if_neg (Nat.not_lt.2 hq)).trans ?_
  simp only [hlock]

/-! ### SHARD_TABLE (R438, R439) -/

/-- A chunk of the table in range, in a part that has joined, that follows what it holds. -/
def tableOk (c : OpCtx) (e : Dev) : Prop :=
  1 ≤ c.d.f 28 4 ∧ c.d.f 28 4 ≤ 65536 ∧ e.lockedCpl = none ∧ e.fleet.st = .joined
  ∧ c.d.f 40 4 = (if c.d.u8 24 % 2 = 1 then [] else e.fleet.tableIn).length ∧ c.d.f 40 4 + c.d.f 28 4 ≤ 65536

/-- The entries with the chunk. -/
def tableRows (c : OpCtx) (e : Dev) : List Bytes :=
  (if c.d.u8 24 % 2 = 1 then [] else e.fleet.tableIn) ++ pieces 64 (c.d.f 28 4) (c.input e 32 (64 * c.d.f 28 4))

/-- What the last chunk leaves and answers: each entry taken, with the older epoch of one that is known kept back. -/
def tableTaken (c : OpCtx) (e : Dev) : Dev × Cpl :=
  let old := e.fleet.table
  let pick (x : Bytes) : Bytes := match old.find? fun y => fld y 0 4 == fld x 0 4 with
    | some y => if eEpoch x < eEpoch y then eHeader x (eEpoch y) (ePrimary y) else x
    | none => x
  let new := (tableRows c e).map pick
  let known := new.filter fun x => old.any fun y => fld y 0 4 == fld x 0 4
  let f := e.setFleet fun f => { f with
    tableIn := [], table := old.filter fun y => known.any fun x => fld x 0 4 == fld y 0 4 }
  let f := known.foldl (fun f x => takeEntry (fld x 0 4) x 0 f) f
  (f.setFleet fun f => { f with table := new }, .ok new.length)

section
variable (hok : tableOk c d)
include hok

theorem opShardTable_kept (hfl : c.d.u8 24 ≤ 1) : opShardTable c d = opDone (d.setFleet fun f => { f with tableIn := tableRows c d }) .ok := by
  obtain ⟨hn, hn', hlock, hst, hat, hfits⟩ := hok
  have hnot : (c.d.u8 24).testBit 1 = false := by simp [testBit_one]; omega
  unfold opShardTable
  simp only [hnot, hlock]
  rw [if_neg (by simp; grind), if_neg (by simp [hst]), if_neg (by simp; grind), if_pos (by decide)]
  simp only [tableRows, beq_iff_eq]

theorem opShardTable_taken (hfl : 2 ≤ c.d.u8 24) (hfl' : c.d.u8 24 ≤ 3) (hgood : shardFault (tableRows c d) = none) :
    opShardTable c d = opDone (tableTaken c d).1 (tableTaken c d).2 := by
  obtain ⟨hn, hn', hlock, hst, hat, hfits⟩ := hok
  have hlast : (c.d.u8 24).testBit 1 = true := by simp [testBit_one]; omega
  unfold opShardTable
  simp only [hlast, hlock]
  rw [if_neg (by simp; grind), if_neg (by simp [hst]), if_neg (by simp; grind), if_neg (by decide)]
  simp only [tableRows] at hgood
  simp only [beq_iff_eq, hgood, tableTaken, tableRows] <;> rfl

end

/-! ### Shards: hosted, dropped, handed over and claimed (R441, R442, R446, R447, R452) -/

section
variable {x : Bytes} (hst : d.fleet.st = .joined) (hentry : d.shardEntry (c.d.f 24 4) = some x)

/-- The index that a SHARD_HOST makes. -/
def hostedIndex (x : Bytes) (c : OpCtx) : PIndex :=
  let y := { entryIndex x with residency := c.d.u8 29, sideCap := c.d.f 32 4 }
  { y with proj := if y.format = 0 then Config.shake256 (sliceAt x 48 8) (8 * y.codeBytes * y.dim) else [] }

/-- The part with that index. -/
def hostMade (x : Bytes) (c : OpCtx) (e : Dev) : Dev :=
  ixState (c.d.u8 28) .ready 0 ((makeObjects (c.d.u8 28) 2 (hostedIndex x c) e).setIx (c.d.u8 28) fun _ => hostedIndex x c)

/-- The part with the shard hosted. -/
def hostPut (x : Bytes) (c : OpCtx) (e : Dev) (st : ShSt) : Dev :=
  evShard (c.d.f 24 4) st 0 ((hostMade x c e).setFleet fun f => { f with hosted := f.hosted ++ [{ shard := c.d.f 24 4, slot := c.d.u8 28, st := st }] })

/-- What a SHARD_HOST answers. -/
def hostedCpl (x : Bytes) (c : OpCtx) (f : Dev) : Cpl := .ok (hostedIndex x c).ipmBytes (if f.slowOn then (hostedIndex x c).slowBytes else 0)

include hst hentry

theorem shardGuard_joined (g : Bytes → Dev × OpResult) : shardGuard (c.d.f 24 4) d g = g x := by
  simp [shardGuard, hst, hentry]

section
variable (hi : 1 ≤ c.d.u8 28) (hi' : c.d.u8 28 ≤ 15) (hres : c.d.u8 29 ≤ 2) (hside : 1024 ≤ c.d.f 32 4) (hside' : c.d.f 32 4 ≤ 16777216)
  (hhost : d.host (c.d.f 24 4) = none) (hholder : (eHolders x).contains d.devId = true) (hempty : (d.ix (c.d.u8 28)).st = .empty)
  (hids : d.ixIdsFit { entryIndex x with residency := c.d.u8 29, sideCap := c.d.f 32 4 } = true) (hroom : d.ixShort (hostedIndex x c) = none)
include hi hi' hres hside hside' hhost hholder hempty hids hroom

/-- What SHARD_HOST does once its checks pass. -/
theorem opShardHost_eq :
    opShardHost c d = (
      let st : ShSt := if ePrimary x = (hostMade x c d).devId then .primary else .syncing
      let f := hostPut x c d st
      opDone (if ePrimary x = (hostMade x c d).devId then f else syncStart (c.d.f 24 4) f) (hostedCpl x c f)) := by
  unfold opShardHost
  refine (if_neg ?_).trans ?_
  · simp; omega
  refine (shardGuard_joined hst hentry _).trans ?_
  simp only [hentry, Option.getD_some]
  rw [if_neg (by simp [hhost]), if_neg (by simpa using hholder), if_neg (by simp [hempty]), if_neg (by simp [hids])]
  erw [hroom]
  rfl

theorem opShardHost_primary (hmine : ePrimary x = (hostMade x c d).devId) :
    opShardHost c d = opDone (hostPut x c d .primary) (hostedCpl x c (hostPut x c d .primary)) := by
  simp only [opShardHost_eq hst hentry hi hi' hres hside hside' hhost hholder hempty hids hroom, if_pos hmine]

theorem opShardHost_replica (hmine : ePrimary x ≠ (hostMade x c d).devId) :
    opShardHost c d = opDone (syncStart (c.d.f 24 4) (hostPut x c d .syncing)) (hostedCpl x c (hostPut x c d .syncing)) := by
  simp only [opShardHost_eq hst hentry hi hi' hres hside hside' hhost hholder hempty hids hroom, if_neg hmine]

end

theorem opShardDrop_replica (h : d.shardSt (c.d.f 24 4) = .syncing ∨ d.shardSt (c.d.f 24 4) = .replica) :
    opShardDrop c d = opDone (dropShard (c.d.f 24 4) 0 d) .ok := by
  obtain h | h := h <;> simp only [opShardDrop, shardGuard_joined hst hentry, h]

/-- The part with the handover of the shard asked of its successor. -/
def handoverAsked (h : Hosted) (c : OpCtx) (e : Dev) : Dev :=
  let ms := if c.d.f 36 2 = 0 then 5000 else c.d.f 36 2
  sendReq 0x34 (c.d.f 28 2) (c.d.f 24 4) 0 (.handoverReq h.rev) (shardState (c.d.f 24 4) .handingOver 0
    ((commitPoint c.tok e).setHost (c.d.f 24 4) fun h => { h with handing := some (c.tok, c.d.f 28 2, e.now + ms * msNs) }))

theorem opShardHandover_asks {h : Hosted} (hsucc : c.d.f 28 2 ≤ 16383) (hhost : d.host (c.d.f 24 4) = some h) (hprimary : h.st = .primary)
    (hepoch : eEpoch x = c.d.f 32 4) (hpeer : (h.peers.find? fun p => p.1 == c.d.f 28 2).map (·.2) = some 0x0903)
    (hholder : (eHolders x).contains (c.d.f 28 2) = true) :
    opShardHandover c d = (handoverAsked h c d, .later) := by
  unfold opShardHandover
  rw [if_neg (Nat.not_lt.2 hsucc), shardGuard_joined hst hentry]
  simp only [hhost, hpeer]
  rw [if_neg (by simp [hprimary]), if_neg (by simp [hepoch]), if_neg (by simpa using hholder)]
  rfl

theorem opShardPromote_claims (hreplica : d.shardSt (c.d.f 24 4) = .replica) (hepoch : eEpoch x = c.d.f 32 4) :
    opShardPromote c d = (startClaim (c.d.f 24 4) 0 (some c.tok)
      (setEntry (c.d.f 24 4) (eMoved x (eEpoch x + 1) d.devId) (commitPoint c.tok d)), .later) := by
  simp only [opShardPromote, shardGuard_joined hst hentry, hreplica]
  exact if_neg (by simp [hepoch])

end

theorem opShardStatus_entry {x : Bytes} (hentry : d.shardEntry (c.d.f 24 4) = some x) :
    opShardStatus c d = opDone d (
      let h := d.host (c.d.f 24 4)
      .ok ((d.shardSt (c.d.f 24 4)).code % 256 + atBit 8 ((h.map (·.slot)).getD 0) + atBit 16 (ePrimary x) + atBit 32 (eEpoch x))
        ((h.map (·.rev)).getD 0)) := by
  simp only [opShardStatus, hentry]

/-! ### FLEET_QUERY (R453, R454, R456, R457) -/

/-- The part with a fleet query entered and its shards asked. -/
def fleetAsked (c : OpCtx) (e : Dev) : Dev :=
  let picked := e.pickShards (sInt 32 (c.d.f 56 4)) (sInt 32 (c.d.f 60 4)) (sInt 32 (c.d.f 52 4)) (c.d.u8 27)
  let key (x : Bytes) : List Nat := [fld x 24 1, fld x 25 1, fld x 26 2]
  let same := picked.filter fun x => key x == key (picked.headD [])
  let vb := (entryIndex (picked.headD [])).vecBytes
  let holders (x : Bytes) : List Nat :=
    let s := if c.d.u8 24 / 2 = 0 then 0 else c.tok.count.toNat % (eHolders x).length
    (eHolders x).drop s ++ (eHolders x).take s
  let qid := e.fleet.nextQuery
  let q : FleetQ := {
    id := qid, tok := c.tok, dest := c.d.f 40 8, k := c.d.u8 25, n := c.d.f 48 2, rerank := max (c.d.u8 26) (c.d.u8 25), len := c.d.f 28 2
    timeoutMs := if c.d.f 30 2 = 0 then 20 else c.d.f 30 2
    vecs := if picked.isEmpty then [] else pieces vb (c.d.f 48 2) (c.input e 32 (e.queryBytes c.d)), scattered := e.tb64
    formatBad := decide (same.length < picked.length), shards := same.map fun x => { shard := fld x 0 4, holders := holders x } }
  let f := e.setFleet fun f => { f with queries := f.queries ++ [q], nextQuery := qid + 1 }
  queryCheck qid ((same.map fun x => fld x 0 4).foldl (fun f s => askShard qid s f) f)

theorem opFleetQuery_asks (h24 : c.d.u8 24 ≤ 3) (hk : 1 ≤ c.d.u8 25) (hk' : c.d.u8 25 ≤ 64) (hrr : c.d.u8 26 ≤ 64) (hmost : 1 ≤ c.d.u8 27)
    (hmost' : c.d.u8 27 ≤ 64) (hlen : 16 ≤ c.d.f 28 2) (hlen' : c.d.f 28 2 ≤ 256) (hms : c.d.f 30 2 ≤ 1000) (hn : 1 ≤ c.d.f 48 2)
    (hn' : c.d.f 48 2 ≤ 256) : opFleetQuery c d = (fleetAsked c d, .later) := by
  refine (if_neg ?_).trans ?_
  · simp; omega
  · rfl

/-- Settles O38: the configuration, the enrolment, the membership, the table and the shards of a part, and a query to its fleet. -/
theorem fleetOpcodesComplete : Obligations.FleetOpcodesComplete :=
  ⟨⟨runs_opFn opFleetConfig rfl (fun _ _ _ _ => rfl) rfl fun _ _ ⟨hok, hlock, hst, hst'⟩ => opFleetConfig_off hok hlock hst hst',
      runs_opFn opFleetConfig rfl (fun _ _ _ _ => rfl) rfl fun _ _ ⟨hok, hlock, hst, hst'⟩ => opFleetConfig_configured hok hlock hst hst',
      runs_opFn opFleetConfig rfl (fun _ _ _ _ => rfl) rfl fun _ _ ⟨hok, hlock, hst, hst', hid⟩ => opFleetConfig_renumbered hok hlock hst hst' hid,
      runs_opFn opFleetConfig rfl (fun _ _ _ _ => rfl) rfl fun _ _ ⟨hok, hlock, hst, hst', hid⟩ => opFleetConfig_enrolled hok hlock hst hst' hid⟩,
    ⟨runs_opFn opFleetEnrol rfl (fun _ _ _ _ => rfl) rfl fun _ _ ⟨hitem, hok, hlock, hplaced⟩ => opFleetEnrol_authority hok hlock hitem hplaced,
      runs_opFn opFleetEnrol rfl (fun _ _ _ _ => rfl) rfl fun _ _ ⟨hitem, hfl, hok, hlock, hplaced⟩ =>
        opFleetEnrol_certificate hok hlock hitem hfl hplaced,
      runs_opFn opFleetEnrol rfl (fun _ _ _ _ => rfl) rfl fun _ _ ⟨hitem, hfl, hok, hlock, hplaced, hcert, hst⟩ =>
        opFleetEnrol_enrols hok hlock hitem hfl hplaced hcert hst⟩,
    runs_opFn opFleetJoin rfl (fun _ _ _ _ => rfl) rfl fun _ _ ⟨hjoin, hst⟩ => opFleetJoin_joins hjoin hst,
    runs_opFn opFleetJoin rfl (fun _ _ _ _ => rfl) rfl fun _ _ ⟨hjoin, hst, hidle⟩ => opFleetJoin_leaves hjoin hst hidle,
    runs_opFn opFleetFrame rfl (fun _ _ _ _ => rfl) rfl fun _ _ ⟨hq, hlock⟩ => opFleetFrame_unit hq hlock,
    ⟨runs_opFn opShardTable rfl (fun _ _ _ _ => rfl) rfl fun _ _ ⟨hok, hfl⟩ => opShardTable_kept hok hfl,
      runs_opFn (eff := fun c e => tableTaken c e) opShardTable rfl (fun _ _ _ _ => rfl) rfl fun _ _ ⟨hok, hfl, hfl', hgood⟩ =>
        opShardTable_taken hok hfl hfl' hgood⟩,
    fun x => ⟨⟨runs_opFn (eff := fun c e => (hostPut x c e .primary, hostedCpl x c (hostPut x c e .primary)))
          opShardHost rfl (fun _ _ _ _ => rfl) rfl
          fun _ _ ⟨⟨⟨hst, hentry⟩, hi, hi', hres, hside, hside', hhost, hholder, hempty, hids, hroom⟩, hmine⟩ =>
            opShardHost_primary hst hentry hi hi' hres hside hside' hhost hholder hempty hids hroom hmine,
        runs_opFn (eff := fun c e => (syncStart (c.d.f 24 4) (hostPut x c e .syncing), hostedCpl x c (hostPut x c e .syncing)))
          opShardHost rfl (fun _ _ _ _ => rfl) rfl
          fun _ _ ⟨⟨⟨hst, hentry⟩, hi, hi', hres, hside, hside', hhost, hholder, hempty, hids, hroom⟩, hmine⟩ =>
            opShardHost_replica hst hentry hi hi' hres hside hside' hhost hholder hempty hids hroom hmine⟩,
      runs_opFn opShardDrop rfl (fun _ _ _ _ => rfl) rfl fun _ _ ⟨⟨hst, hentry⟩, h⟩ => opShardDrop_replica hst hentry h,
      fun _ => starts_opFn opShardHandover rfl (fun _ _ _ _ => rfl) rfl rfl
        fun _ _ ⟨hsucc, ⟨hst, hentry⟩, hhost, hprimary, hepoch, hpeer, hholder⟩ =>
          opShardHandover_asks hst hentry hsucc hhost hprimary hepoch hpeer hholder,
      starts_opFn opShardPromote rfl (fun _ _ _ _ => rfl) rfl rfl fun _ _ ⟨⟨hst, hentry⟩, hreplica, hepoch⟩ =>
        opShardPromote_claims hst hentry hreplica hepoch,
      runs_opFn opShardStatus rfl (fun _ _ _ _ => rfl) rfl fun _ _ hentry => opShardStatus_entry hentry⟩,
    starts_opFn opFleetQuery rfl (fun _ _ _ _ => rfl) rfl rfl
      fun _ _ ⟨h24, hk, hk', hrr, hmost, hmost', hlen, hlen', hms, hn, hn'⟩ =>
        opFleetQuery_asks h24 hk hk' hrr hmost hmost' hlen hlen' hms hn hn'⟩

end

end Sys2Proof.Machine
end

section
/-! PROOF. The opcodes of faults and of base-metal mode: what the function of each gives where its checks pass. -/

namespace Sys2Proof.Machine

section
variable {c : OpCtx} {d : Dev}

/-! ### The status and the log (R465) -/

theorem opFltLog_answers (hn : 1 ≤ c.d.f 24 2) (hn' : c.d.f 24 2 ≤ 256) (hlen : c.inline = true → (d.flt.log.take (c.d.f 24 2)).length ≤ 128) :
    opFltLog c d = opDone d (
      let l := d.flt.log.take (c.d.f 24 2)
      c.output 32 (l.flatMap (·.bytes)) (.ok l.length)) := by
  unfold opFltLog
  rw [if_neg (by simp; omega), if_neg (by rw [Bool.and_eq_true, decide_eq_true_eq]; exact fun h => Nat.not_lt.2 (hlen h.1) h.2)]

/-- The entries that an inline descriptor would have no room for. -/
theorem opFltLog_tooLong (hin : c.inline = true) (hn' : c.d.f 24 2 ≤ 256) (hlen : 128 < (d.flt.log.take (c.d.f 24 2)).length) :
    opFltLog c d = opDone d .bad := by
  have hn : 128 < c.d.f 24 2 := hlen.trans_le (List.length_take_le ..)
  unfold opFltLog
  rw [if_neg (by simp; omega), if_pos (by rw [hin, Bool.true_and]; exact decide_eq_true hlen)]

/-! ### UNIT_FENCE and UNIT_RETURN (R469, R472) -/

/-- The descriptor names a unit of the kind `k`, there is one, it is not gated and no Assay of it runs. -/
def soundUnit (c : OpCtx) (e : Dev) (k : Nat) : Prop :=
  c.d.u8 24 = k ∧ unitOk k (c.d.f 26 2) = true ∧ e.unitGated k (c.d.f 26 2) = false ∧ e.assayOf k (c.d.f 26 2) = none

/-- The engine that the descriptor names. -/
def namedEngine (c : OpCtx) (e : Dev) : Engine := e.eng (c.d.f 26 2 / 256) (c.d.f 26 2 % 256)

/-- The array can spare it. -/
def sparesEngine (c : OpCtx) (e : Dev) : Prop := e.flt.minLive.toNat ≤ e.keptEngines - 1 ∧ (namedEngine c e).leaving = none

/-- A fence counted. -/
def fenceCounted (e : Dev) : Dev := { e with flt := { e.flt with fences := satInc e.flt.fences } }

section
variable (hs : soundUnit c d 0) (hf : d.unitFencedNow 0 (c.d.f 26 2) = false) (hspare : sparesEngine c d)
include hs hf hspare

theorem opUnitFence_idle_engine (hrun : (namedEngine c d).running = none) :
    opUnitFence c d = (leaveEngine (c.d.f 26 2 / 256) (c.d.f 26 2 % 256) (some c.tok, false) d, .later) := by
  obtain ⟨hk, hu, hg, ha⟩ := hs
  obtain ⟨hlive, hleaving⟩ := hspare
  unfold namedEngine at hrun hleaving
  simp [opUnitFence, hk, hu, hg, ha, hf, hrun, hleaving, Nat.not_lt.2 hlive]

theorem opUnitFence_running_engine (hrun : (namedEngine c d).running ≠ none) :
    opUnitFence c d
      = (d.setEng (c.d.f 26 2 / 256) (c.d.f 26 2 % 256) fun x => { x with leaving := some (some c.tok, false) }, .later) := by
  obtain ⟨hk, hu, hg, ha⟩ := hs
  obtain ⟨hlive, hleaving⟩ := hspare
  unfold namedEngine at hrun hleaving
  simp [opUnitFence, hk, hu, hg, ha, hf, hrun, hleaving, Nat.not_lt.2 hlive]

end

theorem opUnitFence_core (hs : soundUnit c d 3) (hf : d.unitFencedNow 3 (c.d.f 26 2) = false) (hlive : 2 ≤ d.liveCores) :
    opUnitFence c d = opDone (fenceCounted (coreGone (c.d.f 26 2) 1 false d)) .ok := by
  obtain ⟨hk, hu, hg, ha⟩ := hs
  simp [opUnitFence, hk, hu, hg, ha, hf, Nat.not_le.2 hlive, fenceCounted]

theorem opUnitFence_touchstone (hs : soundUnit c d 5) (hf : d.unitFencedNow 5 (c.d.f 26 2) = false) :
    opUnitFence c d = opDone (fenceCounted (d.setTs (c.d.f 26 2) fun x => { x with st := .fenced })) .ok := by
  obtain ⟨hk, hu, hg, ha⟩ := hs
  simp [opUnitFence, hk, hu, hg, ha, hf, fenceCounted]

theorem opUnitReturn_engine (hs : soundUnit c d 0) (hf : d.unitFencedNow 0 (c.d.f 26 2) = true) :
    opUnitReturn c d = (beginAssay 0 (c.d.f 26 2) (.unitReturn c.tok) false
      (d.setEng (c.d.f 26 2 / 256) (c.d.f 26 2 % 256) fun x => { x with st := .assay }), .later) := by
  obtain ⟨hk, hu, hg, ha⟩ := hs
  simp [opUnitReturn, hk, hu, hg, ha, hf]

theorem opUnitReturn_core (hs : soundUnit c d 3) (hf : d.unitFencedNow 3 (c.d.f 26 2) = true) :
    opUnitReturn c d = (beginAssay 3 (c.d.f 26 2) (.unitReturn c.tok) false
      { d with flt := { d.flt with core := upd d.flt.core (c.d.f 26 2) fun _ => 2 } }, .later) := by
  obtain ⟨hk, hu, hg, ha⟩ := hs
  simp [opUnitReturn, hk, hu, hg, ha, hf]

theorem opUnitReturn_touchstone (hs : soundUnit c d 5) (hf : d.unitFencedNow 5 (c.d.f 26 2) = true) :
    opUnitReturn c d = (beginAssay 5 (c.d.f 26 2) (.unitReturn c.tok) false d, .later) := by
  obtain ⟨hk, hu, hg, ha⟩ := hs
  simp [opUnitReturn, hk, hu, hg, ha, hf]

/-! ### ASSAY_RUN, by the kind of its unit (R480-R482) -/

theorem opAssayRun_fenced_engine (hs : soundUnit c d 0) (hf : d.unitFencedNow 0 (c.d.f 26 2) = true) :
    opAssayRun c d = (beginAssay 0 (c.d.f 26 2) (.run c.tok) false
      (d.setEng (c.d.f 26 2 / 256) (c.d.f 26 2 % 256) fun x => { x with st := .assay }), .later) := by
  obtain ⟨hk, hu, hg, ha⟩ := hs
  simp [opAssayRun, hk, hu, hg, ha, hf]

theorem opAssayRun_idle_engine (hs : soundUnit c d 0) (hf : d.unitFencedNow 0 (c.d.f 26 2) = false) (hspare : sparesEngine c d)
    (hceil : d.overCeiling (c.d.f 26 2 / 256) 0 (d.keptIn (c.d.f 26 2 / 256) - 1) = false) (hrun : (namedEngine c d).running = none) :
    opAssayRun c d = (leaveEngine (c.d.f 26 2 / 256) (c.d.f 26 2 % 256) (some c.tok, true) d, .later) := by
  obtain ⟨hk, hu, hg, ha⟩ := hs
  obtain ⟨hlive, hleaving⟩ := hspare
  unfold namedEngine at hrun hleaving
  simp [opAssayRun, hk, hu, hg, ha, hf, hrun, hleaving, Nat.not_lt.2 hlive, hceil]

theorem opAssayRun_walker (hs : soundUnit c d 1) (hst : (d.wk (c.d.f 26 2)).st = .online) (hlast : d.onlineWalkers.length ≠ 1) :
    opAssayRun c d = (beginAssay 1 (c.d.f 26 2) (.run c.tok) true (moveContexts (c.d.f 26 2) (wkState (c.d.f 26 2) .off 0 d)), .later) := by
  obtain ⟨hk, hu, hg, ha⟩ := hs
  simp [opAssayRun, hk, hu, hg, ha, hst, hlast]

theorem opAssayRun_pipe (hs : soundUnit c d 2) (hst : (d.vp (c.d.f 26 2)).st = .off) :
    opAssayRun c d = (beginAssay 2 (c.d.f 26 2) (.run c.tok) false d, .later) := by
  obtain ⟨hk, hu, hg, ha⟩ := hs
  simp [opAssayRun, hk, hu, hg, ha, hst]

theorem opAssayRun_core (hs : soundUnit c d 3) (hcore : d.flt.core.getD (c.d.f 26 2) 0 ≠ 1) (hlive : 2 ≤ d.liveCores) :
    opAssayRun c d = (beginAssay 3 (c.d.f 26 2) (.run c.tok) true (coreGone (c.d.f 26 2) 2 false d), .later) := by
  obtain ⟨hk, hu, hg, ha⟩ := hs
  unfold opAssayRun
  simp only [hk, hu, hg, ha]
  rw [if_neg (by decide), if_neg (by decide), if_neg (by decide), if_neg (by simpa using hcore), if_neg (Nat.not_le.2 hlive)]

theorem opAssayRun_channel (hs : soundUnit c d 4) (hst : (d.ipmCh (c.d.f 26 2)).st = .online) (hout : (d.groupOut (c.d.f 26 2 % 8)).isEmpty = true) :
    opAssayRun c d = (beginAssay 4 (c.d.f 26 2) (.run c.tok) true (chChange (c.d.f 26 2) .offline 0 d), .later) := by
  obtain ⟨hk, hu, hg, ha⟩ := hs
  unfold opAssayRun
  simp only [hk, hu, hg, ha, hst, if_pos hout]
  rfl

theorem opAssayRun_touchstone (hs : soundUnit c d 5) :
    opAssayRun c d = (beginAssay 5 (c.d.f 26 2) (.run c.tok) ((d.ts.getD (c.d.f 26 2) {}).st != .fenced)
      (d.setTs (c.d.f 26 2) fun x => { x with st := .fenced }), .later) := by
  obtain ⟨hk, hu, hg, ha⟩ := hs
  simp [opAssayRun, hk, hu, hg, ha]

theorem opAssayRun_ethernet (hs : soundUnit c d 6) (hen : (d.eth.getD (c.d.f 26 2) {}).enable = true) :
    opAssayRun c d = (beginAssay 6 (c.d.f 26 2) (.run c.tok) true (ethPortOff (c.d.f 26 2) d), .later) := by
  obtain ⟨hk, hu, hg, ha⟩ := hs
  unfold opAssayRun
  simp only [hk, hu, hg, ha, if_pos hen]
  rfl

theorem opAssayRun_camera (hs : soundUnit c d 7) (hen : (d.csi (c.d.f 26 2)).enable = true) :
    opAssayRun c d = (beginAssay 7 (c.d.f 26 2) (.run c.tok) true (writeCsiCtrl (c.d.f 26 2) 0 d), .later) := by
  obtain ⟨hk, hu, hg, ha⟩ := hs
  simp [opAssayRun, hk, hu, hg, ha, hen]

/-! ### BASE_ENTER and BASE_EXIT (R476-R479) -/

theorem opBaseEnter_outside (h : d.inBase = false) :
    opBaseEnter c d = (raiseCause 7 { d with flt := { d.flt with entering := d.flt.entering ++ [c.tok] } }, .later) :=
  if_neg (by simp [h])

/-- The part with the BASE_EXIT entered. -/
def exitAsked (c : OpCtx) (e : Dev) : Dev := { e with flt := { e.flt with exits := e.flt.exits ++ [c.tok] } }

section
variable (hbase : d.inBase = true) (hfall : d.trust.st ≠ .fallingBack) (hcauses : d.flt.causes.toNat % 128 = 0)
include hbase hfall hcauses

theorem opBaseExit_joins (hexits : d.flt.exits.isEmpty = false) : opBaseExit c d = (exitAsked c d, .later) := by
  unfold opBaseExit
  rw [if_neg (by simp [hbase]), if_neg (by simpa using hfall), if_neg (by simp [hcauses]), if_pos (by simp [hexits])]
  rfl

/-- The first to ask has every control core tried. -/
theorem opBaseExit_first (hexits : d.flt.exits.isEmpty = true) :
    opBaseExit c d = (exitVerdict ((List.range 4).foldl (fun f k =>
      if (f.assayOf 3 k).isSome then f else
        beginAssay 3 k (.baseExit c.tok) (f.flt.core.getD k 1 == 0) { f with flt := { f.flt with core := upd f.flt.core k fun _ => 2 } })
      (exitAsked c d)), .later) := by
  unfold opBaseExit
  rw [if_neg (by simp [hbase]), if_neg (by simpa using hfall), if_neg (by simp [hcauses]), if_neg (by simpa using hexits)]
  rfl

end

/-- Settles O39: the status and the log, a unit fenced, returned or tried, and base-metal mode entered and left. -/
theorem faultOpcodesComplete : Obligations.FaultOpcodesComplete :=
  ⟨runs_opFn opFltStatus rfl (fun _ _ _ _ => rfl) rfl fun _ _ _ => rfl,
    runs_opFn opFltLog rfl (fun _ _ _ _ => rfl) rfl fun _ _ ⟨hn, hn', hlen⟩ => opFltLog_answers hn hn' hlen,
    runs_opFn opFltLog rfl (fun _ _ _ _ => rfl) rfl fun _ _ ⟨hin, hn', hlen⟩ => opFltLog_tooLong hin hn' hlen,
    ⟨starts_opFn opUnitFence rfl (fun _ _ _ _ => rfl) rfl rfl fun _ _ ⟨hs, hf, hspare, hrun⟩ => opUnitFence_idle_engine hs hf hspare hrun,
      starts_opFn opUnitFence rfl (fun _ _ _ _ => rfl) rfl rfl fun _ _ ⟨hs, hf, hspare, hrun⟩ => opUnitFence_running_engine hs hf hspare hrun,
      runs_opFn opUnitFence rfl (fun _ _ _ _ => rfl) rfl fun _ _ ⟨hs, hf, hlive⟩ => opUnitFence_core hs hf hlive,
      runs_opFn opUnitFence rfl (fun _ _ _ _ => rfl) rfl fun _ _ ⟨hs, hf⟩ => opUnitFence_touchstone hs hf,
      starts_opFn opUnitReturn rfl (fun _ _ _ _ => rfl) rfl rfl fun _ _ ⟨hs, hf⟩ => opUnitReturn_engine hs hf,
      starts_opFn opUnitReturn rfl (fun _ _ _ _ => rfl) rfl rfl fun _ _ ⟨hs, hf⟩ => opUnitReturn_core hs hf,
      starts_opFn opUnitReturn rfl (fun _ _ _ _ => rfl) rfl rfl fun _ _ ⟨hs, hf⟩ => opUnitReturn_touchstone hs hf,
      starts_opFn opAssayRun rfl (fun _ _ _ _ => rfl) rfl rfl fun _ _ ⟨hs, hf⟩ => opAssayRun_fenced_engine hs hf,
      starts_opFn opAssayRun rfl (fun _ _ _ _ => rfl) rfl rfl fun _ _ ⟨hs, hf, hspare, hceil, hrun⟩ =>
        opAssayRun_idle_engine hs hf hspare hceil hrun,
      starts_opFn opAssayRun rfl (fun _ _ _ _ => rfl) rfl rfl fun _ _ ⟨hs, hst, hlast⟩ => opAssayRun_walker hs hst hlast,
      starts_opFn opAssayRun rfl (fun _ _ _ _ => rfl) rfl rfl fun _ _ ⟨hs, hst⟩ => opAssayRun_pipe hs hst,
      starts_opFn opAssayRun rfl (fun _ _ _ _ => rfl) rfl rfl fun _ _ ⟨hs, hcore, hlive⟩ => opAssayRun_core hs hcore hlive,
      starts_opFn opAssayRun rfl (fun _ _ _ _ => rfl) rfl rfl fun _ _ ⟨hs, hst, hout⟩ => opAssayRun_channel hs hst hout,
      starts_opFn opAssayRun rfl (fun _ _ _ _ => rfl) rfl rfl fun _ _ hs => opAssayRun_touchstone hs,
      starts_opFn opAssayRun rfl (fun _ _ _ _ => rfl) rfl rfl fun _ _ ⟨hs, hen⟩ => opAssayRun_ethernet hs hen,
      starts_opFn opAssayRun rfl (fun _ _ _ _ => rfl) rfl rfl fun _ _ ⟨hs, hen⟩ => opAssayRun_camera hs hen⟩,
    starts_opFn opBaseEnter rfl (fun _ _ _ _ => rfl) rfl rfl fun _ _ h => opBaseEnter_outside h,
    ⟨starts_opFn opBaseExit rfl (fun _ _ _ _ => rfl) rfl rfl fun _ _ ⟨⟨hbase, hfall, hcauses⟩, hexits⟩ => opBaseExit_joins hbase hfall hcauses hexits,
      starts_opFn opBaseExit rfl (fun _ _ _ _ => rfl) rfl rfl fun _ _ ⟨⟨hbase, hfall, hcauses⟩, hexits⟩ =>
        opBaseExit_first hbase hfall hcauses hexits⟩⟩

end

end Sys2Proof.Machine
end

section
/-! PROOF. The opcodes of trust and of the field update: what the function of each gives where its checks pass. -/

namespace Sys2Proof.Machine

section
variable {c : OpCtx} {d : Dev}

/-! ### HM_IDENTITY, HM_ATTEST and UPDATE_KEY_INSTALL (R488, R489, R493) -/

theorem opHmIdentity_inRange (h : c.rangeOk 8883 = true) :
    opHmIdentity c d = opDone d (c.output 32 (sliceAt d.identityBlock (c.d.f 40 4) (c.d.f 44 2)) .ok) :=
  if_neg (by simp [h])

/-- The report of the last nonce is answered again. -/
theorem opHmAttest_held {r : Bytes} (h : c.rangeOk 5651 = true) (hr : d.trust.report = some (c.input d 24 64, r)) :
    opHmAttest c d = opDone d (c.output 32 (sliceAt r (c.d.f 40 4) (c.d.f 44 2)) (.ok (fld r 72 8))) := by
  simp [opHmAttest, h, hr]

theorem opHmAttest_fresh (h : c.rangeOk 5651 = true) (hr : ∀ r, d.trust.report ≠ some (c.input d 24 64, r)) :
    opHmAttest c d = (
      let r := d.attestation (c.input d 24 64)
      opDone (d.setTrust fun t => { t with report := some (c.input d 24 64, r), attests := t.attests + 1 })
        (c.output 32 (sliceAt r (c.d.f 40 4) (c.d.f 44 2)) (.ok (fld r 72 8)))) := by
  cases hrep : d.trust.report with
  | none => simp [opHmAttest, h, hrep]
  | some p =>
    have hother : p.1 ≠ c.input d 24 64 := fun heq => hr p.2 (by rw [hrep, ← heq])
    simp [opHmAttest, h, hrep, hother]

section
variable (hst : d.trust.st = .idle ∨ d.trust.st = .recovery)
include hst

theorem opUpdateKeyInstall_removes (hrem : c.d.u8 24 = 1) (hnone : c.d.f 32 8 = 0) :
    opUpdateKeyInstall c d = opDone (d.setTrust fun t => { t with fleetKey := none }) .ok := by
  obtain h | h := hst <;> simp [opUpdateKeyInstall, h, hrem, hnone]

theorem opUpdateKeyInstall_keeps {seed : Bytes} (hkeep : c.d.u8 24 = 0) (hopen : Config.parcelSeed d.serial.toNat (c.input d 32 1676) = some seed)
    (hid : (Config.sha3 (Config.fleetUpdateKey seed)).take 16 = (c.input d 32 1676).take 16) :
    opUpdateKeyInstall c d
      = opDone (d.setTrust fun t => { t with fleetKey := some ((Config.sha3 (Config.fleetUpdateKey seed)).take 16, seed) }) .ok := by
  unfold opUpdateKeyInstall
  rw [if_neg (by simp [hkeep]), if_neg (by obtain h | h := hst <;> simp [h]), if_neg (by simp [hkeep])]
  simp only [hopen]
  exact if_neg (by simpa using hid)

end

/-! ### Files of the card: UPDATE_STAGE and SETTINGS_EXPORT (R494-R497, R513) -/

/-- The name that the descriptor gives. -/
def givenName (c : OpCtx) : Bytes := c.d.bytes 32 (min (c.d.u8 24) 32)

section
variable (hn : 1 ≤ c.d.u8 24) (hn' : c.d.u8 24 ≤ 32) (hname : nameOk (givenName c) = true) (hcard : d.card.usable = true)
include hn hn' hname hcard

theorem opUpdateStage_begins {file : Bytes × Bytes} (hst : d.trust.st = .idle ∨ d.trust.st = .recovery)
    (hfile : d.card.files.find? (fun f => f.1 == givenName c) = some file) (hlen : file.2.length ≤ slotBytes) :
    opUpdateStage c d
      = (updState .staging 0 ((d.setTrust fun t => { t with fromRecovery := t.st == .recovery, stageName := givenName c }).setTrust fun t => { t with
          staging := some (c.tok, file.2, 0) }), .later) := by
  unfold givenName at hname hfile
  unfold opUpdateStage
  rw [if_neg (by simp [hname]; omega), if_neg (by obtain h | h := hst <;> simp [h]), if_neg (by simp [hcard])]
  simp only
  erw [hfile]
  exact if_pos hlen

/-- The settings as a file: a header, the records, and a signature of both. -/
def settingsFile (d : Dev) : Bytes :=
  let body := d.settingsBytes
  let b := leBytes 4 0x58544553 ++ leBytes 2 1 ++ leBytes 2 d.trust.bankFmt ++ leBytes 8 d.tb64 ++ leBytes 2 d.devId ++ List.replicate 6 0
    ++ leBytes 8 body.length ++ body
  b ++ padTo 4627 (Config.identitySign d.serial.toNat b)

theorem opSettingsExport_writes :
    opSettingsExport c d = opDone (emit (.cardFile (givenName c) (settingsFile d)) d) (.ok (settingsFile d).length) := by
  unfold givenName at hname
  unfold opSettingsExport
  rw [if_neg (by simp [hname]; omega), if_neg (by simp [hcard])]
  rfl

end

/-! ### Activation, trial and fallback (R499-R501, R504, R506-R508, R512, R514) -/

theorem opUpdateActivate_begins (hneeds : c.d.u8 24 ≤ 1) (hs : c.d.f 26 2 = 0 ∨ 30 ≤ c.d.f 26 2 ∧ c.d.f 26 2 ≤ 3600) (hst : d.trust.st = .staged)
    (hpart : d.part = .ready ∨ d.trust.fromRecovery = true ∧ d.part = .baseMetal ∧ d.flt.causes = 0x20)
    (habi : (pkgAbi d.trust.active).testBit c.major = true) (hsafe : d.own.safeLevel = false) :
    opUpdateActivate c d = (updState .activating 0 ((commitPoint c.tok d).setTrust fun t => { t with
      actTok := some c.tok, ownerNeeded := c.d.u8 24 == 1, confirmS := if c.d.f 26 2 = 0 then 120 else c.d.f 26 2, pauseAt := d.now }), .later) := by
  unfold opUpdateActivate
  refine (if_neg ?_).trans ((if_neg ?_).trans ((if_neg ?_).trans ((if_neg ?_).trans ((if_neg ?_).trans rfl))))
  · simp only [Bool.or_eq_true, Bool.not_eq_true', decide_eq_true_eq]
    simp; omega
  · simp [hst]
  · obtain h | ⟨h, h', h''⟩ := hpart
    · simp [h]
    · simp [h, h', h'']
  · simp [habi]
  · simp [hsafe]

theorem opUpdateCancel_staged (hst : d.trust.st = .staged) :
    opUpdateCancel c d = (updState .unstaging 0 ((commitPoint c.tok d).setTrust fun t => { t with cancels := t.cancels ++ [c.tok] }), .later) := by
  simp only [opUpdateCancel, hst]

theorem opUpdateCancel_idle (hst : d.trust.st = .idle) : opUpdateCancel c d = opDone d .ok := by
  simp only [opUpdateCancel, hst]

section
variable (hst : d.trust.st = .trial)
include hst

theorem opUpdateConfirm_trial : opUpdateConfirm c d = opDone (d.setTrust fun t => { t with ownerPending := false }) .ok :=
  if_neg (by simp [hst])

theorem opUpdateRevert_trial :
    opUpdateRevert c d = (beginFallback 0 ((commitPoint c.tok d).setTrust fun t => { t with reverts := t.reverts ++ [c.tok] }), .later) :=
  if_neg (by simp [hst])

theorem opAcceptDefaults_readable (hread : d.trust.unreadable = false) : opAcceptDefaults c d = opDone d .ok :=
  (if_neg (by simp [hst])).trans (if_pos (by simp [hread]))

/-- The part with the defaults in its bank and their application begun. -/
def defaultsAccepted (c : OpCtx) (e : Dev) : Dev :=
  let f := swapBanks (pkgFmt e.trust.running) defaultRecords [] (noFleet e.fleet) e
  let f := commitPoint c.tok (f.setTrust fun t => { t with unreadable := false, acceptTok := some c.tok })
  { f with prof := { f.prof with st := .applying, applying := some (f.prof.strap, .accept c.tok), applyEnd := f.now } }

theorem opAcceptDefaults_unreadable (hread : d.trust.unreadable = true) : opAcceptDefaults c d = (defaultsAccepted c d, .later) :=
  (if_neg (by simp [hst])).trans (if_neg (by simp [hread]))

end

/-- Settles O40: identity, attestation and key; the card's files; and each step of the update. -/
theorem trustAndUpdateOpcodesComplete : Obligations.TrustAndUpdateOpcodesComplete :=
  ⟨⟨runs_opFn opHmIdentity rfl (fun _ _ _ _ => rfl) rfl fun _ _ h => opHmIdentity_inRange h,
      ⟨fun _ => runs_opFn opHmAttest rfl (fun _ _ _ _ => rfl) rfl fun _ _ ⟨h, hr⟩ => opHmAttest_held h hr,
        runs_opFn opHmAttest rfl (fun _ _ _ _ => rfl) rfl fun _ _ ⟨h, hr⟩ => opHmAttest_fresh h hr⟩,
      runs_opFn opUpdateKeyInstall rfl (fun _ _ _ _ => rfl) rfl fun _ _ ⟨hrem, hnone, hst⟩ => opUpdateKeyInstall_removes hst hrem hnone,
      fun _ => runs_opFn opUpdateKeyInstall rfl (fun _ _ _ _ => rfl) rfl fun _ _ ⟨hkeep, hst, hopen, hid⟩ =>
        opUpdateKeyInstall_keeps hst hkeep hopen hid⟩,
    ⟨fun _ => starts_opFn opUpdateStage rfl (fun _ _ _ _ => rfl) rfl rfl fun _ _ ⟨⟨hn, hn', hname⟩, hst, hcard, hfile, hlen⟩ =>
        opUpdateStage_begins hn hn' hname hcard hst hfile hlen,
      runs_opFn (eff := fun c e => (emit (.cardFile (givenName c) (settingsFile e)) e, .ok (settingsFile e).length))
        opSettingsExport rfl (fun _ _ _ _ => rfl) rfl fun _ _ ⟨⟨hn, hn', hname⟩, hcard⟩ => opSettingsExport_writes hn hn' hname hcard⟩,
    starts_opFn opUpdateActivate rfl (fun _ _ _ _ => rfl) rfl rfl fun _ _ ⟨hneeds, hs, hst, hpart, habi, hsafe⟩ =>
      opUpdateActivate_begins hneeds hs hst hpart habi hsafe,
    starts_opFn opUpdateCancel rfl (fun _ _ _ _ => rfl) rfl rfl fun _ _ hst => opUpdateCancel_staged hst,
    runs_opFn opUpdateCancel rfl (fun _ _ _ _ => rfl) rfl fun _ _ hst => opUpdateCancel_idle hst,
    runs_opFn opUpdateConfirm rfl (fun _ _ _ _ => rfl) rfl fun _ _ hst => opUpdateConfirm_trial hst,
    runs_opFn opAcceptDefaults rfl (fun _ _ _ _ => rfl) rfl fun _ _ ⟨hst, hread⟩ => opAcceptDefaults_readable hst hread,
    starts_opFn opAcceptDefaults rfl (fun _ _ _ _ => rfl) rfl rfl fun _ _ ⟨hst, hread⟩ => opAcceptDefaults_unreadable hst hread,
    starts_opFn opUpdateRevert rfl (fun _ _ _ _ => rfl) rfl rfl fun _ _ hst => opUpdateRevert_trial hst,
    runs_opFn opUpdateStatus rfl (fun _ _ _ _ => rfl) rfl fun _ _ _ => rfl⟩

end

end Sys2Proof.Machine
end

section
/-! PROOF. Power, resets and the start-up sequence, the host link and READY: what the function of each command gives in each of its cases. -/

namespace Sys2Proof.Machine

section
variable {d : Dev}

/-! ### The end of a reset and the steps of the start-up sequence (R92, R101, R528) -/

/-- A reset that nothing holds any longer ends, and the level of SAFE_REQ_N at that instant is kept. -/
theorem releaseReset_held (hstart : d.start = .held) (hvin : d.vinUp = true) (hreset : d.resetLow = false) (htrip : d.tripped = false) :
    releaseReset d = { d with start := .released, resetEnd := d.now, own := { d.own with safeAtReset := d.own.safeLevel } } :=
  if_pos (by simp [hstart, hvin, hreset, htrip])

theorem powerUp_down (h : d.vinUp = false) : powerUp d = releaseReset { d with vinUp := true } := if_neg (by simp [h])

theorem strapSample_released (sel vsel : Nat) (h : d.start = .released) :
    strapSample sel vsel d = { d with
      start := .strapsSampled, prof := { d.prof with strap := (sel + 3) % 4 }, pw := { d.pw with vsel := BitVec.ofNat 6 vsel } } :=
  if_neg (by simp [h])

/-- A loader that matches its digest, in a part that has nothing to update, runs the active package. -/
theorem loaderMeasured_good (hstart : d.start = .strapsSampled) (hok : d.trust.loaderOk = true) (hst : d.trust.st = .idle) :
    loaderMeasured true true d = { d with start := .loaderMeasured, trust := { d.trust with running := d.trust.active } } := by
  simp [loaderMeasured, loaderUpdate, hstart, hok, hst, Dev.setTrust]

theorem loaderMeasured_bad (ok : Bool) (hstart : d.start = .strapsSampled) : loaderMeasured false ok d = { d with start := .refused } := by
  simp [loaderMeasured, hstart]

theorem profileRead_measured (hstart : d.start = .loaderMeasured) :
    profileRead d =
      let e := loadProfileRegs { d with start := .profileRead, prof := { d.prof with
        active := padTo 4096 (d.prof.stored.getD d.prof.strap []), activeId := d.prof.strap } }
      setMinLive { e with
        eth := e.eth.mapIdx fun n x => { x with enable := (e.pf 54 1).testBit n }
        comp := { e.comp with cl := e.comp.cl.map fun x => { x with ceiling := BitVec.ofNat 7 (e.pf 47 1) } }
        pw := { e.pw with envW := e.pf 38 1 } } :=
  if_neg (by simp [hstart])

theorem controlRunning_safe (hstart : d.start = .safetyRunning) :
    controlRunning d = { d with start := .controlRunning, hif := { d.hif with crs := false }, flt := { d.flt with service := d.firstCore } } :=
  if_neg (by simp [hstart])

theorem ipmTrained_running (hstart : d.start = .controlRunning) : ipmTrained d = { d with start := .ipmTrained } :=
  if_neg (by simp [hstart])

/-! ### The safety island (R101, R108, R90) -/

/-- The part as the safety island starts: the time base at 0 in FREE_RUN. -/
def islandStarted (d : Dev) : Dev :=
  { d with
    start := .safetyRunning, time := { d.time with running := true, tb := 0, st := .freeRun }
    flt := { d.flt with beatAt := d.now, rotateAt := d.now }, est := { d.est with wroteAt := d.now } }

/-- The configuration that the estimator begins with. -/
def startConfig (d : Dev) : Bytes :=
  ((d.est.saved.find? fun x => x.1 == d.prof.activeId).map (·.2)).getD (islandStarted d).estDefaults

/-- With no sensor of its own enabled, no sensor starts. -/
theorem sensors_still (h : ∀ i, i < 32 → d.safetySensor i = false) :
    (List.range 32).foldl (fun e i => if e.safetySensor i then enableSensor i e else e) d = d := by
  have hstays : ∀ l : List Nat, (∀ i ∈ l, d.safetySensor i = false) →
      l.foldl (fun e i => if e.safetySensor i then enableSensor i e else e) d = d := by
    intro l hl
    induction l with
    | nil => rfl
    | cons i l ih =>
      rw [List.forall_mem_cons] at hl
      rw [List.foldl_cons, if_neg (by simp [hl.1]), ih hl.2]
  exact hstays _ fun i hi => h i (List.mem_range.1 hi)

/-- The safety island starts in a part with none of its sensors enabled and no primary IMU configured. -/
theorem safetyRunning_alone (hstart : d.start = .profileRead) (hsensors : ∀ i, i < 32 → d.safetySensor i = false)
    (himu : fld (startConfig d) 2 1 = 0xFF) :
    safetyRunning d =
      let f := streamStart 0x0510 { islandStarted d with est := { (islandStarted d).est with cfg := startConfig d, source := 1 } }
      if d.own.safeLevel then raiseCause 0 (ev 0x0213 0 (det [(16, [1])]) { f with own := { d.own with safeSeen := true } })
      else if d.own.safeAtReset then clearCause 0 (enterBase (raiseCause 0 f)) else f := by
  have hstill : (List.range 32).foldl (fun e i => if e.safetySensor i then enableSensor i e else e) (islandStarted d) = islandStarted d :=
    sensors_still hsensors
  unfold safetyRunning
  rw [if_neg (by simp [hstart])]
  simp only
  erw [hstill, if_pos (beq_iff_eq.2 himu)]
  rfl

/-- Settles O1: one lemma for each step of the sequence. -/
theorem startUpCommandsComplete : Obligations.StartUpCommandsComplete :=
  ⟨fun _ _ _ hd => ⟨fun hvin hstart hreset htrip => onDev_after hd ((powerUp_down hvin).trans (releaseReset_held hstart rfl hreset htrip)),
      fun hstart hvin htrip => onDev_after hd (releaseReset_held hstart hvin rfl htrip),
      fun hstart hvin hreset => onDev_after hd (releaseReset_held hstart hvin hreset rfl),
      fun sel vsel hstart => onDev_after hd (strapSample_released sel vsel hstart),
      fun hstart hok hst => onDev_after hd (loaderMeasured_good hstart hok hst),
      fun ok hstart => onDev_after hd (loaderMeasured_bad ok hstart),
      fun hstart _ => onDev_after hd (profileRead_measured hstart),
      fun hstart => onDev_after hd (controlRunning_safe hstart),
      fun hstart => onDev_after hd (ipmTrained_running hstart)⟩,
    fun _ _ _ _ _ hd hstart hsensors he hcfg himu => by
      subst he hcfg
      exact onDev_after hd (safetyRunning_alone hstart hsensors himu)⟩

/-! ### Full resets (R33, R93, R104, R464, R468, R471, R490) -/

section
variable {s : State} {t : Nat} {hit : Dev → Bool} {f : Dev → Dev}

theorem withReset_hits {d e : Dev} (hd : s.devAt t = d) (hhit : hit d = true) (h : f d = e) : onWhole t (withReset hit f) s = s.after {} e :=
  onWhole_after hd (by simp only [withReset, hhit, if_pos, h])

theorem withReset_misses {d e : Dev} (hd : s.devAt t = d) (hhit : hit d = false) (h : f d = e) :
    onWhole t (withReset hit f) s = s.after s.iface e :=
  onWhole_after hd (by simp [withReset, hhit, h])

end

theorem vinLoss_up (h : d.vinUp = true) : vinLoss d = fullReset 1 { d with vinUp := false } := if_neg (by simp [h])

theorem resetLow_up (hvin : d.vinUp = true) (hreset : d.resetLow = false) : resetLow d = fullReset 2 { d with resetLow := true } :=
  if_neg (by simp [hvin, hreset])

theorem resetLow_down (hvin : d.vinUp = false) : resetLow d = { d with resetLow := true } := if_pos (by simp [hvin])

section
variable {tj : Int} (hvin : d.vinUp = true) (htrip : d.tripped = false) (htj : (if d.grade = 0 then (115 : Int) else 125) ≤ tj)
include hvin htrip htj

theorem tripHits_hot : tripHits tj d = true := by simp [tripHits, hvin, htrip, htj]

theorem thermalTrip_hot :
    thermalTrip tj d =
      let e := logFault 6 0xFF 0 15 4 0 d
      fullReset 6 { e with tripped := true, flt := { e.flt with fatalEv := some (6, e.tb64) } } :=
  if_neg (by simp [hvin, htrip, Int.not_lt.2 htj])

end

section
variable {code due : Nat} (hfatal : d.flt.fatal = some (code, due)) (hdue : due ≤ d.now)
include hfatal hdue

theorem fatalHits_due : fatalHits d = true := by simp [fatalHits, hfatal, hdue]

theorem fatalReset_due : fatalReset d = releaseReset (fullReset code d) := by simp only [fatalReset, hfatal, if_pos hdue]

end

/-- Channels at their reset values hold no descriptor. -/
theorem Hif.chan_reset_pend {h : Hif} (hsq : h.sq = List.replicate 64 {}) (hi : h.i3c = { st := .active }) (hspi : h.safeSpi = { st := .active })
    (hnet : h.net = { st := .active }) (ch : Chan) : (h.chan ch).pend = [] := by
  cases ch with
  | sq n =>
    have hget : (List.replicate 64 ({} : SubRing)).getD n {} = {} := by
      simp only [List.getD_eq_getElem?_getD, List.getElem?_replicate]
      split <;> rfl
    simp only [Hif.chan, hsq, hget]
  | i3c => simp only [Hif.chan, hi]
  | safeSpi => simp only [Hif.chan, hspi]
  | net => simp only [Hif.chan, hnet]

/-- Settles O2: the four ways to a full reset, and the fields that it leaves. -/
theorem fullResetsComplete : Obligations.FullResetsComplete := by
  refine ⟨fun s t d hd => ⟨fun hvin => withReset_hits hd hvin (vinLoss_up hvin),
    fun hvin hreset => withReset_hits hd (by simp [resetLowHits, hvin, hreset]) (resetLow_up hvin hreset),
    fun hvin => withReset_misses hd (by simp [resetLowHits, hvin]) (resetLow_down hvin),
    fun tj hvin htrip htj => withReset_hits hd (tripHits_hot hvin htrip htj) (thermalTrip_hot hvin htrip htj),
    fun code due hfatal hdue => withReset_hits hd (fatalHits_due hfatal hdue) (fatalReset_due hfatal hdue)⟩, ?_⟩
  rintro code d e rfl hev
  simp [fullReset, hev, Dev.chan, Hif.chan_reset_pend]

/-! ### The host link and READY (R33, R86, R92, R94, R102, R535) -/

theorem linkTrain_ranked (h : 5 ≤ d.start.rank) : linkTrain d = { d with hif := { d.hif with perst := false, linkUp := true, clkreq := true } } :=
  if_pos h

theorem linkDown_eq : linkDown d = { d with hif := { d.hif with linkUp := false } } := rfl

theorem busMastering_ready (on : Bool) (h : d.hif.crs = false) : busMastering on d = { d with hif := { d.hif with busMaster := on } } := by
  simp [busMastering, h]

theorem startupReady_trained {e : Dev} (hstart : d.start = .ipmTrained) (hpart : d.part = .starting) (he : e = applyProfile d.prof.strap 0 d) :
    startupReady d = becomeReady { e with prof := { e.prof with byCommand := false } } := by
  rw [he]
  exact if_neg (by simp [hstart, hpart])

theorem hostInterfaceReset_after {s : State} {t : Nat} (hd : s.devAt t = d) (perst : Bool) :
    onWhole t (fun w => (w.1.reset33, hostInterfaceReset perst w.2)) s = s.after s.iface.reset33 (hostInterfaceReset perst d) :=
  onWhole_after hd rfl

/-- Settles O3: the link, its resets, and the last step of the sequence. -/
theorem hostLinkAndReadyComplete : Obligations.HostLinkAndReadyComplete :=
  ⟨fun _ _ _ hd => ⟨fun h => onDev_after hd (linkTrain_ranked h),
      onDev_after hd linkDown_eq,
      fun on hreach hcrs => onIf_after hd hreach (busMastering_ready on hcrs),
      hostInterfaceReset_after hd⟩,
    fun _ _ _ _ hd hstart hpart he => onDev_after hd (startupReady_trained hstart hpart he)⟩

end

end Sys2Proof.Machine
end

section
/-! PROOF. Doorbells, the locked registers and the register accesses: what each write leaves. -/

namespace Sys2Proof.Machine

section
variable {d : Dev}

/-! ### Doorbells (R26, R27, R52, R55, R57) -/

/-- A doorbell of the host that reaches the part. -/
theorem doorbell_after {s : State} {t : Nat} {f : Dev → Dev} {e : Dev} (hd : s.devAt t = d) (hreach : d.hostReach = true) (h : f d = e) :
    onDev t (doorbell f) s = s.after s.iface e :=
  onDev_after hd ((if_pos hreach).trans h)

/-- The tail doorbell of a ring that takes descriptors, or ends its last ones. -/
theorem sqDoorbell_open {n : Nat} (v : Nat) (hst : (d.chan (.sq n)).st = .active ∨ (d.chan (.sq n)).st = .aborting) :
    sqDoorbell n v d =
      let r := d.chan (.sq n)
      let size := 2 ^ r.log2
      let tl := v % 65536
      if tl < size ∧ (r.tail + size - r.head) % size ≤ (tl + size - r.head) % size then d.setChan (.sq n) fun r => { r with tail := tl }
      else dbInvalid (4096 * n) tl d := by
  obtain h | h := hst <;> simp only [sqDoorbell, h, Bool.and_eq_true, decide_eq_true_eq]

theorem cqDoorbell_ahead {n v : Nat} (hst : (d.cq n).st ≠ .absent) (hsize : v % 65536 < 2 ^ (d.cq n).log2)
    (hahead : (v % 65536 + 2 ^ (d.cq n).log2 - (d.cq n).head) % 2 ^ (d.cq n).log2
      ≤ ((d.cq n).tail + 2 ^ (d.cq n).log2 - (d.cq n).head) % 2 ^ (d.cq n).log2) :
    cqDoorbell n v d =
      let e := d.setCq n fun q => { q with head := v % 65536, fullPosted := false }
      { e with kick := ((List.range 64).filter fun k => (e.chan (.sq k)).cq == n).map Chan.sq ++ e.kick } :=
  if_neg (by simp [hst, Nat.not_le.2 hsize, Nat.not_lt.2 hahead])

theorem evrDoorbell_ahead {v : Nat} (hon : d.hif.evr.on = true) (hlost : d.hif.evr.lost = 0) (hsize : v % 65536 < 2 ^ d.hif.evr.log2)
    (hahead : (v % 65536 + 2 ^ d.hif.evr.log2 - d.hif.evr.head) % 2 ^ d.hif.evr.log2
      ≤ (d.hif.evr.tail + 2 ^ d.hif.evr.log2 - d.hif.evr.head) % 2 ^ d.hif.evr.log2) :
    evrDoorbell v d = { d with hif := { d.hif with evr := { d.hif.evr with head := v % 65536 } } } :=
  (if_neg (by simp [hon, Nat.not_le.2 hsize, Nat.not_lt.2 hahead])).trans (if_pos (by simp [hlost]))

theorem bar2Write_width {width : Nat} (off v : Nat) (h : width ≠ 4) : bar2Write off width v d = { d with hif := { d.hif with dbInvalid := satInc d.hif.dbInvalid } } :=
  if_pos (by simpa using h)

/-! ### Accesses by a master that reaches the part (R79, R102) -/

theorem regBy_reaches {m : Nat} (h : d.Reaches m) (off width v : Nat) (i : Iface) : regBy m off width v (i, d) = regWrite m off width v i d := by
  obtain ⟨rfl, h⟩ | ⟨rfl, h⟩ := h
  · simp [regBy, h]
  · have h0 : d.start.rank ≠ 0 := by omega
    simp [regBy, h, h0]

section
variable {s : State} {t m off width v : Nat}

theorem regBy_after {i : Iface} {e : Dev} (hd : s.devAt t = d) (hreach : d.Reaches m) (h : regWrite m off width v s.iface d = (i, e)) :
    onWhole t (regBy m off width v) s = s.after i e :=
  onWhole_after hd ((regBy_reaches hreach off width v s.iface).trans h)

/-- The same of the host. -/
theorem regBy_host_after {i : Iface} {e : Dev} (hd : s.devAt t = d) (hreach : d.hostReach = true)
    (h : regWrite 1 off width v s.iface d = (i, e)) : onWhole t (regBy 1 off width v) s = s.after i e :=
  regBy_after hd (.inl ⟨rfl, hreach⟩) h

end

/-! ### Negotiation and the enables of the rings (R29-R31, R33, R35, R103) -/

section
variable {i : Iface}

theorem abiDone_version {m : Byte} {start n : Nat} (h : i.negotiating = some (m, start)) (hn : abiMinor m.toNat = some n) :
    abiDone i = { i with actMajor := m, actMinor := BitVec.ofNat 8 n, actResult := 1, negotiating := none } := by
  simp only [abiDone, h, hn]

theorem abiDone_refused {m : Byte} {start : Nat} (h : i.negotiating = some (m, start)) (hn : abiMinor m.toNat = none) :
    abiDone i = { i with actMajor := 0, actMinor := 0, actResult := 2, negotiating := none } := by
  simp only [abiDone, h, hn]

theorem abiNegotiationDone_after {s : State} {t : Nat} {j : Iface} (hd : s.devAt t = d) (h : abiDone s.iface = j) :
    onWhole t (fun w => (abiDone w.1, w.2)) s = s.after j d :=
  onWhole_after hd (by rw [← h])

/-- A value written with its ENABLE bit given: the bit, and the size fields below it. -/
theorem withBit_fields (on : Bool) (v : Nat) :
    (withBit 16 on v).testBit 16 = on ∧ withBit 16 on v % 32 = v % 32 ∧ withBit 16 on v / 32 % 32 = v / 32 % 32 := by
  have hbit (n : Nat) : n.testBit 16 = decide (n / 65536 % 2 = 1) := Nat.testBit_eq_decide_div_mod_eq
  rw [hbit, withBit, hbit]
  by_cases h : v / 65536 % 2 = 1
  · cases on with
    | false => simp [h]; omega
    | true => simp [h]
  · cases on with
    | false => simp [h]
    | true => simp [h]; omega

/-- The same of the 32 bits that the access carries. -/
theorem enable_fields (on : Bool) (v : Nat) :
    (withBit 16 on v % 2 ^ 32).testBit 16 = on ∧ bitsOf 4 0 (withBit 16 on v % 2 ^ 32) = v % 32
    ∧ bitsOf 9 5 (withBit 16 on v % 2 ^ 32) = v / 32 % 32 := by
  obtain ⟨hon, hlow, hhigh⟩ := withBit_fields on v
  obtain ⟨hset, hsq, hcq⟩ := ctrl_fields (withBit 16 on v)
  exact ⟨hset.trans hon, hsq.trans hlow, hcq.trans hhigh⟩

theorem regWrite_admEnable (v : Nat) (hoff : i.admEnable = false) (hver : i.actResult = 1) (hsq : sizeOk (v % 32) = true)
    (hcq : sizeOk (v / 32 % 32) = true) :
    regWrite 1 0x1010 4 (withBit 16 true v) i d =
      let j := { i with admSqLog2 := BitVec.ofNat 5 (v % 32), admCqLog2 := BitVec.ofNat 5 (v / 32 % 32), admEnable := true }
      (j, { d with hif := { d.hif with
        sq := upd d.hif.sq 0 fun _ => { st := .active, log2 := j.admSqLog2.toNat, base := j.admSqBase.toNat }
        cq := upd d.hif.cq 0 fun _ => { st := .active, vector := 1, phase := true, log2 := j.admCqLog2.toNat, base := j.admCqBase.toNat } } }) := by
  obtain ⟨hset, hlow, hhigh⟩ := enable_fields true v
  rw [regWrite_admCtrl]
  generalize withBit 16 true v % 2 ^ 32 = w at hset hlow hhigh ⊢
  have hnext : i.admCtrl w
      = { i with admSqLog2 := BitVec.ofNat 5 (v % 32), admCqLog2 := BitVec.ofNat 5 (v / 32 % 32), admEnable := true } := by
    simp [Iface.admCtrl, hoff, bitsOf_same_eq_one, hset, hver, hlow, hhigh, hsq, hcq]
  simp [writeAdmCtrl, hnext, hoff, adminRings]

theorem regWrite_admDisable (v : Nat) (hon : i.admEnable = true) :
    regWrite 1 0x1010 4 (withBit 16 false v) i d = ({ i with admEnable := false, evrEnable := false }, ringsAbsent d) := by
  obtain ⟨hset, _, _⟩ := enable_fields false v
  rw [regWrite_admCtrl]
  generalize withBit 16 false v % 2 ^ 32 = w at hset ⊢
  have hnext : i.admCtrl w = i.reset33 := by simp [Iface.admCtrl, hon, bitsOf_same_eq_one, hset]
  simp [writeAdmCtrl, hnext, hon, Iface.reset33]

theorem regWrite_evrEnable (v : Nat) (hoff : i.evrEnable = false) (hver : i.actResult = 1) (hsize : sizeOk (v % 32) = true) :
    regWrite 1 0x1020 4 (withBit 16 true v) i d =
      let j := { i with evrLog2 := BitVec.ofNat 5 (v % 32), evrEnable := true }
      (j, eventRingOn j.evrBase.toNat j.evrLog2.toNat d) := by
  obtain ⟨hset, hlow, _⟩ := enable_fields true v
  rw [regWrite_evrCtrl]
  generalize withBit 16 true v % 2 ^ 32 = w at hset hlow ⊢
  have hnext : i.evrCtrl w = { i with evrLog2 := BitVec.ofNat 5 (v % 32), evrEnable := true } := by
    simp [Iface.evrCtrl, hoff, bitsOf_same_eq_one, hset, hver, hlow, hsize]
  simp [writeEvrCtrl, hnext, hoff]

theorem regWrite_evrDisable (v : Nat) (hon : i.evrEnable = true) :
    regWrite 1 0x1020 4 (withBit 16 false v) i d = ({ i with evrEnable := false }, eventRingOff d) := by
  obtain ⟨hset, _, _⟩ := enable_fields false v
  rw [regWrite_evrCtrl]
  generalize withBit 16 false v % 2 ^ 32 = w at hset ⊢
  have hnext : i.evrCtrl w = { i with evrEnable := false } := by
    simp [Iface.evrCtrl, hon, bitsOf_same_eq_one, hset]
  simp [writeEvrCtrl, hnext, hon]

end

/-- Settles O4: the doorbells, the negotiation, and the enables. -/
theorem hostInterfaceWritesComplete : Obligations.HostInterfaceWritesComplete :=
  ⟨fun _ _ _ hd hreach => ⟨fun _ v hst => doorbell_after hd hreach (sqDoorbell_open v.toNat hst),
      fun _ _ hst => fun hsize hahead => doorbell_after hd hreach (cqDoorbell_ahead hst hsize hahead),
      fun _ hon hlost => fun hsize hahead => doorbell_after hd hreach (evrDoorbell_ahead hon hlost hsize hahead),
      fun off _ v h => doorbell_after hd hreach (bar2Write_width off v.toNat h)⟩,
    fun s _ d hd => ⟨fun v hreach hopen => regBy_host_after hd hreach (abiRequestStartsNegotiation 1 v.toNat s.iface d hopen),
      fun _ _ _ h hn => abiNegotiationDone_after hd (abiDone_version h hn),
      fun _ _ h hn => abiNegotiationDone_after hd (abiDone_refused h hn),
      fun v hreach hoff hver hsq hcq => regBy_host_after hd hreach (regWrite_admEnable v.toNat hoff hver hsq hcq),
      fun v hreach hon => regBy_host_after hd hreach (regWrite_admDisable v.toNat hon),
      fun v hreach hoff hver hsize => regBy_host_after hd hreach (regWrite_evrEnable v.toNat hoff hver hsize),
      fun v hreach hon => regBy_host_after hd hreach (regWrite_evrDisable v.toNat hon)⟩⟩

/-! ### SNAP and RELEASE (R10) -/

/-- Every block's SNAP register, but that of the host interface, is a 4-byte register that no owner has. -/
theorem regWrite_snap {off : Nat} (h : off ∈ snapRegs) (hoff : off ≠ 0x1030) (m v : Nat) (i : Iface) :
    regWrite m off 4 v i d = (i, writeSnap off (v % 2 ^ 32) d) := by
  have hlist : snapRegs = [0x1030, 0x20030, 0x30020, 0x40018, 0x60000, 0x70010, 0x80010, 0x180008, 0x190018, 0x1A0010, 0x1B0008, 0x1C0018, 0x1D0020,
    0x1E0010, 0x100020, 0x100310, 0x110020, 0x110310, 0x120020, 0x120310, 0x130020, 0x130310, 0x140020, 0x140310, 0x150020, 0x150310] := by decide
  rw [hlist] at h
  fin_cases h
  · exact absurd rfl hoff
  all_goals rfl

theorem regWrite_hifSnap (m v : Nat) (i : Iface) :
    regWrite m 0x1030 4 v i d = (i, { d with hif := { d.hif with frozen := snapTo (v % 2 ^ 32) d.hif.counters d.hif.frozen } }) :=
  regWrite_hif rfl (by decide) (by decide) m v

theorem snapBy_after {s : State} {t m off v : Nat} {e : Dev} (hd : s.devAt t = d) (hreach : d.Reaches m) (hoff : off ∈ snapRegs)
    (h : regWrite m off 4 v s.iface d = (s.iface, e)) : onWhole t (snapBy m off v) s = s.after s.iface e :=
  onWhole_after hd ((if_pos (List.contains_iff_mem.2 hoff)).trans ((regBy_reaches hreach off 4 v s.iface).trans h))

/-! ### The unmasking of a vector (R76) -/

/-- Two changes of a list's entry are one where they agree on the entry. -/
theorem upd_congr {α : Type} {l : List α} {n : Nat} {f g : α → α} (x : α) (h : f (l.getD n x) = g (l.getD n x)) : upd l n f = upd l n g := by
  apply List.ext_getElem?
  intro k
  simp only [upd, List.getElem?_modify]
  by_cases hk : n = k
  · subst hk
    cases hl : l[n]? with
    | none => rfl
    | some y =>
      rw [List.getD_eq_getElem?_getD, hl] at h
      exact congrArg some (by simpa using h)
  · simp [hk]

/-- The upper word of a vector's entry, its data and its MASK, is reached through the entry. -/
theorem regReach_vector {v : Nat} (i : Iface) (hv : v < 128) :
    regReach i d (0x1000C + 16 * v) 4 = some (0x10008 + 16 * v, 2)
    ∧ regAt i d (0x10008 + 16 * v) = r64 [(0, 32, (d.hif.msix.getD v {}).data.toNat), (32, 1, bit (d.hif.msix.getD v {}).masked)] := by
  have hentry : regAt i d (0x10008 + 16 * v)
      = r64 [(0, 32, (d.hif.msix.getD v {}).data.toNat), (32, 1, bit (d.hif.msix.getD v {}).masked)] := by
    have hblock : (0x10008 + 16 * v) / 0x10000 = 1 := by omega
    have hoff : (0x10008 + 16 * v) % 0x10000 = 8 + 16 * v := by omega
    have hvec : (8 + 16 * v) / 16 = v := by omega
    simp only [regAt, hblock, hoff, msixReg, hvec]
    rw [if_pos (by simp; omega), if_neg (by omega)]
  have hnone : regAt i d (0x1000C + 16 * v) = none := by
    have hblock : (0x1000C + 16 * v) / 0x10000 = 1 := by omega
    have hoff : (0x1000C + 16 * v) % 0x10000 = 12 + 16 * v := by omega
    simp only [regAt, hblock, hoff, msixReg]
    rw [if_neg (by simp; omega), if_neg (by simp; omega)]
  have hbase : 0x1000C + 16 * v - 4 = 0x10008 + 16 * v := by omega
  refine ⟨?_, hentry⟩
  unfold regReach
  rw [if_neg (by simp; omega)]
  simp only [hnone, hbase, hentry, r64]
  exact if_pos (by simp; omega)

/-- A write of the data alone to a vector's entry clears its MASK, and its pending message leaves. -/
theorem writeMsix_data {v : Nat} (hv : v < 128) :
    writeMsix (8 + 16 * v) (d.hif.msix.getD v {}).data.toNat d =
      let e := d.hif.msix.getD v {}
      let f := { d with hif := { d.hif with msix := upd d.hif.msix v fun e => { e with masked := false } } }
      if e.pendingBit then
        msixSend v { f with hif := { f.hif with msix := upd f.hif.msix v fun e => { e with pendingBit := false } } }
      else f := by
  have hvec : (8 + 16 * v) / 16 = v := by omega
  have hdata : (d.hif.msix.getD v {}).data.toNat < 2 ^ 32 := BitVec.isLt _
  have hmask : (bitsOf 32 32 (d.hif.msix.getD v {}).data.toNat == 1) = false := by
    rw [bitsOf_same_eq_one]
    exact Nat.testBit_lt_two_pow hdata
  have hupd : upd d.hif.msix v (fun e => { e with data := BitVec.ofNat 32 (d.hif.msix.getD v {}).data.toNat, masked := false })
      = upd d.hif.msix v fun e => { e with masked := false } := upd_congr {} (by simp)
  unfold writeMsix
  rw [if_neg (by omega)]
  simp only [hvec, hmask, hupd]
  rw [if_neg (by omega)]
  rfl

theorem regPut_msix {o : Nat} (h : 0x10000 ≤ o) (h' : o < 0x20000) (m v : Nat) (i : Iface) : regPut m o v i d = (i, writeMsix (o - 0x10000) v d) :=
  (if_neg (Nat.not_lt.2 h)).trans (if_pos h')

/-- A write of 0 above a word leaves the word. -/
theorem upper_zero {n k : Nat} (b z : Nat) (h : n < 2 ^ k) : 0 % z * 2 ^ k + pack [(0, k, n), (k, 1, b)] % 2 ^ k = n := by
  simp [pack, atBit, Nat.shiftLeft_eq, Nat.mod_eq_of_lt h]

/-- The entry of an unmasked vector, with its pending message sent. -/
def vectorUnmasked (v : Nat) (d : Dev) : Dev :=
  let e := d.hif.msix.getD v {}
  let f := { d with hif := { d.hif with msix := upd d.hif.msix v fun e => { e with masked := false } } }
  if e.pendingBit then
    msixSend v { f with hif := { f.hif with msix := upd f.hif.msix v fun e => { e with pendingBit := false } } }
  else f

theorem regWrite_unmask {v : Nat} (i : Iface) (hv : v < 128) : regWrite 1 (0x1000C + 16 * v) 4 0 i d = (i, vectorUnmasked v d) := by
  obtain ⟨hreach, hentry⟩ := regReach_vector (d := d) i hv
  have hoff : 0x10008 + 16 * v - 0x10000 = 8 + 16 * v := by omega
  simp only [regWrite, hreach, hentry, r64]
  rw [if_neg (by decide), if_neg (by decide), upper_zero (k := 32) _ _ (BitVec.isLt _), regPut_msix (by omega) (by omega), hoff, writeMsix_data hv]
  rfl

theorem msixUnmask_after {s : State} {t v : Nat} (hd : s.devAt t = d) (hreach : d.hostReach = true) (hv : v < 128) :
    onWhole t (fun w => if v < 128 then regBy 1 (0x1000C + 16 * v) 4 0 w else w) s = s.after s.iface (vectorUnmasked v d) :=
  onWhole_after hd ((if_pos hv).trans ((regBy_reaches (.inl ⟨rfl, hreach⟩) _ _ _ _).trans (regWrite_unmask s.iface hv)))

/-- Settles O5: a write, the SNAP registers, and a vector. -/
theorem registerAccessesComplete : Obligations.RegisterAccessesComplete :=
  fun s _ _ hd => ⟨fun _ _ _ _ hreach => regBy_after hd hreach rfl,
    fun m hreach => snapBy_after hd hreach (by decide) (regWrite_hifSnap m 1 _),
    fun m hreach => snapBy_after hd hreach (by decide) (regWrite_hifSnap m 2 _),
    fun m _ hoff hne hreach => ⟨snapBy_after hd hreach hoff (regWrite_snap hoff hne m 1 _), snapBy_after hd hreach hoff (regWrite_snap hoff hne m 2 _)⟩,
    fun m hreach => snapBy_after hd hreach (by decide) (regWrite_snap (by decide) (by decide) m 1 _),
    fun _ hv hreach => msixUnmask_after hd hreach hv⟩

end

end Sys2Proof.Machine
end

section
/-! PROOF. The controls of the blocks: a part in which the clause of a camera port that is disabled does not hold. -/

namespace Sys2Proof.Machine

/-- The part at rest, owned by the host, with a camera on port 0, which is enabled; the camera has one sample in its history. -/
def cameraPart : Dev := { ({} : Dev) with
  start := .done, hif := { ({} : Hif) with linkUp := true }, own := { ({} : Own) with st := .owned, owner := 1 }
  prof := { ({} : Prof) with active := List.replicate 512 0 ++ [1] }
  sens := { ({} : Sens) with csi := [{ enable := true }], s := [{ past := [(0, {})] }] } }

/-- What the clause says is left of it once its port is disabled: the camera's slot is empty, and its history as it was. -/
def cameraKept : Dev := { cameraPart with sens := { cameraPart.sens with
  csi := upd cameraPart.sens.csi 0 fun c => { c with enable := false, rx := [], lanesUp := 0 }
  s := cameraPart.sens.s.mapIdx fun i x => if cameraPart.kind i == 1 && cameraPart.se i 1 1 == 0 then { x with slot := none } else x } }

/-- The number of samples in the first sensor's history. -/
def historyLength : Host.Outcome State Fault Refusal → Nat
  | .next s => (s.dev.sens.s.getD 0 {}).past.length
  | _ => 0

/-- The model empties the history (R158 speaks of the samples since the slot was last empty). -/
theorem csiPortDisable_empties : historyLength (exec (.csiPortDisable 0 1 0) { dev := cameraPart }) = 0 := by decide +kernel

theorem cameraKept_history : historyLength (State.after { dev := cameraPart } {} cameraKept) = 1 := by decide +kernel

/-- Refutes O6: disabling a camera's port empties the camera's history of samples with its slot, which the clause leaves as it was. -/
theorem not_blockControlsComplete : ¬ Obligations.BlockControlsComplete := by
  unfold Obligations.BlockControlsComplete
  rintro ⟨_, _, hports⟩
  obtain ⟨_, _, _, hdisable, _⟩ := hports { dev := cameraPart } 0 cameraPart 1 0 (advance_of_le (Nat.zero_le _)) (.inl ⟨rfl, rfl⟩) rfl
  have hlen := congrArg historyLength (hdisable (by decide) rfl)
  rw [csiPortDisable_empties] at hlen
  exact absurd (hlen.trans cameraKept_history) (by decide)

end Sys2Proof.Machine
end

section
/-! PROOF. Descriptors that were held, timed or not fetched, the mailbox and SAFE_SPI: what the function of each command gives in each case. -/

namespace Sys2Proof.Machine

section
variable {d : Dev}

/-! ### Fetch failures, held descriptors and fetches (R44, R46, R65) -/

theorem fetchFail_active {n : Nat} (hst : (d.chan (.sq n)).st = .active) (hpend : (d.chan (.sq n)).head ≠ (d.chan (.sq n)).tail) :
    fetchFail n d = ev 0x0005 1 (det [(16, [BitVec.ofNat 8 n]), (17, leBytes 2 (d.chan (.sq n)).head)])
      (d.setChan (.sq n) fun r => { r with st := .fault }) :=
  if_neg (by simp [hst, hpend])

section
variable {i : Iface} {ch : Chan} {count : Nat} {p : Pend} (hheld : d.heldAt { ch := ch, count := BitVec.ofNat 32 count } = some p)
include hheld

theorem descriptorStart_held (hlaunch : p.launch = 0) : descriptorStart ch count (i, d) = tryStart ch p (i, d) := by
  simp only [descriptorStart, hheld, if_pos hlaunch]

theorem descriptorStart_failed (hlaunch : p.launch = 0) (hdep : depCond p.d d = .failed) :
    descriptorStart ch count (i, d) = (i, takePend ch (.of stAborted) p d) := by
  rw [descriptorStart_held hheld hlaunch]
  simp only [tryStart, condOf, hdep]

variable (hlaunch : p.launch = 0) (hmet : condOf { ch := ch, count := p.count } p.d d = .met)
include hlaunch hmet

theorem descriptorStart_met : descriptorStart ch count (i, d) = startPend ch p (i, d) := by
  rw [descriptorStart_held hheld hlaunch]
  simp only [tryStart, hmet]

/-- The descriptor's work begins where it may, and goes on. -/
theorem descriptorStart_begins {r : Whole} (hbegin : beginPend ch p (i, d) = some r) : descriptorStart ch count (i, d) = r := by
  simp only [descriptorStart_met hheld hlaunch hmet, startPend, hbegin]

/-- It waits for its turn in the ring order otherwise. -/
theorem descriptorStart_waits (hbegin : beginPend ch p (i, d) = none) :
    descriptorStart ch count (i, d) = (
      let e := setStage { ch := ch, count := p.count } .ready d
      (i, { e with kick := ch :: e.kick })) := by
  simp only [descriptorStart_met hheld hlaunch hmet, startPend, hbegin]

theorem descriptorStart_ordered (hop : (opInfo p.op).async = false) :
    descriptorStart ch count (i, d) = (
      let e := setStage { ch := ch, count := p.count } .ready d
      (i, { e with kick := ch :: e.kick })) :=
  descriptorStart_waits hheld hlaunch hmet (by simp [beginPend, hop])

end

/-- The slot whose turn it is, is fetched. -/
theorem descriptorStart_fetches {i : Iface} {n count : Nat} (hheld : d.heldAt { ch := .sq n, count := BitVec.ofNat 32 count } = none)
    (hnext : BitVec.ofNat 32 count = (d.chan (.sq n)).nextCount) (hmay : d.mayFetch (.sq n) (d.slotDesc n (d.chan (.sq n)).head).2 = true) :
    descriptorStart (.sq n) count (i, d) = (
      let x := d.slotDesc n (d.chan (.sq n)).head
      fetchDesc (.sq n) x.1 x.2 (i, d)) := by
  simp only [descriptorStart, hheld]
  exact if_pos (by simp [hnext, hmay])

/-! ### Timed descriptors (R132-R135) -/

theorem heldAt_stage {t : Tok} {p : Pend} (h : d.heldAt t = some p) : p.stage = .held := by
  have hp := List.find?_some h
  simp only [Bool.and_eq_true, beq_iff_eq] at hp
  exact hp.2

theorem clusterWork_iff (o : Op) : clusterWork o = true ↔ o = .infer ∨ o = .solve := by simp [clusterWork]

/-- A timed descriptor whose launch has come, and that is the first of those that could start. -/
theorem timedStart_due {i : Iface} {ch : Chan} {count : Nat} {p : Pend} (hheld : d.heldAt { ch := ch, count := BitVec.ofNat 32 count } = some p)
    (hlaunch : p.launch ≠ 0) (hdue : p.launch ≤ d.tb64) (htol : d.tb64 ≤ p.launch + d.time.tolUs.toNat * usNs)
    (hmet : condOf { ch := ch, count := BitVec.ofNat 32 count } p.d d = .met) (hfirst : ∀ x ∈ d.launchReady, launchBefore x (ch, p) = false) :
    timedStart ch count (i, d) = (
      let e := if p.launch + 2 * usNs < d.tb64 then { d with time := { d.time with late := satInc d.time.late } } else d
      let go (q : Pend) : Pend :=
        if q.count = p.count then { q with begun := true, launch := if p.moved != 0 then e.tb64 else q.launch } else q
      runPend ch p (i, if p.op = .infer ∨ p.op = .solve then d else e.setChan ch fun r => { r with pend := r.pend.map go })) := by
  have hany : (d.launchReady.any fun x => launchBefore x (ch, p)) = false := by simpa [List.any_eq_false] using hfirst
  simp only [timedStart, hheld]
  rw [if_neg (by simp [Pend.timed, heldAt_stage hheld, hlaunch, Nat.not_lt.2 hdue, Nat.not_lt.2 htol, hmet, hany])]
  simp only [clusterWork_iff]
  rfl

section
variable {ch : Chan} {count : Nat} {p : Pend} (hp : d.startAhead { ch := ch, count := BitVec.ofNat 32 count } = some p)
  (hlate : p.launch + d.time.tolUs.toNat * usNs < d.tb64)
include hp hlate

theorem launchMissed_gives_up (honce : p.d.repeatNext = false ∨ (d.chan ch).grid = none) :
    launchMissed ch count d = takePend ch { status := stLaunchMissed, result0 := BitVec.ofNat 64 d.tb64 } p d := by
  simp only [launchMissed, hp, if_neg (Nat.not_le.2 hlate)]
  split
  · obtain h | h := honce
    · exact if_neg (by simp [h])
    · simp_all
  · rfl

/-- A periodic launch moves to the first later instant of its grid. -/
theorem launchMissed_moves {g : Nat × Nat} (hrepeat : p.d.repeatNext = true) (hstage : p.stage = .held) (hgrid : (d.chan ch).grid = some g)
    (hon : d.onGrid ch p.launch = true) :
    launchMissed ch count d = (
      let k := (d.tb64 - p.launch) / g.2 + 1
      let go (q : Pend) : Pend :=
        if q.count = p.count then { q with stage := .held, launch := q.launch + k * g.2, moved := q.moved + k } else q
      d.setChan ch fun r => { r with pend := r.pend.map go }) := by
  simp only [launchMissed, hp, if_neg (Nat.not_le.2 hlate), hgrid]
  rw [if_pos (by simp [hrepeat, hon]), if_neg (by simp [hstage])]

end

/-! ### Interrupt coalescing and READY (R75) -/

theorem coalesceTimeout_due {n : Nat} (hbatch : (d.cq n).batch ≠ 0) (htime : (d.cq n).coalTimeUs ≠ 0)
    (hdue : (d.cq n).batchAt + (d.cq n).coalTimeUs * usNs ≤ d.now) :
    coalesceTimeout n d = msixSend (d.cq n).vector (d.setCq n fun q => { q with batch := 0 }) :=
  if_neg (by simp [hbatch, htime, Nat.not_lt.2 hdue])

theorem readyTimeout_idle (hpart : d.part = .running) (hidle : d.busy = false) : readyTimeout d = { d with part := .ready, idleSince := none } :=
  if_pos (by simp [hpart, hidle])

/-- Settles O7: the four cases of a held descriptor, the fetch, the launches, and the two timeouts. -/
theorem descriptorProgressCompletes : Obligations.DescriptorProgressCompletes :=
  fun _ _ _ hd => ⟨fun _ hup hst hpend => onIf_after hd hup (fetchFail_active hst hpend),
    fun _ _ _ hheld hlaunch => ⟨fun hmet hop => onWhole_after hd (descriptorStart_ordered hheld hlaunch hmet hop),
      fun _ hmet hbegin => onWhole_after hd (descriptorStart_begins hheld hlaunch hmet hbegin),
      fun hmet hbegin => onWhole_after hd (descriptorStart_waits hheld hlaunch hmet hbegin),
      fun hdep => onWhole_after hd (descriptorStart_failed hheld hlaunch hdep)⟩,
    fun _ _ hheld hnext hmay => onWhole_after hd (descriptorStart_fetches hheld hnext hmay),
    fun _ _ _ hheld hlaunch hdue htol hmet hfirst => onWhole_after hd (timedStart_due hheld hlaunch hdue htol hmet hfirst),
    fun _ _ _ hp hlate => ⟨fun honce => onDev_after hd (launchMissed_gives_up hp hlate honce),
      fun _ hrepeat hstage hgrid hon => onDev_after hd (launchMissed_moves hp hlate hrepeat hstage hgrid hon)⟩,
    fun _ hbatch htime hdue => onDev_after hd (coalesceTimeout_due hbatch htime hdue),
    fun hpart hidle => onDev_after hd (readyTimeout_idle hpart hidle)⟩

/-! ### The mailbox (R77-R79) -/

theorem i3cDescriptor_fetches {i : Iface} (smbus : Bool) {b : Bytes} (hrank : d.start.rank ≠ 0) (hmay : d.mayFetch .i3c (parseDesc b).2 = true)
    (hlen : 64 ≤ b.length) :
    i3cDescriptor smbus b (i, d) = (
      let x := parseDesc b
      fetchDesc .i3c x.1 { x.2 with payload := b.drop 64 } (i, { d with hif := { d.hif with smbus := smbus } })) :=
  (if_neg hrank).trans (if_neg (by simp [hmay, Nat.not_lt.2 hlen]))

theorem i3cCompletion_waiting {b : Bytes} {r : List Bytes} (hrank : 6 ≤ d.start.rank) (hreplies : d.hif.i3c.replies = b :: r) :
    i3cCompletion d = emit (if d.hif.smbus then .smbusRead ((List.range ((b.length + 254) / 255)).map fun i => (b.drop (255 * i)).take 255)
      else .i3cRead b) { d with hif := { d.hif with i3c := { d.hif.i3c with replies := r } } } := by
  have h0 : d.start.rank ≠ 0 := by omega
  simp only [i3cCompletion, hreplies, if_neg h0, if_neg (Nat.not_lt.2 hrank)]

theorem i3cCompletion_none (hrank : d.start.rank ≠ 0) (hreplies : d.hif.i3c.replies = []) : i3cCompletion d = emit .i3cNack d := by
  simp only [i3cCompletion, hreplies, if_neg hrank]

theorem i3cCommon_up (code : Nat) (hrank : d.start.rank ≠ 0) : i3cCommon code d = emit (.i3cCcc code) d := if_neg hrank

/-! ### SAFE_SPI (R388-R390) -/

/-- The part as a frame begins: its own frame sent where the interface is driven. -/
def spiSent (d : Dev) : Dev := if d.driven 26 then emit (.safeSpi (spiMiso d)) d else d

section
variable {i : Iface} {m : Bytes} (hrank : 5 ≤ d.start.rank)
include hrank

theorem spiFrame_bad (hok : spiFrameOk m = false) :
    spiFrame m (i, d) = (i, { spiSent d with spi := { (spiSent d).spi with
      frames := (spiSent d).spi.frames + 1, crcErr := true, busy := false, bad := satInc (spiSent d).spi.bad } }) :=
  (if_neg (Nat.not_lt.2 hrank)).trans (if_neg (by simp [hok]))

variable (hok : spiFrameOk m = true)
include hok

theorem spiFrame_good :
    spiFrame m (i, d) = spiCommand m (i, { spiSent d with spi := { (spiSent d).spi with
      frames := (spiSent d).spi.frames + 1, crcErr := false, busy := false } }) :=
  (if_neg (Nat.not_lt.2 hrank)).trans (if_pos hok)

theorem spiFrame_read (hcmd : fld m 2 1 = 0) :
    spiFrame m (i, d) = (i, { spiSent d with spi := { (spiSent d).spi with
      frames := (spiSent d).spi.frames + 1, crcErr := false, busy := false } }) := by
  rw [spiFrame_good hrank hok]
  simp only [spiCommand, hcmd]

omit hrank hok in
theorem spiSent_spi : (spiSent d).spi = d.spi := by
  unfold spiSent
  split <;> rfl

/-- An acknowledgement frees the oldest response. -/
theorem spiFrame_acknowledges (hcmd : fld m 2 1 = 3) (hresp : d.spi.resp ≠ []) :
    spiFrame m (i, d) = (i, { spiSent d with spi := { (spiSent d).spi with
      frames := (spiSent d).spi.frames + 1, crcErr := false, busy := false, ack := BitVec.ofNat 32 (fld m 4 4)
      resp := (spiSent d).spi.resp.drop 1 } }) := by
  rw [spiFrame_good hrank hok]
  simp only [spiCommand, hcmd]
  exact if_neg (by simpa [spiSent_spi] using hresp)

end

/-- Settles O8: the mailbox's writes and reads, and the frames of SAFE_SPI. -/
theorem mailboxAndSafeSpiComplete : Obligations.MailboxAndSafeSpiComplete :=
  fun _ _ _ hd => ⟨fun smbus _ hrank hmay hlen => onWhole_after hd (i3cDescriptor_fetches smbus hrank hmay hlen),
    fun _ _ hrank hreplies => onDev_after hd (i3cCompletion_waiting hrank hreplies),
    fun hrank hreplies => onDev_after hd (i3cCompletion_none hrank hreplies),
    fun code hrank => onDev_after hd (i3cCommon_up code hrank),
    fun _ hrank hok => ⟨fun hcmd => onWhole_after hd (spiFrame_read hrank hok hcmd),
      fun hcmd hresp => onWhole_after hd (spiFrame_acknowledges hrank hok hcmd hresp)⟩,
    fun _ hrank hok => onWhole_after hd (spiFrame_bad hrank hok)⟩

end

end Sys2Proof.Machine
end

section
/-! PROOF. The instants of the ownership machine and of the profile machine, and SAFE_REQ_N: what the function of each gives in each case. -/

namespace Sys2Proof.Machine

section
variable {d : Dev}

/-! ### Ownership (R81, R83, R84, R86) -/

theorem arbitrationEnd_won (hst : d.own.st = .arbitrating) (hdue : d.own.windowEnd ≤ d.now) (hwin : d.own.winner ≠ 0) :
    arbitrationEnd d = d.own.claims.foldl (fun e c => finish c.2 (if c.1 = d.own.winner then .ok d.own.winner
        else { (Cpl.conflict 0x0202) with result0 := BitVec.ofNat 64 d.own.winner }) e)
      (renewLease (setOwner d.own.winner 0 { d with own := { d.own with claims := [] } })) :=
  (if_pos (by simp [hst, hdue])).trans (if_neg hwin)

theorem leaseLapse_due (hst : d.own.st = .owned ∨ d.own.st = .handover) (hdue : d.own.leaseEnd ≤ d.now) :
    leaseLapse d = ev 0x0210 0 (det [(16, [BitVec.ofNat 8 d.own.owner, 0, 3])])
      { d with own := { d.own with st := .vacant, owner := 0, successor := 0 } } := by
  have howned : (d.own.st == .owned || d.own.st == .handover) = true := by simpa using hst
  rw [leaseLapse, howned, decide_eq_true hdue]
  rfl

theorem handoverExpire_due (hst : d.own.st = .handover) (hdue : d.own.handoverEnd ≤ d.now) :
    handoverExpire d = ev 0x0211 0 (det [(16, [BitVec.ofNat 8 d.own.successor])]) { d with own := { d.own with st := .owned, successor := 0 } } :=
  if_pos (by simp [hst, hdue])

/-! ### Profiles (R94-R96) -/

theorem profileApplyDone_command {p : Nat} {tok : Tok} (h : d.prof.applying = some (p, .command tok)) :
    profileApplyDone d = (
      let e := applyProfile p 1 d
      finish tok .ok { e with prof := { e.prof with byCommand := true } }) := by
  simp only [profileApplyDone, h]

theorem profileWriteDone_written {p : Nat} {b : Bytes} {tok : Tok} (h : d.prof.writing = some (p, b, tok)) :
    profileWriteDone d = finish tok .ok { d with prof := { d.prof with
      st := .applied, writing := none, stored := upd d.prof.stored p fun _ => b } } := by
  simp only [profileWriteDone, h]

/-! ### SAFE_REQ_N and base-metal mode (R88, R89, R476, R477) -/

theorem safeReqAssert_island (h : 5 ≤ d.start.rank) :
    safeReqAssert d = raiseCause 0 (ev 0x0213 0 (det [(16, [1])]) { d with own := { d.own with safeLevel := true, safeSeen := true } }) :=
  if_neg (Nat.not_lt.2 h)

theorem safeReqAssert_early (h : d.start.rank < 5) : safeReqAssert d = { d with own := { d.own with safeLevel := true } } := if_pos h

theorem safeReqDeassert_island (h : 5 ≤ d.start.rank) :
    safeReqDeassert d = ev 0x0213 0 (det [(16, [0])]) (clearCause 0 { d with own := { d.own with safeLevel := false } }) :=
  if_neg (Nat.not_lt.2 h)

theorem blocksGated_base (h : d.part = .baseMetal) : blocksGated d = { d with flt := { d.flt with gated := true } } := if_pos (by simp [h])

/-- Settles O9: one lemma for each instant. -/
theorem ownershipAndProfileInstantsComplete : Obligations.OwnershipAndProfileInstantsComplete :=
  fun _ _ _ hd => ⟨fun hrun hst hdue hwin => onIf_after hd hrun (arbitrationEnd_won hst hdue hwin),
    fun hrun hst hdue => onIf_after hd hrun (leaseLapse_due hst hdue),
    fun hrun hst hdue => onIf_after hd hrun (handoverExpire_due hst hdue),
    fun _ _ h => onDev_after hd (profileApplyDone_command h),
    fun _ _ _ h => onDev_after hd (profileWriteDone_written h),
    fun h => onDev_after hd (safeReqAssert_island h),
    fun h => onDev_after hd (safeReqAssert_early h),
    fun h => onDev_after hd (safeReqDeassert_island h),
    fun h => onDev_after hd (blocksGated_base h)⟩

end

end Sys2Proof.Machine
end

section
/-! PROOF. PTP messages and pulses at the tracks, and the time base and its tracks in time: what the function of each command gives. -/

namespace Sys2Proof.Machine

section
variable {d : Dev}

/-! ### Messages for one track (R117-R119) -/

/-- A PTP message on the port, in the domain, is for track `k`. -/
def hearsOn (port : Nat) (via : PtpVia) (domain : Nat) (d : Dev) (k : Nat) : Bool :=
  d.hasTrack k && (d.trk k).hears via && (d.trk k).port == port && (d.trk k).domain == domain

theorem hearsOn_of {port : Nat} {via : PtpVia} {domain k : Nat} {x : Track} (hx : d.time.trk[k]? = some x) (hhas : d.hasTrack k = true)
    (hsrc : x.source = via.std) (hvia : via.std = 1 ∨ x.transport = via.transport) (hport : x.port = port) (hdom : x.domain = domain) :
    hearsOn port via domain d k = true := by
  have htrk : d.trk k = x := by simp [Dev.trk, hx]
  simp [hearsOn, hhas, htrk, Track.hears, hsrc, hvia, hport, hdom]

theorem hearsOn_other {port : Nat} {via : PtpVia} {domain k : Nat} (h : d.hasTrack k = true → (d.trk k).domain ≠ domain) :
    hearsOn port via domain d k = false := by
  by_cases hhas : d.hasTrack k = true
  · simp [hearsOn, h hhas]
  · simp [hearsOn, hhas]

theorem trk_setTrk_ne {j k : Nat} (f : Track → Track) (h : k ≠ j) : (d.setTrk k f).trk j = d.trk j := by
  simp [Dev.setTrk, Dev.trk, upd, h]

theorem hearsOn_setTrk_ne {j k : Nat} (f : Track → Track) (port : Nat) (via : PtpVia) (domain : Nat) (h : k ≠ j) :
    hearsOn port via domain (d.setTrk k f) j = hearsOn port via domain d j := by
  simp only [hearsOn, Dev.hasTrack, trk_setTrk_ne f h]
  rfl

/-- A message for one of the two tracks acts on that one. -/
theorem one_track {port : Nat} {via : PtpVia} {domain k : Nat} {act : Nat → Dev → Dev} {u : Track → Track} (hk : k < 2)
    (hself : hearsOn port via domain d k = true) (hact : act k d = d.setTrk k u) (hother : hearsOn port via domain d (1 - k) = false) :
    (List.range 2).foldl (fun d k => if hearsOn port via domain d k then act k d else d) d = d.setTrk k u := by
  have hfold : (List.range 2).foldl (fun d k => if hearsOn port via domain d k then act k d else d) d
      = (fun d k => if hearsOn port via domain d k then act k d else d) (if hearsOn port via domain d 0 then act 0 d else d) 1 := rfl
  rw [hfold]
  obtain rfl | rfl : k = 0 ∨ k = 1 := by omega
  · rw [if_pos hself, hact]
    exact if_neg (by rw [hearsOn_setTrk_ne u port via domain (by decide)]; simp [hother])
  · rw [if_neg (by simp [hother])]
    exact (if_pos hself).trans hact

/-- A track takes the master it hears, where it has none or a worse one. -/
def takeMaster (via : PtpVia) (c : ClockSet) (k : Nat) (d : Dev) : Dev :=
  let take := match (d.trk k).master d.now with
    | none => true
    | some f => f.identity == c.identity || clockBetter c f
  if take then d.setTrk k fun t => { t with
    foreign := some c, gmClass := BitVec.ofNat 8 c.cls, foreignUntil := d.now + (if via.std = 0 then 6 else 3) * sNs } else d

theorem ptpAnnounceRx_eq (port : Nat) (via : PtpVia) (domain : Nat) (c : ClockSet) :
    ptpAnnounceRx port via domain c d = (List.range 2).foldl (fun d k => if hearsOn port via domain d k then takeMaster via c k d else d) d := rfl

section
variable {port domain k : Nat} {via : PtpVia} {x : Track} (hk : k < 2) (hx : d.time.trk[k]? = some x) (hhas : d.hasTrack k = true)
  (hsrc : x.source = via.std) (hvia : via.std = 1 ∨ x.transport = via.transport) (hport : x.port = port) (hdom : x.domain = domain)
  (hother : d.hasTrack (1 - k) = true → (d.trk (1 - k)).domain ≠ domain)
include hk hx hhas hsrc hvia hport hdom hother

/-- A track without a master takes the one it hears. -/
theorem ptpAnnounceRx_heard (c : ClockSet) (hnone : x.master d.now = none) :
    ptpAnnounceRx port via domain c d = d.setTrk k fun x => { x with
      foreign := some c, gmClass := BitVec.ofNat 8 c.cls, foreignUntil := d.now + (if via.std = 0 then 6 else 3) * sNs } := by
  have htrk : d.trk k = x := by simp [Dev.trk, hx]
  rw [ptpAnnounceRx_eq]
  refine one_track hk (hearsOn_of hx hhas hsrc hvia hport hdom) ?_ (hearsOn_other hother)
  simp only [takeMaster, htrk, hnone, if_true]

theorem ptpDelayRx_heard (t1 t2 t3 t4 : Int) :
    ptpDelayRx port via domain (.answered t1 t2 t3 t4) d = d.setTrk k fun x => { x with delay := ((t2 - t1) + (t4 - t3)) / 2 } :=
  one_track (act := fun k d => d.setTrk k fun t => { t with delay := ((t2 - t1) + (t4 - t3)) / 2 })
    hk (hearsOn_of hx hhas hsrc hvia hport hdom) rfl (hearsOn_other hother)

end

/-! ### Messages sent and forwarded (R121, R122) -/

theorem ptpSyncTx_transmits {k : Nat} (h : d.transmits k = true) :
    ptpSyncTx k d =
      let two := (d.trk k).source == 1
      let e := emit (.ptpTx (d.trk k).port k (.announce (d.ownClockSet k)))
        (emit (.ptpSync (d.trk k).port k d.time.tb d.clockClass two) d)
      if two then emit (.ptpTx (d.trk k).port k (.followUp d.time.tb)) e else e :=
  if_pos h

section
variable {src dst p : Nat} {b : Bytes} {ip : Option Nat} (hhead : ptpHeader b = some (p, ip)) (hgptp : beAt b p 1 / 16 ≠ 1 ∨ ip.isSome)
  (hdest : multicast b = true ∨ beAt b 0 6 ≠ Config.ownMac) (hsrc : src < 4) (hdst : dst < 4) (hne : src ≠ dst)
  (hlink : (d.eth.getD src {}).link = true) (hlink' : (d.eth.getD dst {}).link = true) (ingress80 egress80 : Nat)
include hhead hgptp hdest hsrc hdst hne hlink hlink'

/-- What a PTP frame between two linked ports leaves as. -/
theorem ptpForward_eq :
    ptpForward src dst b ingress80 egress80 d =
      if (d.eth.getD src {}).tc && (d.eth.getD dst {}).tc && decide (beAt b p 1 % 16 < 2) then
        emit (.ptpForward dst (withFcs (corrected p ip ((egress80 : Int) - ingress80) b))) d
      else emit (.ptpForward dst (withFcs b)) d := by
  have hforeign : (beAt b p 1 / 16 == 1 && ip.isNone) = false := by
    obtain h | h := hgptp
    · simp [h]
    · simp [Option.isNone_eq_false_iff.2 h]
  simp only [ptpForward, hhead, hforeign]
  rw [if_neg (by rw [hlink, hlink']; simp [hne]; omega), if_neg (by obtain h | h := hdest <;> simp [h])]

theorem ptpForward_corrected (htc : (d.eth.getD src {}).tc = true) (htc' : (d.eth.getD dst {}).tc = true) (hkind : beAt b p 1 % 16 < 2) :
    ptpForward src dst b ingress80 egress80 d = emit (.ptpForward dst (withFcs (corrected p ip ((egress80 : Int) - ingress80) b))) d := by
  rw [ptpForward_eq hhead hgptp hdest hsrc hdst hne hlink hlink' ingress80 egress80]
  exact if_pos (by rw [htc, htc']; simpa using hkind)

theorem ptpForward_plain (h : (d.eth.getD src {}).tc = false ∨ (d.eth.getD dst {}).tc = false ∨ 2 ≤ beAt b p 1 % 16) :
    ptpForward src dst b ingress80 egress80 d = emit (.ptpForward dst (withFcs b)) d := by
  rw [ptpForward_eq hhead hgptp hdest hsrc hdst hne hlink hlink' ingress80 egress80]
  obtain h | h | h := h
  · exact if_neg (by rw [h]; simp)
  · exact if_neg (by rw [h]; simp)
  · exact if_neg (by rw [decide_eq_false (Nat.not_lt.2 h)]; simp)

end

/-! ### Pulses (R119) -/

section
variable (hrun : d.time.running = true)
include hrun

theorem ppsIn_labelled {label : Nat} (h : d.pulseLabel d.tb64 = some label) :
    ppsIn d =
      let stamp : Int := (d.time.tb : Int) - d.time.cableNs.toNat * 65536
      let take (k : Nat) (e : Dev) : Dev :=
        if e.hasTrack k && (e.trk k).source == 2 then trackInput k (((label * 65536 : Nat) : Int) - stamp) (1500 * msNs) e else e
      take 1 (take 0 d) := by
  unfold ppsIn
  rw [if_neg (by simp [hrun])]
  simp only [h]
  rfl

theorem ppsIn_unlabelled (h : d.pulseLabel d.tb64 = none) : ppsIn d = { d with sens := { d.sens with ppsUnlabelled := satInc d.sens.ppsUnlabelled } } := by
  simp [ppsIn, hrun, h]

end

/-! ### Lost tracks and holdover (R110, R111, R116) -/

theorem trackTimeout_silent {k : Nat} (hhas : d.hasTrack k = true) (hdue : (d.trk k).lastInput + (d.trk k).timeout ≤ d.now)
    (hst : (d.trk k).st = .acquiring ∨ (d.trk k).st = .locked) :
    trackTimeout k d =
      let e := trackTo k .lost d
      if d.time.sel = k ∧ (d.trk k).st = .locked then selectedLost e else e := by
  have hwas : ((d.trk k).st == .acquiring || (d.trk k).st == .locked) = true := by simpa using hst
  have hsel : (trackTo k .lost d).time.sel = d.time.sel := by
    unfold trackTo
    split
    · rfl
    · simp
  unfold trackTimeout trackLost
  rw [if_pos (by simp [hhas, hdue]), if_pos hwas]
  simp only [hsel, Bool.and_eq_true, beq_iff_eq]

theorem holdoverExpire_due (hst : d.time.st = .holdover) (hdue : d.time.holdSince + d.time.holdMaxS.toNat * sNs ≤ d.now) :
    holdoverExpire d = ev 0x0403 0 (det [(16, [0])]) { d with time := { d.time with st := .freeRun, holdErr := 0xFFFF } } :=
  if_pos (by simp [hst, hdue])

theorem holdErrUpdate_due (hst : d.time.st = .holdover) (hdue : d.time.holdErrAt + 10 * msNs ≤ d.now) :
    holdErrUpdate d = { d with time := { d.time with holdErr := BitVec.ofNat 16 d.holdErrNow, holdErrAt := d.now } } :=
  if_pos (by simp [hst, hdue])

/-- The part with a temperature of the reference given. -/
def warmed (temp : Int) (d : Dev) : Dev := { d with time := { d.time with tempRef := temp } }

theorem holdErrUpdate_after {s : State} {t : Nat} (temp : Int) (hd : s.devAt t = d) (hup : d.islandUp = true) (hst : d.time.st = .holdover)
    (hdue : d.time.holdErrAt + 10 * msNs ≤ d.now) :
    onIf Dev.islandUp t (fun d => holdErrUpdate (warmed temp d)) s = s.after s.iface
      { warmed temp d with time := { (warmed temp d).time with
        holdErr := BitVec.ofNat 16 (warmed temp d).holdErrNow, holdErrAt := (warmed temp d).now } } :=
  onIf_after (f := fun d => holdErrUpdate (warmed temp d)) hd hup (holdErrUpdate_due hst hdue)

/-- Settles O10: the messages and the pulses, and the instants of the tracks and of holdover. -/
theorem trackAndTimeBaseCommandsComplete : Obligations.TrackAndTimeBaseCommandsComplete :=
  ⟨fun _ _ _ hd hup => ⟨fun _ _ _ _ _ _ _ _ => fun _ => onIf_after hd hup rfl,
      fun _ _ _ c _ _ hk hx hhas hsrc hvia hport hdom hnone hother =>
        onIf_after hd hup (ptpAnnounceRx_heard hk hx hhas hsrc hvia hport hdom hother c hnone),
      fun _ _ _ t1 t2 t3 t4 _ _ hk hx hhas hsrc hvia hport hdom hother =>
        onIf_after hd hup (ptpDelayRx_heard hk hx hhas hsrc hvia hport hdom hother t1 t2 t3 t4),
      fun _ h => onIf_after hd hup (ptpSyncTx_transmits h),
      fun src dst headers msg b p ip ingress80 egress80 hb hhead hgptp hdest hsrc hdst hne hlink hlink' => by
        subst hb
        exact ⟨fun htc htc' hkind => onIf_after hd hup
            (ptpForward_corrected hhead hgptp hdest hsrc hdst hne hlink hlink' ingress80 egress80 htc htc' hkind),
          fun h => onIf_after hd hup (ptpForward_plain hhead hgptp hdest hsrc hdst hne hlink hlink' ingress80 egress80 h)⟩,
      fun _ hrun h => onIf_after hd hup (ppsIn_labelled hrun h),
      fun hrun h => onIf_after hd hup (ppsIn_unlabelled hrun h)⟩,
    fun _ _ _ hd hup => ⟨fun _ hhas hdue hst => onIf_after hd hup (trackTimeout_silent hhas hdue hst),
      fun hst hdue => onIf_after hd hup (holdoverExpire_due hst hdue),
      fun temp hst hdue => holdErrUpdate_after temp hd hup hst hdue⟩⟩

end

end Sys2Proof.Machine
end

section
/-! PROOF. Ethernet links and frames, captures and pulses: what the function of each command gives in each of its cases. -/

namespace Sys2Proof.Machine

section
variable {d : Dev}

/-- Two changes of one entry of a list are one. -/
theorem upd_upd {α : Type} (l : List α) (n : Nat) (f g : α → α) : upd (upd l n f) n g = upd l n fun x => g (f x) := by
  simp [upd, List.modify_modify_eq, Function.comp_def]

theorem getD_of_getElem? {α : Type} {l : List α} {n : Nat} {x : α} (y : α) (h : l[n]? = some x) : l.getD n y = x := by
  simp [h]

theorem pin_of_getElem? {n : Nat} {p : TmrPin} (h : d.time.tmr[n]? = some p) : d.pin n = p := by
  simp [Dev.pin, h]

/-- A pin that exists, read after its own change. -/
theorem pin_setPin {n : Nat} {p : TmrPin} (h : d.time.tmr[n]? = some p) (f : TmrPin → TmrPin) : (d.setPin n f).pin n = f p := by
  simp [Dev.pin, Dev.setPin, upd, h]

/-! ### Links and frames (R123, R124) -/

section
variable {n : Nat} {p : EthPort} (hn : n < 4) (hp : d.eth[n]? = some p)
include hn hp

/-- What a change of a link does to it: `now` is whether it is up then. -/
theorem ethLinkChange_eq {up fast seated now : Bool}
    (hnow : (up && p.enable && decide (0 < linkRate n p.mode.toNat fast) && (decide (2 ≤ n) || seated)) = now) (hch : now ≠ p.link) :
    ethLinkChange n up fast seated d =
      let e := evLink n now { d with eth := upd d.eth n fun p => { p with
        modulePresent := decide (n < 2) && seated, link := now
        rate := BitVec.ofNat 3 (if now then linkRate n (d.eth.getD n {}).mode.toNat fast else 0), linkAt := d.now } }
      if now then e else tracksOfPortLost n e := by
  have hget := getD_of_getElem? {} hp
  unfold ethLinkChange
  rw [if_neg (Nat.not_le.2 hn)]
  simp only [hget, hnow]
  rw [if_neg (by simpa using hch), upd_upd]

theorem ethLinkChange_up {fast seated : Bool} (hen : p.enable = true) (hlink : p.link = false) (hseat : 2 ≤ n ∨ seated = true)
    (hrate : 0 < linkRate n p.mode.toNat fast) :
    ethLinkChange n true fast seated d = evLink n true { d with eth := upd d.eth n fun p => { p with
      modulePresent := decide (n < 2) && seated, link := true
      rate := BitVec.ofNat 3 (linkRate n p.mode.toNat fast), linkAt := d.now } } := by
  have hnow : (true && p.enable && decide (0 < linkRate n p.mode.toNat fast) && (decide (2 ≤ n) || seated)) = true := by
    simpa [hen, hrate] using hseat
  rw [ethLinkChange_eq hn hp hnow (by simp [hlink])]
  exact congrArg (fun l => evLink n true { d with eth := l }) (upd_congr {} rfl)

theorem ethLinkChange_down {fast seated : Bool} (hlink : p.link = true) :
    ethLinkChange n false fast seated d = tracksOfPortLost n (evLink n false { d with eth := upd d.eth n fun p => { p with
      modulePresent := decide (n < 2) && seated, link := false, rate := 0, linkAt := d.now } }) := by
  rw [ethLinkChange_eq hn hp (now := false) (by simp) (by simp [hlink])]
  rfl

theorem ethFrameRx_switched {f : EthFrame} (hlink : p.link = true) (hlen : f.len ≤ 9216) (htype : f.etherType ≠ 0x8808) (hgptp : isGptp f = false) :
    ethFrameRx n f d =
      let vid := (f.vlan.map (·.2)).getD 0
      let pcp := (f.vlan.map fun v => v.1 % 8).getD 0
      let out := Config.forwardPorts f.dst vid
      let put (q : List (List EthFrame)) : List (List EthFrame) := upd q pcp fun l => l ++ [f]
      let e := (List.range 4).foldl (fun e i =>
        if i != n && out.getLsbD i && (e.eth.getD i {}).link then
          { e with eth := upd e.eth i fun q => { q with queues := put q.queues } }
        else e) d
      (List.range 2).foldl (fun e i =>
        if out.getLsbD (4 + i) then { e with ethInt := upd e.ethInt i put } else e) e := by
  have hget := getD_of_getElem? {} hp
  unfold ethFrameRx
  rw [hget, if_neg (by simp [hlink, Nat.not_le.2 hn, Nat.not_lt.2 hlen, htype, hgptp])]
  cases f.vlan <;> rfl

end

/-! ### Captures (R125, R126) -/

section
variable {n : Nat} {rising : Bool} {p : TmrPin} (hn : n < 16) (hp : d.time.tmr[n]? = some p)
  (hmode : (p.mode = 1 ∧ rising = true) ∨ (p.mode = 2 ∧ rising = false) ∨ p.mode = 3)
include hn hp hmode

/-- What an edge that the pin's mode asks for does. -/
theorem tmrCapture_wanted :
    tmrCapture n rising d =
      if p.capAny && decide (d.time.mono < p.capMono + 100 * 65536) then d.setPin n fun p => { p with overrun := satInc p.overrun }
      else streamRecord (0x0800 + n) d.tb64 false (captureRecord d.time.tb n rising (p.capSeq + 1).toNat)
        (d.setPin n fun q => { q with
          cap := d.time.tb, capEdge := rising, capSeq := p.capSeq + 1, capAny := true, capMono := d.time.mono }) := by
  have hget : d.pin n = p := pin_of_getElem? hp
  have hwant : (decide (n < 16) && ((p.mode = 1 && rising) || (p.mode = 2 && !rising) || p.mode = 3)) = true := by
    obtain ⟨h, h'⟩ | ⟨h, h'⟩ | h := hmode
    · simp [hn, h, h']
    · simp [hn, h, h']
    · simp [hn, h]
  unfold tmrCapture
  simp only [hget, hwant]
  exact if_neg (by decide)

theorem tmrCapture_taken (hgap : p.capAny = false ∨ p.capMono + 100 * 65536 ≤ d.time.mono) :
    tmrCapture n rising d = streamRecord (0x0800 + n) d.tb64 false (captureRecord d.time.tb n rising (p.capSeq + 1).toNat)
      (d.setPin n fun q => { q with
        cap := d.time.tb, capEdge := rising, capSeq := p.capSeq + 1, capAny := true, capMono := d.time.mono }) := by
  rw [tmrCapture_wanted hn hp hmode]
  refine if_neg ?_
  obtain h | h := hgap
  · simp [h]
  · rw [decide_eq_false (Nat.not_lt.2 h)]; simp

theorem tmrCapture_overrun (hany : p.capAny = true) (hgap : d.time.mono < p.capMono + 100 * 65536) :
    tmrCapture n rising d = d.setPin n fun p => { p with overrun := satInc p.overrun } := by
  rw [tmrCapture_wanted hn hp hmode]
  exact if_pos (by rw [hany, decide_eq_true hgap]; rfl)

end

/-! ### Pulses (R127, R129, R130) -/

section
variable {n : Nat} {p : TmrPin} (hp : d.time.tmr[n]? = some p)
include hp

theorem tmrPulse_begins (hend : p.pulseEnd = none) (hpending : p.pending = true) (hdue : p.pulseAt p.next ≤ d.time.tb) :
    tmrPulse n d = emit (.tmrEdge n p.activeLevel (p.pulseAt p.next) (d.driven n)) (d.setPin n fun p => { p with
      pulseEnd := some (p.pulseAt p.next + p.width.toNat * 65536), pending := p.mode == 5, next := p.next + 1, sent := p.next + 1 }) := by
  have hget : d.pin n = p := pin_of_getElem? hp
  unfold tmrPulse
  simp only [hget, hend]
  exact if_pos (by simp [hpending, hdue])

theorem tmrPulse_ends {end_ : Nat} (hend : p.pulseEnd = some end_) (hdue : end_ ≤ d.time.tb)
    (hnext : p.pending = false ∨ d.time.tb < p.pulseAt p.next) :
    tmrPulse n d = emit (.tmrEdge n (!p.activeLevel) end_ (d.driven n)) (d.setPin n fun p => { p with
      pulseEnd := none, arm := p.arm && (p.mode == 5 || p.pending) }) := by
  have hget : d.pin n = p := pin_of_getElem? hp
  have hafter (o : Emission) (f : TmrPin → TmrPin) : (emit o (d.setPin n f)).pin n = f p := pin_setPin hp f
  unfold tmrPulse
  simp only [hget, hend, if_pos hdue, hafter]
  refine if_neg ?_
  obtain h | h := hnext
  · simp [h]
  · simp only [Bool.and_eq_true, decide_eq_true_eq, not_and]
    exact fun _ => Nat.not_le.2 h

end

theorem ppsOut_second (hrun : d.time.running = true) (hend : d.time.ppsEnd = none) (hlast : d.time.ppsLast < d.time.tb / (65536 * sNs)) :
    ppsOut d =
      let at80 := d.time.tb / (65536 * sNs) * 65536 * sNs
      emit (.ppsEdge true at80 (d.driven 16)) { d with time := { d.time with
        ppsLast := d.time.tb / (65536 * sNs), ppsSent := d.time.tb / (65536 * sNs)
        ppsEnd := some (at80 + d.time.widthMs.toNat * msNs * 65536) } } := by
  unfold ppsOut
  simp only [hend]
  exact if_pos (by rw [hrun, decide_eq_true hlast]; rfl)

/-- Settles O11: the links, the switched frames, the captures and the pulses. -/
theorem ethernetAndPinCommandsComplete : Obligations.EthernetAndPinCommandsComplete :=
  ⟨fun _ _ _ _ _ hd hboot hn hp => ⟨
      fun _ _ hen hlink hseat hrate => onIf_after hd hboot (ethLinkChange_up hn hp hen hlink hseat hrate),
      fun _ _ hlink => onIf_after hd hboot (ethLinkChange_down hn hp hlink),
      fun _ hlink hlen htype hgptp => onIf_after hd hboot (ethFrameRx_switched hn hp hlink hlen htype hgptp)⟩,
    fun _ _ _ hd hup => ⟨fun _ _ _ hn hp hmode => ⟨
        fun hgap => onIf_after hd hup (tmrCapture_taken hn hp hmode hgap),
        fun hany hgap => onIf_after hd hup (tmrCapture_overrun hn hp hmode hany hgap)⟩,
      fun _ _ hp hend hpending hdue => onIf_after hd hup (tmrPulse_begins hp hend hpending hdue),
      fun _ _ _ hp hend hdue hnext => onIf_after hd hup (tmrPulse_ends hp hend hdue hnext),
      fun hrun hend hlast => onIf_after hd hup (ppsOut_second hrun hend hlast)⟩⟩

end

end Sys2Proof.Machine
end

section
/-! PROOF. Cameras and inertial sensors: what the function of each command gives in each of its cases. -/

namespace Sys2Proof.Machine

section
variable {d : Dev}

/-! ### What a camera's work leaves of the profile -/

theorem finish_prof (t : Tok) (c : Cpl) (d : Dev) : (finish t c d).prof = d.prof := by
  simp [finish]

theorem csiErrorEvent_prof (p vc lines : Nat) (d : Dev) : (csiErrorEvent p vc lines d).prof = d.prof := by
  simp only [csiErrorEvent, apply_ite Dev.prof, ev_fields, Dev.setCsi, ite_self]

theorem grabFrame_prof (r : FrameRx) (tov : Nat) (d : Dev) : (grabFrame r tov d).prof = d.prof := by
  unfold grabFrame
  simp only
  split
  · split
    · rfl
    · split
      · rfl
      · simp [finish_prof, Dev.setSensor]
  · rfl

theorem acceptSample_prof (x : Sample) (d : Dev) : (acceptSample x d).prof = d.prof := by
  unfold acceptSample
  simp only
  repeat' split
  all_goals simp [Dev.setSensor]

theorem routed_of_prof {e : Dev} (h : e.prof = d.prof) (i : Nat) : e.routed i = d.routed i := by
  simp only [Dev.routed, Dev.kind, Dev.se, h]

/-- The frame on a channel, after a line of it. -/
def lineIn (d : Dev) (vc dt : Nat) (data : Bytes) (lead80 : Nat) (x : FrameRx) : FrameRx :=
  if x.vc == vc then { x with
    firstLine := some (x.firstLine.getD (d.time.tb - lead80)), lastLine := d.time.tb, lines := x.lines + 1
    rows := pixels8 dt data :: x.rows } else x

theorem lineIn_of_vc {vc : Nat} (dt : Nat) (data : Bytes) (lead80 : Nat) {x : FrameRx} (h : (x.vc == vc) = true) :
    lineIn d vc dt data lead80 x = { x with
      firstLine := some (x.firstLine.getD (d.time.tb - lead80)), lastLine := d.time.tb, lines := x.lines + 1
      rows := pixels8 dt data :: x.rows } := if_pos h

theorem lineIn_vc (vc dt : Nat) (data : Bytes) (lead80 : Nat) (x : FrameRx) : (lineIn d vc dt data lead80 x).vc = x.vc := by
  unfold lineIn
  split
  · rfl
  · rfl

/-- The frame of a channel, found after the line. -/
theorem find_lineIn {vc : Nat} {l : List FrameRx} {r : FrameRx} (dt : Nat) (data : Bytes) (lead80 : Nat)
    (h : l.find? (fun r => r.vc == vc) = some r) :
    (l.map (lineIn d vc dt data lead80)).find? (fun r => r.vc == vc) = some (lineIn d vc dt data lead80 r) := by
  have hcomp : (fun r : FrameRx => r.vc == vc) ∘ lineIn d vc dt data lead80 = fun r => r.vc == vc := by
    funext x
    simp [lineIn_vc]
  rw [List.find?_map, hcomp, h]
  rfl

/-! ### Packets of a camera's link (R139, R142, R143) -/

/-- A line of a camera that no pipe reads. -/
theorem visionLine_routeless {p vc before : Nat} {r : FrameRx} (hrx : (d.csi p).rx.find? (fun r => r.vc == vc) = some r)
    (hmoved : r.lines ≠ before) (hrouted : d.routed r.sensor = false) : visionLine p vc before d = storedOverwritten r.sensor d := by
  unfold visionLine
  simp only [hrx, hrouted, if_neg hmoved]
  rfl

theorem csi_lt_of_rx {p vc : Nat} {r : FrameRx} (h : (d.csi p).rx.find? (fun r => r.vc == vc) = some r) : p < d.sens.csi.length := by
  by_contra hp
  have : d.csi p = {} := by simp [Dev.csi, Nat.le_of_not_lt hp]
  simp [this] at h

theorem csi_setCsi {p : Nat} (hp : p < d.sens.csi.length) (f : CsiPort → CsiPort) : (d.setCsi p f).csi p = f (d.csi p) := by
  simp [Dev.csi, Dev.setCsi, upd, hp]

section
variable {p vc : Nat} (hp : p < 12) (hen : (d.csi p).enable = true)
include hp hen

/-- A packet's header without an error is taken as it is. -/
theorem csiHeader_good : csiHeader p 0 d = (d, true) := by
  simp [csiHeader, hen, hp]

theorem csiFrameStart_opens {frameNo i : Nat} (hcam : d.cameraOf p vc = some i) :
    csiFrameStart p vc frameNo 0 d = (tsBegin p (csiSel vc none) d).setCsi p fun c => { c with
      lanesUp := BitVec.ofNat 4 (2 ^ d.se i 58 1 - 1)
      rx := { sensor := i, vc := vc, frameNo := BitVec.ofNat 16 frameNo, grab := (d.sensor i).grab.isSome }
        :: c.rx.filter fun r => r.vc != vc } := by
  have hcam' : (tsBegin p (csiSel vc none) d).cameraOf p vc = some i := hcam
  simp only [csiFrameStart, csiHeader_good hp hen, hcam']
  rfl

/-- A header that no correction saves opens nothing and ends nothing. -/
theorem csiFrameStart_dropped (frameNo : Nat) :
    visionFrameStart p vc d (csiFrameStart p vc frameNo 2 d) = d.setCsi p fun c => { c with hdrDrop := satInc c.hdrDrop } := by
  have hstart : csiFrameStart p vc frameNo 2 d = d.setCsi p fun c => { c with hdrDrop := satInc c.hdrDrop } := by
    simp [csiFrameStart, csiHeader, hen, Nat.not_le.2 hp]
  rw [hstart]
  unfold visionFrameStart
  simp only
  split
  · rfl
  · next r h =>
    rw [csi_setCsi (csi_lt_of_rx h)]
    exact if_pos (by simp [h])

variable {dt lead80 : Nat} {data : Bytes} {r : FrameRx} (hrx : (d.csi p).rx.find? (fun r => r.vc == vc) = some r)
  (hdt : dt = d.se r.sensor 57 1) (hroute : d.se r.sensor 3 1 = 0) (hw : (pixels8 dt data).length = d.se r.sensor 60 2)
  (hlines : r.lines < d.se r.sensor 62 2)
include hrx hdt hroute hw hlines

/-- A whole line of the camera's data type is stored at its place. -/
theorem csiLongPacket_stored :
    csiLongPacket p vc dt data true 0 lead80 d = ((tsFeed p (csiSel vc (some dt)) data d).dput
      (exchBase + d.ingressAt r.sensor + (d.sensor r.sensor).nextBuf * (d.se r.sensor 60 2 * d.se r.sensor 62 2)
        + r.lines * d.se r.sensor 60 2) (pixels8 dt data)).setCsi p fun c => { c with rx := c.rx.map (lineIn d vc dt data lead80) } := by
  have hfeed : ((tsFeed p (csiSel vc (some dt)) data d).csi p).rx.find? (fun r => r.vc == vc) = some r := hrx
  have hse (i lo n : Nat) : (tsFeed p (csiSel vc (some dt)) data d).se i lo n = d.se i lo n := rfl
  have hkeep : decide (r.lines < d.se r.sensor 62 2) = true := by simpa using hlines
  simp only [csiLongPacket, csiHeader_good hp hen, hfeed, hse, if_true]
  rw [if_neg (by decide), if_neg (by simp [hdt])]
  simp only [hkeep, hw, Nat.sub_self]
  rw [List.take_of_length_le (Nat.le_of_eq hw), if_pos (by simp; exact hroute)]
  have hnil (e : Dev) : e.freeBytes 0 = [] := rfl
  simp only [hnil, List.append_nil, if_true]
  rfl

theorem visionLine_stored (hrouted : d.routed r.sensor = false) :
    visionLine p vc (d.linesOn p vc) (csiLongPacket p vc dt data true 0 lead80 d) = storedOverwritten r.sensor
      (((tsFeed p (csiSel vc (some dt)) data d).dput
        (exchBase + d.ingressAt r.sensor + (d.sensor r.sensor).nextBuf * (d.se r.sensor 60 2 * d.se r.sensor 62 2)
          + r.lines * d.se r.sensor 60 2) (pixels8 dt data)).setCsi p fun c => { c with rx := c.rx.map (lineIn d vc dt data lead80) }) := by
  have hon : d.linesOn p vc = r.lines := by simp [Dev.linesOn, hrx]
  rw [csiLongPacket_stored hp hen hrx hdt hroute hw hlines, hon]
  have hvc : (r.vc == vc) = true := List.find?_some (p := fun r : FrameRx => r.vc == vc) hrx
  have hin := lineIn_of_vc (d := d) dt data lead80 hvc
  have hfind := find_lineIn (d := d) dt data lead80 hrx
  rw [hin] at hfind
  refine visionLine_routeless (r := { r with
    firstLine := some (r.firstLine.getD (d.time.tb - lead80)), lastLine := d.time.tb, lines := r.lines + 1
    rows := pixels8 dt data :: r.rows }) ?_ (Nat.succ_ne_self r.lines) (hrouted : d.routed r.sensor = false)
  rw [csi_setCsi (d := (tsFeed p (csiSel vc (some dt)) data d).dput _ _) (csi_lt_of_rx hrx)]
  exact hfind

end

/-! ### The end of a frame, and calibration (R142, R143) -/

theorem csiFrameEnd_sampled {p vc : Nat} (hp : p < 12) (hen : (d.csi p).enable = true) (frameNo : Nat) {r : FrameRx} {first : Nat} {e : Dev}
    (he : (tsEnd p (csiSel vc none) d).setCsi p (fun c => { c with frames := c.frames + 1 }) = e)
    (hrx : (e.csi p).rx.find? (fun r => r.vc == vc) = some r) (hfirst : r.firstLine = some first) (hrouted : e.routed r.sensor = false)
    (hroute : e.se r.sensor 3 1 = 0) :
    visionFrameEnd (csiFrameEnd p vc frameNo 0 d).2 (csiFrameEnd p vc frameNo 0 d).1 =
      let buf := (e.sensor r.sensor).nextBuf
      let off := e.ingressAt r.sensor + buf * (e.se r.sensor 60 2 * e.se r.sensor 62 2)
      let e := e.setCsi p fun c => { c with rx := c.rx.filter fun x => x.vc != vc }
      let x := e.cameraSample r r.lastLine first off
      acceptSample x (grabFrame r x.tov.toNat (csiErrorEvent p vc r.crcLines (e.setSensor r.sensor fun q => { q with
        nextBuf := (q.nextBuf + 1) % 3, stored := { tov := x.tov.toNat, first := first, addr := exchBase + off, lines := r.lines } :: q.stored.take 1 }))) := by
  have hend : csiFrameEnd p vc frameNo 0 d =
      (let buf := (e.sensor r.sensor).nextBuf
       let off := e.ingressAt r.sensor + buf * (e.se r.sensor 60 2 * e.se r.sensor 62 2)
       let e := e.setCsi p fun c => { c with rx := c.rx.filter fun x => x.vc != vc }
       let x := e.cameraSample r r.lastLine first off
       (acceptSample x (grabFrame r x.tov.toNat (csiErrorEvent p vc r.crcLines (e.setSensor r.sensor fun q => { q with
         nextBuf := (q.nextBuf + 1) % 3, stored := { tov := x.tov.toNat, first := first, addr := exchBase + off, lines := r.lines } :: q.stored.take 1 }))),
         some (r, x))) := by
    simp only [csiFrameEnd, csiHeader_good hp hen, he, hrx, hfirst]
    have hroute' : ((e.setCsi p fun c => { c with rx := c.rx.filter fun x => x.vc != vc }).se r.sensor 3 1 == 0) = true :=
      beq_iff_eq.2 hroute
    simp only [Option.isSome_some, if_true, hroute']
    rfl
  rw [hend]
  refine if_pos ?_
  rw [routed_of_prof ((acceptSample_prof _ _).trans ((grabFrame_prof _ _ _).trans (csiErrorEvent_prof _ _ _ _)))]
  simp only [Bool.not_eq_true']
  exact hrouted

theorem csiDeskew_fast {p i : Nat} (hen : (d.csi p).enable = true) (hi : i < 32) (hkind : d.kind i = 1) (hport : d.se i 1 1 = p)
    (hfast : 1500 < d.se i 64 2) : csiDeskew p d = d.setCsi p fun c => { c with deskewed := true } := by
  have hany : ((List.range 32).any fun i => d.kind i == 1 && d.se i 1 1 == p && decide (1500 < d.se i 64 2)) = true :=
    List.any_eq_true.2 ⟨i, List.mem_range.2 hi, by simp [hkind, hport, hfast]⟩
  exact if_pos (by rw [hen, hany]; rfl)

/-! ### Inertial sensors (R146, R147) -/

section
variable {p : Nat} {q : ImuPort} (hq : d.sens.imu[p]? = some q)
include hq

section
variable {cs i : Nat} {falling : Bool} (hp : p < 2) (hcs : cs < 2) (himu : d.imuOf (2 * p + cs) = some i)
  (hedge : (bitsOf 2 2 (d.se i 2 1) == 1) = falling)
include hp hcs himu hedge

/-- The active edge of an IMU's data-ready line. -/
theorem imuDrdy_active :
    imuDrdy p cs falling d =
      if q.busy.isSome then { d with sens := { d.sens with imu := upd d.sens.imu p fun m => { m with overrun := satInc m.overrun } } }
      else emit (.imuRead p cs (d.se i 56 1) (d.se i 58 2) (BitVec.ofNat 8 (d.se i 57 1)) (d.se i 60 1) (d.driven (19 + p)))
        { d with sens := { d.sens with imu := upd d.sens.imu p fun m => { m with busy := some { sensor := i, stamp := d.time.tb } } } } := by
  unfold imuDrdy
  rw [if_neg (by simp; omega)]
  simp only [himu, hedge, getD_of_getElem? {} hq]
  exact if_neg (by simp)

theorem imuDrdy_latches (hbusy : q.busy = none) :
    imuDrdy p cs falling d = emit (.imuRead p cs (d.se i 56 1) (d.se i 58 2) (BitVec.ofNat 8 (d.se i 57 1)) (d.se i 60 1) (d.driven (19 + p)))
      { d with sens := { d.sens with imu := upd d.sens.imu p fun m => { m with busy := some { sensor := i, stamp := d.time.tb } } } } :=
  (imuDrdy_active hq hp hcs himu hedge).trans (if_neg (by simp [hbusy]))

theorem imuDrdy_overruns (hbusy : q.busy ≠ none) :
    imuDrdy p cs falling d = { d with sens := { d.sens with imu := upd d.sens.imu p fun m => { m with overrun := satInc m.overrun } } } :=
  (imuDrdy_active hq hp hcs himu hedge).trans (if_pos (by simpa [Option.isSome_iff_ne_none] using hbusy))

end

theorem imuReadDone_sampled (data : Bytes) {r : ImuRead} (hbusy : q.busy = some r) :
    imuReadDone p data d =
      let c := d.imuConvert r.sensor (padTo (d.se r.sensor 60 1) data)
      acceptSample { stamp := r.stamp, sensor := r.sensor, kind := 2, flags := if c.2 then 2 else 0
                     arrival := BitVec.ofNat 64 d.tb64, tov := BitVec.ofNat 64 (d.tovOf r.sensor r.stamp), payload := c.1 }
        { d with sens := { d.sens with imu := upd d.sens.imu p fun m => { m with busy := none, reads := m.reads + 1 } } } := by
  unfold imuReadDone
  simp only [getD_of_getElem? {} hq, hbusy]
  rfl

end

section
variable {s : State} {t p vc : Nat} (hd : s.devAt t = d) (hfull : d.full = true) (hp : p < 12) (hen : (d.csi p).enable = true)
include hd hfull hp hen

theorem csiFrameStart_opens_after (frameNo : Nat) {i : Nat} (hcam : d.cameraOf p vc = some i) :
    execCsiFrameStart t p vc frameNo 0 s =
      s.after s.iface (visionFrameStart p vc d ((tsBegin p (csiSel vc none) d).setCsi p fun c => { c with
        lanesUp := BitVec.ofNat 4 (2 ^ d.se i 58 1 - 1)
        rx := { sensor := i, vc := vc, frameNo := BitVec.ofNat 16 frameNo, grab := (d.sensor i).grab.isSome }
          :: c.rx.filter fun r => r.vc != vc })) :=
  onIf_after (f := fun d => visionFrameStart p vc d (csiFrameStart p vc frameNo 0 d)) hd hfull
    (congrArg (visionFrameStart p vc d) (csiFrameStart_opens hp hen hcam))

theorem csiFrameStart_dropped_after (frameNo : Nat) :
    execCsiFrameStart t p vc frameNo 2 s = s.after s.iface (d.setCsi p fun c => { c with hdrDrop := satInc c.hdrDrop }) :=
  onIf_after (f := fun d => visionFrameStart p vc d (csiFrameStart p vc frameNo 2 d)) hd hfull (csiFrameStart_dropped hp hen frameNo)

theorem csiLongPacket_after {dt lead80 : Nat} {data : Bytes} {r : FrameRx} (hrx : (d.csi p).rx.find? (fun r => r.vc == vc) = some r)
    (hdt : dt = d.se r.sensor 57 1) (hrouted : d.routed r.sensor = false) (hroute : d.se r.sensor 3 1 = 0)
    (hw : (pixels8 dt data).length = d.se r.sensor 60 2) (hlines : r.lines < d.se r.sensor 62 2) :
    execCsiLongPacket t p vc dt data true 0 lead80 s = s.after s.iface (storedOverwritten r.sensor
      (((tsFeed p (csiSel vc (some dt)) data d).dput
        (exchBase + d.ingressAt r.sensor + (d.sensor r.sensor).nextBuf * (d.se r.sensor 60 2 * d.se r.sensor 62 2)
          + r.lines * d.se r.sensor 60 2) (pixels8 dt data)).setCsi p fun c => { c with rx := c.rx.map (lineIn d vc dt data lead80) })) :=
  onIf_after (f := fun d => visionLine p vc (d.linesOn p vc) (csiLongPacket p vc dt data true 0 lead80 d)) hd hfull
    (visionLine_stored hp hen hrx hdt hroute hw hlines hrouted)

theorem csiFrameEnd_after (frameNo : Nat) {r : FrameRx} {first : Nat} {e : Dev}
    (he : (tsEnd p (csiSel vc none) d).setCsi p (fun c => { c with frames := c.frames + 1 }) = e)
    (hrx : (e.csi p).rx.find? (fun r => r.vc == vc) = some r) (hfirst : r.firstLine = some first) (hrouted : e.routed r.sensor = false)
    (hroute : e.se r.sensor 3 1 = 0) :
    execCsiFrameEnd t p vc frameNo 0 s =
      let buf := (e.sensor r.sensor).nextBuf
      let off := e.ingressAt r.sensor + buf * (e.se r.sensor 60 2 * e.se r.sensor 62 2)
      let e := e.setCsi p fun c => { c with rx := c.rx.filter fun x => x.vc != vc }
      let x := e.cameraSample r r.lastLine first off
      s.after s.iface (acceptSample x (grabFrame r x.tov.toNat (csiErrorEvent p vc r.crcLines (e.setSensor r.sensor fun q => { q with
        nextBuf := (q.nextBuf + 1) % 3
        stored := { tov := x.tov.toNat, first := first, addr := exchBase + off, lines := r.lines } :: q.stored.take 1 })))) :=
  onIf_after (f := fun d => visionFrameEnd (csiFrameEnd p vc frameNo 0 d).2 (csiFrameEnd p vc frameNo 0 d).1) hd hfull
    (csiFrameEnd_sampled hp hen frameNo he hrx hfirst hrouted hroute)

end

/-- Settles O12: the packets of a camera's link, and the edges and the reads of inertial sensors. -/
theorem cameraAndInertialCommandsComplete : Obligations.CameraAndInertialCommandsComplete :=
  ⟨fun _ _ _ _ _ hd hfull hp hen => ⟨
      fun frameNo _ hcam => csiFrameStart_opens_after hd hfull hp hen frameNo hcam,
      fun frameNo => csiFrameStart_dropped_after hd hfull hp hen frameNo,
      fun _ _ _ _ hrx hdt hrouted hroute hw hlines => csiLongPacket_after hd hfull hp hen hrx hdt hrouted hroute hw hlines,
      fun frameNo _ _ hrx hfirst hrouted hroute => csiFrameEnd_after hd hfull hp hen frameNo rfl hrx hfirst hrouted hroute,
      fun _ hi hkind hport hfast => onIf_after hd hfull (csiDeskew_fast hen hi hkind hport hfast)⟩,
    fun _ _ _ _ _ hd hup hp hq => ⟨fun _ _ _ hcs himu hedge => ⟨
        fun hbusy => onIf_after hd hup (imuDrdy_latches hq hp hcs himu hedge hbusy),
        fun hbusy => onIf_after hd hup (imuDrdy_overruns hq hp hcs himu hedge hbusy)⟩,
      fun data _ hbusy => onIf_after hd hup (imuReadDone_sampled hq data hbusy)⟩⟩

end

end Sys2Proof.Machine
end

section
/-! PROOF. The lidars: a part in which the clause of a datagram does not hold. -/

namespace Sys2Proof.Machine

/-- The part at READY with port 0 linked and one lidar in its profile, of two packets per sweep and a ring of 1 KiB, which no master
enabled. -/
def lidarPart : Dev := { ({} : Dev) with
  part := .ready, start := .done, eth := [{ link := true }]
  prof := { ({} : Prof) with active := List.replicate 512 0 ++ [5] ++ List.replicate 75 0 ++ [2, 0, 0, 0, 1] ++ List.replicate 31 0 }
  sens := { ({} : Sens) with s := [{}] } }

/-- The source address of the lidar's entry. -/
def lidarSource : Bytes := List.replicate 16 0

/-- Whether the first sensor has a sweep that is being filled. -/
def sweepFilling : Host.Outcome State Fault Refusal → Bool
  | .next s => (s.dev.sens.s.getD 0 {}).filling.isSome
  | _ => false

theorem lidarPart_matches : lidarPart.lidarOf 0 0 lidarSource = some 0 := by decide +kernel

/-- A disabled entry takes no datagram (R159). -/
theorem lidarDatagram_ignored : sweepFilling (exec (.lidarDatagramRx 0 0 0 0 lidarSource ⟨[], {}⟩ 0) { dev := lidarPart }) = false := by
  decide +kernel

/-- Refutes O13: a datagram of a lidar that is not enabled is not taken (R159), and the clause says that it begins a sweep. -/
theorem not_canReceiverAndLidarCommandsComplete : ¬ Obligations.CanReceiverAndLidarCommandsComplete := by
  unfold Obligations.CanReceiverAndLidarCommandsComplete
  rintro ⟨_, hreceivers⟩
  obtain ⟨_, _, _, hdatagram, _⟩ := hreceivers { dev := lidarPart } 0 lidarPart (advance_of_le (Nat.zero_le _)) (by decide)
  have hfill := congrArg sweepFilling (hdatagram 0 0 0 lidarSource [] 0 {} 0 {} rfl rfl lidarPart_matches rfl (Nat.zero_le _) rfl
    (by decide +kernel) (fun _ => rfl) (by decide +kernel))
  rw [lidarDatagram_ignored] at hfill
  exact absurd hfill (by decide +kernel)

end Sys2Proof.Machine
end

section
/-! PROOF. Stereo pairs, bands, admission windows and a faulty pipe: what the function of each command gives in each of its cases. -/

namespace Sys2Proof.Machine

section
variable {d : Dev}

/-! ### Frames that wait for their other half (R190) -/

theorem pairTimeout_left {i : Nat} {f : VpFrame} (hleft : (d.ring i).waitL = some f) (hdue : f.first + d.se i 92 2 * 1000 * 65536 ≤ d.time.tb)
    (hright : ((leftUnpaired i f d).ring i).waitR = none) : pairTimeout i d = leftUnpaired i f d := by
  simp only [pairTimeout, hleft, decide_eq_true hdue, if_true, hright]

theorem pairTimeout_right {i a : Nat} {x : VpSide} (hleft : (d.ring i).waitL = none) (hright : (d.ring i).waitR = some (a, x))
    (hdue : a + d.se i 92 2 * 1000 * 65536 ≤ d.time.tb) : pairTimeout i d = rightUnpaired i a d := by
  simp only [pairTimeout, hleft, hright, decide_eq_true hdue, if_true]

/-! ### Bands (R192-R194) -/

section
variable {i : Nat} {f : VpFrame} {l : List VpFrame} (hcur : (d.ring i).cur = f :: l) (hleft : f.left.ended = true) (hright : f.right.ended = true)
  (hnext : f.nextBand + 1 < d.vBands i) (hgrab : f.grab = none)
include hcur hleft hright hnext hgrab

theorem bandReady_written (hfree : d.flag (d.se i 80 2 + (d.ring i).bandCount % max (d.se i 75 1) 1) = 0) :
    bandReady i d =
      let rows := d.se i 76 2
      let slot := (d.ring i).bandCount % max (d.se i 75 1) 1
      let flag := d.se i 80 2 + slot
      let out := ((d.frameRows i f).drop (f.nextBand * rows)).take rows
      let plane := planesOf out
      let base := exchBase + d.se i 88 4 + slot * slotStride (d.isPair i) (d.vW i) rows
      let g := { f with nextBand := f.nextBand + 1, firstSlot := if f.nextBand = 0 then slot else f.firstSlot }
      let g := { g with written := f.written + 1, valid := if d.isPair i then f.valid + validOf out else f.valid }
      let e := (d.setRing i fun r => { r with bandCount := r.bandCount + 1, cur := g :: r.cur.drop 1 }).dput base plane.1
      let e := if d.isPair i then (e.dput (base + d.vW i * rows) plane.2.1).dput (base + 2 * d.vW i * rows) plane.2.2 else e
      let tag := 2 ^ 31 + atBit 16 (f.nextBand % 1024) + f.seq.toNat % 65536
      (e.setRing i fun r => { r with
        tags := (((d.ring i).bandCount, tag) :: r.tags.reverse.take (max (d.se i 75 1) 1 - 1)).reverse }).setFlag flag tag := by
  have hlast : (f.nextBand + 1 == d.vBands i) = false := beq_eq_false_iff_ne.2 (Nat.ne_of_lt hnext)
  have hnograb (row : Nat) (pl : Bytes × Bytes × Bytes) : grabBand i f row pl d = d := by simp [grabBand, hgrab]
  have hheld : (d.flag (d.se i 80 2 + (d.ring i).bandCount % max (d.se i 75 1) 1) != 0) = false := by simp [hfree]
  simp only [bandReady, hcur, hleft, hright, hgrab, hlast, hnograb, hheld, Option.isSome_none]
  rw [if_neg (by simp; omega)]
  simp only [Bool.false_eq_true, if_false, Bool.not_false, Bool.and_true, Nat.add_zero]
  rfl

theorem bandReady_dropped (hheld : d.flag (d.se i 80 2 + (d.ring i).bandCount % max (d.se i 75 1) 1) ≠ 0) :
    bandReady i d =
      let slot := (d.ring i).bandCount % max (d.se i 75 1) 1
      let g := { f with nextBand := f.nextBand + 1, firstSlot := if f.nextBand = 0 then slot else f.firstSlot }
      dropEvent i f.pipe ((d.setRing i fun r =>
        { r with bandCount := r.bandCount + 1, cur := { g with dropped := f.dropped + 1 } :: r.cur.drop 1 }).setVp
          f.pipe fun v => { v with bandDrop := satInc v.bandDrop }) := by
  have hlast : (f.nextBand + 1 == d.vBands i) = false := beq_eq_false_iff_ne.2 (Nat.ne_of_lt hnext)
  have hnograb (row : Nat) (pl : Bytes × Bytes × Bytes) : grabBand i f row pl d = d := by simp [grabBand, hgrab]
  have hheld : (d.flag (d.se i 80 2 + (d.ring i).bandCount % max (d.se i 75 1) 1) != 0) = true := by simp [hheld]
  simp only [bandReady, hcur, hleft, hright, hgrab, hlast, hnograb, hheld, Option.isSome_none]
  rw [if_neg (by simp; omega)]
  simp only [if_true, Bool.false_eq_true, if_false, Bool.not_true, Bool.and_false]

end

/-! ### Admission and faults (R195, R196, R206) -/

section
variable {p i : Nat} {f : VpFrame} (hhost : (d.vp p).st = .hosting) (hserved : byAge d (d.served p) = [i]) (hpaired : (d.ring i).paired = [f])
include hhost hserved hpaired

/-- The window of a pipe in which one ring has one frame waiting. -/
theorem admissionWindow_one :
    admissionWindow p d =
      let e := d.setRing i fun r => { r with paired := [] }
      if ((e.termsNow p).add (e.ringTerms i)).fits then admitFrame i f p e else skipFrame i p f e := by
  unfold admissionWindow
  rw [if_neg (by simp [hhost]), hserved]
  simp only [List.foldl_cons, List.foldl_nil, hpaired]

theorem admissionWindow_admits {e : Dev} (he : d.setRing i (fun r => { r with paired := [] }) = e)
    (hfits : ((e.termsNow p).add (e.ringTerms i)).fits = true) : admissionWindow p d = admitFrame i f p e := by
  subst he
  exact (admissionWindow_one hhost hserved hpaired).trans (if_pos hfits)

theorem admissionWindow_skips {e : Dev} (he : d.setRing i (fun r => { r with paired := [] }) = e)
    (hfits : ((e.termsNow p).add (e.ringTerms i)).fits = false) : admissionWindow p d = skipFrame i p f e := by
  subst he
  exact (admissionWindow_one hhost hserved hpaired).trans (if_neg (by simp [hfits]))

end

theorem pipeFault_fences {p : Nat} (hp : p < 2) (hassay : d.assayOf 2 p = none) (hgated : (d.vp p).st ≠ .gated) (hfenced : (d.vp p).st ≠ .fenced) :
    pipeFault p d = vpFence p (unitFenced 2 p 8 (logFault 3 2 p 8 2 0 d)) := by
  unfold pipeFault
  rw [if_neg (by simp [hassay]), if_neg (by simp [hgated, hfenced, Nat.not_le.2 hp])]

/-- Settles O14: the waiting frames, the bands, the windows and the faulty pipe. -/
theorem stereoCommandsComplete : Obligations.StereoCommandsComplete :=
  fun _ _ _ hd hfull => ⟨fun _ _ hleft hdue hright => onIf_after hd hfull (pairTimeout_left hleft hdue hright),
    fun _ _ _ hleft hright hdue => onIf_after hd hfull (pairTimeout_right hleft hright hdue),
    fun _ _ _ hcur hleft hright hnext hgrab => ⟨
      fun hfree => onIf_after hd hfull (bandReady_written hcur hleft hright hnext hgrab hfree),
      fun hheld => onIf_after hd hfull (bandReady_dropped hcur hleft hright hnext hgrab hheld)⟩,
    fun _ _ _ hhost hserved hpaired => ⟨
      fun hfits => onIf_after hd hfull (admissionWindow_admits hhost hserved hpaired rfl hfits),
      fun hfits => onIf_after hd hfull (admissionWindow_skips hhost hserved hpaired rfl hfits)⟩,
    fun _ hp hup hassay hgated hfenced => onIf_after hd hup (pipeFault_fences hp hassay hgated hfenced)⟩

end

end Sys2Proof.Machine
end

section
/-! PROOF. Tasks, messages, roles and reduction rounds of the Compute Array: what the function of each command gives in each of its cases. -/

namespace Sys2Proof.Machine

section
variable {d : Dev}

/-! ### Which task an idle engine takes (R219, R221) -/

section
variable {c e : Nat} {k : Task} (hidle : d.idleEngine c e = true)
include hidle

theorem taskDispatch_pose (hpose : d.poseSteal c e = some k) :
    taskDispatch c e d = startTask c e k (d.setClus c fun q => { q with stealLocal := q.stealLocal + 1 }) := by
  simp [taskDispatch, hidle, hpose]

variable (hpose : d.poseSteal c e = none)
include hpose

theorem taskDispatch_own (hnext : d.nextTask c e = some k) : taskDispatch c e d = startTask c e k d := by
  simp [taskDispatch, hidle, hpose, hnext]

variable (hnext : d.nextTask c e = none)
include hnext

theorem taskDispatch_local (hlocal : d.localSteal c e = some k) :
    taskDispatch c e d = startTask c e k (d.setClus c fun q => { q with stealLocal := q.stealLocal + 1 }) := by
  simp [taskDispatch, hidle, hpose, hnext, hlocal]

theorem taskDispatch_remote (hlocal : d.localSteal c e = none) (hremote : d.remoteSteal c e = some k) :
    taskDispatch c e d = startTask c e k (d.setClus c fun q => { q with stealRemote := q.stealRemote + 1 }) := by
  simp [taskDispatch, hidle, hpose, hnext, hlocal, hremote]

end

/-! ### Commits (R219, R227) -/

theorem taskCommit_whole {c e id : Nat} {k : Task} {w : Work} {r : TaskResult} (hrun : (d.eng c e).running = some id) (htask : d.task id = some k)
    (hcopy : d.waitsCopy k = false) (hwork : d.work k.work = some w) (hkind : ∀ p q, w.kind ≠ .solve p q)
    (hmsgs : r.msgs = []) (hcontribs : r.contribs = []) (hlast : r.lastRead = false) (hcuts : r.cuts + longLists r = 0) :
    taskCommit c e r d =
      let g := taskWrites c e k.regions r (faultCorrected r.corrected d)
      let f := r.flags.foldl (fun d f => d.setFlag f.1 f.2) g.1
      let f := { f with comp := { f.comp with notes := f.comp.notes ++ r.notes.map fun b => (c, e, b) } }
      let f := f.setWork k.work fun w => { w with
        accSat := w.accSat || g.2.1, range := w.range || g.2.2, out := w.out ++ r.out
        state := if r.state.isEmpty || k.role.map (·.1) != some 1 then w.state else r.state }
      let f := f.setTask k.id fun k => { k with st := .committed }
      let freed (x : Task) : Task := if x.preds.contains k.id then { x with preds := x.preds.filter (· != k.id) } else x
      let f := { f with comp := { f.comp with tasks := f.comp.tasks.map freed } }
      workCheck k.work ((f.setEng c e fun x => { x with running := none, tasks := x.tasks + 1, acted := [] }).setClus c fun q =>
        { q with tasks := q.tasks + 1 }) := by
  have hmine : (d.eng c e).running.bind d.task = some k := by simp [hrun, htask]
  have hbound (e : Dev) : boundHits c 0 e = e := rfl
  unfold taskCommit
  simp only [hmine, hcopy, hwork, hmsgs, hcontribs, hlast, hcuts, hbound, List.foldl_nil, Nat.lt_irrefl, decide_false, Bool.or_false,
    Bool.false_eq_true, if_false]

theorem taskOverrun_faults {c e n : Nat} (h : d.overrun c e = some n) : taskOverrun c e d = engineFault c e 4 5 n d := by
  simp [taskOverrun, h]

/-! ### Messages, roles and rounds (R220, R228) -/

theorem engineMessage_reaches {c e : Nat} {f : MsgFlight} (hnet : d.comp.net.find? (fun f => f.toC == c && f.toE == e) = some f)
    (hrole : (d.eng c e).kind ≠ 0) (hkind : (d.eng c e).kind.toNat = f.msg.kind) (hobj : (d.eng c e).obj.toNat = f.msg.obj)
    (hepoch : (d.eng c e).epoch.toNat = f.msg.epoch) (hroom : (d.eng c e).inbox.length < 32) :
    engineMessage c e d = { d with comp := { d.comp with net := d.comp.net.erase f } }.setEng c e fun x => { x with inbox := x.inbox ++ [f] } := by
  have hkind0 : (d.eng c e).kind.toNat ≠ 0 := fun h => hrole (BitVec.eq_of_toNat_eq h)
  unfold engineMessage
  simp only [hnet]
  rw [if_pos (by simp [hkind, hobj, hepoch, hkind ▸ hkind0]), if_neg (Nat.not_le.2 hroom)]

/-- The part once the engine has rebuilt a role that no other engine had. -/
def roleBack (c e : Nat) (d : Dev) : Dev :=
  evComp c e 0x0903 0 (det [(16, [BitVec.ofNat 8 (d.eng c e).kind.toNat, 255, 255, BitVec.ofNat 8 c, BitVec.ofNat 8 e]),
      (22, leBytes 2 (d.eng c e).epoch.toNat), (24, leBytes 4 (d.eng c e).obj.toNat)])
    (d.setEng c e fun x => { x with rebuilding := false, movedFrom := none })

section
variable {c e : Nat} (hrebuild : (d.eng c e).rebuilding = true) (hmoved : (d.eng c e).movedFrom = none)
include hrebuild hmoved

theorem roleRebuilt_new : roleRebuilt c e d = roleBack c e d := by
  unfold roleRebuilt
  simp only [hrebuild, hmoved]
  exact if_neg (by decide)

theorem rebuildDone_role (hkind : (d.eng c e).kind ≠ 2) : rebuildDone c e d = roleBack c e d := by
  have hholder : ((d.eng c e).kind == 2) = false := beq_eq_false_iff_ne.2 hkind
  unfold rebuildDone
  simp only [hholder]
  rw [if_neg (by simp [hrebuild]), if_neg (by decide), if_pos (by simp [hmoved])]
  exact roleRebuilt_new hrebuild hmoved

theorem rebuildDone_holder (hkind : (d.eng c e).kind = 2) (hready : d.setReady ((d.eng c e).obj.toNat / 0x100) = true) :
    rebuildDone c e d = holderRebuilt ((d.eng c e).obj.toNat / 0x100) ((d.eng c e).obj.toNat % 32) c e (roleBack c e d) := by
  unfold rebuildDone
  simp only
  rw [if_neg (by simp [hrebuild, hready]), if_pos (by simp [hkind]), roleRebuilt_new hrebuild hmoved]

end

theorem roundDone_kept {id : Nat} {r : Round} (hround : d.comp.rounds.find? (fun r => r.id == id) = some r) (hcomplete : d.comp.complete r = true)
    (htarget : r.target = 2) :
    roundDone id d = { d with comp := { d.comp with
      rounds := d.comp.rounds.filter fun x => x.id != r.id, results := (r.id, r.value.1, r.value.2) :: d.comp.results } } := by
  unfold roundDone
  simp only [hround]
  rw [if_neg (by simp [hcomplete]), if_neg (by simp [htarget])]
  unfold deliverRound
  exact if_neg (by simp [htarget])

/-- Settles O15: the tasks, the messages, the roles and the rounds. -/
theorem computeCommandsComplete : Obligations.ComputeCommandsComplete :=
  fun _ _ _ _ _ hd hfull => ⟨fun _ hidle hpose => onIf_after hd hfull (taskDispatch_pose hidle hpose),
    fun _ hidle hpose hnext => onIf_after hd hfull (taskDispatch_own hidle hpose hnext),
    fun _ hidle hpose hnext hlocal => onIf_after hd hfull (taskDispatch_local hidle hpose hnext hlocal),
    fun _ hidle hpose hnext hlocal hremote => onIf_after hd hfull (taskDispatch_remote hidle hpose hnext hlocal hremote),
    fun _ _ _ _ hrun htask hcopy hwork hkind hmsgs hcontribs hlast hcuts =>
      onIf_after hd hfull (taskCommit_whole hrun htask hcopy hwork hkind hmsgs hcontribs hlast hcuts),
    fun _ h => onIf_after hd hfull (taskOverrun_faults h),
    fun _ hnet hrole hkind hobj hepoch hroom => onIf_after hd hfull (engineMessage_reaches hnet hrole hkind hobj hepoch hroom),
    fun hrebuild hmoved => ⟨fun hkind => onIf_after hd hfull (rebuildDone_role hrebuild hmoved hkind),
      fun hkind hready => onIf_after hd hfull (rebuildDone_holder hrebuild hmoved hkind hready)⟩,
    fun _ _ hround hcomplete htarget => onIf_after hd hfull (roundDone_kept hround hcomplete htarget)⟩

end

end Sys2Proof.Machine
end

section
/-! PROOF. Copy engines, utilisation updates and ceilings: what the function of each command gives in each of its cases. -/

namespace Sys2Proof.Machine

section
variable {d : Dev}

/-! ### Copies (R204, R256, R257) -/

section
variable {ce src dst len : Nat} (hce : ce < 16) (hbase : d.inBase = false) (stall corrected : Nat)
include hce hbase

theorem copyDone_flagged {flag : Nat × Nat} {c e : Nat} (hqueue : d.queuedCopy ce src dst len (.engine c e) = none)
    (hturn : d.copyTurn ce src dst len false false (.engine c e) = true) (hvalid : copyValid false false src dst len = true) :
    copyDone ce src dst len stall corrected false false (some flag) true (.engine c e) d =
      let f := (faultCorrected corrected d).setClus c fun q => { q with copyStall := q.copyStall + BitVec.ofNat 64 stall }
      let b := f.copyView (.engine c e) src len
      ((tsEnd (16 + ce) (fun _ => true) (tsFeed (16 + ce) (fun _ => true) b (tsBegin (16 + ce) (fun _ => true) f))).dput dst b).setFlag flag.1 flag.2 := by
  unfold copyDone
  rw [if_neg (by simp [hturn, hbase, Nat.not_le.2 hce])]
  simp only [hqueue, hvalid, Bool.false_and, Bool.not_false, Bool.and_true, if_true, Bool.false_eq_true, if_false, copyBytes]

theorem copyDone_queued {c e : Nat} {j : CopyJob} (hqueue : d.queuedCopy ce src dst len (.engine c e) = some j)
    (hturn : d.copyTurn ce src dst len false false (.engine c e) = true) (hvalid : copyValid false false src dst len = true) :
    copyDone ce src dst len stall corrected false false none true (.engine c e) d =
      let f := { d with comp := { d.comp with copyq := d.comp.copyq.erase j } }
      let f := (faultCorrected corrected f).setClus c fun q => { q with copyStall := q.copyStall + BitVec.ofNat 64 stall }
      let b := f.copyView (.engine c e) src len
      ingotArrives j ((tsEnd (16 + ce) (fun _ => true) (tsFeed (16 + ce) (fun _ => true) b (tsBegin (16 + ce) (fun _ => true) f))).dput dst b) := by
  unfold copyDone
  rw [if_neg (by simp [hturn, hbase, Nat.not_le.2 hce])]
  simp only [hqueue, hvalid, Bool.false_and, Bool.not_false, Bool.and_true, if_true, Bool.false_eq_true, if_false, copyBytes]

theorem copyDone_host (hqueue : d.queuedCopy ce src dst len .other = none)
    (hturn : d.copyTurn ce src dst len false true .other = true) (hvalid : copyValid false true src dst len = true) :
    copyDone ce src dst len stall corrected false true none true .other d =
      let f := faultCorrected corrected d
      let b := f.copyView .other src len
      hostWrite dst b (tsEnd (16 + ce) (fun _ => true) (tsFeed (16 + ce) (fun _ => true) b (tsBegin (16 + ce) (fun _ => true) f))) := by
  unfold copyDone
  rw [if_neg (by simp [hturn, hbase, Nat.not_le.2 hce])]
  simp only [hqueue, hvalid, Bool.false_and, Bool.not_false, Bool.and_true, if_true, Bool.false_eq_true, if_false, copyBytes]

end

/-! ### Ceilings (R222-R224) -/

theorem holdClear_due {c a : Nat} {q : Cluster} (hq : d.comp.cl[c]? = some q) (hheld : q.held = true) (hwithin : q.withinAt = some a)
    (hdue : a + 100 * msNs ≤ d.now) (hover : d.overCeiling c 0 (d.liveIn c) = false) :
    holdClear c d = evComp c 0xFF 0x0902 0 (det [(16, [BitVec.ofNat 8 c, BitVec.ofNat 8 (min 127 (d.uPc c 0 (d.liveIn c)))])])
      (d.setClus c fun q => { q with held := false, withinAt := none }) := by
  have hclus : d.clus c = q := by simp [Dev.clus, hq]
  unfold holdClear
  simp only [hclus, hheld, hwithin]
  exact if_neg (by rw [hover, decide_eq_false (Nat.not_lt.2 hdue)]; decide)

/-- Settles O16: the copies, the update of the utilisation and the end of a hold. -/
theorem copyAndCeilingCommandsComplete : Obligations.CopyAndCeilingCommandsComplete :=
  fun _ _ _ hd hfull hup => ⟨
    fun _ _ _ _ stall corrected _ _ _ hce hbase hqueue hturn hvalid =>
      onIf_after hd hup (copyDone_flagged hce hbase stall corrected hqueue hturn hvalid),
    fun _ _ _ _ stall corrected _ _ _ hce hbase hqueue hturn hvalid =>
      onIf_after hd hup (copyDone_queued hce hbase stall corrected hqueue hturn hvalid),
    fun _ _ _ _ stall corrected hce hbase hqueue hturn hvalid =>
      onIf_after hd hup (copyDone_host hce hbase stall corrected hqueue hturn hvalid),
    onIf_after hd hfull rfl,
    fun _ _ _ hq hheld hwithin hdue hover => onIf_after hd hfull (holdClear_due hq hheld hwithin hdue hover)⟩

end

end Sys2Proof.Machine
end

section
/-! PROOF. Data that fails a check, and the channels of IPM: what the function of each command gives in each of its cases. -/

namespace Sys2Proof.Machine

section
variable {d : Dev}

/-! ### The exchange memory and its flags (R236-R238, R459) -/

/-- An address of the shared memory lies in no engine's own memory. -/
theorem sramUncorr_shared {a : Nat} (r : Reader) (h : exchBase ≤ a) :
    sramUncorr a r d = if flagBase ≤ a && a < flagBase + 0x4000 then flagUncorr ((a - flagBase) / 4) (logFault 2 0xFF 0 1 1 a d)
      else failReader a r (logFault 2 0xFF 0 1 1 a d) := by
  have hshared : ¬ a < 0x30000000 := by
    unfold exchBase at h
    omega
  unfold sramUncorr
  exact if_neg (by simp [hshared])

theorem sramUncorr_data {a : Nat} (r : Reader) (hlo : exchBase ≤ a) (hhi : a < flagBase) :
    sramUncorr a r d = failReader a r (logFault 2 0xFF 0 1 1 a d) := by
  rw [sramUncorr_shared r hlo]
  exact if_neg (by simp [Nat.not_le.2 hhi])

theorem sramUncorr_flag {n : Nat} (r : Reader) (hn : n < 4096) :
    sramUncorr (flagBase + 4 * n) r d =
      let e := (logFault 2 0xFF 0 1 1 (flagBase + 4 * n) d).setFlag n 0x7FFFFFFF
      { e with tier := { e.tier with flagBad := (n, d.now + 100 * msNs) :: e.tier.flagBad.filter fun x => x.1 != n } } := by
  have hplace : (flagBase + 4 * n - flagBase) / 4 = n := by omega
  have hnow : ((logFault 2 0xFF 0 1 1 (flagBase + 4 * n) d).setFlag n 0x7FFFFFFF).now = d.now := by
    rw [Dev.setFlag, Dev.dput, logFault_only]
  rw [sramUncorr_shared r (Nat.le_trans (by decide) (Nat.le_add_right flagBase (4 * n))), hplace, if_pos (by simp; omega)]
  simp only [flagUncorr, hnow]

theorem flagExpire_due {n : Nat} {x : Nat × Nat} (hbad : d.tier.flagBad.find? (fun x => x.1 == n) = some x) (hdue : x.2 ≤ d.now) :
    flagExpire n d = { d.setFlag n 0 with tier := { d.tier with flagBad := d.tier.flagBad.filter fun x => x.1 != n } } := by
  unfold flagExpire
  simp only [hbad]
  exact if_neg (Nat.not_lt.2 hdue)

/-! ### Positions of IPM (R236, R460) -/

/-- The part once a position's one marked member is rebuilt from the others and counted. -/
def ipmRebuilt (r : IpmRead) (k : Nat) (d : Dev) : Dev :=
  let x := ipmPlace r.offset
  let word := ((ipmSeen r (d.ipmWords x)).eraseIdx k).foldl (· ^^^ ·) 0
  let e := faultCorrected (d.ipmRetries r) { d with ipm := { d.ipm with retry := satAdd d.ipm.retry (d.ipmRetries r) } }
  let e := if k = x.check then e
    else e.dput (ipmBase + 448 * x.stripe + 8 * (7 * x.position + if k < x.check then k else k - 1)) (leBytes 8 word)
  let e := faultCorrected 1 { e with ipm := { e.ipm with rebuilt := satInc e.ipm.rebuilt } }
  e.setIpmCh (8 * k + x.group) fun c => { c with rebuilt := e.now :: c.rebuilt.filter fun a => decide (e.now < a + sNs) }

theorem ipmPosition_rebuilds {r : IpmRead} {k : Nat} (hbad : d.ipmBad r = false) (hmarked : d.ipmMarked r = [k])
    (hfew : ((ipmRebuilt r k d).ipmCh (8 * k + (ipmPlace r.offset).group)).rebuilt.length < 16) : ipmPosition r d = ipmRebuilt r k d := by
  unfold ipmPosition
  simp only [hbad, hmarked]
  exact if_neg (Nat.not_le.2 hfew)

theorem ipmScrub_rebuilds {r : IpmRead} {k : Nat} (hbad : d.ipmBad r = false) (hmarked : d.ipmMarked r = [k])
    (hfew : ((ipmRebuilt r k d).ipmCh (8 * k + (ipmPlace r.offset).group)).rebuilt.length < 16) :
    ipmScrub [r] true d =
      { ipmRebuilt r k d with ipm := { (ipmRebuilt r k d).ipm with passes := (ipmRebuilt r k d).ipm.passes + 1 } } := by
  unfold ipmScrub
  simp only [List.foldl_cons, List.foldl_nil, ipmPosition_rebuilds hbad hmarked hfew, if_true]

theorem ipmRead_lost {x : IpmRead} (r : Reader) (hbad : d.ipmBad x = true) :
    ipmRead x none r d = failReader (ipmBase + x.offset) r (ipmUncorr x.offset (faultCorrected (d.ipmRetries x)
      { d with ipm := { d.ipm with retry := satAdd d.ipm.retry (d.ipmRetries x) } })) := by
  unfold ipmRead ipmPosition
  simp only [hbad]
  rfl

/-! ### Channels of IPM (R239-R242) -/

/-- A channel's change to a state other than RESYNC. -/
theorem chChange_eq (n : Nat) {st : ChSt} (cause : Nat) (hst : st ≠ .resync) :
    chChange n st cause d = evFrom 11 0 0x0B01 (if st == .offline || st == .failed then 1 else 0)
      (det [(16, [BitVec.ofNat 8 n, BitVec.ofNat 8 st.code, BitVec.ofNat 8 cause])])
      { d with ipm := { d.ipm with ch := upd d.ipm.ch n fun c => { c with st := st } } } := by
  cases st with
  | resync => exact absurd rfl hst
  | _ => rfl

/-- A change of a list's entry that leaves the entry as it is. -/
theorem upd_self {α : Type} {l : List α} {n : Nat} {f : α → α} (x : α) (h : f (l.getD n x) = l.getD n x) : upd l n f = l :=
  (upd_congr (g := id) x h).trans (List.modify_id n l)

/-- A channel that no return waits for. -/
theorem endReturns_none {n : Nat} (c : Cpl) (h : (d.ipmCh n).returning = []) : endReturns n c d = d := by
  have hself : upd d.ipm.ch n (fun c => { c with returning := [] }) = d.ipm.ch :=
    upd_self {} (by rw [show d.ipm.ch.getD n {} = d.ipmCh n from rfl, ← h])
  unfold endReturns Dev.setIpmCh
  rw [h, hself]
  rfl

section
variable {n : Nat} {c : IpmCh} (hc : d.ipm.ch[n]? = some c)
include hc

theorem ipmCh_of_getElem? : d.ipmCh n = c := by
  simp [Dev.ipmCh, hc]

section
variable (hst : c.st = .online)
include hst

theorem channelFault_first (hout : d.groupOut (n % 8) = []) :
    channelFault n d = unitFenced 4 n 7 (logFault 3 4 n 7 2 0
      (evFrom 11 0 0x0B01 1 (det [(16, [BitVec.ofNat 8 n, BitVec.ofNat 8 ChSt.failed.code, 1])])
        { d with ipm := { d.ipm with ch := upd d.ipm.ch n fun c => { c with st := .failed } } })) := by
  unfold channelFault
  simp only [ipmCh_of_getElem? hc, hst, hout, chChange_eq n 1 (st := .failed) (by decide)]
  rfl

theorem channelFault_second {o : Nat} {l : List Nat} (hout : d.groupOut (n % 8) = o :: l) :
    channelFault n d = raiseCause 2 (logFault 5 0xFF (n % 8) 10 3 0
      (evFrom 11 0 0x0B02 2 (det [(16, [BitVec.ofNat 8 (n % 8), BitVec.ofNat 8 o, BitVec.ofNat 8 n])])
        { d with ipm := { d.ipm with lost := d.ipm.lost ||| BitVec.ofNat 8 (2 ^ (n % 8)) } })) := by
  unfold channelFault
  simp only [ipmCh_of_getElem? hc, hst, hout]

end

theorem ipmResyncDone_online (hst : c.st = .resync) (hret : c.returning = []) :
    ipmResyncDone n d = evFrom 11 0 0x0B01 0 (det [(16, [BitVec.ofNat 8 n, BitVec.ofNat 8 ChSt.online.code, 0])])
      { d with ipm := { d.ipm with ch := upd d.ipm.ch n fun c => { c with st := .online, returning := [] } } } := by
  have hupd : upd d.ipm.ch n (fun c => { c with st := .online }) = upd d.ipm.ch n fun c => { c with st := .online, returning := [] } :=
    upd_congr {} (by rw [show d.ipm.ch.getD n {} = c from ipmCh_of_getElem? hc, hret])
  unfold ipmResyncDone
  rw [if_pos (by simp [ipmCh_of_getElem? hc, hst]), chChange_eq n 0 (by decide), hupd]
  refine endReturns_none .ok ?_
  simp [Dev.ipmCh, upd, hc]

end

/-- Settles O17: the checks of the memories, and the channels of IPM. -/
theorem memoryCheckAndChannelCommandsComplete : Obligations.MemoryCheckAndChannelCommandsComplete :=
  ⟨fun _ _ _ hd hup => ⟨fun _ => onIf_after hd hup rfl,
      fun _ r hlo hhi => onIf_after hd hup (sramUncorr_data r hlo hhi),
      fun _ r hn => onIf_after hd hup (sramUncorr_flag r hn),
      fun _ _ hbad hdue => onIf_after hd hup (flagExpire_due hbad hdue),
      fun hfull => ⟨fun _ _ hbad hmarked hfew => onIf_after hd hfull (ipmScrub_rebuilds hbad hmarked hfew),
        fun _ r hbad => onIf_after hd hfull (ipmRead_lost r hbad)⟩⟩,
    fun _ _ _ _ _ hd _ hc => ⟨fun hup hst hout => onIf_after hd hup (channelFault_first hc hst hout),
      fun _ _ hup hst hout => onIf_after hd hup (channelFault_second hc hst hout),
      fun hfull hst hret => onIf_after hd hfull (ipmResyncDone_online hc hst hret)⟩⟩

end

end Sys2Proof.Machine
end

section
/-! PROOF. The slow tier's device and movement between the tiers: what the function of each command gives in each of its cases. -/

namespace Sys2Proof.Machine

section
variable {d : Dev}

/-! ### The device (R244, R245) -/

section
variable {gen width : Nat} (hgen : gen ≤ 4) (hwidth : width = 1 ∨ width = 2 ∨ width = 4)
include hgen hwidth

/-- A device trained at a speed and a width that the link has. -/
theorem nvmeDetect_found {l : List Namespace} {x : Namespace} (hchoose : chooseNamespace l = some x) :
    nvmeDetect gen width l d =
      let e := nvmeSend 0 (nvmeSetUp d.nvme.pairs) { d with nvme := { d.nvme with gen := gen, width := width, pairs := 8, trained := true } }
      let e := { e with nvme := { e.nvme with capacity := min x.bytes (16 * 1099511627776), lba := x.lba } }
      if x.labelled then mapHomes (slowState .attached e) else slowState .unlabelled e := by
  simp only [nvmeDetect, Nat.min_eq_left hgen, if_pos hwidth, hchoose]

theorem nvmeDetect_none {l : List Namespace} (hchoose : chooseNamespace l = none) :
    nvmeDetect gen width l d =
      let e := nvmeSend 0 (nvmeSetUp d.nvme.pairs) { d with nvme := { d.nvme with gen := gen, width := width, pairs := 8, trained := true } }
      slowState .absent { e with nvme := { e.nvme with capacity := 0, lba := 0 } } := by
  simp only [nvmeDetect, Nat.min_eq_left hgen, if_pos hwidth, hchoose]

end

theorem slowState_changes {st : NvSt} (h : d.nvme.st ≠ st) :
    slowState st d = evFrom 13 0 0x0D01 (if st == .absent || st == .failed then 1 else 0) (det [(16, [BitVec.ofNat 8 st.code])])
      { d with nvme := { d.nvme with st := st } } :=
  if_neg (by simpa using h)

theorem slowFailure_absent (hst : d.nvme.st ≠ .absent) :
    slowFailure true d = evFrom 13 0 0x0D01 1 (det [(16, [BitVec.ofNat 8 NvSt.absent.code])])
      { d with nvme := { d.nvme with st := .absent, gen := 0, width := 0, capacity := 0, lba := 0, pairs := 0 } } :=
  slowState_changes (d := { d with nvme := { d.nvme with gen := 0, width := 0, capacity := 0, lba := 0, pairs := 0 } }) hst

theorem slowFailure_failed (hst : d.nvme.st ≠ .failed) :
    slowFailure false d = evFrom 13 0 0x0D01 1 (det [(16, [BitVec.ofNat 8 NvSt.failed.code])]) { d with nvme := { d.nvme with st := .failed } } :=
  slowState_changes hst

/-! ### Reads that fail (R246, R252) -/

section
variable {id block : Nat} {o : TierObj} (hobj : d.obj id = some o)
include hobj

theorem slowReadFail_good {b : Bytes} (hgood : (if o.crcs.isEmpty then blockCrcs (d.objData o) else o.crcs)[block]? = some (crcOf 0 b)) :
    slowReadFail id block (some b) d = d.setObj id fun o => { o with bad := o.bad.filter fun x => x != (block, false) } := by
  unfold slowReadFail
  simp only [hobj]
  exact if_pos (by simpa using hgood)

section
variable {got : Option Bytes} (hst : o.st = .promoting ∨ o.st = .home ∨ o.rewrite ≠ [])
  (hbad : ∀ b, got = some b → (if o.crcs.isEmpty then blockCrcs (d.objData o) else o.crcs)[block]? ≠ some (crcOf 0 b))
include hst hbad

/-- The part once a failed read of an object's block is counted and its log asked for. -/
def readFailed (o : TierObj) (got : Option Bytes) (d : Dev) : Dev :=
  let e := if o.slow then { d with nvme := { d.nvme with mediaErr := satInc d.nvme.mediaErr } } else d
  if o.slow && got.isNone then nvmeSend 0 [.errorLog] e else e

/-- A read that fails, of an object that is moving or at home. -/
theorem slowReadFail_bad :
    slowReadFail id block got d =
      let e := readFailed o got d
      let note (l : List (Nat × Bool)) (d : Dev) : Dev := d.setObj id fun o => { o with bad := l, readAt := d.now }
      match o.bad.find? fun x => x.1 == block with
      | none =>
        let f := note (o.bad ++ [(block, false)]) e
        let f := { f with tier := { f.tier with retries := satInc f.tier.retries } }
        if o.slow then nvmeSend (classQueue o.lastCls) [.read id false [(block, 1)]] f else f
      | some (_, false) =>
        if !o.mirrored then loseObject id e else
        let f := note ((o.bad.filter fun x => x.1 != block) ++ [(block, true)]) e
        let f := evFrom 12 0 0x0C01 0 (det [(20, leBytes 4 id), (24, leBytes 4 block)])
          { f with tier := { f.tier with mirrorReads := satInc f.tier.mirrorReads } }
        nvmeSend (classQueue o.lastCls) [.read id true [(block, 1)]] f
      | some (_, true) => loseObject id e := by
  have hmoving : (o.st == .promoting || o.st == .home || !o.rewrite.isEmpty) = true := by
    obtain h | h | h := hst
    · simp [h]
    · simp [h]
    · simp [h]
  unfold slowReadFail
  cases got with
  | none =>
    simp only [hobj, hmoving]
    rfl
  | some b =>
    have hcrc : ((if o.crcs.isEmpty then blockCrcs (d.objData o) else o.crcs)[block]? == some (crcOf 0 b)) = false :=
      beq_eq_false_iff_ne.2 (hbad b rfl)
    simp only [hobj, hmoving, hcrc]
    rfl

theorem slowReadFail_first (hfind : o.bad.find? (fun x => x.1 == block) = none) :
    slowReadFail id block got d =
      let e := readFailed o got d
      let f := e.setObj id fun o' => { o' with bad := o.bad ++ [(block, false)], readAt := e.now }
      let f := { f with tier := { f.tier with retries := satInc f.tier.retries } }
      if o.slow then nvmeSend (classQueue o.lastCls) [.read id false [(block, 1)]] f else f := by
  rw [slowReadFail_bad hobj hst hbad]
  simp only [hfind]

theorem slowReadFail_second (hfind : o.bad.find? (fun x => x.1 == block) = some (block, false)) (hmirror : o.mirrored = true) :
    slowReadFail id block got d =
      let e := readFailed o got d
      let f := e.setObj id fun o' => { o' with bad := (o.bad.filter fun x => x.1 != block) ++ [(block, true)], readAt := e.now }
      nvmeSend (classQueue o.lastCls) [.read id true [(block, 1)]]
        (evFrom 12 0 0x0C01 0 (det [(20, leBytes 4 id), (24, leBytes 4 block)])
          { f with tier := { f.tier with mirrorReads := satInc f.tier.mirrorReads } }) := by
  rw [slowReadFail_bad hobj hst hbad]
  simp only [hfind, hmirror]
  rfl

end

theorem nvmeTimeout_first (hslow : o.slow = true) (hst : o.st = .promoting ∨ o.st = .home ∨ o.rewrite ≠ [])
    (hdue : o.readAt + d.nvme.timeoutMs.toNat * msNs ≤ d.now) (hfind : o.bad.find? (fun x => x.1 == block) = none) :
    nvmeTimeout id block d =
      let e := { d with nvme := { d.nvme with timeouts := satInc d.nvme.timeouts, mediaErr := satInc d.nvme.mediaErr } }
      let e := nvmeSend 0 [.errorLog] e
      let e := e.setObj id fun o' => { o' with bad := o.bad ++ [(block, false)], readAt := e.now }
      nvmeSend (classQueue o.lastCls) [.read id false [(block, 1)]] { e with tier := { e.tier with retries := satInc e.tier.retries } } := by
  have hobj' : ({ d with nvme := { d.nvme with timeouts := satInc d.nvme.timeouts } } : Dev).obj id = some o := hobj
  unfold nvmeTimeout
  simp only [hobj]
  rw [if_neg (by rw [hslow, decide_eq_false (Nat.not_lt.2 hdue)]; decide),
    slowReadFail_first hobj' hst (fun _ h => absurd h (by simp)) hfind]
  simp only [readFailed, hslow]
  rfl

/-! ### Movement (R248, R249, R252) -/

theorem promotionDone_resident (hst : o.st = .promoting) (hserving : d.tier.serving.contains id = true) (hroom : d.ipmUsed ≤ ipmUnits)
    (hwants : o.wants = []) :
    promotionDone id d =
      let bad := (o.bad.filter (·.2)).map (·.1)
      let place := d.ipmUnitsFor (units o.size)
      let b := d.objData o
      let e := putUnits place b ({ d with free := d.free + o.size }.setObj id fun o => { o with
        st := .resident, wants := [], bad := [], repair := bad, units := place })
      let e := movementEnds o b e
      let e := { e with tier := { e.tier with promotions := e.tier.promotions + 1 },
                        nvme := { e.nvme with reads := if o.slow then e.nvme.reads + 1 else e.nvme.reads } }
      let e := if bad.isEmpty then e else nvmeSend (classQueue o.lastCls) [.write id false (bad.map fun b => (b, 1))] e
      tierLeave id e := by
  unfold promotionDone
  simp only [hobj]
  rw [if_neg (by rw [hst, hserving, decide_eq_false (Nat.not_lt.2 hroom)]; decide)]
  simp only [hwants, List.foldl_nil]

theorem evictionDone_home (hst : o.st = .evicting) (hserving : d.tier.serving.contains id = true) (hevict : o.evict = []) (hwants : o.wants = []) :
    evictionDone id d =
      let e := (movementEnds o o.data d).setObj id fun o =>
        { o with st := .home, changed := false, evict := [], evictor := none, units := [], crcs := blockCrcs o.data }
      let e := if o.slow then nvmeSend (classQueue o.lastCls) [.flush] e else e
      tierLeave id { e with tier := { e.tier with evictions := e.tier.evictions + 1 } } := by
  unfold evictionDone
  simp only [hobj]
  rw [if_neg (by rw [hst, hserving]; decide)]
  simp only [hwants, hevict, List.foldl_nil]
  rfl

/-- An object, found after its own change. -/
theorem obj_setObj {f : TierObj → TierObj} (hid : ∀ o, (f o).id = o.id) : (d.setObj id f).obj id = some (f o) := by
  have hcomp : (fun o : TierObj => o.id == id) ∘ (fun o : TierObj => if o.id = id then f o else o) = fun o => o.id == id := by
    funext x
    by_cases h : x.id = id
    · simp [h, hid]
    · simp [h]
  have hmatch : o.id = id := by simpa using List.find?_some hobj
  unfold Dev.obj Dev.setObj
  simp only [List.find?_map, hcomp]
  rw [show d.tier.objs.find? (fun o => o.id == id) = some o from hobj]
  simp [hmatch]

/-- The object once the repair of its failed blocks has ended: with both copies, or with the good one alone. -/
def repairEnds (ok : Bool) (o : TierObj) : TierObj :=
  if ok then { o with repair := [] } else { o with repair := [], mirrored := false, ext := if o.mirrored then o.mir else o.ext, mir := [] }

theorem tierRepair_ends (ok : Bool) (hrepair : o.repair.isEmpty = false) :
    tierRepair id ok d =
      let e := d.setObj id (repairEnds ok)
      let e := if ok then nvmeSend (classQueue o.lastCls) [.flush] { e with tier := { e.tier with repaired := satInc e.tier.repaired } } else e
      evFrom 12 0 0x0C03 0 (det [(16, [if ok then 0 else 1]), (20, leBytes 4 id)]) e := by
  unfold tierRepair
  simp only [hobj]
  exact if_neg (by simp [hrepair])

theorem tierRepair_obj (ok : Bool) (hrepair : o.repair.isEmpty = false) : (tierRepair id ok d).obj id = some (repairEnds ok o) := by
  have hid : ∀ o, (repairEnds ok o).id = o.id := fun o => by cases ok <;> rfl
  rw [tierRepair_ends hobj ok hrepair]
  refine Eq.trans ?_ (obj_setObj hobj hid)
  cases ok <;> simp [Dev.obj, nvmeSend, emit]

theorem repairDone_ends (ok : Bool) (hrepair : o.repair.isEmpty = false) (hrewrite : o.rewrite = []) :
    repairDone id ok d =
      let e := d.setObj id (repairEnds ok)
      let e := if ok then nvmeSend (classQueue o.lastCls) [.flush] { e with tier := { e.tier with repaired := satInc e.tier.repaired } } else e
      evFrom 12 0 0x0C03 0 (det [(16, [if ok then 0 else 1]), (20, leBytes 4 id)]) e := by
  have hrewrite' : (repairEnds ok o).rewrite = [] := by cases ok <;> exact hrewrite
  rw [← tierRepair_ends hobj ok hrepair]
  unfold repairDone
  simp only [tierRepair_obj hobj ok hrepair, hrewrite']
  rfl

end

/-- Settles O18: the device, its failed reads, and the ends of the movements. -/
theorem tierCommandsComplete : Obligations.TierCommandsComplete :=
  ⟨fun _ _ _ hd => ⟨fun _ _ _ _ hup hchoose hgen hwidth => onIf_after hd hup (nvmeDetect_found hgen hwidth hchoose),
      fun _ _ _ hup hchoose hgen hwidth => onIf_after hd hup (nvmeDetect_none hgen hwidth hchoose),
      fun hup hst => onIf_after hd hup (slowFailure_absent hst),
      fun hup hst => onIf_after hd hup (slowFailure_failed hst),
      fun _ hup => onIf_after hd hup rfl,
      fun _ _ _ _ hfull hobj hst hbad => ⟨fun hfind => onIf_after hd hfull (slowReadFail_first hobj hst hbad hfind),
        fun hfind hmirror => onIf_after hd hfull (slowReadFail_second hobj hst hbad hfind hmirror)⟩,
      fun _ _ _ _ hfull hobj hgood => onIf_after hd hfull (slowReadFail_good hobj hgood),
      fun _ _ _ hfull hobj hslow hst hdue hfind => onIf_after hd hfull (nvmeTimeout_first hobj hslow hst hdue hfind)⟩,
    fun _ _ _ _ _ hd hfull hobj => ⟨
      fun hst hserving hroom hwants => onIf_after hd hfull (promotionDone_resident hobj hst hserving hroom hwants),
      fun hst hserving hevict hwants => onIf_after hd hfull (evictionDone_home hobj hst hserving hevict hwants),
      fun ok hrepair hrewrite => onIf_after hd hfull (repairDone_ends hobj ok hrepair hrewrite)⟩⟩

end

end Sys2Proof.Machine
end

section
/-! PROOF. The estimator at its instants: what the function of each command gives. -/

namespace Sys2Proof.Machine

section
variable {d : Dev}

theorem poseTakeover_late {x : Sample} (hdue : d.est.due = some x) (hlate : x.stamp + 120 * usNs * 65536 ≤ d.time.tb) :
    poseTakeover d = (writePose x 1 (poseSource 1 d)).setEst fun e => { e with ccReady := decide (0 < d.liveCores) } := by
  unfold poseTakeover
  simp only [hdue]
  exact if_neg (Nat.not_lt.2 hlate)

section
variable (hon : d.est.st ≠ .off) (hprimary : d.est.secondary = false)
include hon hprimary

theorem imuGap_marked (hquiet : 2 * d.imuPeriodUs (d.ec 2 1) * 1000 ≤ d.imuQuiet (d.ec 2 1)) :
    imuGap d = (estExtrapolate (d.ec 2 1) d).setEst fun e => { e with gap := true } :=
  if_neg (by simp [hon, hprimary, Nat.not_lt.2 hquiet])

theorem imuSwitch_secondary (hquiet : 4 * d.imuPeriodUs (d.ec 2 1) * 1000 ≤ d.imuQuiet (d.ec 2 1)) (hother : d.ec 3 1 ≠ 0xFF)
    (hlog : d.imuLog (d.ec 3 1) ≠ []) (hlive : d.imuQuiet (d.ec 3 1) ≤ 2 * d.imuPeriodUs (d.ec 3 1) * 1000) :
    imuSwitch d = { d with est := { d.est with secondary := true, gap := false, okRun := 0 } } :=
  if_neg (by simp [hon, hprimary, hother, hlog, Nat.not_lt.2 hquiet, Nat.not_lt.2 hlive])

end

theorem estLost_due (hst : d.est.st = .tracking) (hdue : d.est.lastOk + d.ec 22 2 * msNs ≤ d.now) :
    estLost d = evFrom 6 0 0x0610 1 (det [(16, [BitVec.ofNat 8 EstSt.lost.code, BitVec.ofNat 8 EstSt.tracking.code])])
      { d with est := { d.est with st := .lost } } := by
  unfold estLost estState
  rw [if_pos (by simp [hst, hdue])]
  simp only [hst]
  rfl

/-- Settles O20: the records written in its place, the gap, the switch and the loss. -/
theorem estimatorInstantsComplete : Obligations.EstimatorInstantsComplete :=
  fun _ _ _ hd hup => ⟨fun _ hdue hlate => onIf_after hd hup (poseTakeover_late hdue hlate),
    fun hon hprimary hquiet => onIf_after hd hup (imuGap_marked hon hprimary hquiet),
    fun hon hprimary hquiet hother hlog hlive => onIf_after hd hup (imuSwitch_secondary hon hprimary hquiet hother hlog hlive),
    fun hfull hst hdue => onIf_after hd hfull (estLost_due hst hdue)⟩

end

end Sys2Proof.Machine
end

section
/-! PROOF. Waves and bands of models, and fusion's ticks and their ends: what the function of each command gives in each of its cases. -/

namespace Sys2Proof.Machine

section
variable {d : Dev}

/-! ### Waves and bands (R278, R283, R284) -/

/-- A wave of one member takes it. -/
theorem waveTakes_one {room : Nat} (m : Member) (h : 0 < room) : d.waveTakes room [m] = [m] := by
  have hroom : room ≠ 0 := Nat.ne_of_gt h
  simp [Dev.waveTakes, hroom]

section
variable {n c : Nat} {plan : List PlanTask} (hst : (d.slot n).st = .loaded) (hbusy : d.waveBusy n c = 0) (hroom : 0 < (d.slot n).wave.getD c 0)
include hst hbusy hroom

theorem waveStart_infer {r : InferReq} (hready : d.waveReady n c = [.inl r]) :
    waveStart n c plan d =
      let cls := if r.fleet then 2 else 1
      let e := if (d.slot n).mode = 0 then streamWave n c cls d else d
      let role := planRole n c (e.slot n) r.inst (e.pkg n)
      (addWork (.infer r.tok n r.inst) c cls role (inferPlan r.inst.isSome role plan) e).setSlot n fun x =>
        { x with reqs := x.reqs.map fun q => if q.tok = r.tok then { q with work := some e.comp.nextId } else q } := by
  have htakes := waveTakes_one (d := d) (.inl r) hroom
  unfold waveStart
  simp only [hst, hbusy, hready, Nat.sub_zero, htakes]
  rw [if_neg (by simp)]
  simp [Dev.skips, inferStart]

theorem waveStart_band {b : Nat} {j : BandJob} (hready : d.waveReady n c = [.inr (b, j)]) (hheld : d.outHeld b j = false) :
    waveStart n c plan d =
      let e := if (d.slot n).mode = 0 then streamWave n c 1 d else d
      let role := planRole n c (e.slot n) none (e.pkg n)
      addWork (.band b j.k j.tag) c 1 role (inferPlan false role plan) (e.setBind b fun x =>
        { x with jobs := x.jobs.map fun q => if q.k = j.k then { q with started := true } else q }) := by
  have htakes := waveTakes_one (d := d) (.inr (b, j)) hroom
  unfold waveStart
  simp only [hst, hbusy, hready, Nat.sub_zero, htakes]
  rw [if_neg (by simp)]
  simp [Dev.skips, hheld, bandRun]

theorem waveStart_skip {b : Nat} {j : BandJob} (hready : d.waveReady n c = [.inr (b, j)]) (hheld : d.outHeld b j = true) :
    waveStart n c plan d = bandSkip b j d := by
  have htakes := waveTakes_one (d := d) (.inr (b, j)) hroom
  unfold waveStart
  simp only [hst, hbusy, hready, Nat.sub_zero, htakes]
  rw [if_neg (by simp)]
  simp [Dev.skips, hheld]

end

/-- A wave in progress streams for no other in tier mode 0. -/
theorem waveStart_busy {n c : Nat} (plan : List PlanTask) (hmode : (d.slot n).mode = 0) (hbusy : 0 < d.waveBusy n c) : waveStart n c plan d = d :=
  if_pos (by simp [hmode, hbusy])

theorem bandStart_eq {b c pos f tag : Nat} {x : Binding} (plan : List PlanTask) (hbind : d.bind b = some x) (hending : x.ending = none)
    (hfree : d.freeCluster x.slot = c) (hnext : d.nextBand x = some (pos, f, tag)) :
    bandStart b c plan d = waveStart x.slot c plan (d.setBind b fun y => { y with
      pos := pos + 1, k := y.k + 1, jobs := y.jobs ++ [{ k := x.k, inFlag := f, tag := tag, cluster := c, readyAt := d.now }] }) := by
  unfold bandStart
  simp only [hbind, hnext]
  exact if_neg (by simp [hending, hfree])

/-! ### Ticks (R296, R304-R308) -/

section
variable {plan : List PlanTask} (hst : d.fusion.st ≠ .idle) (hdue : d.fusion.next ≤ d.tb64)
  (hnext : d.tb64 < d.fusion.next + d.fusion.periodUs * usNs) (hasked : d.fusion.asked = []) (hstep : d.fusion.stepTo = none)
  (hwait : d.fusion.waiting = none) (hconf : (d.fusSnapshot d.fusion.next d.fusion.seq).1.conflicts = [])
include hst hdue hnext hasked hstep hwait hconf

/-- The part once a tick's snapshot is taken. -/
def ticked (d : Dev) : Dev :=
  let snap := d.fusSnapshot d.fusion.next d.fusion.seq
  let lates := ((List.range 32).filter fun i => snap.1.late.testBit i).length
  leaveMasked (d.setFus fun f => { f with
    next := f.next + f.periodUs * usNs, seq := f.seq + 1, lastTick := some f.next, runs := snap.2, masked := BitVec.ofNat 32 snap.1.masked
    lateForTick := satAdd f.lateForTick lates })

/-- The tick of that snapshot. -/
def tickOf (plan : List PlanTask) (d : Dev) : FusTick :=
  { (d.fusSnapshot d.fusion.next d.fusion.seq).1 with plan := plan, reset := false, resetToks := [], final := none }

/-- A tick at its instant that nothing else is asked of. -/
theorem fusionTick_eq :
    fusionTick plan d =
      if d.fusion.st == .checking then plainTick (tickOf plan d) 32 (ticked d)
      else if d.fusion.running.isNone then startTick (tickOf plan d) ((ticked d).setFus fun f => { f with waiting := none })
      else (ticked d).setFus fun f => { f with waiting := some (tickOf plan d) } := by
  have hpassed : (d.tb64 - d.fusion.next) / (d.fusion.periodUs * usNs) = 0 := Nat.div_eq_of_lt (by omega)
  have htaken (running : Bool) : takeAsked running [] = (none, [], []) := rfl
  have hskip (posts : Bool) (e : Dev) : skipTicks 0 posts e = e := rfl
  have hevents (e : Dev) : conflictEvents (d.fusSnapshot d.fusion.next d.fusion.seq).1 e = e := by
    simp [conflictEvents, hconf]
  have hticked (p : Tok × Bool → Bool) : leaveMasked (d.setFus fun f => { f with
      next := d.fusion.next + d.fusion.periodUs * usNs, seq := d.fusion.seq + 1, lastTick := some d.fusion.next
      runs := (d.fusSnapshot d.fusion.next d.fusion.seq).2, asked := f.asked.filter p
      masked := BitVec.ofNat 32 (d.fusSnapshot d.fusion.next d.fusion.seq).1.masked
      lateForTick := satAdd f.lateForTick
        ((List.range 32).filter fun i => (d.fusSnapshot d.fusion.next d.fusion.seq).1.late.testBit i).length }) = ticked d := by
    simp only [ticked, Dev.setFus, hasked, List.filter_nil]
  unfold fusionTick
  simp only [hpassed, hskip, hasked, hstep, hwait, hconf, List.filter_nil, htaken, Nat.zero_mul, Nat.add_zero, List.foldl_nil]
  rw [if_neg (by simp [hst, Nat.not_lt.2 hdue]), if_neg (by simp)]
  simp only [tickOf, hconf, hticked, hevents, runTick, List.isEmpty_nil, Option.isSome_none, Bool.not_true, Bool.false_eq_true, if_false, if_true]

theorem fusionTick_starts (hrunning : d.fusion.st = .running) (hidle : d.fusion.running = none) :
    fusionTick plan d = startTick (tickOf plan d) ((ticked d).setFus fun f => { f with waiting := none }) := by
  rw [fusionTick_eq hst hdue hnext hasked hstep hwait hconf, if_neg (by simp [hrunning]), if_pos (by simp [hidle])]

theorem fusionTick_waits (hrunning : d.fusion.st = .running) (hbusy : d.fusion.running ≠ none) :
    fusionTick plan d = (ticked d).setFus fun f => { f with waiting := some (tickOf plan d) } := by
  rw [fusionTick_eq hst hdue hnext hasked hstep hwait hconf, if_neg (by simp [hrunning]), if_neg (by simp [hbusy])]

theorem fusionTick_checking (hchecking : d.fusion.st = .checking) : fusionTick plan d = plainTick (tickOf plan d) 32 (ticked d) := by
  rw [fusionTick_eq hst hdue hnext hasked hstep hwait hconf, if_pos (by simp [hchecking])]

end

/-! ### The ends of ticks (R308, R311, R314) -/

/-- A fold whose every step keeps a part of the state keeps it. -/
theorem foldl_keeps {α β γ : Type} (P : β → γ) (f : β → α → β) (h : ∀ b a, P (f b a) = P b) (l : List α) (b : β) : P (l.foldl f b) = P b := by
  induction l generalizing b with
  | nil => rfl
  | cons a l ih => exact (ih (f b a)).trans (h b a)

theorem endTracks_tier (t : FusTick) (d : Dev) : (endTracks t d).tier = d.tier := by
  unfold endTracks
  refine (foldl_keeps Dev.tier _ (fun e k => ?_) _ _).trans rfl
  simp [putTrack, Dev.setFus]

theorem endTracks_fusion (t : FusTick) (d : Dev) :
    (endTracks t d).fusion.waiting = d.fusion.waiting ∧ (endTracks t d).fusion.maxTracks = d.fusion.maxTracks := by
  unfold endTracks
  refine Prod.ext_iff.1 ((foldl_keeps (fun e : Dev => (e.fusion.waiting, e.fusion.maxTracks)) _ (fun e k => ?_) _ _).trans rfl)
  simp [putTrack, Dev.setFus]

theorem putTick_waiting (t : FusTick) (flags tracks cluster lost : Nat) (d : Dev) :
    (putTick t flags tracks cluster lost d).fusion.waiting = d.fusion.waiting := by
  simp [putTick, Dev.setFus]

theorem staleTold_fusion (d : Dev) : (staleTold d).fusion = d.fusion := by
  unfold staleTold
  split
  · rfl
  · rfl

/-- A tick's end leaves the next one to come at its own instant, where none waits. -/
theorem tickCheck_none (h : d.fusion.waiting = none) : tickCheck (d.setFus fun f => { f with running := none }) =
    d.setFus fun f => { f with running := none } := by
  simp [tickCheck, Dev.setFus, h]

section
variable {k : FusTick} {w : Work} (hrun : d.fusion.running = some k) (hdone : k.done = some w) (hreset : k.reset = false)
  (htoks : k.resetToks = []) (hwait : d.fusion.waiting = none)
include hrun hdone hreset htoks hwait

theorem fusionCommit_discarded :
    fusionCommit true d = (putTick k (16 + d.fusionStale.1) 0 k.cluster d.fusionStale.2 ((staleTold d).setFus fun f =>
      { f with discarded := satInc f.discarded })).setFus fun f => { f with running := none } := by
  unfold fusionCommit
  simp only [hrun, hdone, hreset, htoks, List.foldl_nil, Bool.false_eq_true, if_false, if_true]
  refine tickCheck_none ?_
  rw [putTick_waiting]
  exact (congrArg Fusion.waiting (staleTold_fusion d)).trans hwait

theorem fusionCommit_empty (hmax : d.fusion.maxTracks = 0) (hout : d.pk d.fusion.slot 64 4 = 0) :
    fusionCommit false d =
      let n := d.fusion.slot
      let stale := d.fusionStale
      let e := commitStep n 0 w.state (endTracks k (staleTold d))
      let e := if ((e.slot n).insts.getD 0 {}).sinceCkpt = 0 then e.setFus fun f => { f with ckpt := f.tracks } else e
      let e := e.setSlot n fun x => { x with committed := x.committed + 1 }
      (putTick k (128 * bit w.accSat + 256 * bit w.boundHit + stale.1) d.fusion.ending.length k.cluster stale.2 e).setFus
        fun f => { f with running := none } := by
  have hpk : (endTracks k (staleTold d)).pk d.fusion.slot 64 4 = 0 := by
    have htier : (endTracks k (staleTold d)).tier = d.tier := (endTracks_tier k (staleTold d)).trans (by unfold staleTold; split <;> rfl)
    rw [← hout]
    simp only [Dev.pk, Dev.pkg, Dev.obj, htier]
  obtain ⟨hwaiting, hmaxTracks⟩ := endTracks_fusion k (staleTold d)
  rw [staleTold_fusion] at hwaiting hmaxTracks
  have hfus (s i : Nat) (st : Bytes) (e : Dev) : (commitStep s i st e).fusion = e.fusion := rfl
  unfold fusionCommit
  simp only [hrun, hdone, hreset, htoks, List.foldl_nil, Bool.false_eq_true, if_false, hpk, Nat.add_zero, staleTold_fusion, hfus, hmaxTracks, hmax,
    Nat.zero_min, List.range_zero, Nat.zero_add]
  refine tickCheck_none ?_
  rw [putTick_waiting]
  refine Eq.trans ?_ (hwaiting.trans hwait)
  unfold Dev.setSlot
  simp only
  split
  · rfl
  · rfl

end

/-- Settles O19: the waves and the bands of models, and the ticks and their ends. -/
theorem neuralAndFusionCommandsComplete : Obligations.NeuralAndFusionCommandsComplete :=
  ⟨fun _ _ _ _ _ hd hfull => ⟨
      fun _ _ hst hbusy hready hroom => onIf_after hd hfull (waveStart_infer hst hbusy hroom hready),
      fun _ _ _ hst hbusy hready hroom => ⟨fun hheld => onIf_after hd hfull (waveStart_band hst hbusy hroom hready hheld),
        fun hheld => onIf_after hd hfull (waveStart_skip hst hbusy hroom hready hheld)⟩,
      fun _ _ _ _ _ hbind hending hfree hnext hst => ⟨
        fun hmode hbusy => onIf_after hd hfull ((bandStart_eq _ hbind hending hfree hnext).trans (waveStart_busy _ hmode hbusy)),
        fun hbusy hready hroom => ⟨
          fun hheld => onIf_after hd hfull
            ((bandStart_eq _ hbind hending hfree hnext).trans (waveStart_band (by exact hst) hbusy (by exact hroom) hready hheld)),
          fun hheld => onIf_after hd hfull
            ((bandStart_eq _ hbind hending hfree hnext).trans (waveStart_skip (by exact hst) hbusy (by exact hroom) hready hheld))⟩⟩⟩,
    fun _ _ _ hd hfull => ⟨
      fun _ hst hdue hnext hasked hstep hwait hconf => ⟨
        fun hrunning hidle => onIf_after hd hfull (fusionTick_starts hst hdue hnext hasked hstep hwait hconf hrunning hidle),
        fun hrunning hbusy => onIf_after hd hfull (fusionTick_waits hst hdue hnext hasked hstep hwait hconf hrunning hbusy),
        fun hchecking => onIf_after hd hfull (fusionTick_checking hst hdue hnext hasked hstep hwait hconf hchecking)⟩,
      fun _ _ hrun hdone hreset htoks hwait => onIf_after hd hfull (fusionCommit_discarded hrun hdone hreset htoks hwait),
      fun _ _ hrun hdone hreset htoks hwait hmax hout =>
        onIf_after hd hfull (fusionCommit_empty hrun hdone hreset htoks hwait hmax hout)⟩⟩

end

end Sys2Proof.Machine
end

section
/-! PROOF. The estimator's problems, and the map epochs they give: what the function of each command gives in each of its cases. -/

namespace Sys2Proof.Machine

section
variable {d : Dev}

/-! ### Updates of a frame set (R374-R377) -/

section
variable {tov c : Nat} {rest : List (Nat × Nat)} {plan : List PlanTask} (hlive : d.estLive = true) (hupd : d.est.upd = none)
  (hset : d.frameSet = some (tov, rest)) (hcluster : d.poseCluster ((plan.map (·.cycles)).sum) (clustersOf d.clusterEn) = some c)
include hlive hupd hset hcluster

/-- The part once an update has taken its frame set. -/
def updateTaken (tov : Nat) (rest : List (Nat × Nat)) (d : Dev) : Dev :=
  windowDraws (d.setEst fun e => { e with
    bands := rest, upd := some (false, tov), ran := e.ran.filter (· != 0)
    sets := (e.sets ++ [tov]).drop (e.sets.length + 1 - d.ec 7 1)
    descr := ((e.descrs.filter fun x => decide (tov ≤ x.1 ∧ x.1 ≤ tov + msNs)).getLast?.map (·.2)).getD e.descr
    descrs := e.descrs.filter fun x => decide (tov + msNs < x.1) })

/-- A full frame set, and a cluster that has room for its update. -/
theorem frameUpdateStart_eq :
    frameUpdateStart plan d =
      if d.spoiltSet tov then spoiltUpdate rest d
      else if plan.isEmpty then (updateTaken tov rest d).setEst fun e => { e with ran := 0 :: e.ran, leads := e.leads.set 0 c }
      else estWork 0 c 0 plan (updateTaken tov rest d) := by
  unfold frameUpdateStart
  rw [if_neg (by simp [hlive, hupd])]
  simp only [hset, hcluster]
  rfl

theorem frameUpdateStart_spoilt (hspoilt : d.spoiltSet tov = true) : frameUpdateStart plan d = spoiltUpdate rest d := by
  rw [frameUpdateStart_eq hlive hupd hset hcluster, if_pos hspoilt]

theorem frameUpdateStart_empty (hspoilt : d.spoiltSet tov = false) (hplan : plan = []) :
    frameUpdateStart plan d = (updateTaken tov rest d).setEst fun e => { e with ran := 0 :: e.ran, leads := e.leads.set 0 c } := by
  rw [frameUpdateStart_eq hlive hupd hset hcluster, if_neg (by simp [hspoilt]), if_pos (by simp [hplan])]

theorem frameUpdateStart_works (hspoilt : d.spoiltSet tov = false) (hplan : plan ≠ []) :
    frameUpdateStart plan d = estWork 0 c 0 plan (updateTaken tov rest d) := by
  rw [frameUpdateStart_eq hlive hupd hset hcluster, if_neg (by simp [hspoilt]), if_neg (by simp [hplan])]

end

section
variable {gnss : Bool} {tov : Nat} (o : EstOutcome) (hupd : d.est.upd = some (gnss, tov)) (hran : d.est.ran.contains 0 = true)
include hupd hran

/-- The part once the outcome of its update is counted. -/
def updateCounted (o : EstOutcome) (d : Dev) : Dev :=
  estOutcome 0 o (d.setEst fun e => { e with upd := none, ran := e.ran.filter (· != 0), drawn := [] })

theorem frameUpdateDone_converged (hok : o.status = 0) :
    frameUpdateDone o d =
      let good := estSuccess tov (estCorrect o tov false (updateCounted o d))
      gnssStart (if !gnss && good.kfDue o tov then takeKeyframe tov good else good) := by
  unfold frameUpdateDone
  simp only [hupd, hran, hok]
  rfl

theorem frameUpdateDone_failed (hfail : o.status = 0x33) : frameUpdateDone o d = gnssStart (estUpdateFails (updateCounted o d)) := by
  unfold frameUpdateDone
  simp only [hupd, hran, hfail]
  rfl

end

section
variable {tov : Nat} {o : EstOutcome} (hupd : d.est.upd = some (false, tov)) (hran : d.est.ran.contains 0 = true) (hok : o.status = 0)
include hupd hran hok

theorem frameUpdateDone_corrects (hkf : (estSuccess tov (estCorrect o tov false (updateCounted o d))).kfDue o tov = false) :
    frameUpdateDone o d = gnssStart (estSuccess tov (estCorrect o tov false (updateCounted o d))) := by
  rw [frameUpdateDone_converged o hupd hran hok]
  simp only [hkf]
  rfl

theorem frameUpdateDone_keyframe (hkf : (estSuccess tov (estCorrect o tov false (updateCounted o d))).kfDue o tov = true) :
    frameUpdateDone o d = gnssStart (takeKeyframe tov (estSuccess tov (estCorrect o tov false (updateCounted o d)))) := by
  rw [frameUpdateDone_converged o hupd hran hok]
  simp only [hkf]
  rfl

end

/-- An update from the receiver alone makes no keyframe. -/
theorem frameUpdateDone_receiver {tov : Nat} {o : EstOutcome} (hupd : d.est.upd = some (true, tov)) (hran : d.est.ran.contains 0 = true)
    (hok : o.status = 0) : frameUpdateDone o d = gnssStart (estSuccess tov (estCorrect o tov false (updateCounted o d))) := by
  rw [frameUpdateDone_converged o hupd hran hok]
  simp only [Bool.not_true, Bool.false_and, Bool.false_eq_true, if_false]

/-! ### The window and the pose graph (R378-R381) -/

section
variable {o : EstOutcome} {e : Dev} (hcommit : e.est.commit = none)
include hcommit

theorem toCommit_none (p : EpochPend) : toCommit p e = e.setEst fun x => { x with commit := some p } := by
  simp [toCommit, Dev.setEst, hcommit]

section
variable (hba : d.est.ba = true) (hran : d.est.ran.contains 1 = true)
  (he : estOutcome 1 o (d.setEst fun e => { e with
    ba := false, ran := e.ran.filter (· != 1), baDrawn := []
    retained := if o.status ≤ 1 || o.status = 0x32 then some (o.poses.filter fun x => e.baWindow.contains x.1) else e.retained }) = e)
  (hagain : e.est.baAgain = false) (hwaits : e.epochWaits 1 = false) (hfrom : e.est.commits.getD 1 0 = e.est.baFrom)
include hba hran he hagain hwaits hfrom

theorem windowBaDone_commits (hok : o.status = 0) :
    windowBaDone o d = e.setEst fun x => { x with commit := some { cause := 0, poses := o.poses.filter fun y => e.est.baWindow.contains y.1 } } := by
  have hagain' (p : EpochPend) : (e.setEst fun x => { x with commit := some p }).est.baAgain = false := hagain
  unfold windowBaDone
  rw [if_neg (by rw [hba, hran]; decide), he]
  rw [if_pos (by simp [hok]), if_neg (by simp [hwaits]), if_neg (by rw [hfrom]; simp)]
  simp only [toCommit_none hcommit, hagain']
  rfl

omit hcommit hwaits hfrom in
theorem windowBaDone_fails (hfail : o.status = 0x33) : windowBaDone o d = e.setEst fun e => { e with baFail := satInc e.baFail } := by
  unfold windowBaDone
  rw [if_neg (by rw [hba, hran]; decide), he, if_neg (by simp [hfail])]
  exact if_neg (by simp [estNotCommitted, Dev.setEst, hagain])

end

theorem poseGraphDone_commits (hpg : d.est.pg ≠ []) (hran : d.est.ran.contains 2 = true)
    (he : estOutcome 2 o (d.setEst fun e => { e with pg := [], ran := e.ran.filter (· != 2) }) = e)
    (hwaits : e.epochWaits 0 = false) (hfrom : e.est.commits.getD 0 0 = e.est.pgFrom) (hok : o.status = 0) :
    poseGraphDone o d = startPg (estCorrect o (2 ^ 64) true (e.setEst fun e => { e with commit := some {
      cause := 1, poses := o.poses.filter fun x => decide (d.est.pgSpan.1 < x.1 ∧ x.1 ≤ d.est.pgSpan.2), loops := d.est.pg } })) := by
  unfold poseGraphDone
  rw [if_neg (by rw [hran, List.isEmpty_eq_false_iff.2 hpg]; decide)]
  simp only [he]
  rw [if_pos (by simp [hok]), if_neg (by simp [hwaits]), if_neg (by rw [hfrom]; simp), toCommit_none hcommit]

end

/-! ### The answer of a loop query (R382) -/

theorem findSome?_none_fun {α β : Type} (l : List α) : l.findSome? (fun _ => (none : Option β)) = none := by
  simp

/-- A loop query that no keyframe answers only adds its own keyframe's code to the index. -/
theorem loopQueryDone_added {j : PlaceJob} {ok : Bool} {kf : Nat} {a : Nat × Bytes} {e f : Dev} {n : Nat}
    (hended : d.place.ended.reverse.find? (fun x => match x.1.owner with
      | .loop _ => true
      | _ => false) = some (j, ok)) (howner : j.owner = .loop kf)
    (hasked : d.est.asked.find? (fun a => a.1 == kf) = some a)
    (he : ((d.setPlace fun p => { p with ended := p.ended.filter fun x => x != (j, ok) }).setEst fun e => { e with
      asked := e.asked.filter fun b => b.1 != kf }).setEst (fun e => { e with reloc := false }) = e)
    (hst : (d.ix 0).st = .ready ∨ (d.ix 0).st = .merging) (happend : appendVecs 0 [a.2] e = (f, .inl n)) (hside : (f.ix 0).side < 4096) :
    loopQueryDone [] d = f.setEst fun e => { e with inserted := e.inserted ++ [kf] } := by
  unfold loopQueryDone
  split
  · next hnone => exact absurd (hnone.symm.trans hended) (by simp)
  · next j' ok' hsome =>
    obtain ⟨rfl, rfl⟩ : j' = j ∧ ok' = ok := by simpa using hsome.symm.trans hended
    have hasked' (p : Place → Place) : (d.setPlace p).est.asked.find? (fun a => a.1 == kf) = some a := hasked
    simp only [howner, hasked', List.find?_nil, Option.map_none, findSome?_none_fun, he]
    have hix : (e.ix 0).st = (d.ix 0).st := by rw [← he]; rfl
    rw [if_neg (by rw [hix]; obtain h | h := hst <;> simp [h])]
    simp only [happend]
    exact if_neg (by rw [decide_eq_false (Nat.not_le.2 hside : ¬ 4096 ≤ ((f.setEst _).ix 0).side)]; simp)

/-! ### Epochs of the map (R385) -/

theorem satAdd_zero {w : Nat} (x : BitVec w) : satAdd x 0 = x := by
  have hle : x.toNat ≤ 2 ^ w - 1 := Nat.le_sub_one_of_lt x.isLt
  rw [satAdd, Nat.add_zero, Nat.min_eq_left hle, BitVec.ofNat_toNat, BitVec.setWidth_eq]

theorem nvmeSend_est (q : Nat) (l : List NvmeCmd) (d : Dev) : (nvmeSend q l d).est = d.est :=
  foldl_keeps Dev.est (fun d c => emit (.nvme q c) d) (fun _ _ => rfl) l d

theorem tierServe_est (d : Dev) : (tierServe d).est = d.est := by
  unfold tierServe
  refine foldl_keeps Dev.est _ (fun e _ => ?_) _ _
  split
  · rfl
  · split
    · rfl
    · simp only
      split
      · rfl
      · split
        · rfl
        · split
          · rfl
          · rfl

theorem evictObj_est (o : TierObj) (d : Dev) : (evictObj o d).est = d.est := by
  unfold evictObj
  split
  · exact tierServe_est _
  · rfl

theorem makeRoom_est (need skip : Nat) (d : Dev) : (makeRoom need skip d).est = d.est := by
  unfold makeRoom
  simp only
  split
  · rfl
  · refine (foldl_keeps (fun s : Dev × Nat => s.1.est) _ (fun s o => ?_) _ _).trans rfl
    split
    · rfl
    · exact evictObj_est o s.1

theorem putUnits_est (l : List (Nat × Nat)) (b : Bytes) (d : Dev) : (putUnits l b d).est = d.est :=
  foldl_keeps (fun s : Dev × Bytes => s.1.est)
    (fun (s : Dev × Bytes) (e : Nat × Nat) => (s.1.dput (ipmBase + 65536 * e.1) (s.2.take (65536 * e.2)), s.2.drop (65536 * e.2))) (fun _ _ => rfl) l (d, b)

theorem addObjs_est (l : List TierObj) (d : Dev) : (addObjs l d).est = d.est := by
  unfold addObjs
  refine foldl_keeps Dev.est _ (fun e o => ?_) _ _
  simp only [apply_ite Dev.est, putUnits_est, nvmeSend_est, ite_self]

theorem putTile_est (d : Dev) (x : Nat × Bytes) : (putTile d x).est = d.est :=
  (addObjs_est _ _).trans (makeRoom_est _ _ _)

/-- The part once an epoch without a pose, a loop or a new keyframe is committed. -/
def epochCommitted (c : EpochPend) (e : Dev) : Dev :=
  e.setEst fun x => { x with
    epoch := e.est.epoch + 1, commits := upd x.commits c.cause (· + 1), commit := x.nextCommit.head?, nextCommit := x.nextCommit.drop 1 }

theorem mapEpochCommit_plain {c : EpochPend} (tiles : List (Nat × Bytes)) (hcommit : d.est.commit = some c) (hposes : c.poses = [])
    (hloops : c.loops = []) (hfresh : d.est.fresh = []) (hagain : d.est.baAgain = false) :
    mapEpochCommit tiles d =
      let e := tiles.foldl putTile d
      let n := e.est.epoch + 1
      let old := e.est.kfs
      let e := e.setEst fun e => { e with
        epoch := n, commits := upd e.commits c.cause (· + 1), commit := e.nextCommit.head?, nextCommit := e.nextCommit.drop 1 }
      startPg (streamRecord 0x0511 e.tb64 false (epochRecord n e.tb64 ((old.map (·.id)).foldl max 0) 0 0 0 c.cause tiles.length) e) := by
  have hest : (tiles.foldl putTile d).est = d.est := foldl_keeps Dev.est putTile putTile_est tiles d
  unfold mapEpochCommit
  simp only [hcommit, hest, hposes, hloops, hfresh, List.filter_nil, List.map_nil, List.append_nil, List.foldl_nil, List.any_nil, List.length_nil,
    List.map_id', List.filter_false, Bool.false_eq_true, if_false, Dev.setEst, satAdd_zero, streamRecord_fields, hagain, Bool.false_and]


/-- Settles O21: the updates, the window, the pose graph, the loops and the epochs. -/
theorem estimatorCommandsComplete : Obligations.EstimatorCommandsComplete :=
  fun _ _ _ hd hfull => ⟨
    fun _ _ _ _ hlive hupd hset hcluster => ⟨
      fun hspoilt => onIf_after hd hfull (frameUpdateStart_spoilt hlive hupd hset hcluster hspoilt),
      fun hspoilt hplan => onIf_after hd hfull (frameUpdateStart_empty hlive hupd hset hcluster hspoilt hplan),
      fun hspoilt hplan => onIf_after hd hfull (frameUpdateStart_works hlive hupd hset hcluster hspoilt hplan)⟩,
    fun _ o hupd hran => ⟨fun hok hkf => onIf_after hd hfull (frameUpdateDone_corrects hupd hran hok hkf),
      fun hok hkf => onIf_after hd hfull (frameUpdateDone_keyframe hupd hran hok hkf),
      fun hfail => onIf_after hd hfull (frameUpdateDone_failed o hupd hran hfail)⟩,
    fun _ _ hupd hran hok => onIf_after hd hfull (frameUpdateDone_receiver hupd hran hok),
    fun _ hba hran hagain hcommit hwaits hfrom => ⟨
      fun hok => onIf_after hd hfull (windowBaDone_commits hcommit hba hran rfl hagain hwaits hfrom hok),
      fun hfail => onIf_after hd hfull (windowBaDone_fails hba hran rfl hagain hfail)⟩,
    fun _ hpg hran hcommit hwaits hfrom hok => onIf_after hd hfull (poseGraphDone_commits hcommit hpg hran rfl hwaits hfrom hok),
    fun _ _ _ _ hended howner hasked hst _ _ happend hside =>
      onIf_after hd hfull (loopQueryDone_added hended howner hasked rfl hst happend hside),
    fun _ tiles hcommit hposes hloops hfresh hagain => onIf_after hd hfull (mapEpochCommit_plain tiles hcommit hposes hloops hfresh hagain)⟩

end

end Sys2Proof.Machine
end

section
/-! PROOF. Walkers, queries and merges of the place indices: what the function of each command gives in each of its cases. -/

namespace Sys2Proof.Machine

section
variable {d : Dev}

theorem placeAdmit_takes {w : Nat} {j : PlaceJob} {l : List PlaceJob} (hst : (d.wk w).st = .online) (hwait : d.waitingJobs = j :: l)
    (hfits : d.fits w j = true) :
    placeAdmit w d = (d.setJob j.id fun j => { j with snap := some (j.snap.getD (d.snapFor j)), waiting := j.waiting.drop 1 }).setPlace fun p =>
      { p with ctx := p.ctx ++ [{ walker := w, slot := d.freeCtx w, job := j.id, query := j.waiting.headD 0 }] } := by
  unfold placeAdmit
  rw [if_neg (by simp [hst])]
  simp only [hwait]
  exact if_neg (by simp [hfits])

theorem placeDone_answers {w slot : Nat} {c : PlaceCtx} {j : PlaceJob} {v : Snap}
    (hctx : d.place.ctx.find? (fun c => c.walker == w && c.slot == slot) = some c) (hjob : d.jobOf c.job = some j) (hsnap : j.snap = some v)
    (hread : d.readsRewrite j v (j.vecs.getD c.query []) = false) :
    placeDone w slot d =
      let a := (d.ix j.index).answer j v (j.vecs.getD c.query [])
      let j' := { j with done := j.done ++ [(c.query, a.flags, a.bytes j v c.query)] }
      let e := d.setPlace fun p => { p with
        ctx := p.ctx.filter (fun y => y != c), jobs := p.jobs.map (fun y => if y.id = j.id then j' else y), queries := p.queries + 1
        exhaustive := if j.exhaustive then p.exhaustive + 1 else p.exhaustive
        expansions := p.expansions + BitVec.ofNat 64 a.expansions, dangling := satAdd p.dangling a.dangling }
      let e := e.setWk w fun k => { k with queries := k.queries + 1 }
      if j.done.length + 1 = j.vecs.length then endJob j' none e else e := by
  unfold placeDone
  simp only [hctx, hjob, hsnap, hread, Bool.false_eq_true, if_false, List.length_append, List.length_singleton]

theorem mergeCommit_done {i : Nat} {m : MergeRun} (hst : (d.ix i).st = .merging) (hmerge : (d.ix i).merge = some m) (htok : m.tok = none) :
    mergeCommit i d =
      let g := mergeGraph (d.ix i) m
      let e := storeIndex i [4] ((beforeCommit i d).setIx i fun x => { x with cur := g.1, old := x.cur :: x.old, merge := none })
      let e := dropVersions i (ixState i .ready 0 (e.setAlloc (0x3000 + i) 0))
      let e := sideHigh i (e.setPlace fun p => { p with merges := p.merges + 1 })
      evFrom 10 0 0x0A03 0 (det [(16, [BitVec.ofNat 8 i]), (20, leBytes 4 g.2.1), (24, leBytes 4 g.2.2)]) e := by
  unfold mergeCommit
  simp only [hst, hmerge, htok]

theorem walkerFault_fences {w : Nat} (hw : w < 8) (hassay : d.assayOf 1 w = none) (hgated : (d.wk w).st ≠ .gated) (hfenced : (d.wk w).st ≠ .fenced) :
    walkerFault w d = walkerFence w (unitFenced 1 w 8 (logFault 3 1 w 8 2 0 d)) := by
  unfold walkerFault
  rw [if_neg (by simp [hassay]), if_neg (by simp [hgated, hfenced, Nat.not_le.2 hw])]

/-- Settles O22: the walkers, the answers and the merges. -/
theorem placeCommandsComplete : Obligations.PlaceCommandsComplete :=
  fun _ _ _ hd hfull => ⟨fun _ _ _ hst hwait hfits => onIf_after hd hfull (placeAdmit_takes hst hwait hfits),
    fun _ _ _ _ _ hctx hjob hsnap hread => onIf_after hd hfull (placeDone_answers hctx hjob hsnap hread),
    fun _ _ hst hmerge htok => onIf_after hd hfull (mergeCommit_done hst hmerge htok),
    fun _ hw hup hassay hgated hfenced => onIf_after hd hup (walkerFault_fences hw hassay hgated hfenced)⟩

end

end Sys2Proof.Machine
end

section
/-! PROOF. Fleet sessions: handshakes, frames and their ends: what the function of each command gives in each of its cases. -/

namespace Sys2Proof.Machine

section
variable {d : Dev}

/-! ### Handshakes (R431-R434) -/

/-- The part once it has answered a set-up message that passed its checks. -/
def helloAnswered (h : SxpHello) (d : Dev) : Dev :=
  let e := sessionRoom d
  let admin := h.udp == 47810
  let peer := if admin then 0xFFFF else h.srcDev
  let id := e.fleet.nextSession
  let kem := Config.kemEncaps h.kem e.coins
  let r := e.hello h.udp h.session id kem.2
  let r := { r with sig := padTo 4627 (Config.identitySign e.serial.toNat (Config.sha3 (setupBytes h) ++ setupFields r)) }
  let made : Session := { id := id, peerId := h.session, peer := peer, admin := admin, st := .replied, madeAt := e.now
                          usedAt := e.now, keys := sessionKeys kem.1 h r }
  let f : Dev := { e with free := e.free + 96 }
  let f := f.setFleet fun f => { f with
    nextSession := id + 1, rx := f.rx + 1, sessions := f.sessions.filter (fun x => !(x.peer == peer && x.st == .replied)) ++ [made] }
  txMsg peer { kind := 2, src := f.devId, dst := peer, msgId := 0, time := r.time, body := .setup r } f

/-- The part once a reply that passed its checks has opened its session. -/
def replyTaken (x : Session) (h : SxpHello) (d : Dev) : Dev :=
  let init := x.init.getD {}
  let keys := sessionKeys (Config.kemDecaps x.eph h.kem) init h
  let keyed (y : Session) : Session := if y.id = x.id then { y with peerId := h.session, keys := keys, init := none, eph := [] } else y
  let e := sessionLive x (d.setFleet fun f => { f with rx := f.rx + 1, sessions := f.sessions.map keyed })
  sessionReqs x.peer (txMsg x.peer { kind := 3, src := e.devId, dst := x.peer, msgId := 0, time := e.tb64 } e)

section
variable {h : SxpHello} (hans : d.answers h.udp = true)
include hans

theorem sxpInit_answered (h' : d.helloFault h (setupFields h) = none) : sxpInit h d = helloAnswered h d := by
  unfold sxpInit
  rw [if_neg (by simp [hans])]
  simp only [h']
  rfl

theorem sxpInit_faulty {r : Nat} (h' : d.helloFault h (setupFields h) = some r) : sxpInit h d = helloRefused h r d := by
  unfold sxpInit
  rw [if_neg (by simp [hans])]
  simp only [h']

theorem sxpInit_refused {r : Nat} (h' : d.helloFault h (setupFields h) = some r) (hnone : d.fleet.refusedAt = none) :
    sxpInit h d = evFrom 16 0 0x1002 0
      (det [(16, [BitVec.ofNat 8 r]), (20, leBytes 2 (if h.cred = 0 ∧ h.credential.length = 7283 then fld h.credential 6 2 else 0xFFFF))])
      (d.setFleet fun f => { f with hsFail := satInc f.hsFail, refusedAt := some d.now }) := by
  rw [sxpInit_faulty hans h']
  have hnone' (f : Fleet → Fleet) (hf : (f d.fleet).refusedAt = d.fleet.refusedAt) : (d.setFleet f).fleet.refusedAt = none := hf.trans hnone
  unfold helloRefused
  simp only [hnone' (fun f => { f with hsFail := satInc f.hsFail }) rfl, Bool.and_eq_true, decide_eq_true_eq]
  rfl

end

section
variable {h : SxpHello} {x : Session} (hon : d.fleetOn = true) (hudp : h.udp = 47811)
  (hfind : d.fleet.sessions.find? (fun s => s.id == h.sid && s.st == .inited && s.peer == h.srcDev) = some x)
include hon hudp hfind

/-- What a reply signs: the hash of the set-up message it answers, and its own fields. -/
def repliesTo (x : Session) (h : SxpHello) : Bytes := Config.sha3 (setupBytes (x.init.getD {})) ++ setupFields h

theorem sxpReply_faulty {r : Nat} (h' : d.helloFault h (repliesTo x h) = some r) : sxpReply h d = helloRefused h r d := by
  have h'' : d.helloFault h (replySigned (x.init.getD {}) h) = some r := h'
  unfold sxpReply
  rw [if_neg (by simp [hon, hudp])]
  simp only [hfind, h'']

theorem sxpReply_opens (h' : d.helloFault h (repliesTo x h) = none) : sxpReply h d = replyTaken x h d := by
  have h'' : d.helloFault h (replySigned (x.init.getD {}) h) = none := h'
  unfold sxpReply
  rw [if_neg (by simp [hon, hudp])]
  simp only [hfind, h'']
  rfl

end

theorem sxpConfirm_replied {id : Nat} {x : Session} {b : Bytes} (hfind : d.fleet.sessions.find? (fun s => s.id == id && s.st == .replied) = some x)
    (hon : x.admin = true ∨ d.fleetOn = true) :
    sxpConfirm id b d =
      if x.opens 0 64 b then
        sessionReqs x.peer (sessionLive x (d.setFleet fun f => { f with
          rx := f.rx + 1, sessions := f.sessions.map fun x => if x.id = id then { x with rx := x.rx + 1, high := some 0, seen := [0] } else x }))
      else d.setFleet fun f => { f with authFail := satInc f.authFail } := by
  unfold sxpConfirm
  simp only [hfind]
  rw [if_neg (by obtain h | h := hon <;> simp [h])]
  by_cases hopens : x.opens 0 64 b = true
  · rw [if_neg (by simp [hopens]), if_pos hopens]
  · rw [if_pos (by simpa using hopens), if_neg hopens]

/-! ### Datagrams (R435, R436) -/

/-- A sequence number that the session has seen, or that lies below its window. -/
def staleSeq (x : Session) (seq : Nat) : Bool := x.seen.contains seq || x.high.any fun h => decide (seq + 1024 ≤ h)

theorem sessionRx_eq (x : Session) (seq : Nat) (ok : Bool) :
    sessionRx x seq ok d =
      if !ok || staleSeq x seq then (d.setFleet fun f => { f with authFail := satInc f.authFail }, false)
      else (d.setFleet fun f => { f with rx := f.rx + 1, sessions := f.sessions.map fun y =>
        if y.id = x.id then { y with
          rx := y.rx + 1, high := some (max seq (x.high.getD 0)), usedAt := d.now
          seen := (seq :: y.seen).filter fun q => decide (max seq (x.high.getD 0) < q + 1024) } else y }, true) := by
  unfold sessionRx staleSeq
  cases x.high with
  | none => rfl
  | some h => rfl

theorem sessionRx_reasm (x : Session) (seq : Nat) (ok : Bool) : (sessionRx x seq ok d).1.fleet.reasm = d.fleet.reasm := by
  rw [sessionRx_eq]
  split
  · rfl
  · rfl

section
variable {g : SxpDgram} {x : Session} (hfind : d.fleet.sessions.find? (fun s => s.id == g.session && s.st == .opened) = some x)
  (hon : x.admin = true ∨ d.fleetOn = true) (hlen : g.len ≤ 8952)
include hfind hon hlen

/-- A datagram of an open session that is not too long: taken where it opens under the session's keys and was not seen before. -/
theorem sxpDatagram_session :
    sxpDatagram g d =
      match sessionRx x g.seq (x.opens g.seq (g.len - 16) g.sealedBytes) d with
      | (d, false) => d
      | (d, true) =>
        if g.count = 0 || 4096 < g.count || g.count ≤ g.frag then d else
        let m := { g.msg with src := if x.admin then 0xFFFF else g.msg.src }
        let r : Reasm := (d.fleet.reasm.find? fun r => r.session == x.id && r.msgId == m.msgId && r.count == g.count).getD
          { session := x.id, msgId := m.msgId, count := g.count, firstAt := d.now, msg := m }
        let r : Reasm := if r.got.contains g.frag then r else { r with got := g.frag :: r.got, bytes := r.bytes + (g.len - 40) }
        let rest := d.fleet.reasm.filter fun y => !(y.session == x.id && y.msgId == m.msgId)
        if 4194304 < r.bytes then d.setFleet fun f => { f with reasm := rest }
        else if r.got.length < r.count then d.setFleet fun f => { f with reasm := rest ++ [r] }
        else deliver r.msg (sxpTap r.msg (d.setFleet fun f => { f with reasm := rest })) := by
  unfold sxpDatagram
  simp only [hfind]
  exact if_neg (by obtain h | h := hon <;> simp [h, hlen])

theorem sxpDatagram_stale (hstale : x.seen.contains g.seq = true ∨ x.high.any (fun h => decide (g.seq + 1024 ≤ h)) = true) :
    sxpDatagram g d = d.setFleet fun f => { f with authFail := satInc f.authFail } := by
  have hseq : staleSeq x g.seq = true := by
    obtain h | h := hstale
    · simp only [staleSeq, h, Bool.true_or]
    · simp only [staleSeq, h, Bool.or_true]
  have hrx (ok : Bool) : sessionRx x g.seq ok d = (d.setFleet fun f => { f with authFail := satInc f.authFail }, false) := by
    rw [sessionRx_eq, hseq, Bool.or_true, if_pos rfl]
  rw [sxpDatagram_session hfind hon hlen, hrx]

section
variable (hfrag : g.frag = 0) (hreasm : d.fleet.reasm = [])
include hfrag hreasm

/-- The message of a datagram, as the session's kind of peer sent it. -/
def msgOf (x : Session) (g : SxpDgram) : SxpMsg := { g.msg with src := if x.admin then 0xFFFF else g.msg.src }

theorem sxpDatagram_whole (hcount : g.count = 1) :
    sxpDatagram g d =
      let r := sessionRx x g.seq (x.opens g.seq (g.len - 16) g.sealedBytes) d
      if r.2 then deliver (msgOf x g) (sxpTap (msgOf x g) r.1) else r.1 := by
  have hnone := (sessionRx_reasm x g.seq (x.opens g.seq (g.len - 16) g.sealedBytes)).trans hreasm
  rw [sxpDatagram_session hfind hon hlen]
  revert hnone
  generalize sessionRx x g.seq (x.opens g.seq (g.len - 16) g.sealedBytes) d = r
  obtain ⟨e, ok⟩ := r
  intro (hnone : e.fleet.reasm = [])
  cases ok with
  | false => rfl
  | true =>
    have hself : (e.setFleet fun f => { f with reasm := [] }) = e := by rw [← hnone]; rfl
    simp only [hcount, hfrag, hnone, List.find?_nil, Option.getD_none, List.filter_nil, List.contains_nil]
    rw [if_neg (by decide), if_neg (by simp; omega)]
    simp only [Bool.false_eq_true, if_false]
    rw [if_neg (by simp), hself, if_pos trivial, msgOf]

theorem sxpDatagram_part (hcount : 2 ≤ g.count) (hcount' : g.count ≤ 4096) :
    sxpDatagram g d =
      let r := sessionRx x g.seq (x.opens g.seq (g.len - 16) g.sealedBytes) d
      if r.2 then r.1.setFleet fun f => { f with
        reasm := [{ session := x.id, msgId := (msgOf x g).msgId, count := g.count, firstAt := r.1.now, msg := msgOf x g, got := [0]
                    bytes := g.len - 40 }] }
      else r.1 := by
  have hnone := (sessionRx_reasm x g.seq (x.opens g.seq (g.len - 16) g.sealedBytes)).trans hreasm
  rw [sxpDatagram_session hfind hon hlen]
  revert hnone
  generalize sessionRx x g.seq (x.opens g.seq (g.len - 16) g.sealedBytes) d = r
  obtain ⟨e, ok⟩ := r
  intro (hnone : e.fleet.reasm = [])
  cases ok with
  | false => rfl
  | true =>
    simp only [hfrag, hnone, List.find?_nil, Option.getD_none, List.filter_nil, List.contains_nil]
    rw [if_neg (by simp; omega), if_neg (by simp; omega)]
    refine (if_pos (by simpa using Nat.lt_of_succ_le hcount)).trans ?_
    simp only [Bool.false_eq_true, if_false, Nat.zero_add]
    rfl

end

end

/-! ### Keys, idle sessions and the port (R424, R427, R428, R436) -/

theorem sessionRekey_due {id : Nat} {x : Session} (hon : d.fleetOn = true)
    (hfind : d.fleet.sessions.find? (fun s => s.id == id && s.st == .opened && s.expire.isNone && !s.admin) = some x)
    (hdue : 2 ^ 32 ≤ x.tx ∨ 2 ^ 32 ≤ x.rx ∨ x.madeAt + 86400 * sNs ≤ d.now) : sessionRekey id d = pushInit x.peer d := by
  unfold sessionRekey
  simp only [hfind]
  exact if_pos (by simp only [hon, Session.due, Bool.true_and, Bool.or_eq_true, decide_eq_true_eq, or_assoc]; exact hdue)

section
variable {id : Nat} {x : Session} (hfind : d.fleet.sessions.find? (fun s => s.id == id) = some x)
include hfind

theorem oldKeyExpire_due {e : Nat} (hexpire : x.expire = some e) (hdue : e ≤ d.now) : oldKeyExpire id d = sessionClose id d := by
  unfold oldKeyExpire
  simp only [hfind, hexpire, if_pos hdue]

theorem sessionIdle_due (hdue : x.usedAt + 120 * sNs ≤ d.now) : sessionIdle id d = sessionClose id d := by
  unfold sessionIdle
  simp only [hfind, if_pos hdue]

end

theorem portFailover_moves (hst : d.fleet.st ≠ .off) (halt : d.fleet.alt = false) (hbit : (d.fcf 27 1).testBit 4 = true)
    (hdown : d.portUp (bitsOf 1 0 (d.fcf 27 1)) = false) :
    portFailover d = evFrom 16 0 0x1005 1 (det [(16, [BitVec.ofNat 8 (d.setFleet fun f => { f with alt := true }).sxpPort])])
      (announce (d.setFleet fun f => { f with alt := true })) :=
  if_neg (by simp [hst, halt, hbit, hdown])

theorem portReturn_moves (halt : d.fleet.alt = true) (hup : d.portUp (bitsOf 1 0 (d.fcf 27 1)) = true)
    (hdue : (d.eth.getD (bitsOf 1 0 (d.fcf 27 1)) {}).linkAt + 10 * sNs ≤ d.now) :
    portReturn d = evFrom 16 0 0x1005 0 (det [(16, [BitVec.ofNat 8 (d.setFleet fun f => { f with alt := false }).sxpPort])])
      (announce (d.setFleet fun f => { f with alt := false })) :=
  if_neg (by rw [halt, hup, decide_eq_false (Nat.not_lt.2 hdue)]; decide)

theorem ipControl_answers {port kind : Nat} (body : Bytes) (hst : d.fleet.st ≠ .off)
    (hkind : (d.fcf 26 1 = 6 ∧ (kind = 1 ∨ kind = 3)) ∨ (d.fcf 26 1 ≠ 6 ∧ (kind = 0 ∨ kind = 2))) :
    ipControl port kind (d.address d.devId) body d = emit (.ipReply port kind d.sxpTag body) d := by
  unfold ipControl
  refine if_neg ?_
  obtain ⟨hip, hkind⟩ | ⟨hip, hkind⟩ := hkind
  · obtain rfl | rfl := hkind
    · simp [hst, hip]
    · simp [hst, hip]
  · obtain rfl | rfl := hkind
    · simp [hst, hip]
    · simp [hst, hip]

/-! ### The set-up commands, whether or not the message passes its checks -/

section
variable {s : State} {t : Nat} {h : SxpHello} (hd : s.devAt t = d) (hup : d.controlUp = true)
include hd hup

theorem sxpInit_after (hans : d.answers h.udp = true) :
    execSxpInit t h s = match d.helloFault h (setupFields h) with
      | some r => s.after s.iface (helloRefused h r d)
      | none => s.after s.iface (helloAnswered h d) := by
  cases hfault : d.helloFault h (setupFields h) with
  | some r => exact onIf_after hd hup (sxpInit_faulty hans hfault)
  | none => exact onIf_after hd hup (sxpInit_answered hans hfault)

theorem sxpReply_after {x : Session} (hon : d.fleetOn = true) (hudp : h.udp = 47811)
    (hfind : d.fleet.sessions.find? (fun s => s.id == h.sid && s.st == .inited && s.peer == h.srcDev) = some x) :
    execSxpReply t h s = match d.helloFault h (repliesTo x h) with
      | some r => s.after s.iface (helloRefused h r d)
      | none => s.after s.iface (replyTaken x h d) := by
  cases hfault : d.helloFault h (repliesTo x h) with
  | some r => exact onIf_after hd hup (sxpReply_faulty hon hudp hfind hfault)
  | none => exact onIf_after hd hup (sxpReply_opens hon hudp hfind hfault)

end

/-- Settles O23: the handshakes, the datagrams, and the sessions and the port in time. -/
theorem sessionCommandsComplete : Obligations.SessionCommandsComplete :=
  fun _ _ _ hd hup => ⟨fun _ hans => sxpInit_after hd hup hans,
    fun _ _ hans hfault hnone => onIf_after hd hup (sxpInit_refused hans hfault hnone),
    fun _ _ hon hudp hfind => sxpReply_after hd hup hon hudp hfind,
    fun _ _ _ hfind hon => onIf_after hd hup (sxpConfirm_replied hfind hon),
    fun _ _ hfind hon hlen hfrag hreasm => ⟨fun hcount => onIf_after hd hup (sxpDatagram_whole hfind hon hlen hfrag hreasm hcount),
      fun hcount hcount' => onIf_after hd hup (sxpDatagram_part hfind hon hlen hfrag hreasm hcount hcount')⟩,
    fun _ _ hfind hon hlen hstale => onIf_after hd hup (sxpDatagram_stale hfind hon hlen hstale),
    fun _ _ _ hon hfind hdue => onIf_after hd hup (sessionRekey_due hon hfind hdue),
    fun _ _ _ hfind hexpire hdue => onDev_after hd (oldKeyExpire_due hfind hexpire hdue),
    fun _ _ hfind hdue => onDev_after hd (sessionIdle_due hfind hdue),
    fun _ _ => onDev_after hd rfl,
    fun _ _ => onDev_after hd rfl,
    fun hst halt hbit hdown => onIf_after hd hup (portFailover_moves hst halt hbit hdown),
    fun halt hport hdue => onIf_after hd hup (portReturn_moves halt hport hdue),
    fun _ _ body hst hkind => onIf_after hd hup (ipControl_answers body hst hkind)⟩

end

end Sys2Proof.Machine
end

section
/-! PROOF. Messages of the fleet and its timers: what the function of each command gives in each of its cases. -/

namespace Sys2Proof.Machine

section
variable {d e : Dev} {m : SxpMsg}

/-! ### Publications and revisions (R439, R443, R444) -/

theorem onPublish_served {me : Nat} {prev : Nat} {items : List PubItem} {h : Hosted} (htake : takeMsg 0x10 d = some (m, e))
    (hbody : m.body = .publish me prev items) (hhost : e.host m.shard = some h) (hacts : e.actsOn m = true) :
    onPublish d = pubsRun m.shard (e.setHost m.shard fun h => { h with pubs := h.pubs ++ [{
      src := m.src, mapEpoch := me, prev := prev, items := items, msgs := [m] }] }) := by
  simp only [onPublish, htake, hbody, hhost, hacts, Bool.not_true, Bool.false_eq_true, if_false]

theorem onPublishAck_last {p : PubOut} (htake : takeMsg 0x11 d = some (m, e)) (hpubs : e.fleet.pubs = [p]) (hids : p.msgIds = [m.replyTo]) :
    onPublishAck d = { e with fleet := { e.fleet with
      pubs := [{ p with out := none, msgIds := [], late := false }], reqs := e.fleet.reqs.filter fun r => r.msg.msgId != m.replyTo } } := by
  simp [onPublishAck, htake, dropReq, Dev.setFleet, hpubs, hids]

section
variable {r : Revision} {h : Hosted} (htake : takeMsg 0x12 d = some (m, e)) (hbody : m.body = .revision r) (hhost : e.host m.shard = some h)
  (hacts : e.actsOn m = true) (hfull : h.fullSync = false)
include htake hbody hhost hacts hfull

theorem onRevision_known (hnum : r.num ≤ h.rev) : onRevision d = sendReply m 0x13 0 (.revisionAck h.rev h.st.code) true e := by
  simp only [onRevision, htake, hbody, hhost, hacts, hfull, decide_eq_true hnum]
  rfl

theorem onRevision_next {f : Dev} (hnum : r.num = h.rev + 1) (happly : applyRevision m.shard r e = some f) :
    onRevision d = sendReply m 0x13 0 (.revisionAck r.num h.st.code) true f := by
  simp only [onRevision, htake, hbody, hhost, hacts, hfull]
  rw [if_neg (by decide), if_neg (by simp; omega), if_pos (by simp [hnum])]
  simp only [happly]

end

theorem onRevisionAck_replica {n : Nat} (htake : takeMsg 0x13 d = some (m, e)) (hbody : m.body = .revisionAck n 0x0903) :
    onRevisionAck d = ackCheck m.shard ((notePeer m.shard m.src 0x0903 (dropReq m.replyTo e)).setHost m.shard fun h =>
      { h with acks := h.acks.map fun a => if a.num ≤ n && !(a.got.contains m.src) then { a with got := m.src :: a.got } else a }) := by
  simp only [onRevisionAck, htake, hbody]
  rfl

/-! ### Queries (R451, R452) -/

theorem onQuery_served {k len rr : Nat} {vecs : List Bytes} {h : Hosted} (htake : takeMsg 0x20 d = some (m, e))
    (hbody : m.body = .query k len rr vecs) (hhost : e.host m.shard = some h) (hacts : e.actsOn m = true)
    (hst : (e.ix h.slot).st = .ready ∨ (e.ix h.slot).st = .merging) :
    onQuery d = addJob { id := 0, owner := .fleet e.fleet.nextServe, seq := e.hif.fetches, index := h.slot, low := true, k := k, rerank := rr
                         len := len, vecs := vecs.map (padTo (e.ix h.slot).vecBytes) }
      (e.setFleet fun f => { f with nextServe := e.fleet.nextServe + 1, serving := f.serving ++ [(e.fleet.nextServe, m)] }) := by
  simp only [onQuery, htake, hbody, hhost]
  rw [if_neg (by obtain h | h := hst <;> simp [hacts, h])]
  rfl

theorem onQueryResult_answer {l : List (Nat × List FleetEnt)} {q : FleetQ} {x : QShard} (htake : takeMsg 0x21 d = some (m, e))
    (hbody : m.body = .queryResult l) (hquery : e.fleet.queries.find? (fun q => q.shards.any fun s => s.msgIds.contains m.replyTo) = some q)
    (hshard : q.shards.find? (fun s => s.msgIds.contains m.replyTo) = some x) (hanswer : x.answer = none) (hmissing : x.missing = false) :
    onQueryResult d = queryCheck q.id ((dropAsked x e).setFleet fun f => { f with
      queries := f.queries.map fun y =>
        if y.id = q.id then { y with shards := y.shards.map fun z => if z.shard = x.shard then { z with answer := some l } else z } else y }) := by
  simp only [onQueryResult, htake, hbody, hquery, hshard, hanswer, hmissing]
  rfl

/-! ### Roles and syncs (R445, R447-R450) -/

theorem onRoleNotice_taken {b old : Bytes} (htake : takeMsg 0x30 d = some (m, e)) (hbody : m.body = .notice b)
    (hentry : e.shardEntry m.shard = some old) (hnewer : newerEntry b old = false) :
    onRoleNotice d =
      let f := takeEntry m.shard b 1 e
      sendReply m 0x31 0 (.revisionAck (((f.host m.shard).map (·.rev)).getD 0) (f.shardSt m.shard).code) true f := by
  simp only [onRoleNotice, htake, hbody, hentry, hnewer]
  rfl

theorem onNoticeAck_replica {n : Nat} {h : Hosted} (htake : takeMsg 0x31 d = some (m, e)) (hbody : m.body = .revisionAck n 0x0903)
    (hhost : (dropReq m.replyTo e).host m.shard = some h) :
    onNoticeAck d = (h.revs.reverse.filter fun r => decide (n < r.num)).foldl
      (fun d r => sendReq 0x12 m.src m.shard 0 (.revision r) d) (notePeer m.shard m.src 0x0903 (dropReq m.replyTo e)) := by
  simp only [onNoticeAck, htake, hbody, hhost]
  rfl

theorem onSyncReq_copied {h : Hosted} (htake : takeMsg 0x32 d = some (m, e)) (hbody : m.body = .syncReq 0 0x0902)
    (hhost : e.host m.shard = some h) (hacts : e.actsOn m = true) (hst : h.st = .primary) :
    onSyncReq d = sendReply m 0x33 0 (.syncData (some (e.copyOf h)) [] h.rev h.st.code) true (notePeer m.shard m.src 0x0903 e) := by
  simp only [onSyncReq, htake, hbody, hhost, hacts, hst]
  rfl

theorem onSyncData_synced {h : Hosted} (htake : takeMsg 0x33 d = some (m, e)) (hasked : e.fleet.reqs.any (fun r => r.msg.msgId == m.replyTo) = true)
    (hhost : (dropReq m.replyTo e).host m.shard = some h) (hbody : m.body = .syncData none [] h.rev 0x0904) (hst : h.st = .syncing)
    (hfull : h.fullSync = false) : onSyncData d = shardState m.shard .replica 0 (dropReq m.replyTo e) := by
  simp only [onSyncData, htake, hasked, hhost, hbody, hst]
  rw [if_neg (by decide), List.foldl_nil, if_neg (by decide)]
  simp only [hhost, hst]
  rw [if_neg (by decide), if_pos (by simp [hfull])]

/-! ### Handovers and bounces (R449, R450, R440) -/

theorem onHandoverReq_taken {latest : Nat} (htake : takeMsg 0x34 d = some (m, e)) (hbody : m.body = .handoverReq latest)
    (hst : e.shardSt m.shard = .replica) (hacts : e.actsOn m = true) :
    onHandoverReq d = handoverCheck m.shard (e.setHost m.shard fun h => { h with taking := some (m, latest) }) := by
  simp only [onHandoverReq, htake, hbody, hst, hacts]
  rfl

theorem onHandoverAck_ends {b : Bytes} {h : Hosted} {old : Bytes} {k : Tok} {succ at_ : Nat} (htake : takeMsg 0x35 d = some (m, e))
    (hbody : m.body = .handoverAck b) (hhost : (dropReq m.replyTo e).host m.shard = some h)
    (hentry : (dropReq m.replyTo e).shardEntry m.shard = some old) (hhanding : h.handing = some (k, succ, at_)) (hsucc : succ = m.src)
    (hpubs : h.pubs = []) :
    onHandoverAck d = shardState m.shard .replica 0
      ((releaseHeld m.shard (finish k (.ok (eEpoch b)) (setEntry m.shard b (dropReq m.replyTo e)))).setHost m.shard fun h =>
        { h with handing := none, peers := [] }) := by
  simp only [onHandoverAck, htake, hbody, hhost, hentry, hhanding, hpubs]
  exact if_neg (by simp [hsucc])

theorem onBounce_taken {b old : Bytes} {id : Nat} (htake : takeMsg 0x40 d = some (m, e)) (hbody : m.body = .bounce b id)
    (hentry : e.shardEntry m.shard = some old) (hnewer : newerEntry b old = false) {f : Dev}
    (hf : takeEntry m.shard b 1 (e.setFleet fun f => { f with bounceRecv := satInc f.bounceRecv }) = f)
    (hreq : f.fleet.reqs.find? (fun r => r.msg.msgId == id) = none) : onBounce d = f := by
  have hentry' : (e.setFleet fun f => { f with bounceRecv := satInc f.bounceRecv }).shardEntry m.shard = some old := hentry
  simp only [onBounce, htake, hbody, hentry', hnewer, hf, Bool.false_eq_true, if_false, hreq]

/-! ### Timers (R436, R452) -/

theorem resendTimeout_again {id : Nat} {r : OutReq} (hreq : d.fleet.reqs.find? (fun r => r.msg.msgId == id) = some r) (hon : d.fleetOn = true)
    (hsent : 0 < r.sends) (hmore : r.sends < 5) (hdue : r.nextAt ≤ d.now) (hquery : r.msg.kind ≠ 0x20)
    (hpub : r.msg.kind = 0x10 → d.publishes = true) :
    resendTimeout id d = pumpReq id (d.setFleet fun f => { f with resend := satInc f.resend }) := by
  unfold resendTimeout
  simp only [hreq]
  rw [if_neg (by simp [hon, Nat.not_lt.2 hdue, Nat.ne_of_gt hsent]; exact hpub), if_neg hquery, if_pos hmore]

section
variable {q k : Nat} {x : FleetQ} {y : QShard} (hquery : d.fleet.queries.find? (fun y => y.id == q) = some x)
  (hshard : x.shards.find? (fun s => s.shard == k) = some y) (hanswer : y.answer = none) (hmissing : y.missing = false) (hdue : y.deadline ≤ d.now)
include hquery hshard hanswer hmissing hdue

theorem queryTimeout_eq :
    queryTimeout q k d =
      if y.asked < 2 && y.asked < y.holders.length then askShard q k (dropAsked y d)
      else queryCheck q ((dropAsked y d).setFleet fun f => { f with
        shardMissing := satInc f.shardMissing
        queries := f.queries.map fun y => if y.id = q then
            { y with shards := y.shards.map fun z => if z.shard = k then { z with missing := true } else z } else y }) := by
  unfold queryTimeout
  simp only [hquery, hshard]
  exact if_neg (by simp [hanswer, hmissing, Nat.not_lt.2 hdue])

theorem queryTimeout_asks (hfew : y.asked < 2) (hmore : y.asked < y.holders.length) : queryTimeout q k d = askShard q k (dropAsked y d) := by
  rw [queryTimeout_eq hquery hshard hanswer hmissing hdue, if_pos (by simp [hfew, hmore])]

theorem queryTimeout_misses (hasked : 2 ≤ y.asked) :
    queryTimeout q k d = queryCheck q ((dropAsked y d).setFleet fun f => { f with
      shardMissing := satInc f.shardMissing
      queries := f.queries.map fun y => if y.id = q then
          { y with shards := y.shards.map fun z => if z.shard = k then { z with missing := true } else z } else y }) := by
  rw [queryTimeout_eq hquery hshard hanswer hmissing hdue, if_neg (by simp; omega)]

end

theorem publishLate_says {k ep : Nat} {p : PubOut} (hpub : d.fleet.pubs.find? (fun p => p.shard == k) = some p) (hout : p.out = some ep)
    (hlate : p.late = false) (hdue : p.firstAt + d.fleet.publishTmoS.toNat * sNs ≤ d.now) :
    publishLate k d = evFrom 16 0 0x1004 1 (det [(16, leBytes 4 k), (20, leBytes 8 ep)])
      (d.setFleet fun f => { f with pubs := f.pubs.map fun q => if q.shard = k then { q with late := true } else q }) := by
  unfold publishLate
  simp only [hpub, hout]
  exact if_neg (by rw [hlate, decide_eq_false (Nat.not_lt.2 hdue)]; decide)

theorem claimTimeout_primary {k : Nat} {h : Hosted} (hhost : d.host k = some h) (hst : h.st = .claiming) (hdue : h.claimEnd ≤ d.now) :
    claimTimeout k d = becomePrimary k 0 true [] d := by
  unfold claimTimeout
  simp only [hhost]
  exact if_pos (by simp [hst, hdue])

theorem handoverTimeout_keeps {k : Nat} {h : Hosted} {tok : Tok} {succ end_ : Nat} (hhost : d.host k = some h)
    (hhanding : h.handing = some (tok, succ, end_)) (hdue : end_ ≤ d.now) :
    handoverTimeout k d = pubsRun k (shardState k .primary 0
      (finish tok (.conflict (((h.peers.find? fun p => p.1 == succ).map (·.2)).getD 0x0901))
        ((d.setFleet fun f => { f with reqs := f.reqs.filter fun r => !(r.msg.shard == k && r.msg.kind == 0x34) }).setHost k fun h =>
          { h with handing := none }))) := by
  unfold handoverTimeout
  simp only [hhost, hhanding]
  exact if_neg (Nat.not_lt.2 hdue)

/-! ### Descriptors that another part sends (R454) -/

/-- The part once an admin descriptor's message has its place among those that wait for a completion. -/
def adminTaken (m : SxpMsg) (e : Dev) : Dev :=
  e.setFleet fun f => { f with adminMsgs := f.adminMsgs ++ [((e.chan .net).nextCount - BitVec.ofNat 32 (e.chan .net).base, m.msgId)] }

theorem adminDesc_fetched (i : Iface) {b payload : Bytes} (htake : takeMsg 0x50 d = some (m, e)) (hbody : m.body = .adminDesc b payload)
    (hfetch : e.mayFetch .net (parseDesc (padTo 64 b)).2 = true) :
    adminDesc (i, d) = fetchDesc .net (parseDesc (padTo 64 b)).1 { (parseDesc (padTo 64 b)).2 with payload := payload } (i, adminTaken m e) := by
  simp only [adminDesc, htake, hbody]
  exact if_neg (by simp [hfetch])

theorem adminDesc_after {s : State} {t : Nat} {b payload : Bytes} (hd : s.devAt t = d) (htake : takeMsg 0x50 d = some (m, e))
    (hbody : m.body = .adminDesc b payload) (hfetch : e.mayFetch .net (parseDesc (padTo 64 b)).2 = true) :
    execAdminDesc t s =
      let x := parseDesc (padTo 64 b)
      let w := fetchDesc .net x.1 { x.2 with payload := payload } (s.iface, adminTaken m e)
      s.after w.1 w.2 :=
  onWhole_after hd (adminDesc_fetched s.iface htake hbody hfetch)

/-- Settles O24: the messages and the timers of the fleet. -/
theorem fleetMessagesAndTimersComplete : Obligations.FleetMessagesAndTimersComplete :=
  ⟨fun _ _ _ hd hfull _ _ => ⟨
      fun _ _ _ _ htake hbody hhost hacts => onIf_after hd hfull (onPublish_served htake hbody hhost hacts),
      fun _ _ htake hpubs hids _ => onIf_after hd hfull (onPublishAck_last htake hpubs hids),
      fun _ _ htake hbody hhost hacts hsync => ⟨
        fun hnum => onIf_after hd hfull (onRevision_known htake hbody hhost hacts hsync hnum),
        fun _ hnum happly => onIf_after hd hfull (onRevision_next htake hbody hhost hacts hsync hnum happly)⟩,
      fun _ htake hbody => onIf_after hd hfull (onRevisionAck_replica htake hbody),
      fun _ _ _ _ _ htake hbody hhost hacts hst => onIf_after hd hfull (onQuery_served htake hbody hhost hacts hst),
      fun _ _ _ htake hbody hquery hshard hanswer hmissing =>
        onIf_after hd hfull (onQueryResult_answer htake hbody hquery hshard hanswer hmissing),
      fun _ _ htake hbody hentry hnewer => onIf_after hd hfull (onRoleNotice_taken htake hbody hentry hnewer),
      fun _ _ htake hbody hhost => onIf_after hd hfull (onNoticeAck_replica htake hbody hhost),
      fun _ htake hbody hhost hacts hst => onIf_after hd hfull (onSyncReq_copied htake hbody hhost hacts hst),
      fun _ htake hasked hhost hbody hst hsync => onIf_after hd hfull (onSyncData_synced htake hasked hhost hbody hst hsync),
      fun _ htake hbody hst hacts => onIf_after hd hfull (onHandoverReq_taken htake hbody hst hacts),
      fun _ _ _ _ _ _ htake hbody hhost hentry hhanding hsucc hpubs =>
        onIf_after hd hfull (onHandoverAck_ends htake hbody hhost hentry hhanding hsucc hpubs),
      fun _ _ _ htake hbody hentry hnewer hreq => onIf_after hd hfull (onBounce_taken htake hbody hentry hnewer rfl hreq),
      fun _ _ htake hbody hfetch => adminDesc_after hd htake hbody hfetch⟩,
    fun _ _ _ hd hfull => ⟨
      fun _ _ hreq hon hsent hmore hdue hquery hpub => onIf_after hd hfull (resendTimeout_again hreq hon hsent hmore hdue hquery hpub),
      fun _ _ _ _ hquery hshard hanswer hmissing hdue => ⟨
        fun hfew hmore => onIf_after hd hfull (queryTimeout_asks hquery hshard hanswer hmissing hdue hfew hmore),
        fun hasked => onIf_after hd hfull (queryTimeout_misses hquery hshard hanswer hmissing hdue hasked)⟩,
      fun _ _ _ hpub hout hlate hdue => onIf_after hd hfull (publishLate_says hpub hout hlate hdue),
      fun _ _ hhost hst hdue => onIf_after hd hfull (claimTimeout_primary hhost hst hdue),
      fun _ _ _ _ _ hhost hhanding hdue => onIf_after hd hfull (handoverTimeout_keeps hhost hhanding hdue)⟩⟩

end

end Sys2Proof.Machine
end

section
/-! PROOF. Faults of units and of the package, Assays, SAFE_STOP and HEARTBEAT: what the function of each command gives in each of its
cases. -/

namespace Sys2Proof.Machine

section
variable {d : Dev}

/-! ### Faults (R461, R462, R468, R475, R496) -/

theorem engineFault_idle {c e : Nat} (cls cause detail : Nat) (hst : (d.eng c e).st = .live) (hrun : (d.eng c e).running = none)
    (hleaving : (d.eng c e).leaving = none) :
    engineFault c e cls cause detail d =
      let u := engUnit c e
      let f := (unitFenced 0 u cause (logFault cls 0 u cause 2 detail d)).setEng c e fun x => { x with st := .fenced, running := none, leaving := none }
      fencedCause (mayRise c 0 (evacuate c e f)) := by
  simp only [engineFault, hst, hrun, hleaving, Option.bind_none]

theorem coreFault_fences {k : Nat} (cause : Nat) (hk : k < 4) (hassay : d.assayOf 3 k = none) (hcore : d.flt.core.getD k 0 = 0) :
    coreFault k cause d = fencedCause (coreGone k 1 true (unitFenced 3 k cause (logFault 3 3 k cause 2 0 d))) := by
  unfold coreFault
  rw [if_neg (by simp [hassay]), if_neg (by rw [hcore]; simp [Nat.not_le.2 hk])]

theorem logFault_times (cls kind unit cause action detail : Nat) (d : Dev) :
    (logFault cls kind unit cause action detail d).now = d.now ∧ (logFault cls kind unit cause action detail d).tb64 = d.tb64 := by
  rw [logFault_only]
  exact ⟨rfl, rfl⟩

theorem fatalFault_owes {code : Nat} (hfatal : d.flt.fatal = none) (hlo : 3 ≤ code) (hhi : code ≤ 6) :
    fatalFault code d =
      let e := logFault 6 0xFF 0 (if code = 3 then 13 else if code = 4 then 12 else if code = 5 then 14 else 15) 4 0 d
      { e with flt := { e.flt with fatal := some (code, d.now + 100 * msNs), fatalEv := some (code, d.tb64) } } := by
  unfold fatalFault
  rw [if_neg (by simp [hfatal]; omega)]
  simp only [logFault_times]

/-! ### Assays (R463-R465) -/

section
variable {u : Nat} {tok : Tok} {at_ : Nat} (hassay : d.assayOf 0 u = some { kind := 0, unit := u, why := .unitReturn tok, startAt := at_ })
include hassay

theorem assayEnd_returns :
    assayEnd 0 u 0 d = finish tok .ok (unitReturned 0 u 0 (fencedClear
      ((assayResult { kind := 0, unit := u, why := .unitReturn tok, startAt := at_ } 0 d).setEng (u / 256) (u % 256) fun x =>
        { x with st := if x.st = .assay then .live else x.st }))) := by
  have hback : (fun x : Engine => { x with st := if x.st = .assay then EngSt.live else x.st })
      = fun x => { x with st := if x.st == EngSt.assay then EngSt.live else x.st } := by
    funext x
    simp only [beq_iff_eq]
  unfold assayEnd
  simp only [hassay]
  rw [hback]
  rfl

theorem assayEnd_keeps {code : Nat} (hlo : 1 ≤ code) :
    assayEnd 0 u code d = finish tok { (Cpl.of stDataError) with result0 := BitVec.ofNat 64 code }
      ((assayResult { kind := 0, unit := u, why := .unitReturn tok, startAt := at_ } code d).setEng (u / 256) (u % 256) fun x =>
        { x with st := .fenced }) := by
  have hcode : code ≠ 0 := by omega
  unfold assayEnd
  simp only [hassay, if_neg hcode]
  rfl

end

theorem assayRotation_takes {n : Nat} (hfull : d.full = true) (hs : 0 < d.flt.rotateS.toNat)
    (hdue : d.flt.rotateAt + d.flt.rotateS.toNat * sNs ≤ d.now) (hone : (d.flt.assays.any fun a => a.why == .rotation) = false)
    (hleaving : ((List.range 6).any fun c => (d.clus c).eng.any fun x => x.leaving == some (none, true)) = false)
    (hfind : ((List.range 144).map fun i => (d.flt.rotateNext + i) % 144).find? (fun n =>
      (d.clus (n / 24)).on && (d.eng (n / 24) (n % 24)).st == .live) = some n)
    (hkept : d.flt.minLive.toNat < d.keptEngines) (hover : d.overCeiling (n / 24) 0 (d.keptIn (n / 24) - 1) = false)
    (hstays : (d.eng (n / 24) (n % 24)).leaving = none) :
    assayRotation d = ({ d with flt := { d.flt with rotateAt := d.now, rotateNext := (n + 1) % 144 } } : Dev).setEng (n / 24) (n % 24) fun x =>
      { x with leaving := some (none, true) } := by
  unfold assayRotation
  simp only
  rw [if_neg (by simp [Nat.ne_of_gt hs, Nat.not_lt.2 hdue])]
  refine (if_neg ?_).trans ?_
  · change ¬ (!d.full || (d.flt.assays.any fun a => a.why == .rotation)
      || ((List.range 6).any fun c => (d.clus c).eng.any fun x => x.leaving == some (none, true))) = true
    rw [hfull, hone, hleaving]
    decide
  · split
    · next hnone => exact absurd (hnone.symm.trans hfind) (by simp)
    · next n' hsome =>
      obtain rfl : n' = n := by simpa using hsome.symm.trans hfind
      refine (if_neg ?_).trans rfl
      change ¬ (decide (d.keptEngines - 1 < d.flt.minLive.toNat) || d.overCeiling (n' / 24) 0 (d.keptIn (n' / 24) - 1)
        || (d.eng (n' / 24) (n' % 24)).leaving.isSome) = true
      rw [hover, hstays, decide_eq_false (by omega)]
      decide

/-! ### Touchstone streams, pins, the card and violations (R471, R483, R484, R488) -/

section
variable {n : Nat} {u : TsUnit} (hu : d.ts[n]? = some u) (hst : u.st = .running)
include hu hst

theorem tsEndUnit_running :
    tsEndUnit n d =
      let e := { d with ts := upd d.ts n fun u => { u with
        result := BitVec.ofNat 64 u.value, st := if u.matched then .matched else .mismatched, mismatch := u.mismatch || !u.matched } }
      if u.matched then e else
      ev 0x0E05 1 (det [(16, [BitVec.ofNat 8 n]), (17, [BitVec.ofNat 8 u.tap.toNat]), (20, leBytes 8 u.value)])
        { e with flt := { e.flt with tsMismatch := satInc e.flt.tsMismatch } } := by
  unfold tsEndUnit
  simp only [getD_of_getElem? {} hu]
  exact if_neg (by simp [hst])

theorem tsEndUnit_matched (h : u.matched = true) :
    tsEndUnit n d = { d with ts := upd d.ts n fun u => { u with
      result := BitVec.ofNat 64 u.value, st := if u.matched then .matched else .mismatched, mismatch := u.mismatch || !u.matched } } :=
  (tsEndUnit_running hu hst).trans (if_pos h)

theorem tsEndUnit_mismatched (h : u.matched = false) :
    tsEndUnit n d = ev 0x0E05 1 (det [(16, [BitVec.ofNat 8 n]), (17, [BitVec.ofNat 8 u.tap.toNat]), (20, leBytes 8 u.value)])
      { d with ts := upd d.ts n fun u => { u with
                 result := BitVec.ofNat 64 u.value, st := if u.matched then .matched else .mismatched, mismatch := u.mismatch || !u.matched }
               flt := { d.flt with tsMismatch := satInc d.flt.tsMismatch } } :=
  (tsEndUnit_running hu hst).trans (if_neg (by simp [h]))

end

theorem safeStopCheck_driven (hdriven : d.driven 17 = true) :
    safeStopCheck d = if d.flt.stop = d.stopLevel then d else
      let e := emit (.safeStop d.stopLevel) d
      { e with flt := { e.flt with stop := d.stopLevel } } := by
  unfold safeStopCheck
  by_cases h : d.flt.stop = d.stopLevel
  · simp only [h, if_true]
    rw [if_neg (by simp), ← h]
  · simp only [if_neg h]
    rw [if_pos (by simp [h, hdriven])]

theorem heartbeatToggle_beats (hup : d.islandUp = true) (hdue : d.flt.beatAt + d.beatNs ≤ d.now) (hfatal : d.flt.fatal = none)
    (hdriven : d.driven 18 = true) :
    heartbeatToggle true d = emit (.heartbeat (!d.flt.beat))
      { d with flt := { d.flt with beatAt := d.now, selfFail := false, beat := !d.flt.beat } } := by
  have hrank : ¬ d.start.rank < 5 := by simpa [Dev.islandUp] using hup
  unfold heartbeatToggle
  rw [if_neg (by simp [hrank, Nat.not_lt.2 hdue])]
  refine (if_neg (by simp [hfatal])).trans ?_
  exact if_pos hdriven

/-- Settles O25: the faults, the Assays, the streams and the pins. -/
theorem faultCommandsComplete : Obligations.FaultCommandsComplete :=
  fun _ _ _ hd hup => ⟨fun _ _ cls cause detail hst hrun hleaving => onIf_after hd hup (engineFault_idle cls cause detail hst hrun hleaving),
    fun _ cause hk hassay hcore => onIf_after hd hup (coreFault_fences cause hk hassay hcore),
    fun _ => onIf_after hd hup rfl,
    fun _ hfatal hlo hhi => onIf_after hd hup (fatalFault_owes hfatal hlo hhi),
    fun _ _ _ hassay => ⟨onIf_after hd hup (assayEnd_returns hassay), fun _ hlo _ => onIf_after hd hup (assayEnd_keeps hassay hlo)⟩,
    fun _ hfull hs hdue hone hleaving hfind hkept hover hstays =>
      onIf_after hd hfull (assayRotation_takes hfull hs hdue hone hleaving hfind hkept hover hstays),
    fun _ _ hu hst => ⟨fun h => onIf_after hd hup (tsEndUnit_matched hu hst h), fun h => onIf_after hd hup (tsEndUnit_mismatched hu hst h)⟩,
    fun hdriven => onIf_after hd hup (safeStopCheck_driven hdriven),
    fun hdue hfatal hdriven => onIf_after hd hup (heartbeatToggle_beats hup hdue hfatal hdriven),
    fun _ _ _ => onIf_after hd hup rfl,
    fun _ _ => onDev_after hd rfl,
    fun _ _ => onDev_after hd rfl⟩

end

end Sys2Proof.Machine
end

section
/-! PROOF. Field update: staging, unstaging, activation, trial and fallback: what the function of each command gives in each of its cases. -/

namespace Sys2Proof.Machine

section
variable {d : Dev}

/-! ### Staging (R497, R499) -/

section
variable {tok : Tok} {p : Bytes} {ok : Bool} (hstaging : d.trust.staging = some (tok, p, 0))
include hstaging

theorem stagingDone_refused {code : Nat} {st : Byte} (hfault : d.stageFault ok p = some (code, st)) :
    stagingDone ok d = stageEnds 5 (finish tok { (Cpl.of st) with result1 := BitVec.ofNat 32 code } d) := by
  simp only [stagingDone, hstaging, hfault]

theorem stagingDone_checked (hfault : d.stageFault ok p = none) :
    stagingDone ok d = { d with trust := { d.trust with
      staging := some (tok, p, if d.trust.fromRecovery then 2 else 1), retainedValid := d.trust.retainedValid && d.trust.fromRecovery } } := by
  simp only [stagingDone, hstaging, hfault]
  rfl

end

theorem stagingDone_kept {tok : Tok} {p : Bytes} (hstaging : d.trust.staging = some (tok, p, 1)) :
    stagingDone true d = { d with trust := { d.trust with staging := some (tok, p, 2), retained := d.trust.active, retainedValid := true } } := by
  simp only [stagingDone, hstaging]
  rfl

theorem stagingDone_staged {tok : Tok} {p : Bytes} (hstaging : d.trust.staging = some (tok, p, 2)) :
    stagingDone true d = finish tok (.ok (pkgVersion p))
      (ev 0x0F01 0 (det [(16, [BitVec.ofNat 8 (UpdSt.staged.code % 256), 0]), (20, leBytes 8 d.runVersion)])
        { d with trust := { d.trust with staging := none, active := p, st := .staged } }) := by
  simp only [stagingDone, hstaging]
  rfl

theorem unstagingDone_idle (hst : d.trust.st = .unstaging) (hrec : d.trust.fromRecovery = false) (hcancels : d.trust.cancels = []) :
    unstagingDone d = ev 0x0F01 0 (det [(16, [BitVec.ofNat 8 (UpdSt.idle.code % 256), 0]), (20, leBytes 8 d.runVersion)])
      { d with trust := { d.trust with active := d.trust.retained, cancels := [], st := .idle } } := by
  unfold unstagingDone
  rw [if_neg (by simp [hst])]
  simp only [hrec, hcancels, Dev.setTrust, List.foldl_nil]
  rfl

/-! ### Activation and trial (R501-R503, R506, R507) -/

section
variable (hst : d.trust.st = .activating)
include hst

theorem activationEnds_failed : activationEnds false d = dropActivation (beginFallback 3 d) := by
  unfold activationEnds activationDone
  rw [if_neg (by simp [hst])]
  rfl

/-- The activation of the package that runs already, whose profiles this bank's format fits. -/
theorem activationEnds_trial (hreads : pkgReads d.trust.active ≤ d.trust.bankFmt) (hfmt : d.trust.bankFmt ≤ pkgFmt d.trust.active)
    (hsame : d.trust.active = d.trust.running) :
    activationEnds true d =
      let e := updState .trial 0 { d with trust := { d.trust with
        running := d.trust.active, activations := d.trust.activations + 1, ownerPending := d.trust.ownerNeeded } }
      let e := swapBanks (pkgFmt d.trust.active) e.prof.stored e.est.saved e.fleet e
      dropActivation { e with prof := { e.prof with st := .applying, applying := some (e.prof.activeId, .activation), applyEnd := e.now } } := by
  have hbank (e : Dev) : (updState .trial 0 e).trust.bankFmt = e.trust.bankFmt := by simp [updState, Dev.setTrust]
  unfold activationEnds activationDone
  rw [if_neg (by simp [hst]), if_neg (by decide)]
  simp only [hsame, beq_self_eq_true, if_true, hbank, Dev.setTrust]
  rw [if_pos (by simpa [← hsame] using ⟨hreads, hfmt⟩)]

end

theorem healthConfirm_idle (hst : d.trust.st = .trial) (hread : d.trust.unreadable = false) (howner : d.trust.ownerPending = false)
    (hfull : d.full = true) (hrec : d.trust.fromRecovery = false) :
    healthConfirm true d = updState .idle 1 { d with
      prof := { d.prof with previous := none }
      est := { d.est with savedOld := [] }
      trust := { d.trust with
        otherFmt := none, oldFleet := none, timerEnd := none, fromRecovery := false
        floor := if (fld d.trust.running 25 1 % 2 == 1 && decide (d.trust.floor.toNat < d.runSvn)) = true then BitVec.ofNat 8 d.runSvn
          else d.trust.floor } } := by
  have hpart : (d.part == .ready || d.part == .running) = true := hfull
  unfold healthConfirm
  rw [if_neg (by rw [hst, hread, howner, hpart]; decide)]
  simp only [hrec]
  rfl

theorem confirmExpire_fallsBack {e : Nat} (hst : d.trust.st = .trial) (htimer : d.trust.timerEnd = some e) (hdue : e ≤ d.now) :
    confirmExpire d = beginFallback 2 d := by
  simp only [confirmExpire, hst, htimer, if_pos hdue]

/-! ### The end of a fallback (R508-R510) -/

theorem restoreBank_start (d : Dev) : (restoreBank d).start = d.start := by
  unfold restoreBank
  split
  · rfl
  · rfl

section
variable (hst : d.trust.st = .fallingBack) (hpart : d.part = .baseMetal) (hstart : d.start = .done) (hreverts : d.trust.reverts = [])
include hst hpart hstart hreverts

theorem fallbackDone_recovery :
    fallbackDone false d =
      let e := raiseCause 5 (updState .recovery 5 { d with trust := { d.trust with running := [], fromRecovery := true } })
      { e with trust := { e.trust with reverts := [] } } := by
  unfold fallbackDone
  rw [if_neg (by rw [hst, hpart, hstart]; decide)]
  simp only [hreverts, List.foldl_nil, Dev.setTrust]
  exact if_pos rfl

theorem fallbackDone_retained (hvalid : d.trust.retainedValid = true) (hrec : d.trust.fromRecovery = false) :
    fallbackDone true d =
      let e := restoreBank { d with trust := { d.trust with
        active := d.trust.retained, running := d.trust.retained, unreadable := false } }
      let e := updState .idle d.trust.cause (applyProfile e.prof.activeId e.keptCause e)
      let e := if e.liveCauses = 0 then becomeReady e else e
      { e with trust := { e.trust with reverts := [] } } := by
  have hdone (x : Trust) : ((restoreBank { d with trust := x }).start != .done) = false := by
    rw [restoreBank_start, hstart]
    rfl
  unfold fallbackDone
  rw [if_neg (by rw [hst, hpart, hstart]; decide)]
  simp only [hreverts, List.foldl_nil, Dev.setTrust]
  rw [if_neg (by simp [hvalid, hrec])]
  simp only [hdone, Bool.false_and, Bool.false_eq_true, if_false]

end

/-- Settles O26: staging, unstaging, activation, the trial and the fallback. -/
theorem updateCommandsComplete : Obligations.UpdateCommandsComplete :=
  fun _ _ _ hd hup => ⟨
    fun _ _ _ hstaging => ⟨fun _ _ hfault => onIf_after hd hup (stagingDone_refused hstaging hfault),
      fun hfault => onIf_after hd hup (stagingDone_checked hstaging hfault)⟩,
    fun _ _ hstaging => onIf_after hd hup (stagingDone_kept hstaging),
    fun _ _ hstaging => onIf_after hd hup (stagingDone_staged hstaging),
    fun hst hrec hcancels => onIf_after hd hup (unstagingDone_idle hst hrec hcancels),
    fun hst => onDev_after hd (activationEnds_failed hst),
    fun hst hreads hfmt hsame => onDev_after hd (activationEnds_trial hst hreads hfmt hsame),
    fun hst hread howner hfull hrec => onIf_after hd hfull (healthConfirm_idle hst hread howner hfull hrec),
    fun _ hst htimer hdue => onIf_after hd hup (confirmExpire_fallsBack hst htimer hdue),
    fun hst hpart hstart => ⟨fun hreverts => onDev_after hd (fallbackDone_recovery hst hpart hstart hreverts),
      fun hreverts hvalid hrec => onDev_after hd (fallbackDone_retained hst hpart hstart hreverts hvalid hrec)⟩⟩

end

end Sys2Proof.Machine
end

section
/-! PROOF. The power and thermal loops and environment faults: what the function of each command gives in each of its cases. -/

namespace Sys2Proof.Machine

section
variable {d : Dev}

/-- Whether a loop's tick is due: its last one is a period old, or it had none. -/
def tickDue (last : Option Nat) (period now : Nat) : Bool :=
  match last with
  | some a => decide (a + period ≤ now)
  | none => true

theorem tickDue_of_forall {last : Option Nat} {period now : Nat} (h : ∀ a, last = some a → a + period ≤ now) :
    ¬ (!tickDue last period now) = true := by
  cases last with
  | none => simp [tickDue]
  | some a => simpa [tickDue] using h a rfl

/-! ### The power loop (R521, R522) -/

section
variable {mean1 mean100 vin iin : Nat} (hdue : ∀ a, d.pw.powerAt = some a → a + msNs ≤ d.now)
  (htop : ∀ c ∈ d.clocked, (d.clus c).top ≤ (d.clus c).step)
include hdue htop

/-- The part once a tick of the power loop has taken its readings. -/
def powerRead (mean1 mean100 vin iin : Nat) (d : Dev) : Dev :=
  d.setPw fun p => { p with powerAt := some d.now, mean1 := mean1, mean100 := mean100, vinMv := vin, iinMa := iin }

/-- A tick that is due, while no cluster is held below its clock. -/
theorem powerTick_eq :
    powerTick mean1 mean100 vin iin d =
      if 96 * d.pw.envW < mean1 then
        match (powerRead mean1 mean100 vin iin d).lowering with
        | some c => clockStep c false 0 (powerRead mean1 mean100 vin iin d)
        | none => powerRead mean1 mean100 vin iin d
      else powerRead mean1 mean100 vin iin d := by
  have hbelow : (powerRead mean1 mean100 vin iin d).clocked.filter (fun c =>
      decide (((powerRead mean1 mean100 vin iin d).clus c).step < ((powerRead mean1 mean100 vin iin d).clus c).top)) = [] :=
    List.filter_eq_nil_iff.2 fun c hc h => absurd (of_decide_eq_true h) (Nat.not_lt.2 (htop c hc))
  unfold powerRead at hbelow
  unfold powerTick
  refine (if_neg (tickDue_of_forall hdue)).trans ?_
  simp only [hbelow, List.isEmpty_nil, if_true, Dev.lastLowered, Option.filter_none]
  rfl

theorem powerTick_within (hlow : mean1 ≤ 96 * d.pw.envW) : powerTick mean1 mean100 vin iin d = powerRead mean1 mean100 vin iin d := by
  rw [powerTick_eq hdue htop, if_neg (Nat.not_lt.2 hlow)]

theorem powerTick_lowers {c : Nat} (hhigh : 96 * d.pw.envW < mean1) (hlower : (powerRead mean1 mean100 vin iin d).lowering = some c) :
    powerTick mean1 mean100 vin iin d = clockStep c false 0 (powerRead mean1 mean100 vin iin d) := by
  rw [powerTick_eq hdue htop, if_pos hhigh]
  simp only [hlower]

end

/-! ### The thermal loop (R523, R524) -/

section
variable {tj : Int} {sensor : Nat} (hdue : ∀ a, d.pw.thermAt = some a → a + 10 * msNs ≤ d.now)
include hdue

/-- The part once a tick of the thermal loop has taken its reading. -/
def thermalRead (tj : Int) (sensor : Nat) (d : Dev) : Dev :=
  d.setPw fun p => { p with
    thermAt := some d.now, tj := tj, sensor := sensor, coolSince := if tj ≤ d.throttleAt - 3 then p.coolSince.or (some d.now) else none }

theorem thermalTick_eq :
    thermalTick tj sensor d =
      if tj < d.throttleAt then thermalRead tj sensor d
      else match (thermalRead tj sensor d).lowering with
        | some c => clockStep c false 1 (thermalRead tj sensor d)
        | none => thermalRead tj sensor d := by
  exact (if_neg (tickDue_of_forall hdue)).trans rfl

theorem thermalTick_cool (hcool : tj < d.throttleAt) : thermalTick tj sensor d = thermalRead tj sensor d := by
  rw [thermalTick_eq hdue, if_pos hcool]

theorem thermalTick_lowers {c : Nat} (hhot : d.throttleAt ≤ tj) (hlower : (thermalRead tj sensor d).lowering = some c) :
    thermalTick tj sensor d = clockStep c false 1 (thermalRead tj sensor d) := by
  rw [thermalTick_eq hdue, if_neg (Int.not_lt.2 hhot)]
  simp only [hlower]

end

/-! ### The environment (R527) -/

theorem islandUp_of_booted (h : d.booted = true) : d.islandUp = true := by
  have hdone : d.start = .done := by simpa [Dev.booted] using h
  simp [Dev.islandUp, hdone, StartSt.rank]

theorem environmentFault_raises {cond : Nat} (hboot : d.booted = true) (hcond : cond < 3) :
    environmentFault cond d =
      let e := logFault 7 0xFF 0 15 3 0 { d with pw := { d.pw with env := true, envFaults := satInc d.pw.envFaults } }
      { e with flt := { e.flt with causes := e.flt.causes ||| 8 } } := by
  have hdone : d.start = .done := by simpa [Dev.booted] using hboot
  unfold environmentFault
  rw [if_neg (by rw [hdone]; simp; omega), if_neg (by simp [Nat.ne_of_lt hcond])]
  rfl

/-- Settles O27: the two loops and the environment. -/
theorem powerCommandsComplete : Obligations.PowerCommandsComplete :=
  fun _ _ _ hd hboot => ⟨
    fun _ _ _ _ hdue htop => ⟨fun hlow => onIf_after hd hboot (powerTick_within hdue htop hlow),
      fun _ hhigh hlower => onIf_after hd hboot (powerTick_lowers hdue htop hhigh hlower)⟩,
    fun _ _ hdue => ⟨fun hcool => onIf_after hd (islandUp_of_booted hboot) (thermalTick_cool hdue hcool),
      fun _ hhot hlower => onIf_after hd (islandUp_of_booted hboot) (thermalTick_lowers hdue hhot hlower)⟩,
    fun _ hcond => onIf_after hd (islandUp_of_booted hboot) (environmentFault_raises hboot hcond),
    onIf_after hd (islandUp_of_booted hboot) rfl⟩

end

end Sys2Proof.Machine
end
